-- ==== Sys2Proof/Word.lean ====
section
/-! DEFINITION. The word types of the KX-512: bytes, instruction words, scalar data, package columns and dies
(spec/00_scope.md R2, R5; spec/01_execution_rules.md R12). -/
namespace Sys2Proof

/-- One byte of any memory. -/
abbrev Byte := BitVec 8
/-- An instruction word (R138). -/
abbrev Word := BitVec 32
/-- Scalar data, special registers and generic addresses (R91, R183). -/
abbrev Dword := BitVec 64
/-- A package column identifier: die × 128 + y × 16 + x (R2). -/
abbrev Col := Fin 512
/-- A compute die, 0 to 3 (R1). -/
abbrev Die := Fin 4
/-- A cycle of a partition's clock, counted as the position number of R337, which is signed. -/
abbrev Cyc := Int

end Sys2Proof
end

