-- ==== Sys2Proof/Syntax.lean ====
section
/-! DEFINITION. The steps of the KX-512 as data: one constructor of `Instr` per row of spec/opcode_table.json.
The instructions of the six streams carry their fields (spec/07_encoding_rules.md R138 to R166); the machine events of
the table (spec/95_what_each_step_holds.md) have their operands in `Ev`. -/
namespace Sys2Proof

/-- The six streams in ring order (R13, R17). -/
inductive Stream where
  | k | d | l | m | v | s
  deriving DecidableEq, Repr

/-- Binary floating-point formats (R59); the codes of R147. -/
inductive Fmt where
  | fp32 | bf16 | fp16 | e4m3 | e5m2
  deriving DecidableEq, Repr

/-- Integer types (R61), the codes 0x0 to 0x7 of R146. -/
inductive ITy where
  | i8 | n8 | i16 | n16 | i32 | n32 | i64 | n64
  deriving DecidableEq, Repr

/-- The sixteen lane types of R146. -/
inductive VTy where
  | i8 | n8 | i16 | n16 | i32 | n32 | i64 | n64 | fp32 | bf16 | fp16 | e4m3 | e5m2 | fx16 | fx32 | q4
  deriving DecidableEq, Repr

/-- Final-rounding modes (R76). -/
inductive Mode where
  | rne | rtz | rdn | rup | rna | odd
  deriving DecidableEq, Repr

/-- Tail modes (R84). -/
inductive TailMode where
  | keep | zero | fin
  deriving DecidableEq, Repr

/-- Scopes (R148). -/
inductive Scope where
  | col | die | pkg | pod | sys
  deriving DecidableEq, Repr

/-- Orderings of atomics (R148). -/
inductive Ord where
  | rlx | acq | rel | sc
  deriving DecidableEq, Repr

/-- Kinds of FENCE (R148). -/
inductive FenceKind where
  | acq | rel | ar | sc
  deriving DecidableEq, Repr

/-- Kinds of remote windows (R129, R148). -/
inductive WinKind where
  | remote | mig | shared
  deriving DecidableEq, Repr

/-- Levels of CANCEL (R148). -/
inductive Level where
  | unit | launch | graph | round | job
  deriving DecidableEq, Repr

/-- Operations of AMO (R148). -/
inductive AmoOp where
  | add | and | or | xor | min | max | minn | maxn | swap
  deriving DecidableEq, Repr

/-- Operations of SIG (R148). -/
inductive SigOp where
  | set | add
  deriving DecidableEq, Repr

/-- Operations of COLL (R148). -/
inductive CollOp where
  | sum | max | min | bcast
  deriving DecidableEq, Repr

/-- Word sizes of atomics (R148). -/
inductive Size where
  | b32 | b64
  deriving DecidableEq, Repr

/-- Row counts of MMA and MZERO (R148). -/
inductive Msz where
  | m16 | m32 | m64
  deriving DecidableEq, Repr

/-- Exposed-latency latches (R32, R145). -/
inductive Latch where
  | xs | xr | xd | xn
  deriving DecidableEq, Repr

/-- Engine FIFOs (R145, R254). -/
inductive Fifo where
  | cpf | amf | clf
  deriving DecidableEq, Repr

/-- Operand latches (R145). -/
inductive OpLat where
  | opa | opb
  deriving DecidableEq, Repr

/-- The memories of a column that hold bytes and headers (R93, R181). -/
inductive Mem where
  | wb | ab | sp | store | vault
  deriving DecidableEq, Repr

/-- Idle states of a column (R424). -/
inductive IdleState where
  | c1 | c2 | c3
  deriving DecidableEq, Repr

/-- Sync and idle of a first word (R138). `sync` is the OR of the sync fields of all words (R18): WP 8, WN 4, SP 2, SN 1. -/
structure Hdr where
  sync : Fin 16
  idle : Fin 8
  deriving DecidableEq, Repr

/-- Sync and stamp of an M instruction (R158); its idle count is 0 (R24). -/
structure MHdr where
  sync  : Fin 16
  stamp : Fin 1048576
  deriving DecidableEq, Repr

/-- What every V instruction carries besides its registers (R160). -/
structure VCtl where
  sync : Fin 16
  idle : Fin 8
  ty   : VTy
  p    : Fin 16
  mode : Mode
  tm   : TailMode
  deriving DecidableEq, Repr

/-- Fields of an L instruction of format MEM (R155, R156): address register, post-increment, record, displacement. -/
structure LMem where
  ax   : Fin 8
  pi   : Bool
  y    : Fin 256
  disp : Int
  deriving DecidableEq, Repr

/-- Fields of VST, VSTS and VSTC (R155, R156). -/
structure SMem where
  v    : Fin 64
  ax   : Fin 8
  pi   : Bool
  y    : Fin 256
  ty   : VTy
  mode : Mode
  s    : Fin 256
  p    : Fin 16
  disp : Int
  deriving DecidableEq, Repr

/-- Fields of SUPD.SGD and SUPD.MOM (R156). -/
structure UMem where
  v    : Fin 64
  ax   : Fin 8
  pi   : Bool
  y    : Fin 256
  a    : Fin 64
  mode : Mode
  disp : Int
  deriving DecidableEq, Repr

/-- Records and address registers of a copy command (R155, R156). -/
structure Cp where
  ys : Fin 256
  yd : Fin 256
  sa : Fin 8
  da : Fin 8
  deriving DecidableEq, Repr

/-- Fields of SIG, AMO and CAS (R155, R156). -/
structure At where
  a     : Fin 64
  b     : Fin 64
  ax    : Fin 8
  scope : Scope
  ord   : Ord
  size  : Size
  deriving DecidableEq, Repr

/-- Fields of MMA and MMAG (R158). -/
structure Mm where
  dt   : Fin 4
  msz  : Msz
  roff : Fin 4
  ya   : Fin 256
  yb   : Fin 256
  k    : Fin 4096
  bl   : Bool
  z    : Bool
  deriving DecidableEq, Repr

/-- A fault as it is raised: cause and kind of R375, access of XLATE, address and FINFO. -/
structure FaultRec where
  cause : BitVec 8
  kind  : BitVec 4
  acc   : BitVec 2
  addr  : Dword
  info  : Dword
  deriving DecidableEq, Repr

/-- One page extent of a map (R111). -/
structure Extent where
  vpn : Nat
  pages : Nat
  hcol : Col
  hppn : Nat
  col : Col
  ppn : Nat
  tier : Fin 4
  worst : Fin 4
  rd : Bool
  w : Bool
  x : Bool
  sh : Bool
  fl : Bool
  cow : Bool
  pin : Bool
  hash : Bool
  lpkg : Nat
  loanb : Nat
  waitb : Nat
  deriving DecidableEq, Repr

/-- A partition as the host asks for it (R357). -/
structure FormReq where
  num    : BitVec 16
  tenant : Nat
  cols   : List Col
  floor  : Nat
  queues : List (Die × Fin 64)
  offs   : List Int
  start  : Int
  deriving DecidableEq, Repr

/-- A job as the host places it (R362, R364, R408): its partition, the queue of its root launch, the root descriptor,
the addresses the host gives, and the map through which the Reeve reads the job's GLOBAL addresses. -/
structure JobReq where
  handle : Dword
  part   : BitVec 16
  die    : Die
  q      : Fin 64
  pri    : Fin 8
  desc   : Dword
  arg    : Dword
  groups : Dword
  pkg    : Nat
  map    : List Extent
  deriving DecidableEq, Repr

/-- What boot finds: the dies that pass each of steps 1, 2, 5 and 6 of R420, the links that fail to train at step 3, and what the firmware check of
step 4 finds at each fetch (R421). -/
structure BootReq where
  trim   : List Bool
  clock  : List Bool
  links  : List (Die × Die)
  fwOk   : List Bool
  timing : List Bool
  init   : List Bool
  deriving DecidableEq, Repr

/-- An error of memory: one bit, which ECC corrects; one that it cannot correct, in a block's payload or in its header (R99); or one in a mirror of a
map of the column's unit (R125). -/
inductive SoftErr where
  | corrected | payload | header
  | mirror (map : Fin 16) (second : Bool)
  deriving DecidableEq, Repr

/-- A machine event with its operands: where it happens. The constructor of `Instr` of the same name is its step. -/
inductive Ev where
  | tokenArrival (c : Col) (ix : Fin 12)
  | latchEntryArrival (c : Col) (x : Latch)
  | scaleBypassEntryAvailable (c : Col)
  | realignmentCycle (c : Col)
  | stall (c : Col) (x : Stream)
  | unitCompletion (c : Col)
  | workRecordCompletion (job : Dword) (rec : Dword)
  | deferredFaultReport (c : Col) (x : Stream) (f : FaultRec)
  | refresh (c : Col) (bank : Fin 16)
  | keeperRefresh (c : Col) (bank : Fin 16)
  | farLate (tx k : Nat)
  | phpreDueDeadline (c : Col)
  | wainBeat (c : Col) (write : Bool)
  | wainReady (c : Col)
  | dualWrite (c : Col) (id : Nat)
  | windowBeat (c : Col)
  | farPathDelivery (tx k : Nat)
  | writeAcknowledgement (c : Col) (id : Nat)
  | copyBlock (c : Col) (cmd k : Nat)
  | copyRetirement (c : Col) (cmd : Nat)
  | incomingPut (tx k : Nat)
  | incomingGet (tx k : Nat)
  | loanWrite (c : Col) (blk : Nat) (bytes : List (Fin 64 × Byte)) (head : Option (Byte × Byte))
  | loanRead (c : Col) (blk : Nat)
  | getResponse (tx k : Nat)
  | atomicPerform (id : Nat)
  | atomicReport (id : Nat)
  | barrierRelease (c : Col) (word : Nat) (gen : BitVec 16)
  | collectiveClose (id : Nat)
  | gatherComplete (c : Col)
  | mmaBlockFault (c : Col) (id : Nat)
  | frontierRefresh (c : Col) (pos : Int)
  | codeRangeDiscard (part : BitVec 16) (id : Nat)
  | bind (c : Col)
  | objectLoadComplete (c : Col)
  | preempt (launch : Nat)
  | preemptionRequest (c : Col)
  | forcedStop (c : Col)
  | saveImage (c : Col)
  | resume (launch : Nat)
  | hold (launch : Nat) (by_ : Col)
  | release (launch : Nat)
  | kill (die : Die) (q : Fin 64) (by_ : Option Col)
  | fallow (c : Col)
  | fallowPassComplete (c : Col)
  | launchPlacement (req : Nat)
  | schedulingPass (die : Die) (q : Fin 64)
  | sliceEnd (launch : Nat)
  | leaderHandover (die : Die) (q : Fin 64)
  | partitionFormation (r : FormReq)
  | partitionRelease (num : BitVec 16)
  | vaultPassComplete (num : BitVec 16)
  | rootLaunchPlacement (r : JobReq)
  | handlerInstall (num : BitVec 16) (object : List Byte) (entry : Nat)
  | loanGrant (c : Col) (page pages : Nat) (pkg : Nat)
  | loanRecall (c : Col) (page : Nat)
  | snapshotReserve (job : Dword) (e : Extent) (rppn : List (Col × Nat))
  | snapshotStoragePath (job : Dword) (path : Nat)
  | noiseMode (num : BitVec 16) (mode : Fin 3)
  | hostRelease (job : Dword) (addr value : Dword)
  | dieDrain (d : Die) (on : Bool)
  | attestationReport (d : Die) (num : BitVec 16) (nonce : Nat)
  | plim (watts : Nat)
  | lattol (ns : BitVec 32)
  | hostBar2Access (write : Bool) (off : Nat) (bytes : List Byte)
  | snapAccept (c : Col)
  | snapshotOpen (job : Dword)
  | snapshotDrained (job : Dword)
  | gleanerRewrite (c : Col) (map : Fin 16) (ix : Nat) (tier : Fin 4) (col : Col) (ppn : Nat)
  | scrub (c : Col) (m : Mem) (block : Nat) (e : SoftErr)
  | budgetPeriod (c : Col) (budgets : List Nat)
  | powerGood (r : BootReq)
  | dieReset (d : Die)
  | linkRetrain (d e : Die)
  | resetNotice (d e : Die) (gen : BitVec 16)
  | linkDownTimeout (d e : Die)
  | peerPackageTimeout (pkg : Nat)
  | vaultTemperatureRead (c : Col) (milli : Int)
  | throttleStep (num : BitVec 16)
  | throttleRise (num : BitVec 16)
  | pause (num : BitVec 16)
  | pauseEnd (num : BitVec 16)
  | powerLimitCheck (watts : Nat) (num : BitVec 16)
  | thermalTrip
  | idleStateEntry (c : Col) (st : IdleState)
  | loggedWordsSupply (c : Col) (words : List Dword)
  | managementSession (authentic : Bool)
  deriving DecidableEq, Repr

/-- The steps of the part: the instructions of the six streams with their fields, then the machine events, in the table's order.
Where an event happens stands in the state, as an `Ev` (`State.ev`). -/
inductive Instr where
  /-- R187: K adds two scalar registers modulo 2^64 and writes the sum with tail 0b00 at issue + 1. -/
  | add (h : Hdr) (d a b : Fin 64)
  /-- R187: K subtracts two scalar registers modulo 2^64. -/
  | sub (h : Hdr) (d a b : Fin 64)
  /-- R187: K writes the low 64 bits of the product of two scalar registers. -/
  | mul (h : Hdr) (d a b : Fin 64)
  /-- R187: K writes the high 64 bits of the signed 128-bit product. -/
  | mulh (h : Hdr) (d a b : Fin 64)
  /-- R187: K writes the high 64 bits of the unsigned 128-bit product. -/
  | mulhn (h : Hdr) (d a b : Fin 64)
  /-- R188: K takes an XD latch entry of latency 34 for the signed quotient of two registers. -/
  | div (h : Hdr) (a b : Fin 64)
  /-- R188: K takes an XD latch entry for the unsigned quotient. -/
  | divn (h : Hdr) (a b : Fin 64)
  /-- R188: K takes an XD latch entry for the signed remainder. -/
  | rem (h : Hdr) (a b : Fin 64)
  /-- R188: K takes an XD latch entry for the unsigned remainder. -/
  | remn (h : Hdr) (a b : Fin 64)
  /-- R187: K writes the bitwise AND of two registers. -/
  | and (h : Hdr) (d a b : Fin 64)
  /-- R187: K writes the bitwise OR of two registers. -/
  | or (h : Hdr) (d a b : Fin 64)
  /-- R187: K writes the bitwise XOR of two registers. -/
  | xor (h : Hdr) (d a b : Fin 64)
  /-- R187: K writes a AND NOT b. -/
  | andn (h : Hdr) (d a b : Fin 64)
  /-- R187: K shifts a left by b[5:0]. -/
  | shl (h : Hdr) (d a b : Fin 64)
  /-- R187: K shifts a right by b[5:0] with zeros shifted in. -/
  | shr (h : Hdr) (d a b : Fin 64)
  /-- R187: K shifts a right arithmetically by b[5:0]. -/
  | sra (h : Hdr) (d a b : Fin 64)
  /-- R187: K writes the signed smaller of two registers. -/
  | min (h : Hdr) (d a b : Fin 64)
  /-- R187: K writes the signed larger of two registers. -/
  | max (h : Hdr) (d a b : Fin 64)
  /-- R187: K writes the unsigned smaller of two registers. -/
  | minn (h : Hdr) (d a b : Fin 64)
  /-- R187: K writes the unsigned larger of two registers. -/
  | maxn (h : Hdr) (d a b : Fin 64)
  /-- R189: K writes the count of leading zero bits of a. -/
  | clz (h : Hdr) (d a : Fin 64)
  /-- R189: K writes the count of trailing zero bits of a. -/
  | ctz (h : Hdr) (d a : Fin 64)
  /-- R189: K writes the count of one bits of a. -/
  | popc (h : Hdr) (d a : Fin 64)
  /-- R190: K sign-extends a from bit imm. -/
  | sext (h : Hdr) (d a : Fin 64) (imm : Int)
  /-- R192: K selects a or b with its tail according to whether the data of d is nonzero. -/
  | csel (h : Hdr) (d a b : Fin 64)
  /-- R193: K adds offsets of a generic address keeping its window tag. -/
  | lea (h : Hdr) (d a b : Fin 64)
  /-- R193: K replaces the window tag of a with imm[3:0]. -/
  | wtag (h : Hdr) (d a : Fin 64) (imm : Int)
  /-- R193: K writes the first WINDOW kind among TAG, STRADDLE and RANGE that an access would meet, without faulting. -/
  | wchk (h : Hdr) (d a b : Fin 64)
  /-- R190: K adds a signed 6-bit immediate to a. -/
  | addi (h : Hdr) (d a : Fin 64) (imm : Int)
  /-- R190: K ANDs a with an immediate. -/
  | andi (h : Hdr) (d a : Fin 64) (imm : Int)
  /-- R190: K ORs a with an immediate. -/
  | ori (h : Hdr) (d a : Fin 64) (imm : Int)
  /-- R190: K XORs a with an immediate. -/
  | xori (h : Hdr) (d a : Fin 64) (imm : Int)
  /-- R190: K shifts a left by an immediate. -/
  | shli (h : Hdr) (d a : Fin 64) (imm : Int)
  /-- R190: K shifts a right logically by an immediate. -/
  | shri (h : Hdr) (d a : Fin 64) (imm : Int)
  /-- R190: K shifts a right arithmetically by an immediate. -/
  | srai (h : Hdr) (d a : Fin 64) (imm : Int)
  /-- R191: K loads a sign-extended 40-bit immediate split over two words. -/
  | li (h : Hdr) (d : Fin 64) (imm : Int)
  /-- R191: K writes a 24-bit immediate into bits [63:40] of d, keeping the low bits. -/
  | lih (h : Hdr) (d : Fin 64) (imm : Fin 16777216)
  /-- R192: K writes 1 if a equals b. -/
  | cmpEq (h : Hdr) (d a b : Fin 64)
  /-- R192: K writes 1 if a differs from b. -/
  | cmpNe (h : Hdr) (d a b : Fin 64)
  /-- R192: K writes 1 if a is less than b, signed. -/
  | cmpLt (h : Hdr) (d a b : Fin 64)
  /-- R192: K writes 1 if a is at most b, signed. -/
  | cmpLe (h : Hdr) (d a b : Fin 64)
  /-- R192: K writes 1 if a is less than b, unsigned. -/
  | cmpLtn (h : Hdr) (d a b : Fin 64)
  /-- R192: K writes 1 if a is at most b, unsigned. -/
  | cmpLen (h : Hdr) (d a b : Fin 64)
  /-- R196: K compares FP32 images for equality. -/
  | fcmpEq (h : Hdr) (d a b : Fin 64)
  /-- R196: K compares FP32 images for inequality. -/
  | fcmpNe (h : Hdr) (d a b : Fin 64)
  /-- R196: K compares FP32 images for less-than. -/
  | fcmpLt (h : Hdr) (d a b : Fin 64)
  /-- R196: K compares FP32 images for less-or-equal. -/
  | fcmpLe (h : Hdr) (d a b : Fin 64)
  /-- R196: K writes 1 when either operand is NaN. -/
  | fcmpUn (h : Hdr) (d a b : Fin 64)
  /-- R195: K adds two FP32 pairs exactly and narrows once by rto at issue + 4. -/
  | fadd (h : Hdr) (d a b : Fin 64)
  /-- R195: K subtracts two FP32 pairs with one rto narrowing. -/
  | fsub (h : Hdr) (d a b : Fin 64)
  /-- R195: K multiplies two FP32 pairs with one rto narrowing. -/
  | fmul (h : Hdr) (d a b : Fin 64)
  /-- R195: K computes a × b + d exactly with one rto narrowing. -/
  | ffma (h : Hdr) (d a b : Fin 64)
  /-- R195: K selects the operand with the smaller image, with its tail. -/
  | fmin (h : Hdr) (d a b : Fin 64)
  /-- R195: K selects the operand with the larger image, with its tail. -/
  | fmax (h : Hdr) (d a b : Fin 64)
  /-- R197: K converts a float between formats by move, widening or rto. -/
  | fcvt (h : Hdr) (d a : Fin 64) (f g : Fmt)
  /-- R198: K final-rounds a float in its own format with the given mode. -/
  | ffin (h : Hdr) (d a : Fin 64) (f : Fmt) (mode : Mode)
  /-- R198: K final-rounds an FP32 value to an integer type, saturating. -/
  | fcvti (h : Hdr) (d a : Fin 64) (mode : Mode) (t : ITy)
  /-- R198: K converts an integer to FP32 by rto. -/
  | icvtf (h : Hdr) (d a : Fin 64) (t : ITy)
  /-- R199: K writes a class mask of a float value. -/
  | fcls (h : Hdr) (d a : Fin 64) (f : Fmt)
  /-- R199: K writes the tail of a as an integer 0 to 3. -/
  | ftail (h : Hdr) (d a : Fin 64)
  /-- R201: K loads one float element, decoded by its block header and narrowed to FP32. -/
  | ldsF (h : Hdr) (d a : Fin 64) (f : Fmt)
  /-- R201: K loads one integer element, sign- or zero-extended. -/
  | ldsI (h : Hdr) (d a : Fin 64) (t : ITy)
  /-- R202: K stores one float element by final rounding, with the MERGE check. -/
  | stsF (h : Hdr) (d a : Fin 64) (f : Fmt) (mode : Mode)
  /-- R202: K stores the low bits of d as one integer element. -/
  | stsI (h : Hdr) (d a : Fin 64) (t : ITy)
  /-- R204: K branches when S[a] is zero. -/
  | brEq (h : Hdr) (a : Fin 64) (off : Int)
  /-- R204: K branches when S[a] is nonzero. -/
  | brNe (h : Hdr) (a : Fin 64) (off : Int)
  /-- R204: K branches when S[a] is negative. -/
  | brLt (h : Hdr) (a : Fin 64) (off : Int)
  /-- R204: K branches when S[a] is at least zero. -/
  | brGe (h : Hdr) (a : Fin 64) (off : Int)
  /-- R204: K branches when S[a] is at most zero. -/
  | brLe (h : Hdr) (a : Fin 64) (off : Int)
  /-- R204: K branches when S[a] is positive. -/
  | brGt (h : Hdr) (a : Fin 64) (off : Int)
  /-- R205: K jumps to a word offset. -/
  | jmp (h : Hdr) (off : Int)
  /-- R205: K jumps to the address in S[a]. -/
  | jmpi (h : Hdr) (a : Fin 64)
  /-- R205: K writes the return address to S63 and jumps. -/
  | call (h : Hdr) (off : Int)
  /-- R205: K jumps to the address in S63. -/
  | ret (h : Hdr)
  /-- R208: K decrements a loop counter, rotates the bases of a registered loop and branches while iterations remain. -/
  | loop (h : Hdr) (lc : Fin 4) (off : Int)
  /-- R209: K registers a pipelined loop with its counter, resume label and drain bound. -/
  | lset (h : Hdr) (lc : Fin 4) (label : Fin 65536) (a : Fin 64) (drain : Fin 16384)
  /-- R211: K marks a pre-emption point and takes a pending pre-emption when no loop is running. -/
  | prep (h : Hdr)
  /-- R212: K moves the oldest entry of a latch into a scalar register and frees it. -/
  | xfer (h : Hdr) (d : Fin 64) (x : Latch)
  /-- R215: K reads a special register named by its selector. -/
  | srd (h : Hdr) (d : Fin 64) (sel : Fin 4096)
  /-- R215: K writes the RW and SV fields of a special register that has no step of its own. -/
  | swr (h : Hdr) (d : Fin 64) (sel : Fin 4096)
  /-- R217: K starts the Wain towards a target phase, with an optional ready deadline. -/
  | phpre (h : Hdr) (n : Fin 16) (due : Fin 1048576)
  /-- R120: K switches every translation of the unit to the target map. -/
  | phadv (h : Hdr) (n : Fin 16)
  /-- R218: K writes the status of a phase and its ready cycle. -/
  | phq (h : Hdr) (d : Fin 64) (n : Fin 16)
  /-- R43: K waits for BASE − 1 and issues at BASE, the alignment point releasing all streams and setting the mode. -/
  | align (h : Hdr)
  /-- R44: K names the realignment time, sets RPEND and marks K's realignment point. -/
  | realign (h : Hdr) (a : Fin 64)
  /-- R54: K ends issue in every stream of the unit pending completion. -/
  | halt (h : Hdr)
  /-- R228: K executes and raises the TRAP fault carrying a 12-bit code. -/
  | trap (h : Hdr) (code : Fin 4096)
  /-- R378: K leaves the handler and restarts every stream at its FPC in loose mode. -/
  | eret (h : Hdr)
  /-- R335: K orders the unit's accesses before and after it by kind and scope. -/
  | fence (h : Hdr) (kind : FenceKind) (scope : Scope)
  /-- R220: K waits until every earlier layout-record write has taken effect. -/
  | lfence (h : Hdr)
  /-- R221: K discards prefetched words and held CODE blocks. -/
  | isync (h : Hdr)
  /-- R223: K publishes a CODE range as a synchronising operation on an owned wheel position. -/
  | cpub (h : Hdr) (a b : Fin 64)
  /-- R222: K copies CODE blocks from GLOBAL into the instruction store and issues nothing until they are written. -/
  | iload (h : Hdr) (a b : Fin 64)
  /-- R224: K sends a launch descriptor to a queue's leader for placement. -/
  | launch (h : Hdr) (a b q : Fin 64) (pri : Fin 8) (deps : Fin 65536)
  /-- R225: K waits until a graph counter reaches a value, and refreshes the frontier. -/
  | waitg (h : Hdr) (a b : Fin 64)
  /-- R226: K cancels work at the named level and handle. -/
  | cancel (h : Hdr) (level : Level) (a : Fin 64)
  /-- R227: K asks the snapshot engine to open a snapshot at a round. -/
  | snap (h : Hdr) (a : Fin 64)
  /-- R214: K draws one noise word into an XN entry and writes its sequence number. -/
  | rndn (h : Hdr) (d : Fin 64)
  /-- R213: K writes mix64 of a key and a counter at issue + 3. -/
  | kmix (h : Hdr) (d a b : Fin 64)
  /-- R228: K executes and raises the BREAK fault carrying a 12-bit code. -/
  | bkpt (h : Hdr) (code : Fin 4096)
  /-- R142: Opcode 0x7F raises ILLEGAL_INSTRUCTION in any stream. -/
  | undef (h : Hdr) (o : Fin 262144)
  /-- R144: K issues an idle of n further cycles, its sync bits acting as usual. -/
  | idleK (h : Hdr) (n : Fin 262144)
  /-- R144: D issues an idle, or with count 0x3_FFFF marks its realignment point. -/
  | idleD (h : Hdr) (n : Fin 262144)
  /-- R241: D opens an immediate row in a bank, checked by the timing guard. -/
  | act (h : Hdr) (bank : Fin 16) (row : Fin 8192)
  /-- R241: D opens the row held in bits [12:0] of a scalar register. -/
  | actRegister (h : Hdr) (bank : Fin 16) (a : Fin 64)
  /-- R241: D closes a bank's open row. -/
  | pre (h : Hdr) (bank : Fin 16)
  /-- R242: D closes every active bank, or none if any check fails. -/
  | prea (h : Hdr)
  /-- R241: D refreshes an idle bank and renews its deadline. -/
  | refb (h : Hdr) (bank : Fin 16)
  /-- R244: D declares window beats of a kind on a bank's vault port cycles. -/
  | win (h : Hdr) (kind : WinKind) (bank : Fin 16) (beats delay : Fin 64)
  /-- R245: D withdraws window beats of a kind on one bank or all banks. -/
  | wcls (h : Hdr) (kind : WinKind) (bank : Fin 16) (all : Bool)
  /-- R144: L issues an idle or marks its realignment point. -/
  | idleL (h : Hdr) (n : Fin 262144)
  /-- R247: L loads a tile into a vector register, decoding each element by its block header. -/
  | vld (h : Hdr) (v : Fin 64) (m : LMem)
  /-- R247: L loads row 0 of a tile repeated across the lanes. -/
  | vlds (h : Hdr) (v : Fin 64) (m : LMem)
  /-- R247: L loads a tile whose rows are gathered by indices in a vector register. -/
  | vldg (h : Hdr) (v : Fin 64) (m : LMem) (x : Fin 64)
  /-- R246: L issues an RD of one vault column into a quarter of a vector register. -/
  | vrd (h : Hdr) (v : Fin 64) (bank : Fin 16) (col : Fin 32) (q : Fin 4)
  /-- R246: L issues an RD of one vault column with headers into an SP address. -/
  | vrdBuf (h : Hdr) (bank : Fin 16) (col : Fin 32) (ax : Fin 8)
  /-- R250: L pushes one slot of undecoded blocks into an operand queue. -/
  | qld (h : Hdr) (n : Fin 16) (m : LMem)
  /-- R249: L writes an operand queue control word, resetting HEAD and FREE. -/
  | qcw (h : Hdr) (n : Fin 16) (a : Fin 64)
  /-- R251: L loads the header bytes of a tile's blocks into lanes. -/
  | ldh (h : Hdr) (v : Fin 64) (m : LMem)
  /-- R252: L writes a block's payload into a layout record. -/
  | lrec (h : Hdr) (m : LMem)
  /-- R253: L loads an operand latch from a tile. -/
  | ltr (h : Hdr) (lat : OpLat) (m : LMem)
  /-- R255: L takes the oldest delivered word of an engine FIFO and acquires its element. -/
  | pop (h : Hdr) (v : Fin 64) (f : Fifo)
  /-- R257: L pushes a block copy command into the copy engine. -/
  | cpyL (h : Hdr) (c : Cp)
  /-- R262: L pushes a sparse-expansion copy governed by a SPARSE mask. -/
  | cpyx (h : Hdr) (c : Cp) (tg : Fin 64)
  /-- R263: L pushes a multicast of a tile into the buffers of selected columns. -/
  | cpymL (h : Hdr) (c : Cp) (tg : Fin 64)
  /-- R264: L pushes a read of a tile from a target column or package. -/
  | get (h : Hdr) (c : Cp) (tg : Fin 64)
  /-- R144: M issues an idle at its stamp, or marks its realignment point. -/
  | idleM (h : MHdr) (n : Fin 262144)
  /-- R284: M multiplies operands A and B and accumulates into tile rows by chunks. -/
  | mma (h : MHdr) (o : Mm) (al : Bool)
  /-- R284: M multiplies the gathered OPA by B into tile rows. -/
  | mmag (h : MHdr) (o : Mm)
  /-- R291: M loads gather indices and starts the gather into OPA for the next MMAG. -/
  | midx (h : MHdr) (v : Fin 64)
  /-- R293: M loads an operand latch from a WB tile. -/
  | mldt (h : MHdr) (lat : OpLat) (y : Fin 256)
  /-- R294: M zeroes rows of a tile. -/
  | mzero (h : MHdr) (t : Fin 4) (msz : Msz) (roff : Fin 4)
  /-- R295: M copies rows between tiles with their tails. -/
  | mmov (h : MHdr) (dt st : Fin 4) (drow srow : Fin 64) (n : Fin 128)
  /-- R296: M sets a tile's restart label. -/
  | mrst (h : MHdr) (t : Fin 4) (label : Fin 65536)
  /-- R296: M marks a tile recomputable or not. -/
  | mcls (h : MHdr) (t : Fin 4) (rc : Bool)
  /-- R144: V issues an idle or marks its realignment point. -/
  | idleV (h : Hdr) (n : Fin 262144)
  /-- R306: V adds lanes. -/
  | vadd (c : VCtl) (d a b : Fin 64) (pair : Bool)
  /-- R306: V subtracts lanes. -/
  | vsub (c : VCtl) (d a b : Fin 64) (pair : Bool)
  /-- R306: V multiplies lanes. -/
  | vmul (c : VCtl) (d a b : Fin 64) (pair : Bool)
  /-- R306: V writes the high half of integer lane products. -/
  | vmulh (c : VCtl) (d a b : Fin 64)
  /-- R306: V selects the smaller lane. -/
  | vmin (c : VCtl) (d a b : Fin 64) (pair : Bool)
  /-- R306: V selects the larger lane. -/
  | vmax (c : VCtl) (d a b : Fin 64) (pair : Bool)
  /-- R306: V takes the absolute value of lanes. -/
  | vabs (c : VCtl) (d a : Fin 64)
  /-- R306: V negates lanes. -/
  | vneg (c : VCtl) (d a : Fin 64)
  /-- R306: V adds integer lanes with saturation. -/
  | vadds (c : VCtl) (d a b : Fin 64)
  /-- R306: V subtracts integer lanes with saturation. -/
  | vsubs (c : VCtl) (d a b : Fin 64)
  /-- R306: V adds a signed immediate to integer lanes. -/
  | vaddi (c : VCtl) (d a : Fin 64) (imm : Int)
  /-- R306: V copies lanes with their tails. -/
  | vmov (c : VCtl) (d a : Fin 64)
  /-- R306: V loads an immediate into every lane. -/
  | vli (c : VCtl) (d : Fin 64) (imm : Int)
  /-- R307: V sets predicate bits for lanes in a float class. -/
  | vcls (c : VCtl) (d : Fin 16) (a : Fin 64) (imm : Fin 512)
  /-- R308: V computes a × b + c with one narrowing. -/
  | vfma (c : VCtl) (d a b e : Fin 64) (pair : Bool)
  /-- R308: V computes a × b − c with one narrowing. -/
  | vfms (c : VCtl) (d a b e : Fin 64) (pair : Bool)
  /-- R308: V computes −(a × b) + c with one narrowing. -/
  | vfnma (c : VCtl) (d a b e : Fin 64) (pair : Bool)
  /-- R308: V computes −(a × b) − c with one narrowing. -/
  | vfnms (c : VCtl) (d a b e : Fin 64) (pair : Bool)
  /-- R309: V ANDs lanes bitwise. -/
  | vand (c : VCtl) (d a b : Fin 64)
  /-- R309: V ORs lanes bitwise. -/
  | vor (c : VCtl) (d a b : Fin 64)
  /-- R309: V XORs lanes bitwise. -/
  | vxor (c : VCtl) (d a b : Fin 64)
  /-- R309: V computes a AND NOT b on lanes. -/
  | vandn (c : VCtl) (d a b : Fin 64)
  /-- R309: V shifts lanes left. -/
  | vshl (c : VCtl) (d a b : Fin 64)
  /-- R309: V shifts lanes right logically. -/
  | vshr (c : VCtl) (d a b : Fin 64)
  /-- R309: V shifts lanes right arithmetically. -/
  | vsra (c : VCtl) (d a b : Fin 64)
  /-- R309: V inverts lanes bitwise. -/
  | vnot (c : VCtl) (d a : Fin 64)
  /-- R310: V sets predicate bits where lanes are equal. -/
  | vcmpEq (c : VCtl) (d : Fin 16) (a b : Fin 64)
  /-- R310: V sets predicate bits where lanes differ or are NaN. -/
  | vcmpNe (c : VCtl) (d : Fin 16) (a b : Fin 64)
  /-- R310: V sets predicate bits where a is less than b. -/
  | vcmpLt (c : VCtl) (d : Fin 16) (a b : Fin 64)
  /-- R310: V sets predicate bits where a is at most b. -/
  | vcmpLe (c : VCtl) (d : Fin 16) (a b : Fin 64)
  /-- R310: V sets predicate bits where either lane is NaN. -/
  | vcmpUn (c : VCtl) (d : Fin 16) (a b : Fin 64)
  /-- R311: V selects lanes of a or b by a predicate. -/
  | vsel (c : VCtl) (d a b : Fin 64) (e : Fin 16)
  /-- R312: V ANDs predicates. -/
  | pand (c : VCtl) (d a b : Fin 16)
  /-- R312: V ORs predicates. -/
  | por (c : VCtl) (d a b : Fin 16)
  /-- R312: V XORs predicates. -/
  | pxor (c : VCtl) (d a b : Fin 16)
  /-- R312: V computes a AND NOT b on predicates. -/
  | pandn (c : VCtl) (d a b : Fin 16)
  /-- R312: V inverts a predicate. -/
  | pnot (c : VCtl) (d a : Fin 16)
  /-- R312: V sets the first n predicate bits. -/
  | pset (c : VCtl) (d : Fin 16) (imm : Fin 512)
  /-- R312: V copies a predicate. -/
  | pmov (c : VCtl) (d a : Fin 16)
  /-- R313: V permutes lanes by an index vector. -/
  | vperm (c : VCtl) (d a b : Fin 64)
  /-- R313: V shuffles lanes by a fixed pattern. -/
  | vshuf (c : VCtl) (d a b : Fin 64) (imm : Fin 512)
  /-- R313: V slides lanes across two registers. -/
  | vsld (c : VCtl) (d a b : Fin 64) (imm : Fin 512)
  /-- R313: V broadcasts one lane. -/
  | vbcst (c : VCtl) (d a : Fin 64) (imm : Fin 512)
  /-- R316: V reduces lanes by sum into an XR latch entry. -/
  | vrsum (c : VCtl) (a : Fin 64)
  /-- R316: V reduces lanes by maximum into XR. -/
  | vrmax (c : VCtl) (a : Fin 64)
  /-- R316: V reduces lanes by minimum into XR. -/
  | vrmin (c : VCtl) (a : Fin 64)
  /-- R316: V reduces lanes by largest absolute image into XR. -/
  | vrmaxa (c : VCtl) (a : Fin 64)
  /-- R314: V converts lanes between types in parts. -/
  | vcvt (c : VCtl) (d a : Fin 64) (src : VTy) (j : Fin 8)
  /-- R315: V final-rounds float lanes. -/
  | vfin (c : VCtl) (d a : Fin 64)
  /-- R315: V writes lane tails as integers. -/
  | vtail (c : VCtl) (d a : Fin 64)
  /-- R315: V clears lane tails. -/
  | vtclr (c : VCtl) (d a : Fin 64)
  /-- R315: V scales lanes by a power of two with one rto narrowing. -/
  | vscl (c : VCtl) (d a : Fin 64) (imm : Int)
  /-- R320: V appends the largest absolute lane image to the scale bypass with delay 8. -/
  | vmaxa (c : VCtl) (a : Fin 64)
  /-- R321: V consumes the oldest scale-bypass entry, derives a scale byte and quantises lanes. -/
  | vqnt (c : VCtl) (d a : Fin 64) (src : VTy) (qt : Fin 4) (j : Fin 8)
  /-- R323: V adds a quantised float to FX lanes modulo 2^w. -/
  | vradd (c : VCtl) (d a b : Fin 64) (g : Fin 256) (alt : Bool)
  /-- R323: V subtracts a quantised float from FX lanes modulo 2^w. -/
  | vrsub (c : VCtl) (d a b : Fin 64) (g : Fin 256) (alt : Bool)
  /-- R317: V computes e^x into an XS latch entry. -/
  | vexp (c : VCtl) (a : Fin 64)
  /-- R317: V computes ln x into XS. -/
  | vlog (c : VCtl) (a : Fin 64)
  /-- R317: V computes 1/x into XS. -/
  | vrcp (c : VCtl) (a : Fin 64)
  /-- R317: V computes 1/sqrt(x) into XS. -/
  | vrsq (c : VCtl) (a : Fin 64)
  /-- R317: V computes sqrt(x) into XS. -/
  | vsqrt (c : VCtl) (a : Fin 64)
  /-- R317: V computes tanh x into XS. -/
  | vtanh (c : VCtl) (a : Fin 64)
  /-- R317: V computes the logistic function into XS. -/
  | vsigm (c : VCtl) (a : Fin 64)
  /-- R317: V computes erf x into XS. -/
  | verf (c : VCtl) (a : Fin 64)
  /-- R324: V applies mix64 to each 64-bit lane. -/
  | vkmix (c : VCtl) (d a b : Fin 64)
  /-- R325: V draws 64 noise words into an XN entry. -/
  | vrndn (c : VCtl)
  /-- R318: V moves the oldest latch entry into a vector register and frees it. -/
  | vxf (c : VCtl) (d : Fin 64) (x : Latch)
  /-- R319: V moves a tile row image into a vector register. -/
  | vmovt (c : VCtl) (d : Fin 64) (row : Fin 64) (t : Fin 4)
  /-- R144: S issues an idle or marks its realignment point. -/
  | idleS (h : Hdr) (n : Fin 262144)
  /-- R265: S stores lanes into a tile by final rounding under a predicate. -/
  | vst (h : Hdr) (m : SMem)
  /-- R265: S stores lane 0 into every selected element. -/
  | vsts (h : Hdr) (m : SMem)
  /-- R265: S stores the selected lanes compressed in lane order. -/
  | vstc (h : Hdr) (m : SMem)
  /-- R246: S issues a WR of a register quarter to a vault column. -/
  | vwr (h : Hdr) (v : Fin 64) (bank : Fin 16) (col : Fin 32) (q : Fin 4) (buf : Bool) (ax : Fin 8)
  /-- R267: S writes a header to every block of a tile. -/
  | sth (h : Hdr) (ax : Fin 8) (pi : Bool) (y : Fin 256) (fmt s : Fin 256)
  /-- R261: S pushes a copy or collective command held in a vector register. -/
  | push (h : Hdr) (v : Fin 64) (f : Fifo)
  /-- R264: S pushes a write of a tile to a target column or package. -/
  | put (h : Hdr) (c : Cp) (tg : Fin 64)
  /-- R271: S sends a set or add signal to a word at a target. -/
  | sig (h : Hdr) (o : At) (op : SigOp)
  /-- R271: S sends an atomic read-modify-write to a word at a target. -/
  | amo (h : Hdr) (o : At) (op : AmoOp) (old : Bool)
  /-- R271: S sends a compare-and-swap to a word at a target. -/
  | cas (h : Hdr) (o : At) (old : Bool)
  /-- R273: S defines, joins or frees a barrier word and its slot. -/
  | bardef (h : Hdr) (a : Fin 64) (ax : Fin 8) (scope : Scope)
  /-- R274: S arrives at a barrier as a synchronising operation. -/
  | bararv (h : Hdr) (ax : Fin 8) (scope : Scope)
  /-- R274: S waits until the barrier release has reached the unit. -/
  | barwt (h : Hdr) (ax : Fin 8) (scope : Scope)
  /-- R268: S updates a weight tile in place by stochastic gradient descent in the store stage. -/
  | supdSgd (h : Hdr) (m : UMem)
  /-- R268: S updates momentum and weight tiles in place. -/
  | supdMom (h : Hdr) (m : UMem) (b : Fin 64)
  /-- R276: S starts a collective over a group in the collective engine. -/
  | coll (h : Hdr) (op : CollOp) (a : Fin 64) (y : Fin 256) (b : Fin 64)
  /-- R257: S pushes a block copy command into the copy engine. -/
  | cpyS (h : Hdr) (c : Cp)
  /-- R263: S pushes a multicast of a tile into selected columns. -/
  | cpymS (h : Hdr) (c : Cp) (tg : Fin 64)
  /-- R21: A token on its way reaches its signal cycle and is added to its counter. -/
  | tokenArrival
  /-- R34: A latch entry's remaining latency reaches zero and it becomes valid. -/
  | latchEntryArrival
  /-- R320: A scale-bypass entry's delay reaches zero and it becomes available. -/
  | scaleBypassEntryAvailable
  /-- R45: The realignment cycle arrives; streams at their points resume, RPEND clears and the unit becomes timed if all were in place. -/
  | realignmentCycle
  /-- R50: A loose-mode stall exceeds STALLMAX.LIMIT and raises STALL. -/
  | stall
  /-- R54: After HALT, the unit completes once all signals, retirements, acknowledgements and fault reports are settled. -/
  | unitCompletion
  /-- R360: A work record reaches DONE = EXPECT and advances its parent and successors' DEPS. -/
  | workRecordCompletion
  /-- R239: A fault report from an owner or target reaches the unit and stops the issuing stream, or is queued. -/
  | deferredFaultReport
  /-- R105: A bank's refresh deadline arrives in timed mode with no REFB and raises REFRESH in D. -/
  | refresh
  /-- R106: The vault keeper refreshes a bank whose deadline arrives while no stream drives it, reopening its row. -/
  | keeperRefresh
  /-- R134: A far-path block has not arrived at its formula cycle in timed mode. -/
  | farLate
  /-- R217: PHPRE's due cycle arrives with READY still 0 in timed mode and raises SCHED_MISS PHASE. -/
  | phpreDueDeadline
  /-- R118: The Wain reads or writes one vault column on a MIG cycle. -/
  | wainBeat
  /-- R118: The Wain's last write completes, setting READY and clearing ACTIVE. -/
  | wainReady
  /-- R121: A write's second landing takes a MIG cycle at the target or home placement. -/
  | dualWrite
  /-- R244: A declared window beat serves the oldest waiting request of its kind on the open row, or goes unused. -/
  | windowBeat
  /-- R133: A far-path block waiting in the arrival buffer is delivered at its formula cycle. -/
  | farPathDelivery
  /-- R131: A far-path or remote write's acknowledgement reaches the writer. -/
  | writeAcknowledgement
  /-- R259: The copy engine requests a source block and writes it at its destination on the formula cycle. -/
  | copyBlock
  /-- R260: A copy command posts its retirement word to CPF. -/
  | copyRetirement
  /-- R264: A put block arrives at the target and is translated and written there. -/
  | incomingPut
  /-- R264: A get request arrives at the target, which reads and returns the block. -/
  | incomingGet
  /-- R264: A get response returns to the issuer and its block is written. -/
  | getResponse
  /-- R271: A signal, atomic or barrier operation is performed at the owner of its word. -/
  | atomicPerform
  /-- R271: The report of a signal or atomic reaches the issuing unit, with the old value to AMF. -/
  | atomicReport
  /-- R274: A barrier release reaches a unit that arrived in that generation. -/
  | barrierRelease
  /-- R276: A collective finishes, writes each member's tile and delivers its CLF word. -/
  | collectiveClose
  /-- R291: The gather of MIDX completes OPA. -/
  | gatherComplete
  /-- R290: A fault met while the engine reads blocks is raised at c + cost and tokens are returned. -/
  | mmaBlockFault
  /-- R340: A frontier refresh takes effect BDLY after its event. -/
  | frontierRefresh
  /-- R355: From P + BDLY every column has discarded the CODE blocks of a published range. -/
  | codeRangeDiscard
  /-- R367: Dispatch loads a unit's object and initial state for a launch. -/
  | bind
  /-- R367: The object load finishes and the unit waits for its base. -/
  | objectLoadComplete
  /-- R381: The Reeve's pre-emption command for every unit of a launch at a slot boundary. -/
  | preempt
  /-- R381: The pre-emption request reaches the unit, which clamps its loop and stops MMAs into recomputable tiles. -/
  | preemptionRequest
  /-- R382: No stop by q + 18,000 forces every stream to stop. -/
  | forcedStop
  /-- R385: After issued instructions complete, the save image is written to the save area. -/
  | saveImage
  /-- R388: Dispatch restores a saved unit with BASE moved by D and restarts its streams loose. -/
  | resume
  /-- R377: Units of a launch with a faulted unit are held at a slot boundary. -/
  | hold
  /-- R377: Held units resume loose at a slot boundary after the last ERET. -/
  | release
  /-- R380: A queue's bound units and undispatched launches are removed without save. -/
  | kill
  /-- R390: The fallow pass clears a column passing to another tenant. -/
  | fallow
  /-- R136: The fallow pass completes and the column becomes FREE. -/
  | fallowPassComplete
  /-- R362: The leader's Reeve places a launch request in its queue or refuses it. -/
  | launchPlacement
  /-- R370: At a slot boundary the leader binds at most one eligible launch of a queue. -/
  | schedulingPass
  /-- R370: A bound launch's 1 ms slice ends and it may be pre-empted. -/
  | sliceEnd
  /-- R373: Queue leadership moves to the next qualifying die at a slot boundary. -/
  | leaderHandover
  /-- R357: The Reeves form a partition at the host's request. -/
  | partitionFormation
  /-- R390: The Reeves release a partition and start the vault pass. -/
  | partitionRelease
  /-- R137: The last owned vault page is cleared and the release is reported ready. -/
  | vaultPassComplete
  /-- R362: The host places a job's root launch over the management channel. -/
  | rootLaunchPlacement
  /-- R369: The host installs a partition's handler image. -/
  | handlerInstall
  /-- R415: The host grants a loan of a free column's vault pages. -/
  | loanGrant
  /-- R415: The host recalls a loan and the lender's keeper clears the pages. -/
  | loanRecall
  /-- R411: The host gives the snapshot engine a reserve for a COW extent. -/
  | snapshotReserve
  /-- R414: The host names the fabric storage path for a job's snapshots. -/
  | snapshotStoragePath
  /-- R422: The host sets the noise source's live, log or replay mode. -/
  | noiseMode
  /-- R419: The Reeve performs a host release as a SIG.SET.REL.SYS after earlier host writes. -/
  | hostRelease
  /-- R372: The host asks for a die to be emptied, making it draining. -/
  | dieDrain
  /-- R421: A die signs an attestation report for a requester's nonce. -/
  | attestationReport
  /-- R425: A BAR0 write sets the package power limit, clamped to its range. -/
  | plim
  /-- R424: A BAR0 write sets the host latency tolerance for idle states. -/
  | lattol
  /-- R416: A host access through BAR2 or CXL.mem reaches a vault or completes with Completer Abort. -/
  | hostBar2Access
  /-- R411: The snapshot engine accepts a held SNAP once it holds no snapshot of the job. -/
  | snapAccept
  /-- R412: The snapshot opens when the completion of its round reaches the package. -/
  | snapshotOpen
  /-- R414: The last snapshot block is drained and the round is reported to the host. -/
  | snapshotDrained
  /-- R126: The Gleaner rewrites the placement of a floating extent in a map not in use. -/
  | gleanerRewrite
  /-- R99: The scrubber writes poison for an uncorrectable error into memory. -/
  | scrub
  /-- R423: A new 100 µs period restores the SHARED activity budgets of a vault. -/
  | budgetPeriod
  /-- R420: After power-good each die runs trim, calibration, link training, firmware verification, class check and memory initialisation. -/
  | powerGood
  /-- R405: A die resets, advances its generation, reinitialises its vaults and kills queues with units on it. -/
  | dieReset
  /-- R404: A link retrains and the reset die sends its reset notice first. -/
  | linkRetrain
  /-- R350: A reset notice arrives, updates GEN and settles requests outstanding to that die. -/
  | resetNotice
  /-- R404: 1,200,000 cyc after a link went down the die updates its entry for the reset die. -/
  | linkDownTimeout
  /-- R408: A peer package silent for 10 ms is treated as reset. -/
  | peerPackageTimeout
  /-- R391: A vault's temperature sensor is read every 10 µs. -/
  | vaultTemperatureRead
  /-- R392: The heat source's clock is lowered by 50 MHz at a slot boundary. -/
  | throttleStep
  /-- R392: A throttled partition's clock rises by 50 MHz per 1 ms once its vaults cool. -/
  | throttleRise
  /-- R393: A heat source at its floor is paused at a slot boundary. -/
  | pause
  /-- R393: A paused partition's counters restart together when its vaults cool. -/
  | pauseEnd
  /-- R425: Power averaged over 1 ms exceeding PLIM throttles or pauses the top partition. -/
  | powerLimitCheck
  /-- R425: A vault at 100 °C or a die at 115 °C resets every die. -/
  | thermalTrip
  /-- R424: An idle column enters C1, C2 or C3 after its idle time within LATTOL. -/
  | idleStateEntry
  /-- R422: In replay mode the Reeve supplies logged noise words from fabric storage to a unit, in order of sequence number. -/
  | loggedWordsSupply
  /-- R418: The host opens a TLS 1.3 session, authenticated by the device keys, on the management channel, and the Reeves accept commands only within it. -/
  | managementSession
  deriving DecidableEq, Repr

/-- The step that an event takes. -/
def Ev.instr : Ev → Instr
  | .tokenArrival .. => .tokenArrival
  | .latchEntryArrival .. => .latchEntryArrival
  | .scaleBypassEntryAvailable .. => .scaleBypassEntryAvailable
  | .realignmentCycle .. => .realignmentCycle
  | .stall .. => .stall
  | .unitCompletion .. => .unitCompletion
  | .workRecordCompletion .. => .workRecordCompletion
  | .deferredFaultReport .. => .deferredFaultReport
  | .refresh .. => .refresh
  | .keeperRefresh .. => .keeperRefresh
  | .farLate .. => .farLate
  | .phpreDueDeadline .. => .phpreDueDeadline
  | .wainBeat .. => .wainBeat
  | .wainReady .. => .wainReady
  | .dualWrite .. => .dualWrite
  | .windowBeat .. => .windowBeat
  | .farPathDelivery .. => .farPathDelivery
  | .writeAcknowledgement .. => .writeAcknowledgement
  | .copyBlock .. => .copyBlock
  | .copyRetirement .. => .copyRetirement
  | .incomingPut .. | .loanWrite .. => .incomingPut
  | .incomingGet .. | .loanRead .. => .incomingGet
  | .getResponse .. => .getResponse
  | .atomicPerform .. => .atomicPerform
  | .atomicReport .. => .atomicReport
  | .barrierRelease .. => .barrierRelease
  | .collectiveClose .. => .collectiveClose
  | .gatherComplete .. => .gatherComplete
  | .mmaBlockFault .. => .mmaBlockFault
  | .frontierRefresh .. => .frontierRefresh
  | .codeRangeDiscard .. => .codeRangeDiscard
  | .bind .. => .bind
  | .objectLoadComplete .. => .objectLoadComplete
  | .preempt .. => .preempt
  | .preemptionRequest .. => .preemptionRequest
  | .forcedStop .. => .forcedStop
  | .saveImage .. => .saveImage
  | .resume .. => .resume
  | .hold .. => .hold
  | .release .. => .release
  | .kill .. => .kill
  | .fallow .. => .fallow
  | .fallowPassComplete .. => .fallowPassComplete
  | .launchPlacement .. => .launchPlacement
  | .schedulingPass .. => .schedulingPass
  | .sliceEnd .. => .sliceEnd
  | .leaderHandover .. => .leaderHandover
  | .partitionFormation .. => .partitionFormation
  | .partitionRelease .. => .partitionRelease
  | .vaultPassComplete .. => .vaultPassComplete
  | .rootLaunchPlacement .. => .rootLaunchPlacement
  | .handlerInstall .. => .handlerInstall
  | .loanGrant .. => .loanGrant
  | .loanRecall .. => .loanRecall
  | .snapshotReserve .. => .snapshotReserve
  | .snapshotStoragePath .. => .snapshotStoragePath
  | .noiseMode .. => .noiseMode
  | .hostRelease .. => .hostRelease
  | .dieDrain .. => .dieDrain
  | .attestationReport .. => .attestationReport
  | .plim .. => .plim
  | .lattol .. => .lattol
  | .hostBar2Access .. => .hostBar2Access
  | .snapAccept .. => .snapAccept
  | .snapshotOpen .. => .snapshotOpen
  | .snapshotDrained .. => .snapshotDrained
  | .gleanerRewrite .. => .gleanerRewrite
  | .scrub .. => .scrub
  | .budgetPeriod .. => .budgetPeriod
  | .powerGood .. => .powerGood
  | .dieReset .. => .dieReset
  | .linkRetrain .. => .linkRetrain
  | .resetNotice .. => .resetNotice
  | .linkDownTimeout .. => .linkDownTimeout
  | .peerPackageTimeout .. => .peerPackageTimeout
  | .vaultTemperatureRead .. => .vaultTemperatureRead
  | .throttleStep .. => .throttleStep
  | .throttleRise .. => .throttleRise
  | .pause .. => .pause
  | .pauseEnd .. => .pauseEnd
  | .powerLimitCheck .. => .powerLimitCheck
  | .thermalTrip => .thermalTrip
  | .idleStateEntry .. => .idleStateEntry
  | .loggedWordsSupply .. => .loggedWordsSupply
  | .managementSession .. => .managementSession

end Sys2Proof
end

