-- ==== Sys2Proof/WellFormed.lean ====
section
/-! DEFINITION. Which instructions are well formed: the field values that spec/07_encoding_rules.md (R142 to R160) and the
instructions' descriptions accept. An encoding whose fields break one of these raises ILLEGAL_ENCODING (R142). Machine
events carry no encoding; theirs is the range of their operands. -/
namespace Sys2Proof

/-- Lane width of a type (R146). -/
def VTy.width : VTy → Nat
  | .i8 | .n8 | .e4m3 | .e5m2 => 8
  | .i16 | .n16 | .bf16 | .fp16 | .fx16 => 16
  | .i32 | .n32 | .fp32 | .fx32 => 32
  | .i64 | .n64 => 64
  | .q4 => 4

/-- Lanes of a register of the type (R146). -/
def VTy.lanes (t : VTy) : Nat := 4096 / t.width

/-- The class F of R303, as a float format. -/
def VTy.fmt? : VTy → Option Fmt
  | .fp32 => some .fp32 | .bf16 => some .bf16 | .fp16 => some .fp16
  | .e4m3 => some .e4m3 | .e5m2 => some .e5m2
  | _ => none

/-- The classes of R303. -/
def VTy.isF (t : VTy) : Bool := t.fmt?.isSome
def VTy.isI : VTy → Bool
  | .i8 | .n8 | .i16 | .n16 | .i32 | .n32 | .i64 | .n64 => true
  | _ => false
def VTy.isX : VTy → Bool
  | .fx16 | .fx32 => true
  | _ => false
def VTy.isQ (t : VTy) : Bool := t == .q4

/-- Format codes that R64 assigns. -/
def fmtAssigned (f : Nat) : Bool :=
  f ≤ 0x06 || (0x08 ≤ f && f ≤ 0x11) || (0x20 ≤ f && f ≤ 0x22)

/-- Special-register selectors that a field map names (R149 and the maps of later chapters). -/
def selNamed (n : Nat) : Bool :=
  n ≤ 0x019 || (0x020 ≤ n && n ≤ 0x031) || (0x035 ≤ n && n ≤ 0x038) || n == 0x03A ||
  (0x040 ≤ n && n ≤ 0x058) || (0x05A ≤ n && n ≤ 0x05E) || (0x200 ≤ n && n ≤ 0x3FF)

/-- Signed range of an n-bit field. -/
def inSigned (n : Nat) (i : Int) : Bool := -(2 ^ (n - 1) : Int) ≤ i && i < (2 ^ (n - 1) : Int)

/-- Row count of an msz field. -/
def Msz.rows : Msz → Nat
  | .m16 => 16 | .m32 => 32 | .m64 => 64

/-- The msz and roff pairs of R159. -/
def roffOk (m : Msz) (r : Fin 4) : Bool :=
  match m with
  | .m16 => true
  | .m32 => r.val == 0 || r.val == 2
  | .m64 => r.val == 0

/-- PAIR names the next register as well (R304). -/
def pairOk (pair : Bool) (rs : List (Fin 64)) : Bool := !pair || rs.all (fun r => r.val ≤ 62)

/-- The source and destination pairs that VCVT accepts (R314). -/
def cvtOk (src dst : VTy) : Bool :=
  (src.isF && (dst.isF || dst.isI)) || (src.isI && (dst.isF || dst.isI || dst.isX)) ||
  (src.isX && (dst.isF || dst.isI || dst.isX))

/-- Part j below the ratio of the lane counts (R314). -/
def partOk (src dst : VTy) (j : Fin 8) : Bool :=
  j.val < max (src.lanes / dst.lanes) (dst.lanes / src.lanes)

/-- Destinations and sources of VQNT (R321). -/
def qntOk (c : VCtl) (src : VTy) (qt : Fin 4) (j : Fin 8) : Bool :=
  (c.ty == .q4 || ((c.ty == .e4m3 || c.ty == .e5m2) && qt.val == 0)) &&
  (src == .fp32 || src == .bf16 || src == .fp16) && j.val < c.ty.lanes / src.lanes

/-- The well-formed instructions: what a decoder accepts once the reserved bits are zero (R142). -/
def Instr.wf : Instr → Bool
  | .addi _ _ _ imm => inSigned 6 imm
  | .andi _ _ _ imm | .ori _ _ _ imm | .xori _ _ _ imm | .shli _ _ _ imm | .shri _ _ _ imm | .srai _ _ _ imm
  | .sext _ _ _ imm => 0 ≤ imm && imm ≤ 63
  | .wtag _ _ _ imm => 0 ≤ imm && imm ≤ 15
  | .li _ _ imm => inSigned 40 imm
  | .brEq _ _ off | .brNe _ _ off | .brLt _ _ off | .brGe _ _ off | .brLe _ _ off | .brGt _ _ off => inSigned 12 off
  | .loop _ _ off => inSigned 12 off
  | .jmp _ off | .call _ off => inSigned 18 off
  | .lset _ _ _ _ drain => drain.val ≤ 12000
  | .srd _ _ sel | .swr _ _ sel => selNamed sel.val
  | .win _ _ _ beats _ => beats.val ≠ 0
  | .wcls _ _ bank all => !all || bank.val == 0
  | .vld _ _ m | .vlds _ _ m | .vldg _ _ m _ | .qld _ _ m | .ldh _ _ m | .lrec _ m | .ltr _ _ m => inSigned 22 m.disp
  | .idleM h n => n.val ≠ 0x3FFFF || h.stamp.val == 0
  | .mma _ o al => roffOk o.msz o.roff && o.k.val ≠ 0 && (!al || o.ya.val == 0) && (!o.bl || o.yb.val == 0)
  | .mmag _ o => roffOk o.msz o.roff && o.k.val ≠ 0 && (!o.bl || o.yb.val == 0)
  | .mzero _ _ msz roff => roffOk msz roff
  | .mmov _ _ _ drow srow n => 1 ≤ n.val && n.val ≤ 64 && drow.val + n.val ≤ 64 && srow.val + n.val ≤ 64
  | .mrst _ t _ | .mcls _ t _ => t.val ≠ 0
  | .vadd c d a b pair | .vsub c d a b pair | .vmin c d a b pair | .vmax c d a b pair => !c.ty.isQ && pairOk pair [d, a, b]
  | .vmul c d a b pair => (c.ty.isF || c.ty.isI) && pairOk pair [d, a, b]
  | .vmulh c _ _ _ | .vadds c _ _ _ | .vsubs c _ _ _ => c.ty.isI
  | .vabs c _ _ | .vneg c _ _ => !c.ty.isQ
  | .vaddi c _ _ imm => (c.ty.isI || c.ty.isX) && inSigned 9 imm
  | .vli c _ imm => !c.ty.isQ && inSigned 9 imm
  | .vcls c d _ imm => c.ty.isF && d.val ≠ 0 && imm.val ≤ 10
  | .vfma c d a b e pair | .vfms c d a b e pair | .vfnma c d a b e pair | .vfnms c d a b e pair =>
      (c.ty.isF || c.ty.isI) && pairOk pair [d, a, b, e]
  | .vshl c _ _ _ | .vshr c _ _ _ | .vsra c _ _ _ => c.ty.isI || c.ty.isX
  | .vcmpEq c d _ _ | .vcmpNe c d _ _ | .vcmpLt c d _ _ | .vcmpLe c d _ _ => !c.ty.isQ && d.val ≠ 0
  | .vcmpUn c d _ _ => c.ty.isF && d.val ≠ 0
  | .pand _ d _ _ | .por _ d _ _ | .pxor _ d _ _ | .pandn _ d _ _ => d.val ≠ 0
  | .pnot _ d _ | .pmov _ d _ => d.val ≠ 0
  | .pset _ d _ => d.val ≠ 0
  | .vperm c _ _ b => b.val + (c.ty.lanes + 255) / 256 ≤ 64
  | .vshuf _ _ _ b imm => imm.val ≤ 4 && (imm.val ≠ 4 || b.val == 0)
  | .vsld c _ _ _ imm => imm.val < c.ty.lanes
  | .vbcst c _ _ imm => imm.val < c.ty.lanes
  | .vrsum c _ | .vrmax c _ | .vrmin c _ => !c.ty.isQ
  | .vrmaxa c _ | .vmaxa c _ => c.ty.isF
  | .vcvt c _ _ src j => cvtOk src c.ty && partOk src c.ty j
  | .vfin c _ _ | .vtail c _ _ | .vtclr c _ _ => c.ty.isF
  | .vscl c _ _ imm => c.ty.isF && inSigned 9 imm
  | .vqnt c _ _ src qt j => qntOk c src qt j
  | .vradd c _ _ _ g alt | .vrsub c _ _ _ g alt => c.ty.isX && g.val ≠ 0xFF && (!alt || c.ty == .fx16)
  | .vexp c _ | .vlog c _ | .vrcp c _ | .vrsq c _ | .vsqrt c _ | .vtanh c _ | .vsigm c _ | .verf c _ =>
      c.ty == .fp32 || c.ty == .bf16 || c.ty == .fp16
  | .vkmix c _ _ _ => c.ty == .i64 || c.ty == .n64
  | .vrndn c => c.ty == .n64
  | .vmovt _ _ _ t => t.val ≠ 0
  | .vst _ m | .vsts _ m | .vstc _ m => m.s.val ≠ 0xFF && inSigned 9 m.disp
  | .vwr _ v _ _ q buf ax => if buf then v.val == 0 && q.val == 0 else ax.val == 0
  | .sth _ _ _ _ fmt _ => fmtAssigned fmt.val
  | .push _ _ f => f != .amf
  | .cas _ o _ => o.b.val ≠ 63
  | .supdSgd _ m | .supdMom _ m _ => inSigned 13 m.disp
  | _ => true

end Sys2Proof
end

