-- ==== Sys2Proof/Decode.lean ====
section
/-! DEFINITION. The decoder of the six streams and the encoder beside it, both from the encoding tables of
spec/07_encoding_rules.md (R138 to R166): `bits w hi lo` is the field [hi:lo] of the tables. A word that is no
instruction is rejected by the fault that R142 names. -/
namespace Sys2Proof

/-- Bits [hi:lo] of a word. -/
def bits (w hi lo : Nat) : Nat := w / 2 ^ lo % 2 ^ (hi + 1 - lo)
/-- A field read as signed two's complement of n bits. -/
def signed (n w : Nat) : Int := if w < 2 ^ (n - 1) then (w : Int) else (w : Int) - 2 ^ n
/-- A signed field written on n bits. -/
def unsigned (n : Nat) (i : Int) : Nat := (i % 2 ^ n).toNat
/-- One bit. -/
def flag (w : Nat) : Bool := w % 2 == 1

/-- What a stream reads at its program counter (R142). -/
inductive Decoded where
  | ok (i : Instr)
  | illegalInstruction
  | illegalEncoding
  deriving DecidableEq, Repr

/-- Accept an instruction whose reserved fields hold `res` and whose fields are as R142 asks. -/
def accept (res : Nat) (i : Instr) : Decoded :=
  if res == 0 && i.wf then .ok i else .illegalEncoding

/-- A coded field: a code that R145 to R148 do not list is illegal (R142). -/
def coded {α : Type} (x : Option α) (f : α → Decoded) : Decoded :=
  match x with
  | some a => f a
  | none => .illegalEncoding


/-- The code of a Fmt (R147). -/
def Fmt.code : Fmt → Nat
  | .fp32 => 0 | .bf16 => 1 | .fp16 => 2 | .e4m3 => 3 | .e5m2 => 4
/-- The Fmt of a code (R147). -/
def Fmt.ofCode : Nat → Option Fmt
  | 0 => some .fp32 | 1 => some .bf16 | 2 => some .fp16 | 3 => some .e4m3 | 4 => some .e5m2 | _ => none

/-- The code of a ITy (R146). -/
def ITy.code : ITy → Nat
  | .i8 => 0 | .n8 => 1 | .i16 => 2 | .n16 => 3 | .i32 => 4 | .n32 => 5 | .i64 => 6 | .n64 => 7
/-- The ITy of a code (R146). -/
def ITy.ofCode : Nat → Option ITy
  | 0 => some .i8 | 1 => some .n8 | 2 => some .i16 | 3 => some .n16 | 4 => some .i32 | 5 => some .n32 | 6 => some .i64 | 7 => some .n64 | _ => none

/-- The code of a VTy (R146). -/
def VTy.code : VTy → Nat
  | .i8 => 0 | .n8 => 1 | .i16 => 2 | .n16 => 3 | .i32 => 4 | .n32 => 5 | .i64 => 6 | .n64 => 7 | .fp32 => 8 | .bf16 => 9 | .fp16 => 10 | .e4m3 => 11 | .e5m2 => 12 | .fx16 => 13 | .fx32 => 14 | .q4 => 15
/-- The VTy of a code (R146). -/
def VTy.ofCode : Nat → Option VTy
  | 0 => some .i8 | 1 => some .n8 | 2 => some .i16 | 3 => some .n16 | 4 => some .i32 | 5 => some .n32 | 6 => some .i64 | 7 => some .n64 | 8 => some .fp32 | 9 => some .bf16 | 10 => some .fp16 | 11 => some .e4m3 | 12 => some .e5m2 | 13 => some .fx16 | 14 => some .fx32 | 15 => some .q4 | _ => none

/-- The code of a Mode (R76). -/
def Mode.code : Mode → Nat
  | .rne => 0 | .rtz => 1 | .rdn => 2 | .rup => 3 | .rna => 4 | .odd => 5
/-- The Mode of a code (R76). -/
def Mode.ofCode : Nat → Option Mode
  | 0 => some .rne | 1 => some .rtz | 2 => some .rdn | 3 => some .rup | 4 => some .rna | 5 => some .odd | _ => none

/-- The code of a TailMode (R84). -/
def TailMode.code : TailMode → Nat
  | .keep => 0 | .zero => 1 | .fin => 2
/-- The TailMode of a code (R84). -/
def TailMode.ofCode : Nat → Option TailMode
  | 0 => some .keep | 1 => some .zero | 2 => some .fin | _ => none

/-- The code of a Scope (R148). -/
def Scope.code : Scope → Nat
  | .col => 0 | .die => 1 | .pkg => 2 | .pod => 3 | .sys => 4
/-- The Scope of a code (R148). -/
def Scope.ofCode : Nat → Option Scope
  | 0 => some .col | 1 => some .die | 2 => some .pkg | 3 => some .pod | 4 => some .sys | _ => none

/-- The code of a Ord (R148). -/
def Ord.code : Ord → Nat
  | .rlx => 0 | .acq => 1 | .rel => 2 | .sc => 3
/-- The Ord of a code (R148). -/
def Ord.ofCode : Nat → Option Ord
  | 0 => some .rlx | 1 => some .acq | 2 => some .rel | 3 => some .sc | _ => none

/-- The code of a FenceKind (R148). -/
def FenceKind.code : FenceKind → Nat
  | .acq => 0 | .rel => 1 | .ar => 2 | .sc => 3
/-- The FenceKind of a code (R148). -/
def FenceKind.ofCode : Nat → Option FenceKind
  | 0 => some .acq | 1 => some .rel | 2 => some .ar | 3 => some .sc | _ => none

/-- The code of a WinKind (R148). -/
def WinKind.code : WinKind → Nat
  | .remote => 0 | .mig => 1 | .shared => 2
/-- The WinKind of a code (R148). -/
def WinKind.ofCode : Nat → Option WinKind
  | 0 => some .remote | 1 => some .mig | 2 => some .shared | _ => none

/-- The code of a Level (R148). -/
def Level.code : Level → Nat
  | .unit => 0 | .launch => 1 | .graph => 2 | .round => 3 | .job => 4
/-- The Level of a code (R148). -/
def Level.ofCode : Nat → Option Level
  | 0 => some .unit | 1 => some .launch | 2 => some .graph | 3 => some .round | 4 => some .job | _ => none

/-- The code of a AmoOp (R148). -/
def AmoOp.code : AmoOp → Nat
  | .add => 0 | .and => 1 | .or => 2 | .xor => 3 | .min => 4 | .max => 5 | .minn => 6 | .maxn => 7 | .swap => 8
/-- The AmoOp of a code (R148). -/
def AmoOp.ofCode : Nat → Option AmoOp
  | 0 => some .add | 1 => some .and | 2 => some .or | 3 => some .xor | 4 => some .min | 5 => some .max | 6 => some .minn | 7 => some .maxn | 8 => some .swap | _ => none

/-- The code of a SigOp (R148). -/
def SigOp.code : SigOp → Nat
  | .set => 0 | .add => 1
/-- The SigOp of a code (R148). -/
def SigOp.ofCode : Nat → Option SigOp
  | 0 => some .set | 1 => some .add | _ => none

/-- The code of a CollOp (R148). -/
def CollOp.code : CollOp → Nat
  | .sum => 0 | .max => 1 | .min => 2 | .bcast => 3
/-- The CollOp of a code (R148). -/
def CollOp.ofCode : Nat → Option CollOp
  | 0 => some .sum | 1 => some .max | 2 => some .min | 3 => some .bcast | _ => none

/-- The code of a Size (R148). -/
def Size.code : Size → Nat
  | .b32 => 0 | .b64 => 1
/-- The Size of a code (R148). -/
def Size.ofCode : Nat → Option Size
  | 0 => some .b32 | 1 => some .b64 | _ => none

/-- The code of a Msz (R148). -/
def Msz.code : Msz → Nat
  | .m16 => 0 | .m32 => 1 | .m64 => 2
/-- The Msz of a code (R148). -/
def Msz.ofCode : Nat → Option Msz
  | 0 => some .m16 | 1 => some .m32 | 2 => some .m64 | _ => none

/-- The code of a Latch (R145). -/
def Latch.code : Latch → Nat
  | .xs => 0 | .xr => 1 | .xd => 2 | .xn => 3
/-- The Latch of a code (R145). -/
def Latch.ofCode : Nat → Option Latch
  | 0 => some .xs | 1 => some .xr | 2 => some .xd | 3 => some .xn | _ => none

/-- The code of a Fifo (R145). -/
def Fifo.code : Fifo → Nat
  | .cpf => 0 | .amf => 1 | .clf => 2
/-- The Fifo of a code (R145). -/
def Fifo.ofCode : Nat → Option Fifo
  | 0 => some .cpf | 1 => some .amf | 2 => some .clf | _ => none

/-- The code of a OpLat (R145). -/
def OpLat.code : OpLat → Nat
  | .opa => 0 | .opb => 1
/-- The OpLat of a code (R145). -/
def OpLat.ofCode : Nat → Option OpLat
  | 0 => some .opa | 1 => some .opb | _ => none

/-- A bit as a number. -/
def boolCode (b : Bool) : Nat := if b then 1 else 0

/-- The header of a first word, with the sync bits of the extension words ORed in (R18, R138, R139). -/
def hdr (w : Nat) (exts : List Nat) : Hdr :=
  { sync := Fin.ofNat 16 (exts.foldl (fun a x => a ||| bits x 31 28) (bits w 31 28)), idle := Fin.ofNat 8 (bits w 27 25) }

/-- The header of an M instruction (R24, R158). -/
def mhdr (w w2 w3 : Nat) : MHdr :=
  { sync := Fin.ofNat 16 (bits w 31 28 ||| bits w2 31 28 ||| bits w3 31 28), stamp := Fin.ofNat 1048576 (bits w3 19 0) }

/-- Words of an instruction by stream and opcode (R140). -/
def wordCount (x : Stream) (op : Nat) : Nat :=
  match x with
  | .k => if op == 0x27 || op == 0x28 || op == 0x5B || op == 0x62 || op == 0x70 then 2 else 1
  | .d => 1
  | .l | .v | .s => 2
  | .m => 3

/-- A scalar, vector or other 6-bit field. -/
def reg (n : Nat) : Fin 64 := Fin.ofNat 64 n

/-- K: opcode `op`, operands `o` = [17:0] of the first word, payload `x` of the extension word (R151, R161). -/
def decodeK (op : Nat) (h : Hdr) (o x : Nat) : Decoded :=
  match op with
  | 0x00 => accept (0) (.idleK h (Fin.ofNat 262144 o))
  | 0x01 => accept (0) (.add h (reg (bits o 17 12)) (reg (bits o 11 6)) (reg (bits o 5 0)))
  | 0x02 => accept (0) (.sub h (reg (bits o 17 12)) (reg (bits o 11 6)) (reg (bits o 5 0)))
  | 0x03 => accept (0) (.mul h (reg (bits o 17 12)) (reg (bits o 11 6)) (reg (bits o 5 0)))
  | 0x04 => accept (0) (.mulh h (reg (bits o 17 12)) (reg (bits o 11 6)) (reg (bits o 5 0)))
  | 0x05 => accept (0) (.mulhn h (reg (bits o 17 12)) (reg (bits o 11 6)) (reg (bits o 5 0)))
  | 0x06 => accept (bits o 17 12) (.div h (reg (bits o 11 6)) (reg (bits o 5 0)))
  | 0x07 => accept (bits o 17 12) (.divn h (reg (bits o 11 6)) (reg (bits o 5 0)))
  | 0x08 => accept (bits o 17 12) (.rem h (reg (bits o 11 6)) (reg (bits o 5 0)))
  | 0x09 => accept (bits o 17 12) (.remn h (reg (bits o 11 6)) (reg (bits o 5 0)))
  | 0x0A => accept (0) (.and h (reg (bits o 17 12)) (reg (bits o 11 6)) (reg (bits o 5 0)))
  | 0x0B => accept (0) (.or h (reg (bits o 17 12)) (reg (bits o 11 6)) (reg (bits o 5 0)))
  | 0x0C => accept (0) (.xor h (reg (bits o 17 12)) (reg (bits o 11 6)) (reg (bits o 5 0)))
  | 0x0D => accept (0) (.andn h (reg (bits o 17 12)) (reg (bits o 11 6)) (reg (bits o 5 0)))
  | 0x0E => accept (0) (.shl h (reg (bits o 17 12)) (reg (bits o 11 6)) (reg (bits o 5 0)))
  | 0x0F => accept (0) (.shr h (reg (bits o 17 12)) (reg (bits o 11 6)) (reg (bits o 5 0)))
  | 0x10 => accept (0) (.sra h (reg (bits o 17 12)) (reg (bits o 11 6)) (reg (bits o 5 0)))
  | 0x11 => accept (0) (.min h (reg (bits o 17 12)) (reg (bits o 11 6)) (reg (bits o 5 0)))
  | 0x12 => accept (0) (.max h (reg (bits o 17 12)) (reg (bits o 11 6)) (reg (bits o 5 0)))
  | 0x13 => accept (0) (.minn h (reg (bits o 17 12)) (reg (bits o 11 6)) (reg (bits o 5 0)))
  | 0x14 => accept (0) (.maxn h (reg (bits o 17 12)) (reg (bits o 11 6)) (reg (bits o 5 0)))
  | 0x15 => accept (bits o 5 0) (.clz h (reg (bits o 17 12)) (reg (bits o 11 6)))
  | 0x16 => accept (bits o 5 0) (.ctz h (reg (bits o 17 12)) (reg (bits o 11 6)))
  | 0x17 => accept (bits o 5 0) (.popc h (reg (bits o 17 12)) (reg (bits o 11 6)))
  | 0x18 => accept (0) (.sext h (reg (bits o 17 12)) (reg (bits o 11 6)) ((bits o 5 0 : Nat)))
  | 0x19 => accept (0) (.csel h (reg (bits o 17 12)) (reg (bits o 11 6)) (reg (bits o 5 0)))
  | 0x1A => accept (0) (.lea h (reg (bits o 17 12)) (reg (bits o 11 6)) (reg (bits o 5 0)))
  | 0x1B => accept (0) (.wtag h (reg (bits o 17 12)) (reg (bits o 11 6)) ((bits o 5 0 : Nat)))
  | 0x1C => accept (0) (.wchk h (reg (bits o 17 12)) (reg (bits o 11 6)) (reg (bits o 5 0)))
  | 0x20 => accept (0) (.addi h (reg (bits o 17 12)) (reg (bits o 11 6)) (signed 6 (bits o 5 0)))
  | 0x21 => accept (0) (.andi h (reg (bits o 17 12)) (reg (bits o 11 6)) ((bits o 5 0 : Nat)))
  | 0x22 => accept (0) (.ori h (reg (bits o 17 12)) (reg (bits o 11 6)) ((bits o 5 0 : Nat)))
  | 0x23 => accept (0) (.xori h (reg (bits o 17 12)) (reg (bits o 11 6)) ((bits o 5 0 : Nat)))
  | 0x24 => accept (0) (.shli h (reg (bits o 17 12)) (reg (bits o 11 6)) ((bits o 5 0 : Nat)))
  | 0x25 => accept (0) (.shri h (reg (bits o 17 12)) (reg (bits o 11 6)) ((bits o 5 0 : Nat)))
  | 0x26 => accept (0) (.srai h (reg (bits o 17 12)) (reg (bits o 11 6)) ((bits o 5 0 : Nat)))
  | 0x27 => accept (0) (.li h (reg (bits o 17 12)) (signed 40 (bits x 27 0 * 2 ^ 12 + bits o 11 0)))
  | 0x28 => accept (bits o 11 0 + bits x 27 24) (.lih h (reg (bits o 17 12)) (Fin.ofNat 16777216 (bits x 23 0)))
  | 0x30 => accept (0) (.cmpEq h (reg (bits o 17 12)) (reg (bits o 11 6)) (reg (bits o 5 0)))
  | 0x31 => accept (0) (.cmpNe h (reg (bits o 17 12)) (reg (bits o 11 6)) (reg (bits o 5 0)))
  | 0x32 => accept (0) (.cmpLt h (reg (bits o 17 12)) (reg (bits o 11 6)) (reg (bits o 5 0)))
  | 0x33 => accept (0) (.cmpLe h (reg (bits o 17 12)) (reg (bits o 11 6)) (reg (bits o 5 0)))
  | 0x34 => accept (0) (.cmpLtn h (reg (bits o 17 12)) (reg (bits o 11 6)) (reg (bits o 5 0)))
  | 0x35 => accept (0) (.cmpLen h (reg (bits o 17 12)) (reg (bits o 11 6)) (reg (bits o 5 0)))
  | 0x38 => accept (0) (.fcmpEq h (reg (bits o 17 12)) (reg (bits o 11 6)) (reg (bits o 5 0)))
  | 0x39 => accept (0) (.fcmpNe h (reg (bits o 17 12)) (reg (bits o 11 6)) (reg (bits o 5 0)))
  | 0x3A => accept (0) (.fcmpLt h (reg (bits o 17 12)) (reg (bits o 11 6)) (reg (bits o 5 0)))
  | 0x3B => accept (0) (.fcmpLe h (reg (bits o 17 12)) (reg (bits o 11 6)) (reg (bits o 5 0)))
  | 0x3C => accept (0) (.fcmpUn h (reg (bits o 17 12)) (reg (bits o 11 6)) (reg (bits o 5 0)))
  | 0x40 => accept (0) (.fadd h (reg (bits o 17 12)) (reg (bits o 11 6)) (reg (bits o 5 0)))
  | 0x41 => accept (0) (.fsub h (reg (bits o 17 12)) (reg (bits o 11 6)) (reg (bits o 5 0)))
  | 0x42 => accept (0) (.fmul h (reg (bits o 17 12)) (reg (bits o 11 6)) (reg (bits o 5 0)))
  | 0x43 => accept (0) (.ffma h (reg (bits o 17 12)) (reg (bits o 11 6)) (reg (bits o 5 0)))
  | 0x44 => accept (0) (.fmin h (reg (bits o 17 12)) (reg (bits o 11 6)) (reg (bits o 5 0)))
  | 0x45 => accept (0) (.fmax h (reg (bits o 17 12)) (reg (bits o 11 6)) (reg (bits o 5 0)))
  | 0x46 => coded (Fmt.ofCode (bits o 5 3)) fun f => coded (Fmt.ofCode (bits o 2 0)) fun g => accept (0) (.fcvt h (reg (bits o 17 12)) (reg (bits o 11 6)) (f) (g))
  | 0x47 => coded (Fmt.ofCode (bits o 5 3)) fun f => coded (Mode.ofCode (bits o 2 0)) fun g => accept (0) (.ffin h (reg (bits o 17 12)) (reg (bits o 11 6)) (f) (g))
  | 0x48 => coded (Mode.ofCode (bits o 5 3)) fun f => coded (ITy.ofCode (bits o 2 0)) fun g => accept (0) (.fcvti h (reg (bits o 17 12)) (reg (bits o 11 6)) (f) (g))
  | 0x49 => coded (ITy.ofCode (bits o 5 3)) fun f => accept (bits o 2 0) (.icvtf h (reg (bits o 17 12)) (reg (bits o 11 6)) (f))
  | 0x4A => coded (Fmt.ofCode (bits o 5 3)) fun f => accept (bits o 2 0) (.fcls h (reg (bits o 17 12)) (reg (bits o 11 6)) (f))
  | 0x4B => accept (bits o 5 0) (.ftail h (reg (bits o 17 12)) (reg (bits o 11 6)))
  | 0x4C => coded (Fmt.ofCode (bits o 5 3)) fun f => accept (bits o 2 0) (.ldsF h (reg (bits o 17 12)) (reg (bits o 11 6)) (f))
  | 0x4D => coded (ITy.ofCode (bits o 5 3)) fun f => accept (bits o 2 0) (.ldsI h (reg (bits o 17 12)) (reg (bits o 11 6)) (f))
  | 0x4E => coded (Fmt.ofCode (bits o 5 3)) fun f => coded (Mode.ofCode (bits o 2 0)) fun g => accept (0) (.stsF h (reg (bits o 17 12)) (reg (bits o 11 6)) (f) (g))
  | 0x4F => coded (ITy.ofCode (bits o 5 3)) fun f => accept (bits o 2 0) (.stsI h (reg (bits o 17 12)) (reg (bits o 11 6)) (f))
  | 0x50 => accept (0) (.brEq h (reg (bits o 17 12)) (signed 12 (bits o 11 0)))
  | 0x51 => accept (0) (.brNe h (reg (bits o 17 12)) (signed 12 (bits o 11 0)))
  | 0x52 => accept (0) (.brLt h (reg (bits o 17 12)) (signed 12 (bits o 11 0)))
  | 0x53 => accept (0) (.brGe h (reg (bits o 17 12)) (signed 12 (bits o 11 0)))
  | 0x54 => accept (0) (.brLe h (reg (bits o 17 12)) (signed 12 (bits o 11 0)))
  | 0x55 => accept (0) (.brGt h (reg (bits o 17 12)) (signed 12 (bits o 11 0)))
  | 0x56 => accept (0) (.jmp h (signed 18 o))
  | 0x57 => accept (bits o 17 12 + bits o 5 0) (.jmpi h (reg (bits o 11 6)))
  | 0x58 => accept (0) (.call h (signed 18 o))
  | 0x59 => accept (o) (.ret h)
  | 0x5A => accept (bits o 15 12) (.loop h (Fin.ofNat 4 (bits o 17 16)) (signed 12 (bits o 11 0)))
  | 0x5B => accept (bits x 7 0) (.lset h (Fin.ofNat 4 (bits o 17 16)) (Fin.ofNat 65536 (bits o 15 0)) (reg (bits x 27 22)) (Fin.ofNat 16384 (bits x 21 8)))
  | 0x5C => accept (o) (.prep h)
  | 0x5D => coded (Latch.ofCode (bits o 11 10)) fun x => accept (bits o 9 0) (.xfer h (reg (bits o 17 12)) (x))
  | 0x60 => accept (0) (.srd h (reg (bits o 17 12)) (Fin.ofNat 4096 (bits o 11 0)))
  | 0x61 => accept (0) (.swr h (reg (bits o 17 12)) (Fin.ofNat 4096 (bits o 11 0)))
  | 0x62 => accept (bits o 17 4 + bits x 27 20) (.phpre h (Fin.ofNat 16 (bits o 3 0)) (Fin.ofNat 1048576 (bits x 19 0)))
  | 0x63 => accept (bits o 17 4) (.phadv h (Fin.ofNat 16 (bits o 3 0)))
  | 0x64 => accept (bits o 11 4) (.phq h (reg (bits o 17 12)) (Fin.ofNat 16 (bits o 3 0)))
  | 0x65 => accept (o) (.align h)
  | 0x66 => accept (bits o 17 12 + bits o 5 0) (.realign h (reg (bits o 11 6)))
  | 0x67 => accept (o) (.halt h)
  | 0x68 => accept (bits o 17 12) (.trap h (Fin.ofNat 4096 (bits o 11 0)))
  | 0x69 => accept (o) (.eret h)
  | 0x6A => coded (FenceKind.ofCode (bits o 17 16)) fun f => coded (Scope.ofCode (bits o 2 0)) fun g => accept (bits o 15 3) (.fence h (f) (g))
  | 0x6B => accept (o) (.lfence h)
  | 0x6C => accept (o) (.isync h)
  | 0x6D => accept (bits o 17 12) (.cpub h (reg (bits o 11 6)) (reg (bits o 5 0)))
  | 0x6E => accept (bits o 17 12) (.iload h (reg (bits o 11 6)) (reg (bits o 5 0)))
  | 0x70 => accept (bits x 24 16) (.launch h (reg (bits o 17 12)) (reg (bits o 11 6)) (reg (bits o 5 0)) (Fin.ofNat 8 (bits x 27 25)) (Fin.ofNat 65536 (bits x 15 0)))
  | 0x71 => accept (bits o 17 12) (.waitg h (reg (bits o 11 6)) (reg (bits o 5 0)))
  | 0x72 => coded (Level.ofCode (bits o 17 15)) fun l => accept (bits o 14 12 + bits o 5 0) (.cancel h (l) (reg (bits o 11 6)))
  | 0x73 => accept (bits o 17 12 + bits o 5 0) (.snap h (reg (bits o 11 6)))
  | 0x74 => accept (bits o 11 0) (.rndn h (reg (bits o 17 12)))
  | 0x75 => accept (0) (.kmix h (reg (bits o 17 12)) (reg (bits o 11 6)) (reg (bits o 5 0)))
  | 0x76 => accept (bits o 17 12) (.bkpt h (Fin.ofNat 4096 (bits o 11 0)))
  | 0x7F => accept (0) (.undef h (Fin.ofNat 262144 o))
  | _ => .illegalInstruction

/-- D (R154, R162). -/
def decodeD (op : Nat) (h : Hdr) (o : Nat) : Decoded :=
  match op with
  | 0x00 => accept 0 (.idleD h (Fin.ofNat 262144 o))
  | 0x01 => if flag (bits o 13 13) then accept 0 (.act h (Fin.ofNat 16 (bits o 17 14)) (Fin.ofNat 8192 (bits o 12 0)))
            else accept (bits o 12 6) (.actRegister h (Fin.ofNat 16 (bits o 17 14)) (reg (bits o 5 0)))
  | 0x02 => accept (bits o 13 0) (.pre h (Fin.ofNat 16 (bits o 17 14)))
  | 0x03 => accept o (.prea h)
  | 0x04 => accept (bits o 13 0) (.refb h (Fin.ofNat 16 (bits o 17 14)))
  | 0x05 => coded (WinKind.ofCode (bits o 17 16)) fun k =>
      accept 0 (.win h k (Fin.ofNat 16 (bits o 15 12)) (reg (bits o 11 6)) (reg (bits o 5 0)))
  | 0x06 => coded (WinKind.ofCode (bits o 17 16)) fun k =>
      accept (bits o 10 0) (.wcls h k (Fin.ofNat 16 (bits o 15 12)) (flag (bits o 11 11)))
  | 0x7F => accept 0 (.undef h (Fin.ofNat 262144 o))
  | _ => .illegalInstruction

/-- Format MEM with LX (R155, R156). -/
def lmem (o x : Nat) : LMem :=
  { ax := Fin.ofNat 8 (bits o 11 9), pi := flag (bits o 8 8), y := Fin.ofNat 256 (bits o 7 0), disp := signed 22 (bits x 21 0) }
/-- Format CP with CX (R155, R156). -/
def cpf (o x : Nat) : Cp :=
  { ys := Fin.ofNat 256 (bits o 17 10), yd := Fin.ofNat 256 (bits o 9 2), sa := Fin.ofNat 8 (bits x 27 25), da := Fin.ofNat 8 (bits x 24 22) }
/-- Reserved bits of CP with CX; `tg` counts as reserved where the instruction does not use it. -/
def cpRes (o x : Nat) : Nat := bits o 1 0 + bits x 15 0

/-- L (R155 to R157, R163). -/
def decodeL (op : Nat) (h : Hdr) (o x : Nat) : Decoded :=
  match op with
  | 0x00 => accept (bits x 27 0) (.idleL h (Fin.ofNat 262144 o))
  | 0x01 => accept (bits x 27 22) (.vld h (reg (bits o 17 12)) (lmem o x))
  | 0x02 => accept (bits x 27 22) (.vlds h (reg (bits o 17 12)) (lmem o x))
  | 0x03 => accept 0 (.vldg h (reg (bits o 17 12)) (lmem o x) (reg (bits x 27 22)))
  | 0x04 => if flag (bits x 27 27) then
        accept (bits o 17 12 + bits o 2 0 + bits x 23 0) (.vrdBuf h (Fin.ofNat 16 (bits o 11 8)) (Fin.ofNat 32 (bits o 7 3)) (Fin.ofNat 8 (bits x 26 24)))
      else accept (bits o 0 0 + bits x 26 0) (.vrd h (reg (bits o 17 12)) (Fin.ofNat 16 (bits o 11 8)) (Fin.ofNat 32 (bits o 7 3)) (Fin.ofNat 4 (bits o 2 1)))
  | 0x05 => accept (bits o 17 16 + bits x 27 22) (.qld h (Fin.ofNat 16 (bits o 15 12)) (lmem o x))
  | 0x06 => accept (bits o 7 0 + bits x 27 0) (.qcw h (Fin.ofNat 16 (bits o 17 14)) (reg (bits o 13 8)))
  | 0x07 => accept (bits x 27 22) (.ldh h (reg (bits o 17 12)) (lmem o x))
  | 0x08 => accept (bits o 17 12 + bits x 27 22) (.lrec h (lmem o x))
  | 0x09 => coded (OpLat.ofCode (bits o 13 12)) fun l => accept (bits o 17 14 + bits x 27 22) (.ltr h l (lmem o x))
  | 0x0A => coded (Fifo.ofCode (bits o 11 8)) fun f => accept (bits o 7 0 + bits x 27 0) (.pop h (reg (bits o 17 12)) f)
  | 0x10 => accept (cpRes o x + bits x 21 16) (.cpyL h (cpf o x))
  | 0x11 => accept (cpRes o x) (.cpyx h (cpf o x) (reg (bits x 21 16)))
  | 0x12 => accept (cpRes o x) (.cpymL h (cpf o x) (reg (bits x 21 16)))
  | 0x13 => accept (cpRes o x) (.get h (cpf o x) (reg (bits x 21 16)))
  | 0x7F => accept 0 (.undef h (Fin.ofNat 262144 o))
  | _ => .illegalInstruction

/-- Format MM (R158); `z` is bit 27 of the third word. -/
def mm (sz : Msz) (o x z : Nat) : Mm :=
  { dt := Fin.ofNat 4 (bits o 17 16), msz := sz, roff := Fin.ofNat 4 (bits o 13 12), ya := Fin.ofNat 256 (bits o 11 4),
    yb := Fin.ofNat 256 (bits x 27 20), k := Fin.ofNat 4096 (bits x 19 8), bl := flag (bits x 6 6), z := flag (bits z 27 27) }

/-- M (R158, R159, R164): operands of the first word, payloads of the second and third. The idle count is 0 (R24). -/
def decodeM (op : Nat) (h : MHdr) (idle o x z : Nat) : Decoded :=
  let z0 := bits z 26 20 + idle
  match op with
  | 0x00 => accept (bits x 27 0 + bits z 27 27 + z0) (.idleM h (Fin.ofNat 262144 o))
  | 0x01 => coded (Msz.ofCode (bits o 15 14)) fun s => accept (bits o 3 0 + bits x 5 0 + z0) (.mma h (mm s o x z) (flag (bits x 7 7)))
  | 0x02 => coded (Msz.ofCode (bits o 15 14)) fun s =>
      accept (bits o 3 0 + bits x 7 7 + bits x 5 0 + z0) (.mmag h (mm s o x z))
  | 0x03 => accept (bits o 11 0 + bits x 27 0 + bits z 27 27 + z0) (.midx h (reg (bits o 17 12)))
  | 0x04 => coded (OpLat.ofCode (bits o 17 16)) fun l =>
      accept (bits o 7 0 + bits x 27 0 + bits z 27 27 + z0) (.mldt h l (Fin.ofNat 256 (bits o 15 8)))
  | 0x05 => coded (Msz.ofCode (bits o 15 14)) fun s =>
      accept (bits o 11 0 + bits x 27 0 + bits z 27 27 + z0) (.mzero h (Fin.ofNat 4 (bits o 17 16)) s (Fin.ofNat 4 (bits o 13 12)))
  | 0x06 => accept (bits o 1 0 + bits x 20 0 + bits z 27 27 + z0)
      (.mmov h (Fin.ofNat 4 (bits o 17 16)) (Fin.ofNat 4 (bits o 15 14)) (reg (bits o 13 8)) (reg (bits o 7 2)) (Fin.ofNat 128 (bits x 27 21)))
  | 0x07 => accept (bits x 27 0 + bits z 27 27 + z0) (.mrst h (Fin.ofNat 4 (bits o 17 16)) (Fin.ofNat 65536 (bits o 15 0)))
  | 0x08 => accept (bits o 14 0 + bits x 27 0 + bits z 27 27 + z0) (.mcls h (Fin.ofNat 4 (bits o 17 16)) (flag (bits o 15 15)))
  | 0x7F => accept 0 (.undef { sync := h.sync, idle := 0 } (Fin.ofNat 262144 o))
  | _ => .illegalInstruction

/-- A predicate in a 6-bit field: 16 or more is illegal (R145). -/
def predCode (n : Nat) : Option (Fin 16) := if n < 16 then some (Fin.ofNat 16 n) else none

/-- What a V instruction carries besides its registers (R160). -/
def vctl (h : Hdr) (x : Nat) (t : VTy) (m : Mode) (tm : TailMode) : VCtl :=
  { sync := h.sync, idle := h.idle, ty := t, p := Fin.ofNat 16 (bits x 17 14), mode := m, tm := tm }

/-- The V instructions but IDLE and UNDEF (R160, R165). -/
def decodeVOp (op : Nat) (c : VCtl) (o x : Nat) : Decoded :=
  match op with
  | 0x01 => accept (bits x 23 18 + bits x 8 1) (.vadd c (reg (bits o 17 12)) (reg (bits o 11 6)) (reg (bits o 5 0)) (flag (bits x 0 0)))
  | 0x02 => accept (bits x 23 18 + bits x 8 1) (.vsub c (reg (bits o 17 12)) (reg (bits o 11 6)) (reg (bits o 5 0)) (flag (bits x 0 0)))
  | 0x03 => accept (bits x 23 18 + bits x 8 1) (.vmul c (reg (bits o 17 12)) (reg (bits o 11 6)) (reg (bits o 5 0)) (flag (bits x 0 0)))
  | 0x04 => accept (bits x 23 18 + bits x 8 0) (.vmulh c (reg (bits o 17 12)) (reg (bits o 11 6)) (reg (bits o 5 0)))
  | 0x05 => accept (bits x 23 18 + bits x 8 1) (.vmin c (reg (bits o 17 12)) (reg (bits o 11 6)) (reg (bits o 5 0)) (flag (bits x 0 0)))
  | 0x06 => accept (bits x 23 18 + bits x 8 1) (.vmax c (reg (bits o 17 12)) (reg (bits o 11 6)) (reg (bits o 5 0)) (flag (bits x 0 0)))
  | 0x07 => accept (bits o 5 0 + bits x 23 18 + bits x 8 0) (.vabs c (reg (bits o 17 12)) (reg (bits o 11 6)))
  | 0x08 => accept (bits o 5 0 + bits x 23 18 + bits x 8 0) (.vneg c (reg (bits o 17 12)) (reg (bits o 11 6)))
  | 0x09 => accept (bits x 23 18 + bits x 8 0) (.vadds c (reg (bits o 17 12)) (reg (bits o 11 6)) (reg (bits o 5 0)))
  | 0x0A => accept (bits x 23 18 + bits x 8 0) (.vsubs c (reg (bits o 17 12)) (reg (bits o 11 6)) (reg (bits o 5 0)))
  | 0x0B => accept (bits o 5 0 + bits x 23 18) (.vaddi c (reg (bits o 17 12)) (reg (bits o 11 6)) (signed 9 (bits x 8 0)))
  | 0x0C => accept (bits o 5 0 + bits x 23 18 + bits x 8 0) (.vmov c (reg (bits o 17 12)) (reg (bits o 11 6)))
  | 0x0D => accept (bits o 11 6 + bits o 5 0 + bits x 23 18) (.vli c (reg (bits o 17 12)) (signed 9 (bits x 8 0)))
  | 0x0E => coded (predCode (bits o 17 12)) fun d => accept (bits o 5 0 + bits x 23 18) (.vcls c (d) (reg (bits o 11 6)) (Fin.ofNat 512 (bits x 8 0)))
  | 0x10 => accept (bits x 8 1) (.vfma c (reg (bits o 17 12)) (reg (bits o 11 6)) (reg (bits o 5 0)) (reg (bits x 23 18)) (flag (bits x 0 0)))
  | 0x11 => accept (bits x 8 1) (.vfms c (reg (bits o 17 12)) (reg (bits o 11 6)) (reg (bits o 5 0)) (reg (bits x 23 18)) (flag (bits x 0 0)))
  | 0x12 => accept (bits x 8 1) (.vfnma c (reg (bits o 17 12)) (reg (bits o 11 6)) (reg (bits o 5 0)) (reg (bits x 23 18)) (flag (bits x 0 0)))
  | 0x13 => accept (bits x 8 1) (.vfnms c (reg (bits o 17 12)) (reg (bits o 11 6)) (reg (bits o 5 0)) (reg (bits x 23 18)) (flag (bits x 0 0)))
  | 0x18 => accept (bits x 23 18 + bits x 8 0) (.vand c (reg (bits o 17 12)) (reg (bits o 11 6)) (reg (bits o 5 0)))
  | 0x19 => accept (bits x 23 18 + bits x 8 0) (.vor c (reg (bits o 17 12)) (reg (bits o 11 6)) (reg (bits o 5 0)))
  | 0x1A => accept (bits x 23 18 + bits x 8 0) (.vxor c (reg (bits o 17 12)) (reg (bits o 11 6)) (reg (bits o 5 0)))
  | 0x1B => accept (bits x 23 18 + bits x 8 0) (.vandn c (reg (bits o 17 12)) (reg (bits o 11 6)) (reg (bits o 5 0)))
  | 0x1C => accept (bits x 23 18 + bits x 8 0) (.vshl c (reg (bits o 17 12)) (reg (bits o 11 6)) (reg (bits o 5 0)))
  | 0x1D => accept (bits x 23 18 + bits x 8 0) (.vshr c (reg (bits o 17 12)) (reg (bits o 11 6)) (reg (bits o 5 0)))
  | 0x1E => accept (bits x 23 18 + bits x 8 0) (.vsra c (reg (bits o 17 12)) (reg (bits o 11 6)) (reg (bits o 5 0)))
  | 0x1F => accept (bits o 5 0 + bits x 23 18 + bits x 8 0) (.vnot c (reg (bits o 17 12)) (reg (bits o 11 6)))
  | 0x20 => coded (predCode (bits o 17 12)) fun d => accept (bits x 23 18 + bits x 8 0) (.vcmpEq c (d) (reg (bits o 11 6)) (reg (bits o 5 0)))
  | 0x21 => coded (predCode (bits o 17 12)) fun d => accept (bits x 23 18 + bits x 8 0) (.vcmpNe c (d) (reg (bits o 11 6)) (reg (bits o 5 0)))
  | 0x22 => coded (predCode (bits o 17 12)) fun d => accept (bits x 23 18 + bits x 8 0) (.vcmpLt c (d) (reg (bits o 11 6)) (reg (bits o 5 0)))
  | 0x23 => coded (predCode (bits o 17 12)) fun d => accept (bits x 23 18 + bits x 8 0) (.vcmpLe c (d) (reg (bits o 11 6)) (reg (bits o 5 0)))
  | 0x24 => coded (predCode (bits o 17 12)) fun d => accept (bits x 23 18 + bits x 8 0) (.vcmpUn c (d) (reg (bits o 11 6)) (reg (bits o 5 0)))
  | 0x25 => coded (predCode (bits x 23 18)) fun e => accept (bits x 8 0) (.vsel c (reg (bits o 17 12)) (reg (bits o 11 6)) (reg (bits o 5 0)) (e))
  | 0x28 => coded (predCode (bits o 17 12)) fun d => coded (predCode (bits o 11 6)) fun a => coded (predCode (bits o 5 0)) fun b => accept (bits x 23 18 + bits x 8 0) (.pand c (d) (a) (b))
  | 0x29 => coded (predCode (bits o 17 12)) fun d => coded (predCode (bits o 11 6)) fun a => coded (predCode (bits o 5 0)) fun b => accept (bits x 23 18 + bits x 8 0) (.por c (d) (a) (b))
  | 0x2A => coded (predCode (bits o 17 12)) fun d => coded (predCode (bits o 11 6)) fun a => coded (predCode (bits o 5 0)) fun b => accept (bits x 23 18 + bits x 8 0) (.pxor c (d) (a) (b))
  | 0x2B => coded (predCode (bits o 17 12)) fun d => coded (predCode (bits o 11 6)) fun a => coded (predCode (bits o 5 0)) fun b => accept (bits x 23 18 + bits x 8 0) (.pandn c (d) (a) (b))
  | 0x2C => coded (predCode (bits o 17 12)) fun d => coded (predCode (bits o 11 6)) fun a => accept (bits o 5 0 + bits x 23 18 + bits x 8 0) (.pnot c (d) (a))
  | 0x2D => coded (predCode (bits o 17 12)) fun d => accept (bits o 11 6 + bits o 5 0 + bits x 23 18) (.pset c (d) (Fin.ofNat 512 (bits x 8 0)))
  | 0x2E => coded (predCode (bits o 17 12)) fun d => coded (predCode (bits o 11 6)) fun a => accept (bits o 5 0 + bits x 23 18 + bits x 8 0) (.pmov c (d) (a))
  | 0x30 => accept (bits x 23 18 + bits x 8 0) (.vperm c (reg (bits o 17 12)) (reg (bits o 11 6)) (reg (bits o 5 0)))
  | 0x31 => accept (bits x 23 18) (.vshuf c (reg (bits o 17 12)) (reg (bits o 11 6)) (reg (bits o 5 0)) (Fin.ofNat 512 (bits x 8 0)))
  | 0x32 => accept (bits x 23 18) (.vsld c (reg (bits o 17 12)) (reg (bits o 11 6)) (reg (bits o 5 0)) (Fin.ofNat 512 (bits x 8 0)))
  | 0x33 => accept (bits o 5 0 + bits x 23 18) (.vbcst c (reg (bits o 17 12)) (reg (bits o 11 6)) (Fin.ofNat 512 (bits x 8 0)))
  | 0x38 => accept (bits o 17 12 + bits o 5 0 + bits x 23 18 + bits x 8 0) (.vrsum c (reg (bits o 11 6)))
  | 0x39 => accept (bits o 17 12 + bits o 5 0 + bits x 23 18 + bits x 8 0) (.vrmax c (reg (bits o 11 6)))
  | 0x3A => accept (bits o 17 12 + bits o 5 0 + bits x 23 18 + bits x 8 0) (.vrmin c (reg (bits o 11 6)))
  | 0x3B => accept (bits o 17 12 + bits o 5 0 + bits x 23 18 + bits x 8 0) (.vrmaxa c (reg (bits o 11 6)))
  | 0x40 => coded (VTy.ofCode (bits x 3 0)) fun t => accept (bits o 5 0 + bits x 23 18 + bits x 8 7) (.vcvt c (reg (bits o 17 12)) (reg (bits o 11 6)) (t) (Fin.ofNat 8 (bits x 6 4)))
  | 0x41 => accept (bits o 5 0 + bits x 23 18 + bits x 8 0) (.vfin c (reg (bits o 17 12)) (reg (bits o 11 6)))
  | 0x42 => accept (bits o 5 0 + bits x 23 18 + bits x 8 0) (.vtail c (reg (bits o 17 12)) (reg (bits o 11 6)))
  | 0x43 => accept (bits o 5 0 + bits x 23 18 + bits x 8 0) (.vtclr c (reg (bits o 17 12)) (reg (bits o 11 6)))
  | 0x44 => accept (bits o 5 0 + bits x 23 18) (.vscl c (reg (bits o 17 12)) (reg (bits o 11 6)) (signed 9 (bits x 8 0)))
  | 0x45 => accept (bits o 17 12 + bits o 5 0 + bits x 23 18 + bits x 8 0) (.vmaxa c (reg (bits o 11 6)))
  | 0x46 => coded (VTy.ofCode (bits x 3 0)) fun t => accept (bits o 5 0 + bits x 23 18) (.vqnt c (reg (bits o 17 12)) (reg (bits o 11 6)) (t) (Fin.ofNat 4 (bits x 5 4)) (Fin.ofNat 8 (bits x 8 6)))
  | 0x48 => accept (bits x 23 18) (.vradd c (reg (bits o 17 12)) (reg (bits o 11 6)) (reg (bits o 5 0)) (Fin.ofNat 256 (bits x 7 0)) (flag (bits x 8 8)))
  | 0x49 => accept (bits x 23 18) (.vrsub c (reg (bits o 17 12)) (reg (bits o 11 6)) (reg (bits o 5 0)) (Fin.ofNat 256 (bits x 7 0)) (flag (bits x 8 8)))
  | 0x50 => accept (bits o 17 12 + bits o 5 0 + bits x 23 18 + bits x 8 0) (.vexp c (reg (bits o 11 6)))
  | 0x51 => accept (bits o 17 12 + bits o 5 0 + bits x 23 18 + bits x 8 0) (.vlog c (reg (bits o 11 6)))
  | 0x52 => accept (bits o 17 12 + bits o 5 0 + bits x 23 18 + bits x 8 0) (.vrcp c (reg (bits o 11 6)))
  | 0x53 => accept (bits o 17 12 + bits o 5 0 + bits x 23 18 + bits x 8 0) (.vrsq c (reg (bits o 11 6)))
  | 0x54 => accept (bits o 17 12 + bits o 5 0 + bits x 23 18 + bits x 8 0) (.vsqrt c (reg (bits o 11 6)))
  | 0x55 => accept (bits o 17 12 + bits o 5 0 + bits x 23 18 + bits x 8 0) (.vtanh c (reg (bits o 11 6)))
  | 0x56 => accept (bits o 17 12 + bits o 5 0 + bits x 23 18 + bits x 8 0) (.vsigm c (reg (bits o 11 6)))
  | 0x57 => accept (bits o 17 12 + bits o 5 0 + bits x 23 18 + bits x 8 0) (.verf c (reg (bits o 11 6)))
  | 0x58 => accept (bits x 23 18 + bits x 8 0) (.vkmix c (reg (bits o 17 12)) (reg (bits o 11 6)) (reg (bits o 5 0)))
  | 0x59 => accept (bits o 17 12 + bits o 11 6 + bits o 5 0 + bits x 23 18 + bits x 8 0) (.vrndn c)
  | 0x5A => coded (Latch.ofCode (bits o 1 0)) fun l => accept (bits o 11 6 + bits o 5 2 + bits x 23 18 + bits x 8 0) (.vxf c (reg (bits o 17 12)) (l))
  | 0x5B => accept (bits o 5 2 + bits x 23 18 + bits x 8 0) (.vmovt c (reg (bits o 17 12)) (reg (bits o 11 6)) (Fin.ofNat 4 (bits o 1 0)))
  | _ => .illegalInstruction

/-- Opcodes of V that its map assigns (R165). -/
def vAssigned (op : Nat) : Bool :=
  (0x01 ≤ op && op ≤ 0x0E) || (0x10 ≤ op && op ≤ 0x13) || (0x18 ≤ op && op ≤ 0x25) || (0x28 ≤ op && op ≤ 0x2E) ||
  (0x30 ≤ op && op ≤ 0x33) || (0x38 ≤ op && op ≤ 0x3B) || (0x40 ≤ op && op ≤ 0x46) || (0x48 ≤ op && op ≤ 0x49) ||
  (0x50 ≤ op && op ≤ 0x5B)

/-- V (R160, R165). -/
def decodeV (op : Nat) (h : Hdr) (o x : Nat) : Decoded :=
  match op with
  | 0x00 => accept (bits x 27 0) (.idleV h (Fin.ofNat 262144 o))
  | 0x7F => accept 0 (.undef h (Fin.ofNat 262144 o))
  | op =>
    if vAssigned op then
      coded (VTy.ofCode (bits x 27 24)) fun t => coded (Mode.ofCode (bits x 13 11)) fun m =>
      coded (TailMode.ofCode (bits x 10 9)) fun tm => decodeVOp op (vctl h x t m tm) o x
    else .illegalInstruction

/-- Format MEM with SX (R155, R156). -/
def smem (t : VTy) (m : Mode) (o x : Nat) : SMem :=
  { v := reg (bits o 17 12), ax := Fin.ofNat 8 (bits o 11 9), pi := flag (bits o 8 8), y := Fin.ofNat 256 (bits o 7 0), ty := t, mode := m,
    s := Fin.ofNat 256 (bits x 20 13), p := Fin.ofNat 16 (bits x 12 9), disp := signed 9 (bits x 8 0) }
/-- A store of lanes. -/
def storeForm (o x : Nat) (f : SMem → Instr) : Decoded :=
  coded (VTy.ofCode (bits x 27 24)) fun t => coded (Mode.ofCode (bits x 23 21)) fun m => accept 0 (f (smem t m o x))
/-- Format MEM with UX (R155, R156). -/
def umem (m : Mode) (o x : Nat) : UMem :=
  { v := reg (bits o 17 12), ax := Fin.ofNat 8 (bits o 11 9), pi := flag (bits o 8 8), y := Fin.ofNat 256 (bits o 7 0), a := reg (bits x 27 22),
    mode := m, disp := signed 13 (bits x 12 0) }
/-- Format AT with AX of SIG, AMO and CAS; `old` and `op` are read by the caller. -/
def atForm (o x : Nat) (f : At → Decoded) : Decoded :=
  coded (Scope.ofCode (bits o 2 0)) fun sc => coded (Ord.ofCode (bits x 27 26)) fun od => coded (Size.ofCode (bits x 20 19)) fun sz =>
  f { a := reg (bits o 17 12), b := reg (bits o 11 6), ax := Fin.ofNat 8 (bits o 5 3), scope := sc, ord := od, size := sz }

/-- S (R155 to R157, R166). The barrier forms write ord SC and size B64, which their description fixes (R273, R274). -/
def decodeS (op : Nat) (h : Hdr) (o x : Nat) : Decoded :=
  match op with
  | 0x00 => accept (bits x 27 0) (.idleS h (Fin.ofNat 262144 o))
  | 0x01 => storeForm o x (.vst h)
  | 0x02 => storeForm o x (.vsts h)
  | 0x03 => storeForm o x (.vstc h)
  | 0x04 => accept (bits o 0 0 + bits x 23 0) (.vwr h (reg (bits o 17 12)) (Fin.ofNat 16 (bits o 11 8)) (Fin.ofNat 32 (bits o 7 3))
      (Fin.ofNat 4 (bits o 2 1)) (flag (bits x 27 27)) (Fin.ofNat 8 (bits x 26 24)))
  | 0x05 => accept (bits o 17 12 + bits x 11 0) (.sth h (Fin.ofNat 8 (bits o 11 9)) (flag (bits o 8 8)) (Fin.ofNat 256 (bits o 7 0))
      (Fin.ofNat 256 (bits x 27 20)) (Fin.ofNat 256 (bits x 19 12)))
  | 0x06 => coded (Fifo.ofCode (bits o 11 8)) fun f => accept (bits o 7 0 + bits x 27 0) (.push h (reg (bits o 17 12)) f)
  | 0x08 => accept (cpRes o x) (.put h (cpf o x) (reg (bits x 21 16)))
  | 0x09 => atForm o x fun t => coded (SigOp.ofCode (bits x 24 21)) fun p => accept (bits x 25 25 + bits x 18 0) (.sig h t p)
  | 0x0A => atForm o x fun t => coded (AmoOp.ofCode (bits x 24 21)) fun p => accept (bits x 18 0) (.amo h t p (flag (bits x 25 25)))
  | 0x0B => atForm o x fun t => accept (bits x 24 21 + bits x 18 0) (.cas h t (flag (bits x 25 25)))
  | 0x0C => coded (Scope.ofCode (bits o 2 0)) fun sc =>
      if bits x 20 19 == Size.b64.code then accept (bits o 11 6 + bits x 27 21 + bits x 18 0) (.bardef h (reg (bits o 17 12)) (Fin.ofNat 8 (bits o 5 3)) sc) else .illegalEncoding
  | 0x0D => coded (Scope.ofCode (bits o 2 0)) fun sc =>
      if bits x 20 19 == Size.b64.code then accept (bits o 17 12 + bits o 11 6 + bits x 27 21 + bits x 18 0) (.bararv h (Fin.ofNat 8 (bits o 5 3)) sc) else .illegalEncoding
  | 0x0E => coded (Scope.ofCode (bits o 2 0)) fun sc =>
      if bits x 20 19 == Size.b64.code then accept (bits o 17 12 + bits o 11 6 + bits x 27 21 + bits x 18 0) (.barwt h (Fin.ofNat 8 (bits o 5 3)) sc) else .illegalEncoding
  | 0x10 => coded (Mode.ofCode (bits x 15 13)) fun m => accept (bits x 21 16) (.supdSgd h (umem m o x))
  | 0x11 => coded (Mode.ofCode (bits x 15 13)) fun m => accept 0 (.supdMom h (umem m o x) (reg (bits x 21 16)))
  | 0x12 => coded (CollOp.ofCode (bits o 17 14)) fun p =>
      accept (bits x 21 0) (.coll h p (reg (bits o 13 8)) (Fin.ofNat 256 (bits o 7 0)) (reg (bits x 27 22)))
  | 0x13 => accept (cpRes o x + bits x 21 16) (.cpyS h (cpf o x))
  | 0x14 => accept (cpRes o x) (.cpymS h (cpf o x) (reg (bits x 21 16)))
  | 0x7F => accept 0 (.undef h (Fin.ofNat 262144 o))
  | _ => .illegalInstruction

/-- Read one instruction of a stream from the words at its program counter (R140, R141). -/
def decode (x : Stream) (ws : List Nat) : Decoded :=
  let w := ws.getD 0 0
  let w2 := ws.getD 1 0
  let op := bits w 24 18
  let o := bits w 17 0
  let p := bits w2 27 0
  match x with
  | .k => decodeK op (hdr w (if wordCount .k op == 2 then [w2] else [])) o p
  | .d => decodeD op (hdr w []) o
  | .l => decodeL op (hdr w [w2]) o p
  | .v => decodeV op (hdr w [w2]) o p
  | .s => decodeS op (hdr w [w2]) o p
  | .m =>
    let w3 := ws.getD 2 0
    decodeM op (mhdr w w2 w3) (bits w 27 25) o p (bits w3 27 0)

/-- The word that four bytes hold, the first the least significant (R6). -/
def wordOf (b : List Byte) : Nat :=
  (b.getD 0 0).toNat + (b.getD 1 0).toNat * 2 ^ 8 + (b.getD 2 0).toNat * 2 ^ 16 + (b.getD 3 0).toNat * 2 ^ 24

/-- The instruction of a stream that a list of bytes begins with, and the bytes after it; `none` where there are too few
bytes for the words that its opcode asks for (R6, R140). -/
def decodeBytes (x : Stream) (b : List Byte) : Option (Decoded × List Byte) :=
  if b.length < 4 then none
  else
    let n := 4 * wordCount x (bits (wordOf b) 24 18)
    if b.length < n then none
    else some (decode x [wordOf b, wordOf (b.drop 4), wordOf (b.drop 8)], b.drop n)

/-- The words of a number whose bit 0 is the least significant bit of the first word. -/
def tableWords (w : Nat) : List Nat := [w % 2 ^ 32, w / 2 ^ 32 % 2 ^ 32, w / 2 ^ 64 % 2 ^ 32]

/-- What the K decoder reads from an instruction numbered as the opcode table numbers its bits. K and D give one word
different meanings by the stream alone (R138), and the table does not name the stream; log entry 13. -/
def decodeTableWord (_nbits w : Nat) : Option Instr :=
  match decode .k (tableWords w) with
  | .ok i => some i
  | _ => none

/-! The encoder, from the same tables. All sync bits go into the first word, which denotes the same behaviour (R18, R173). -/

/-- A first word (R138). -/
def first (h : Hdr) (op o : Nat) : Nat := h.sync.val * 2 ^ 28 + h.idle.val * 2 ^ 25 + op * 2 ^ 18 + o
/-- The words of an M instruction (R158). -/
def mwords (h : MHdr) (op o x z : Nat) : List Nat :=
  [h.sync.val * 2 ^ 28 + op * 2 ^ 18 + o, x, z * 2 ^ 27 + h.stamp.val]
def rrr (d a b : Nat) : Nat := d * 2 ^ 12 + a * 2 ^ 6 + b
def ff (d a f g : Nat) : Nat := d * 2 ^ 12 + a * 2 ^ 6 + f * 2 ^ 3 + g
def lmemWords (h : Hdr) (op v x : Nat) (m : LMem) : List Nat :=
  [first h op (v * 2 ^ 12 + m.ax.val * 2 ^ 9 + boolCode m.pi * 2 ^ 8 + m.y.val), x * 2 ^ 22 + unsigned 22 m.disp]
def cpWords (h : Hdr) (op tg : Nat) (c : Cp) : List Nat :=
  [first h op (c.ys.val * 2 ^ 10 + c.yd.val * 2 ^ 2), c.sa.val * 2 ^ 25 + c.da.val * 2 ^ 22 + tg * 2 ^ 16]
def mmWords (h : MHdr) (op al : Nat) (o : Mm) : List Nat :=
  mwords h op (o.dt.val * 2 ^ 16 + o.msz.code * 2 ^ 14 + o.roff.val * 2 ^ 12 + o.ya.val * 2 ^ 4)
    (o.yb.val * 2 ^ 20 + o.k.val * 2 ^ 8 + al * 2 ^ 7 + boolCode o.bl * 2 ^ 6) (boolCode o.z)
def vwords (c : VCtl) (op o e imm : Nat) : List Nat :=
  [first { sync := c.sync, idle := c.idle } op o,
   c.ty.code * 2 ^ 24 + e * 2 ^ 18 + c.p.val * 2 ^ 14 + c.mode.code * 2 ^ 11 + c.tm.code * 2 ^ 9 + imm]
def smemWords (h : Hdr) (op : Nat) (m : SMem) : List Nat :=
  [first h op (m.v.val * 2 ^ 12 + m.ax.val * 2 ^ 9 + boolCode m.pi * 2 ^ 8 + m.y.val),
   m.ty.code * 2 ^ 24 + m.mode.code * 2 ^ 21 + m.s.val * 2 ^ 13 + m.p.val * 2 ^ 9 + unsigned 9 m.disp]
def umemWords (h : Hdr) (op b : Nat) (m : UMem) : List Nat :=
  [first h op (m.v.val * 2 ^ 12 + m.ax.val * 2 ^ 9 + boolCode m.pi * 2 ^ 8 + m.y.val),
   m.a.val * 2 ^ 22 + b * 2 ^ 16 + m.mode.code * 2 ^ 13 + unsigned 13 m.disp]
def atWords (h : Hdr) (op old p : Nat) (t : At) : List Nat :=
  [first h op (t.a.val * 2 ^ 12 + t.b.val * 2 ^ 6 + t.ax.val * 2 ^ 3 + t.scope.code),
   t.ord.code * 2 ^ 26 + old * 2 ^ 25 + p * 2 ^ 21 + t.size.code * 2 ^ 19]
def barWords (h : Hdr) (op a ax sc : Nat) : List Nat := [first h op (a * 2 ^ 12 + ax * 2 ^ 3 + sc), Size.b64.code * 2 ^ 19]

/-- The words of an instruction; a machine event has none. -/
def encode : Instr → List Nat
  | .idleK h n => [first h 0x00 n.val]
  | .add h d a b => [first h 0x01 (rrr d.val a.val b.val)]
  | .sub h d a b => [first h 0x02 (rrr d.val a.val b.val)]
  | .mul h d a b => [first h 0x03 (rrr d.val a.val b.val)]
  | .mulh h d a b => [first h 0x04 (rrr d.val a.val b.val)]
  | .mulhn h d a b => [first h 0x05 (rrr d.val a.val b.val)]
  | .div h a b => [first h 0x06 (rrr 0 a.val b.val)]
  | .divn h a b => [first h 0x07 (rrr 0 a.val b.val)]
  | .rem h a b => [first h 0x08 (rrr 0 a.val b.val)]
  | .remn h a b => [first h 0x09 (rrr 0 a.val b.val)]
  | .and h d a b => [first h 0x0A (rrr d.val a.val b.val)]
  | .or h d a b => [first h 0x0B (rrr d.val a.val b.val)]
  | .xor h d a b => [first h 0x0C (rrr d.val a.val b.val)]
  | .andn h d a b => [first h 0x0D (rrr d.val a.val b.val)]
  | .shl h d a b => [first h 0x0E (rrr d.val a.val b.val)]
  | .shr h d a b => [first h 0x0F (rrr d.val a.val b.val)]
  | .sra h d a b => [first h 0x10 (rrr d.val a.val b.val)]
  | .min h d a b => [first h 0x11 (rrr d.val a.val b.val)]
  | .max h d a b => [first h 0x12 (rrr d.val a.val b.val)]
  | .minn h d a b => [first h 0x13 (rrr d.val a.val b.val)]
  | .maxn h d a b => [first h 0x14 (rrr d.val a.val b.val)]
  | .clz h d a => [first h 0x15 (rrr d.val a.val 0)]
  | .ctz h d a => [first h 0x16 (rrr d.val a.val 0)]
  | .popc h d a => [first h 0x17 (rrr d.val a.val 0)]
  | .sext h d a imm => [first h 0x18 (rrr d.val a.val imm.toNat)]
  | .csel h d a b => [first h 0x19 (rrr d.val a.val b.val)]
  | .lea h d a b => [first h 0x1A (rrr d.val a.val b.val)]
  | .wtag h d a imm => [first h 0x1B (rrr d.val a.val imm.toNat)]
  | .wchk h d a b => [first h 0x1C (rrr d.val a.val b.val)]
  | .addi h d a imm => [first h 0x20 (rrr d.val a.val (unsigned 6 imm))]
  | .andi h d a imm => [first h 0x21 (rrr d.val a.val imm.toNat)]
  | .ori h d a imm => [first h 0x22 (rrr d.val a.val imm.toNat)]
  | .xori h d a imm => [first h 0x23 (rrr d.val a.val imm.toNat)]
  | .shli h d a imm => [first h 0x24 (rrr d.val a.val imm.toNat)]
  | .shri h d a imm => [first h 0x25 (rrr d.val a.val imm.toNat)]
  | .srai h d a imm => [first h 0x26 (rrr d.val a.val imm.toNat)]
  | .li h d imm => [first h 0x27 (d.val * 2 ^ 12 + unsigned 40 imm % 2 ^ 12), unsigned 40 imm / 2 ^ 12]
  | .lih h d imm => [first h 0x28 (d.val * 2 ^ 12), imm.val]
  | .cmpEq h d a b => [first h 0x30 (rrr d.val a.val b.val)]
  | .cmpNe h d a b => [first h 0x31 (rrr d.val a.val b.val)]
  | .cmpLt h d a b => [first h 0x32 (rrr d.val a.val b.val)]
  | .cmpLe h d a b => [first h 0x33 (rrr d.val a.val b.val)]
  | .cmpLtn h d a b => [first h 0x34 (rrr d.val a.val b.val)]
  | .cmpLen h d a b => [first h 0x35 (rrr d.val a.val b.val)]
  | .fcmpEq h d a b => [first h 0x38 (rrr d.val a.val b.val)]
  | .fcmpNe h d a b => [first h 0x39 (rrr d.val a.val b.val)]
  | .fcmpLt h d a b => [first h 0x3A (rrr d.val a.val b.val)]
  | .fcmpLe h d a b => [first h 0x3B (rrr d.val a.val b.val)]
  | .fcmpUn h d a b => [first h 0x3C (rrr d.val a.val b.val)]
  | .fadd h d a b => [first h 0x40 (rrr d.val a.val b.val)]
  | .fsub h d a b => [first h 0x41 (rrr d.val a.val b.val)]
  | .fmul h d a b => [first h 0x42 (rrr d.val a.val b.val)]
  | .ffma h d a b => [first h 0x43 (rrr d.val a.val b.val)]
  | .fmin h d a b => [first h 0x44 (rrr d.val a.val b.val)]
  | .fmax h d a b => [first h 0x45 (rrr d.val a.val b.val)]
  | .fcvt h d a f g => [first h 0x46 (ff d.val a.val f.code g.code)]
  | .ffin h d a f g => [first h 0x47 (ff d.val a.val f.code g.code)]
  | .fcvti h d a f g => [first h 0x48 (ff d.val a.val f.code g.code)]
  | .icvtf h d a f => [first h 0x49 (ff d.val a.val f.code 0)]
  | .fcls h d a f => [first h 0x4A (ff d.val a.val f.code 0)]
  | .ftail h d a => [first h 0x4B (rrr d.val a.val 0)]
  | .ldsF h d a f => [first h 0x4C (ff d.val a.val f.code 0)]
  | .ldsI h d a f => [first h 0x4D (ff d.val a.val f.code 0)]
  | .stsF h d a f g => [first h 0x4E (ff d.val a.val f.code g.code)]
  | .stsI h d a f => [first h 0x4F (ff d.val a.val f.code 0)]
  | .brEq h a off => [first h 0x50 (a.val * 2 ^ 12 + unsigned 12 off)]
  | .brNe h a off => [first h 0x51 (a.val * 2 ^ 12 + unsigned 12 off)]
  | .brLt h a off => [first h 0x52 (a.val * 2 ^ 12 + unsigned 12 off)]
  | .brGe h a off => [first h 0x53 (a.val * 2 ^ 12 + unsigned 12 off)]
  | .brLe h a off => [first h 0x54 (a.val * 2 ^ 12 + unsigned 12 off)]
  | .brGt h a off => [first h 0x55 (a.val * 2 ^ 12 + unsigned 12 off)]
  | .jmp h off => [first h 0x56 (unsigned 18 off)]
  | .jmpi h a => [first h 0x57 (rrr 0 a.val 0)]
  | .call h off => [first h 0x58 (unsigned 18 off)]
  | .ret h => [first h 0x59 0]
  | .loop h lc off => [first h 0x5A (lc.val * 2 ^ 16 + unsigned 12 off)]
  | .lset h lc label a drain => [first h 0x5B (lc.val * 2 ^ 16 + label.val), a.val * 2 ^ 22 + drain.val * 2 ^ 8]
  | .prep h => [first h 0x5C 0]
  | .xfer h d x => [first h 0x5D (d.val * 2 ^ 12 + x.code * 2 ^ 10)]
  | .srd h d sel => [first h 0x60 (d.val * 2 ^ 12 + sel.val)]
  | .swr h d sel => [first h 0x61 (d.val * 2 ^ 12 + sel.val)]
  | .phpre h n due => [first h 0x62 n.val, due.val]
  | .phadv h n => [first h 0x63 n.val]
  | .phq h d n => [first h 0x64 (d.val * 2 ^ 12 + n.val)]
  | .align h => [first h 0x65 0]
  | .realign h a => [first h 0x66 (rrr 0 a.val 0)]
  | .halt h => [first h 0x67 0]
  | .trap h code => [first h 0x68 code.val]
  | .eret h => [first h 0x69 0]
  | .fence h kind scope => [first h 0x6A (kind.code * 2 ^ 16 + scope.code)]
  | .lfence h => [first h 0x6B 0]
  | .isync h => [first h 0x6C 0]
  | .cpub h a b => [first h 0x6D (rrr 0 a.val b.val)]
  | .iload h a b => [first h 0x6E (rrr 0 a.val b.val)]
  | .launch h a b q pri deps => [first h 0x70 (rrr a.val b.val q.val), pri.val * 2 ^ 25 + deps.val]
  | .waitg h a b => [first h 0x71 (rrr 0 a.val b.val)]
  | .cancel h level a => [first h 0x72 (level.code * 2 ^ 15 + a.val * 2 ^ 6)]
  | .snap h a => [first h 0x73 (rrr 0 a.val 0)]
  | .rndn h d => [first h 0x74 (rrr d.val 0 0)]
  | .kmix h d a b => [first h 0x75 (rrr d.val a.val b.val)]
  | .bkpt h code => [first h 0x76 code.val]
  | .undef h o => [first h 0x7F o.val]
  | .idleD h n => [first h 0x00 n.val]
  | .act h bank row => [first h 0x01 (bank.val * 2 ^ 14 + 2 ^ 13 + row.val)]
  | .actRegister h bank a => [first h 0x01 (bank.val * 2 ^ 14 + a.val)]
  | .pre h bank => [first h 0x02 (bank.val * 2 ^ 14)]
  | .prea h => [first h 0x03 0]
  | .refb h bank => [first h 0x04 (bank.val * 2 ^ 14)]
  | .win h kind bank beats delay => [first h 0x05 (kind.code * 2 ^ 16 + bank.val * 2 ^ 12 + beats.val * 2 ^ 6 + delay.val)]
  | .wcls h kind bank all => [first h 0x06 (kind.code * 2 ^ 16 + bank.val * 2 ^ 12 + boolCode all * 2 ^ 11)]
  | .idleL h n => [first h 0x00 n.val, 0]
  | .vld h v m => lmemWords h 0x01 v.val 0 m
  | .vlds h v m => lmemWords h 0x02 v.val 0 m
  | .vldg h v m x => lmemWords h 0x03 v.val x.val m
  | .vrd h v bank col q => [first h 0x04 (v.val * 2 ^ 12 + bank.val * 2 ^ 8 + col.val * 2 ^ 3 + q.val * 2), 0]
  | .vrdBuf h bank col ax => [first h 0x04 (bank.val * 2 ^ 8 + col.val * 2 ^ 3), 2 ^ 27 + ax.val * 2 ^ 24]
  | .qld h n m => lmemWords h 0x05 n.val 0 m
  | .qcw h n a => [first h 0x06 (n.val * 2 ^ 14 + a.val * 2 ^ 8), 0]
  | .ldh h v m => lmemWords h 0x07 v.val 0 m
  | .lrec h m => lmemWords h 0x08 0 0 m
  | .ltr h lat m => lmemWords h 0x09 lat.code 0 m
  | .pop h v f => [first h 0x0A (v.val * 2 ^ 12 + f.code * 2 ^ 8), 0]
  | .cpyL h c => cpWords h 0x10 0 c
  | .cpyx h c tg => cpWords h 0x11 tg.val c
  | .cpymL h c tg => cpWords h 0x12 tg.val c
  | .get h c tg => cpWords h 0x13 tg.val c
  | .idleM h n => mwords h 0x00 n.val 0 0
  | .mma h o al => mmWords h 0x01 (boolCode al) o
  | .mmag h o => mmWords h 0x02 0 o
  | .midx h v => mwords h 0x03 (v.val * 2 ^ 12) 0 0
  | .mldt h lat y => mwords h 0x04 (lat.code * 2 ^ 16 + y.val * 2 ^ 8) 0 0
  | .mzero h t msz roff => mwords h 0x05 (t.val * 2 ^ 16 + msz.code * 2 ^ 14 + roff.val * 2 ^ 12) 0 0
  | .mmov h dt st drow srow n =>
      mwords h 0x06 (dt.val * 2 ^ 16 + st.val * 2 ^ 14 + drow.val * 2 ^ 8 + srow.val * 2 ^ 2) (n.val * 2 ^ 21) 0
  | .mrst h t label => mwords h 0x07 (t.val * 2 ^ 16 + label.val) 0 0
  | .mcls h t rc => mwords h 0x08 (t.val * 2 ^ 16 + boolCode rc * 2 ^ 15) 0 0
  | .idleV h n => [first h 0x00 n.val, 0]
  | .vadd c d a b pair => vwords c 0x01 (rrr d.val a.val b.val) 0 (boolCode pair)
  | .vsub c d a b pair => vwords c 0x02 (rrr d.val a.val b.val) 0 (boolCode pair)
  | .vmul c d a b pair => vwords c 0x03 (rrr d.val a.val b.val) 0 (boolCode pair)
  | .vmulh c d a b => vwords c 0x04 (rrr d.val a.val b.val) 0 0
  | .vmin c d a b pair => vwords c 0x05 (rrr d.val a.val b.val) 0 (boolCode pair)
  | .vmax c d a b pair => vwords c 0x06 (rrr d.val a.val b.val) 0 (boolCode pair)
  | .vabs c d a => vwords c 0x07 (rrr d.val a.val 0) 0 0
  | .vneg c d a => vwords c 0x08 (rrr d.val a.val 0) 0 0
  | .vadds c d a b => vwords c 0x09 (rrr d.val a.val b.val) 0 0
  | .vsubs c d a b => vwords c 0x0A (rrr d.val a.val b.val) 0 0
  | .vaddi c d a imm => vwords c 0x0B (rrr d.val a.val 0) 0 (unsigned 9 imm)
  | .vmov c d a => vwords c 0x0C (rrr d.val a.val 0) 0 0
  | .vli c d imm => vwords c 0x0D (rrr d.val 0 0) 0 (unsigned 9 imm)
  | .vcls c d a imm => vwords c 0x0E (rrr d.val a.val 0) 0 imm.val
  | .vfma c d a b e pair => vwords c 0x10 (rrr d.val a.val b.val) e.val (boolCode pair)
  | .vfms c d a b e pair => vwords c 0x11 (rrr d.val a.val b.val) e.val (boolCode pair)
  | .vfnma c d a b e pair => vwords c 0x12 (rrr d.val a.val b.val) e.val (boolCode pair)
  | .vfnms c d a b e pair => vwords c 0x13 (rrr d.val a.val b.val) e.val (boolCode pair)
  | .vand c d a b => vwords c 0x18 (rrr d.val a.val b.val) 0 0
  | .vor c d a b => vwords c 0x19 (rrr d.val a.val b.val) 0 0
  | .vxor c d a b => vwords c 0x1A (rrr d.val a.val b.val) 0 0
  | .vandn c d a b => vwords c 0x1B (rrr d.val a.val b.val) 0 0
  | .vshl c d a b => vwords c 0x1C (rrr d.val a.val b.val) 0 0
  | .vshr c d a b => vwords c 0x1D (rrr d.val a.val b.val) 0 0
  | .vsra c d a b => vwords c 0x1E (rrr d.val a.val b.val) 0 0
  | .vnot c d a => vwords c 0x1F (rrr d.val a.val 0) 0 0
  | .vcmpEq c d a b => vwords c 0x20 (rrr d.val a.val b.val) 0 0
  | .vcmpNe c d a b => vwords c 0x21 (rrr d.val a.val b.val) 0 0
  | .vcmpLt c d a b => vwords c 0x22 (rrr d.val a.val b.val) 0 0
  | .vcmpLe c d a b => vwords c 0x23 (rrr d.val a.val b.val) 0 0
  | .vcmpUn c d a b => vwords c 0x24 (rrr d.val a.val b.val) 0 0
  | .vsel c d a b e => vwords c 0x25 (rrr d.val a.val b.val) e.val 0
  | .pand c d a b => vwords c 0x28 (rrr d.val a.val b.val) 0 0
  | .por c d a b => vwords c 0x29 (rrr d.val a.val b.val) 0 0
  | .pxor c d a b => vwords c 0x2A (rrr d.val a.val b.val) 0 0
  | .pandn c d a b => vwords c 0x2B (rrr d.val a.val b.val) 0 0
  | .pnot c d a => vwords c 0x2C (rrr d.val a.val 0) 0 0
  | .pset c d imm => vwords c 0x2D (rrr d.val 0 0) 0 imm.val
  | .pmov c d a => vwords c 0x2E (rrr d.val a.val 0) 0 0
  | .vperm c d a b => vwords c 0x30 (rrr d.val a.val b.val) 0 0
  | .vshuf c d a b imm => vwords c 0x31 (rrr d.val a.val b.val) 0 imm.val
  | .vsld c d a b imm => vwords c 0x32 (rrr d.val a.val b.val) 0 imm.val
  | .vbcst c d a imm => vwords c 0x33 (rrr d.val a.val 0) 0 imm.val
  | .vrsum c a => vwords c 0x38 (rrr 0 a.val 0) 0 0
  | .vrmax c a => vwords c 0x39 (rrr 0 a.val 0) 0 0
  | .vrmin c a => vwords c 0x3A (rrr 0 a.val 0) 0 0
  | .vrmaxa c a => vwords c 0x3B (rrr 0 a.val 0) 0 0
  | .vcvt c d a src j => vwords c 0x40 (rrr d.val a.val 0) 0 (j.val * 2 ^ 4 + src.code)
  | .vfin c d a => vwords c 0x41 (rrr d.val a.val 0) 0 0
  | .vtail c d a => vwords c 0x42 (rrr d.val a.val 0) 0 0
  | .vtclr c d a => vwords c 0x43 (rrr d.val a.val 0) 0 0
  | .vscl c d a imm => vwords c 0x44 (rrr d.val a.val 0) 0 (unsigned 9 imm)
  | .vmaxa c a => vwords c 0x45 (rrr 0 a.val 0) 0 0
  | .vqnt c d a src qt j => vwords c 0x46 (rrr d.val a.val 0) 0 (j.val * 2 ^ 6 + qt.val * 2 ^ 4 + src.code)
  | .vradd c d a b g alt => vwords c 0x48 (rrr d.val a.val b.val) 0 (boolCode alt * 2 ^ 8 + g.val)
  | .vrsub c d a b g alt => vwords c 0x49 (rrr d.val a.val b.val) 0 (boolCode alt * 2 ^ 8 + g.val)
  | .vexp c a => vwords c 0x50 (rrr 0 a.val 0) 0 0
  | .vlog c a => vwords c 0x51 (rrr 0 a.val 0) 0 0
  | .vrcp c a => vwords c 0x52 (rrr 0 a.val 0) 0 0
  | .vrsq c a => vwords c 0x53 (rrr 0 a.val 0) 0 0
  | .vsqrt c a => vwords c 0x54 (rrr 0 a.val 0) 0 0
  | .vtanh c a => vwords c 0x55 (rrr 0 a.val 0) 0 0
  | .vsigm c a => vwords c 0x56 (rrr 0 a.val 0) 0 0
  | .verf c a => vwords c 0x57 (rrr 0 a.val 0) 0 0
  | .vkmix c d a b => vwords c 0x58 (rrr d.val a.val b.val) 0 0
  | .vrndn c => vwords c 0x59 0 0 0
  | .vxf c d x => vwords c 0x5A (rrr d.val 0 x.code) 0 0
  | .vmovt c d row t => vwords c 0x5B (rrr d.val row.val t.val) 0 0
  | .idleS h n => [first h 0x00 n.val, 0]
  | .vst h m => smemWords h 0x01 m
  | .vsts h m => smemWords h 0x02 m
  | .vstc h m => smemWords h 0x03 m
  | .vwr h v bank col q buf ax =>
      [first h 0x04 (v.val * 2 ^ 12 + bank.val * 2 ^ 8 + col.val * 2 ^ 3 + q.val * 2), boolCode buf * 2 ^ 27 + ax.val * 2 ^ 24]
  | .sth h ax pi y fmt s => [first h 0x05 (ax.val * 2 ^ 9 + boolCode pi * 2 ^ 8 + y.val), fmt.val * 2 ^ 20 + s.val * 2 ^ 12]
  | .push h v f => [first h 0x06 (v.val * 2 ^ 12 + f.code * 2 ^ 8), 0]
  | .put h c tg => cpWords h 0x08 tg.val c
  | .sig h o op => atWords h 0x09 0 op.code o
  | .amo h o op old => atWords h 0x0A (boolCode old) op.code o
  | .cas h o old => atWords h 0x0B (boolCode old) 0 o
  | .bardef h a ax scope => barWords h 0x0C a.val ax.val scope.code
  | .bararv h ax scope => barWords h 0x0D 0 ax.val scope.code
  | .barwt h ax scope => barWords h 0x0E 0 ax.val scope.code
  | .supdSgd h m => umemWords h 0x10 0 m
  | .supdMom h m b => umemWords h 0x11 b.val m
  | .coll h op a y b => [first h 0x12 (op.code * 2 ^ 14 + a.val * 2 ^ 8 + y.val), b.val * 2 ^ 22]
  | .cpyS h c => cpWords h 0x13 0 c
  | .cpymS h c tg => cpWords h 0x14 tg.val c
  | .tokenArrival => []
  | .latchEntryArrival => []
  | .scaleBypassEntryAvailable => []
  | .realignmentCycle => []
  | .stall => []
  | .unitCompletion => []
  | .workRecordCompletion => []
  | .deferredFaultReport => []
  | .refresh => []
  | .keeperRefresh => []
  | .farLate => []
  | .phpreDueDeadline => []
  | .wainBeat => []
  | .wainReady => []
  | .dualWrite => []
  | .windowBeat => []
  | .farPathDelivery => []
  | .writeAcknowledgement => []
  | .copyBlock => []
  | .copyRetirement => []
  | .incomingPut => []
  | .incomingGet => []
  | .getResponse => []
  | .atomicPerform => []
  | .atomicReport => []
  | .barrierRelease => []
  | .collectiveClose => []
  | .gatherComplete => []
  | .mmaBlockFault => []
  | .frontierRefresh => []
  | .codeRangeDiscard => []
  | .bind => []
  | .objectLoadComplete => []
  | .preempt => []
  | .preemptionRequest => []
  | .forcedStop => []
  | .saveImage => []
  | .resume => []
  | .hold => []
  | .release => []
  | .kill => []
  | .fallow => []
  | .fallowPassComplete => []
  | .launchPlacement => []
  | .schedulingPass => []
  | .sliceEnd => []
  | .leaderHandover => []
  | .partitionFormation => []
  | .partitionRelease => []
  | .vaultPassComplete => []
  | .rootLaunchPlacement => []
  | .handlerInstall => []
  | .loanGrant => []
  | .loanRecall => []
  | .snapshotReserve => []
  | .snapshotStoragePath => []
  | .noiseMode => []
  | .hostRelease => []
  | .dieDrain => []
  | .attestationReport => []
  | .plim => []
  | .lattol => []
  | .hostBar2Access => []
  | .snapAccept => []
  | .snapshotOpen => []
  | .snapshotDrained => []
  | .gleanerRewrite => []
  | .scrub => []
  | .budgetPeriod => []
  | .powerGood => []
  | .dieReset => []
  | .linkRetrain => []
  | .resetNotice => []
  | .linkDownTimeout => []
  | .peerPackageTimeout => []
  | .vaultTemperatureRead => []
  | .throttleStep => []
  | .throttleRise => []
  | .pause => []
  | .pauseEnd => []
  | .powerLimitCheck => []
  | .thermalTrip => []
  | .idleStateEntry => []
  | .loggedWordsSupply => []
  | .managementSession => []

/-- The stream that decodes an instruction; UNDEF belongs to all of them and is written in K here (R142). A machine event
belongs to none. -/
def Instr.stream? : Instr → Option Stream
  | .add .. => some .k
  | .sub .. => some .k
  | .mul .. => some .k
  | .mulh .. => some .k
  | .mulhn .. => some .k
  | .div .. => some .k
  | .divn .. => some .k
  | .rem .. => some .k
  | .remn .. => some .k
  | .and .. => some .k
  | .or .. => some .k
  | .xor .. => some .k
  | .andn .. => some .k
  | .shl .. => some .k
  | .shr .. => some .k
  | .sra .. => some .k
  | .min .. => some .k
  | .max .. => some .k
  | .minn .. => some .k
  | .maxn .. => some .k
  | .clz .. => some .k
  | .ctz .. => some .k
  | .popc .. => some .k
  | .sext .. => some .k
  | .csel .. => some .k
  | .lea .. => some .k
  | .wtag .. => some .k
  | .wchk .. => some .k
  | .addi .. => some .k
  | .andi .. => some .k
  | .ori .. => some .k
  | .xori .. => some .k
  | .shli .. => some .k
  | .shri .. => some .k
  | .srai .. => some .k
  | .li .. => some .k
  | .lih .. => some .k
  | .cmpEq .. => some .k
  | .cmpNe .. => some .k
  | .cmpLt .. => some .k
  | .cmpLe .. => some .k
  | .cmpLtn .. => some .k
  | .cmpLen .. => some .k
  | .fcmpEq .. => some .k
  | .fcmpNe .. => some .k
  | .fcmpLt .. => some .k
  | .fcmpLe .. => some .k
  | .fcmpUn .. => some .k
  | .fadd .. => some .k
  | .fsub .. => some .k
  | .fmul .. => some .k
  | .ffma .. => some .k
  | .fmin .. => some .k
  | .fmax .. => some .k
  | .fcvt .. => some .k
  | .ffin .. => some .k
  | .fcvti .. => some .k
  | .icvtf .. => some .k
  | .fcls .. => some .k
  | .ftail .. => some .k
  | .ldsF .. => some .k
  | .ldsI .. => some .k
  | .stsF .. => some .k
  | .stsI .. => some .k
  | .brEq .. => some .k
  | .brNe .. => some .k
  | .brLt .. => some .k
  | .brGe .. => some .k
  | .brLe .. => some .k
  | .brGt .. => some .k
  | .jmp .. => some .k
  | .jmpi .. => some .k
  | .call .. => some .k
  | .ret .. => some .k
  | .loop .. => some .k
  | .lset .. => some .k
  | .prep .. => some .k
  | .xfer .. => some .k
  | .srd .. => some .k
  | .swr .. => some .k
  | .phpre .. => some .k
  | .phadv .. => some .k
  | .phq .. => some .k
  | .align .. => some .k
  | .realign .. => some .k
  | .halt .. => some .k
  | .trap .. => some .k
  | .eret .. => some .k
  | .fence .. => some .k
  | .lfence .. => some .k
  | .isync .. => some .k
  | .cpub .. => some .k
  | .iload .. => some .k
  | .launch .. => some .k
  | .waitg .. => some .k
  | .cancel .. => some .k
  | .snap .. => some .k
  | .rndn .. => some .k
  | .kmix .. => some .k
  | .bkpt .. => some .k
  | .undef .. => some .k
  | .idleK .. => some .k
  | .idleD .. => some .d
  | .act .. => some .d
  | .actRegister .. => some .d
  | .pre .. => some .d
  | .prea .. => some .d
  | .refb .. => some .d
  | .win .. => some .d
  | .wcls .. => some .d
  | .idleL .. => some .l
  | .vld .. => some .l
  | .vlds .. => some .l
  | .vldg .. => some .l
  | .vrd .. => some .l
  | .vrdBuf .. => some .l
  | .qld .. => some .l
  | .qcw .. => some .l
  | .ldh .. => some .l
  | .lrec .. => some .l
  | .ltr .. => some .l
  | .pop .. => some .l
  | .cpyL .. => some .l
  | .cpyx .. => some .l
  | .cpymL .. => some .l
  | .get .. => some .l
  | .idleM .. => some .m
  | .mma .. => some .m
  | .mmag .. => some .m
  | .midx .. => some .m
  | .mldt .. => some .m
  | .mzero .. => some .m
  | .mmov .. => some .m
  | .mrst .. => some .m
  | .mcls .. => some .m
  | .idleV .. => some .v
  | .vadd .. => some .v
  | .vsub .. => some .v
  | .vmul .. => some .v
  | .vmulh .. => some .v
  | .vmin .. => some .v
  | .vmax .. => some .v
  | .vabs .. => some .v
  | .vneg .. => some .v
  | .vadds .. => some .v
  | .vsubs .. => some .v
  | .vaddi .. => some .v
  | .vmov .. => some .v
  | .vli .. => some .v
  | .vcls .. => some .v
  | .vfma .. => some .v
  | .vfms .. => some .v
  | .vfnma .. => some .v
  | .vfnms .. => some .v
  | .vand .. => some .v
  | .vor .. => some .v
  | .vxor .. => some .v
  | .vandn .. => some .v
  | .vshl .. => some .v
  | .vshr .. => some .v
  | .vsra .. => some .v
  | .vnot .. => some .v
  | .vcmpEq .. => some .v
  | .vcmpNe .. => some .v
  | .vcmpLt .. => some .v
  | .vcmpLe .. => some .v
  | .vcmpUn .. => some .v
  | .vsel .. => some .v
  | .pand .. => some .v
  | .por .. => some .v
  | .pxor .. => some .v
  | .pandn .. => some .v
  | .pnot .. => some .v
  | .pset .. => some .v
  | .pmov .. => some .v
  | .vperm .. => some .v
  | .vshuf .. => some .v
  | .vsld .. => some .v
  | .vbcst .. => some .v
  | .vrsum .. => some .v
  | .vrmax .. => some .v
  | .vrmin .. => some .v
  | .vrmaxa .. => some .v
  | .vcvt .. => some .v
  | .vfin .. => some .v
  | .vtail .. => some .v
  | .vtclr .. => some .v
  | .vscl .. => some .v
  | .vmaxa .. => some .v
  | .vqnt .. => some .v
  | .vradd .. => some .v
  | .vrsub .. => some .v
  | .vexp .. => some .v
  | .vlog .. => some .v
  | .vrcp .. => some .v
  | .vrsq .. => some .v
  | .vsqrt .. => some .v
  | .vtanh .. => some .v
  | .vsigm .. => some .v
  | .verf .. => some .v
  | .vkmix .. => some .v
  | .vrndn .. => some .v
  | .vxf .. => some .v
  | .vmovt .. => some .v
  | .idleS .. => some .s
  | .vst .. => some .s
  | .vsts .. => some .s
  | .vstc .. => some .s
  | .vwr .. => some .s
  | .sth .. => some .s
  | .push .. => some .s
  | .put .. => some .s
  | .sig .. => some .s
  | .amo .. => some .s
  | .cas .. => some .s
  | .bardef .. => some .s
  | .bararv .. => some .s
  | .barwt .. => some .s
  | .supdSgd .. => some .s
  | .supdMom .. => some .s
  | .coll .. => some .s
  | .cpyS .. => some .s
  | .cpymS .. => some .s
  | .tokenArrival => none
  | .latchEntryArrival => none
  | .scaleBypassEntryAvailable => none
  | .realignmentCycle => none
  | .stall => none
  | .unitCompletion => none
  | .workRecordCompletion => none
  | .deferredFaultReport => none
  | .refresh => none
  | .keeperRefresh => none
  | .farLate => none
  | .phpreDueDeadline => none
  | .wainBeat => none
  | .wainReady => none
  | .dualWrite => none
  | .windowBeat => none
  | .farPathDelivery => none
  | .writeAcknowledgement => none
  | .copyBlock => none
  | .copyRetirement => none
  | .incomingPut => none
  | .incomingGet => none
  | .getResponse => none
  | .atomicPerform => none
  | .atomicReport => none
  | .barrierRelease => none
  | .collectiveClose => none
  | .gatherComplete => none
  | .mmaBlockFault => none
  | .frontierRefresh => none
  | .codeRangeDiscard => none
  | .bind => none
  | .objectLoadComplete => none
  | .preempt => none
  | .preemptionRequest => none
  | .forcedStop => none
  | .saveImage => none
  | .resume => none
  | .hold => none
  | .release => none
  | .kill => none
  | .fallow => none
  | .fallowPassComplete => none
  | .launchPlacement => none
  | .schedulingPass => none
  | .sliceEnd => none
  | .leaderHandover => none
  | .partitionFormation => none
  | .partitionRelease => none
  | .vaultPassComplete => none
  | .rootLaunchPlacement => none
  | .handlerInstall => none
  | .loanGrant => none
  | .loanRecall => none
  | .snapshotReserve => none
  | .snapshotStoragePath => none
  | .noiseMode => none
  | .hostRelease => none
  | .dieDrain => none
  | .attestationReport => none
  | .plim => none
  | .lattol => none
  | .hostBar2Access => none
  | .snapAccept => none
  | .snapshotOpen => none
  | .snapshotDrained => none
  | .gleanerRewrite => none
  | .scrub => none
  | .budgetPeriod => none
  | .powerGood => none
  | .dieReset => none
  | .linkRetrain => none
  | .resetNotice => none
  | .linkDownTimeout => none
  | .peerPackageTimeout => none
  | .vaultTemperatureRead => none
  | .throttleStep => none
  | .throttleRise => none
  | .pause => none
  | .pauseEnd => none
  | .powerLimitCheck => none
  | .thermalTrip => none
  | .idleStateEntry => none
  | .loggedWordsSupply => none
  | .managementSession => none

end Sys2Proof
end

