-- ==== Sys2Proof/Config.lean ====
section
/-! DEFINITION. What an implementation fixes, and the free values.
Constants that the spec states are plain definitions; what a part fuses, what physics decides and what the spec leaves
open is `opaque`: nothing in Lean can evaluate it, so a theorem holds whatever it is. -/
namespace Sys2Proof.Config

/-- Timing class A (R102), in cycles. -/
def tRCD : Int := 14
def tRP  : Int := 14
def tRAS : Int := 34
def tRC  : Int := 48
def tWR  : Int := 16
def tRTP : Int := 6
def tRRD : Int := 4
def tFAW : Int := 24
def tWTR : Int := 6
def tRTW : Int := 4
def tRFCb : Int := 120
/-- Refresh intervals of class A (R102). -/
def refreshCool : Nat := 9360
def refreshHot  : Nat := 4680
/-- Slot boundaries and wheel positions (R269, R358). -/
def wheel : Nat := 2048
/-- The arithmetic clock in MHz (R3) and the clock steps of R392. -/
def clockMHz : Nat := 1200
def stepMHz  : Nat := 50

/-- The fused one-way latency of each ordered pair of dies (R39). Log entry 3. -/
opaque lattFuse : Die → Die → BitVec 8
/-- The noise source (R214, R422): the word of a draw, by the state's free-value counter. Log entry 7. -/
opaque noise : Nat → BitVec 64
/-- Which of the two allowed words an unsynchronised code read receives (R222, R355). Log entry 14. -/
opaque codeChoice : Nat → Bool
/-- XPCS and XPCC while their engine is busy (R14): the spec states no value. Log entry 18. -/
opaque busyUpc : Nat → BitVec 16
/-- Bytes of the save image's control region past its header (R385): the layout is not stated. Log entry 8. -/
opaque saveByte : Nat → Nat → Byte
/-- Cycles the collective engine takes (R276, R409): no formula exists. Log entry 20. -/
opaque collCycles : Nat → Nat
/-- Cycles from a slot boundary to the arrival of a pre-emption request, at most 1,024 (R381). Log entry 21. -/
opaque requestDelay : Nat → Nat
/-- Cycles a save takes, at most 37,600 (R385). Log entry 21. -/
opaque saveCycles : Nat → Nat
/-- Extra cycles that the keeper's refresh of a bank takes place before its deadline at an alignment point (R107). Log entry 16. -/
opaque refreshSlack : Nat → Nat
/-- Transport time of a request to another package (R348, R417). Log entry 22. -/
opaque fabricCycles : Nat → Nat
/-- Cycles by which a loan access misses its bound (R415). Log entry 22. -/
opaque loanLate : Nat → Nat
/-- What a read of memory outside the package returns (R264, R417). Log entry 22. -/
opaque fabricByte : Nat → Byte
/-- The identity, the image hash and the signature of an attestation report (R421). Log entry 23. -/
opaque identity : Nat
opaque imageHash : Nat
opaque sign : Die → List Nat → Nat

/-- Slots by which the Reeve puts a launch base after the earliest one (R367). Log entry 29. -/
opaque baseSlack : Nat → Nat
/-- The first page of a column's save area for a launch (R365, R385). Log entry 29. -/
opaque savePage : Nat → Col → Nat
/-- The Reeve's choice among launches of one priority, and among columns (R361, R370). Log entry 29. -/
opaque pick : Nat → Nat
/-- Cycles that a fallow pass takes, at most 8,400 (R136). Log entry 21. -/
opaque fallowCycles : Nat → Nat
/-- Cycles for which a walk holds a translation that misses in loose mode, and the entry that leaves a full translation cache (R116). Log entry 15. -/
opaque walkCycles : Nat → Nat
opaque evict : Nat → Nat
/-- Which of the partitions near a vault drew the most energy (R392). Log entry 19. -/
opaque heatSource : Nat → Nat

end Sys2Proof.Config
end

