-- ==== Sys2Proof/Machine/Number.lean ====
section
/-! DEFINITION. Exact numbers, values with tails, the narrowing rto(), final rounding and block codes
(spec/03_numbers_rules.md R59 to R88). Values are exact dyadic numbers; each rule narrows once, where it says so. -/
namespace Sys2Proof

/-! ## Exact values -/

/-- An exact value: NaN, an infinity, or ±m·2^e (R68: exponent and significand as wide as the exact result needs). -/
inductive XNum where
  | nan
  | inf (neg : Bool)
  | fin (neg : Bool) (m : Nat) (e : Int)
  deriving DecidableEq, Repr

/-- Bits of NUMST that an operation sets (R89): INX 6, FSAT 5, POIS 4, FNAN 3, FOV 2, IOV 0. -/
abbrev NumBits := BitVec 7
def nInx  : NumBits := 0x40
def nFsat : NumBits := 0x20
def nPois : NumBits := 0x10
def nFnan : NumBits := 0x08
def nFov  : NumBits := 0x04
def nIov  : NumBits := 0x01

/-- A value with its tail as a holder keeps it (R70): the encoding and the two tail bits. -/
structure Pair where
  v : Nat
  t : Nat
  deriving DecidableEq, Repr

/-- m·2^e as a natural number of units 2^u, for u at most e. -/
def scaleTo (m : Nat) (e u : Int) : Nat := m * 2 ^ (e - u).toNat

/-- Compare the magnitudes m·2^e and n·2^f. -/
def magCmp (m : Nat) (e : Int) (n : Nat) (f : Int) : Ordering :=
  let u := min e f
  compare (scaleTo m e u) (scaleTo n f u)

def XNum.isNan : XNum → Bool
  | .nan => true
  | _ => false
def XNum.isZero : XNum → Bool
  | .fin _ m _ => m == 0
  | _ => false
def XNum.isNeg : XNum → Bool
  | .nan => false
  | .inf s => s
  | .fin s _ _ => s
def XNum.zero : XNum := .fin false 0 0
/-- The exact value of an integer. -/
def XNum.ofInt (i : Int) : XNum := .fin (decide (i < 0)) i.natAbs 0
/-- Change of sign (R87). -/
def XNum.neg : XNum → XNum
  | .nan => .nan
  | .inf s => .inf !s
  | .fin s m e => .fin (!s) m e
def XNum.abs : XNum → XNum
  | .nan => .nan
  | .inf _ => .inf false
  | .fin _ m e => .fin false m e
/-- Exact product with a power of two (R68). -/
def XNum.scale (x : XNum) (k : Int) : XNum :=
  match x with
  | .fin s m e => .fin s m (e + k)
  | x => x

/-- Exact sum with the invalid case ∞ − ∞ (R73, R74): an exactly zero sum is +0 unless both addends are −0. -/
def XNum.add (x y : XNum) : XNum × NumBits :=
  match x, y with
  | .nan, _ | _, .nan => (.nan, 0)
  | .inf s, .inf t => if s == t then (.inf s, 0) else (.nan, nFnan)
  | .inf s, _ => (.inf s, 0)
  | _, .inf t => (.inf t, 0)
  | .fin s m e, .fin t n f =>
    let u := min e f
    let a := scaleTo m e u
    let b := scaleTo n f u
    if s == t then (.fin s (a + b) u, 0)
    else if a == b then (.fin false 0 0, 0)
    else if b < a then (.fin s (a - b) u, 0)
    else (.fin t (b - a) u, 0)

/-- Exact product with the invalid case 0 × ∞ (R73, R74). -/
def XNum.mul (x y : XNum) : XNum × NumBits :=
  match x, y with
  | .nan, _ | _, .nan => (.nan, 0)
  | .inf s, .inf t => (.inf (s != t), 0)
  | .inf s, .fin t n _ => if n == 0 then (.nan, nFnan) else (.inf (s != t), 0)
  | .fin s m _, .inf t => if m == 0 then (.nan, nFnan) else (.inf (s != t), 0)
  | .fin s m e, .fin t n f => (.fin (s != t) (m * n) (e + f), 0)

/-- Exact sum of a list, whatever the order of its addends (R85): +0 for no addend, the zero rule of R73 over all addends, and ∞ − ∞ where
infinities of both signs are among them (R74), also beside a NaN (log entry 58). -/
def XNum.sum (xs : List XNum) : XNum × NumBits :=
  if xs.contains (.inf false) && xs.contains (.inf true) then (.nan, nFnan)
  else match xs with
  | [] => (XNum.zero, 0)
  | x :: xs => xs.foldl (fun a y => let r := a.1.add y; (r.1, a.2 ||| r.2)) (x, 0)

/-- Order of two values that are not NaN; +0 and −0 are equal (R82). -/
def XNum.cmp (x y : XNum) : Ordering :=
  match x, y with
  | .fin s m e, .fin t n f =>
    if m == 0 && n == 0 then .eq
    else if m == 0 then (if t then .gt else .lt)
    else if n == 0 then (if s then .lt else .gt)
    else if s != t then (if s then .lt else .gt)
    else if s then magCmp n f m e else magCmp m e n f
  | .inf s, .inf t => if s == t then .eq else if s then .lt else .gt
  | .inf s, _ => if s then .lt else .gt
  | _, .inf t => if t then .gt else .lt
  | _, _ => .eq

/-- The relations of R82: every relation with a NaN is false but "not equal". -/
def XNum.eq (x y : XNum) : Bool := !x.isNan && !y.isNan && x.cmp y == .eq
def XNum.ne (x y : XNum) : Bool := x.isNan || y.isNan || x.cmp y != .eq
def XNum.lt (x y : XNum) : Bool := !x.isNan && !y.isNan && x.cmp y == .lt
def XNum.le (x y : XNum) : Bool := !x.isNan && !y.isNan && x.cmp y != .gt

/-! ## Formats -/

/-- Precision, hidden bit included (R59). -/
def Fmt.p : Fmt → Nat
  | .fp32 => 24 | .bf16 => 8 | .fp16 => 11 | .e4m3 => 4 | .e5m2 => 3
/-- Least and greatest exponent (R59). -/
def Fmt.emin : Fmt → Int
  | .fp32 => -126 | .bf16 => -126 | .fp16 => -14 | .e4m3 => -6 | .e5m2 => -14
def Fmt.emax : Fmt → Int
  | .fp32 => 127 | .bf16 => 127 | .fp16 => 15 | .e4m3 => 8 | .e5m2 => 15
def Fmt.width : Fmt → Nat
  | .fp32 => 32 | .bf16 => 16 | .fp16 => 16 | .e4m3 => 8 | .e5m2 => 8
/-- E4M3 has no infinity (R59). -/
def Fmt.hasInf : Fmt → Bool
  | .e4m3 => false
  | _ => true
/-- Encoding without sign of the largest finite value (R59). -/
def Fmt.maxCode : Fmt → Nat
  | .fp32 => 0x7F7FFFFF | .bf16 => 0x7F7F | .fp16 => 0x7BFF | .e4m3 => 0x7E | .e5m2 => 0x7B
def Fmt.infCode : Fmt → Nat
  | .fp32 => 0x7F800000 | .bf16 => 0x7F80 | .fp16 => 0x7C00 | .e4m3 => 0x7E | .e5m2 => 0x7C
/-- The canonical NaN (R59, R60). -/
def Fmt.nanCode : Fmt → Nat
  | .fp32 => 0x7FC00000 | .bf16 => 0x7FC0 | .fp16 => 0x7E00 | .e4m3 => 0x7F | .e5m2 => 0x7E
/-- The largest finite value as significand and exponent: (2^p − 1)·2^(emax − p + 1), and 448 = 7·2^6 in E4M3. -/
def Fmt.maxMag (f : Fmt) : Nat × Int :=
  match f with
  | .e4m3 => (7, 6)
  | f => (2 ^ f.p - 1, f.emax - f.p + 1)
/-- The overflow threshold ovf(F) of R72. -/
def Fmt.ovf (f : Fmt) : Nat × Int :=
  match f with
  | .e4m3 => (15, 5)
  | f => (1, f.emax + 1)
/-- Sign bit of an encoding. -/
def Fmt.signOf (f : Fmt) (neg : Bool) : Nat := if neg then 2 ^ (f.width - 1) else 0
/-- The encoding without its sign. -/
def Fmt.magOf (f : Fmt) (v : Nat) : Nat := v % 2 ^ (f.width - 1)
def Fmt.isNegCode (f : Fmt) (v : Nat) : Bool := v / 2 ^ (f.width - 1) % 2 == 1
/-- An encoding above the infinity's, or 0b1111111 in E4M3, is a NaN (R59). -/
def Fmt.isNanCode (f : Fmt) (v : Nat) : Bool := f.infCode < f.magOf v
def Fmt.isInfCode (f : Fmt) (v : Nat) : Bool := f.hasInf && f.magOf v == f.infCode
/-- Significand and exponent of a finite encoding; the exponent is that of its ulp (R59, R70). -/
def Fmt.sigExp (f : Fmt) (v : Nat) : Nat × Int :=
  let c := f.magOf v
  let x := c / 2 ^ (f.p - 1)
  let fr := c % 2 ^ (f.p - 1)
  if x == 0 then (fr, f.emin - f.p + 1) else (2 ^ (f.p - 1) + fr, f.emin + x - f.p)

/-- The number a pair denotes (R60, R70): the value plus its tail in quarters of an ulp. -/
def image (f : Fmt) (x : Pair) : XNum :=
  if f.isNanCode x.v then .nan
  else if f.isInfCode x.v then .inf (f.isNegCode x.v)
  else
    let s := f.sigExp x.v
    .fin (f.isNegCode x.v) (4 * s.1 + x.t % 4) (s.2 - 2)
/-- The value of an element without a tail (R68). -/
def elemVal (f : Fmt) (v : Nat) : XNum := image f { v := v, t := 0 }

/-- floor(log2(m·2^e)) of a nonzero m. -/
def floorLog2 (m : Nat) (e : Int) : Int := (m.log2 : Int) + e
/-- floor of m·2^e in units 2^u, and whether anything is left below. -/
def floorUnits (m : Nat) (e u : Int) : Nat × Bool :=
  if u ≤ e then (m * 2 ^ (e - u).toNat, false)
  else
    let d := 2 ^ (u - e).toNat
    (m / d, m % d != 0)

/-- Round-to-odd narrowing (R72): value and tail, with FOV where it saturates. -/
def rto (x : XNum) (f : Fmt) : Pair × NumBits :=
  match x with
  | .nan => ({ v := f.nanCode, t := 0 }, 0)
  | .inf s => if f.hasInf then ({ v := f.signOf s + f.infCode, t := 0 }, 0) else ({ v := f.signOf s + f.maxCode, t := 3 }, nFov)
  | .fin s m e =>
    if m == 0 then ({ v := f.signOf s, t := 0 }, 0)
    else if magCmp m e f.ovf.1 f.ovf.2 != .lt then ({ v := f.signOf s + f.maxCode, t := 3 }, nFov)
    else
      let x := max (floorLog2 m e) f.emin
      let q := floorUnits m e (x - f.p - 1)
      let n := if q.2 then q.1 ||| 1 else q.1
      ({ v := f.signOf s + (x - f.emin).toNat * 2 ^ (f.p - 1) + n / 4, t := n % 4 }, 0)

/-! ## Final rounding -/

/-- Round a magnitude, given as its floor `n` on the grid and how the rest compares with half a step (`none` for no rest),
by the modes of R76; `even` says whether the lower neighbour is the even one. -/
def roundUp (mode : Mode) (neg : Bool) (even : Bool) (half : Ordering) : Bool :=
  match mode with
  | .rne => half == .gt || (half == .eq && !even)
  | .rtz => false
  | .rdn => neg
  | .rup => !neg
  | .rna => half != .lt
  | .odd => even
/-- How the rest of m·2^e below its floor in units 2^u compares with half a unit. -/
def halfCmp (m : Nat) (e u : Int) : Ordering :=
  if u ≤ e then .lt
  else
    let d := 2 ^ (u - e).toNat
    compare (2 * (m % d)) d

/-- round_to of R76 for a float format: encoding and status. -/
def roundFloat (f : Fmt) (y : XNum) (mode : Mode) : Nat × NumBits :=
  match y with
  | .nan => (f.nanCode, 0)
  | .inf s => if f.hasInf then (f.signOf s + f.infCode, 0) else (f.signOf s + f.maxCode, nFsat ||| nInx)
  | .fin s m e =>
    if m == 0 then (f.signOf s, 0)
    else if magCmp m e f.maxMag.1 f.maxMag.2 == .gt then
      let toMax := (f.signOf s + f.maxCode, nFsat ||| nInx)
      let toInf := (f.signOf s + f.infCode, nFsat)
      if !f.hasInf then toMax
      else
        match mode with
        | .rne | .rna => if magCmp m e (2 * f.maxMag.1 + 1) (f.maxMag.2 - 1) != .lt then toInf else toMax
        | .rtz | .odd => toMax
        | .rdn => if s then toInf else toMax
        | .rup => if s then toMax else toInf
    else
      let x := max (floorLog2 m e) f.emin
      let u := x - f.p + 1
      let q := floorUnits m e u
      let n := if q.2 && roundUp mode s (q.1 % 2 == 0) (halfCmp m e u) then q.1 + 1 else q.1
      (f.signOf s + (x - f.emin).toNat * 2 ^ (f.p - 1) + n, if q.2 then nInx else 0)

/-- The exact integer that a mode gives, before any range (R76, R88), and whether it is inexact. -/
def roundInt (y : XNum) (mode : Mode) : Int × Bool :=
  match y with
  | .fin s m e =>
    let q := floorUnits m e 0
    let n := if q.2 && roundUp mode s (q.1 % 2 == 0) (halfCmp m e 0) then q.1 + 1 else q.1
    (if s then -(n : Int) else n, q.2)
  | _ => (0, false)
/-- y against an integer. -/
def XNum.ltInt (y : XNum) (i : Int) : Bool := y.lt (XNum.ofInt i)
def XNum.gtInt (y : XNum) (i : Int) : Bool := (XNum.ofInt i).lt y

/-- round_to of R76 and R78 for a range of integers: saturating, NaN giving 0 with FNAN. -/
def roundRange (lo hi : Int) (y : XNum) (mode : Mode) : Int × NumBits :=
  match y with
  | .nan => (0, nFnan)
  | .inf s => (if s then lo else hi, nFsat ||| nInx)
  | y =>
    let r := roundInt y mode
    let z := max lo (min hi r.1)
    let sat := y.ltInt lo || y.gtInt hi
    (z, (if sat then nFsat else 0) ||| (if r.2 || z != r.1 then nInx else 0))

/-- Range of an integer or fixed-point lane type of width w (R61). -/
def VTy.unsignedTy : VTy → Bool
  | .n8 | .n16 | .n32 | .n64 => true
  | _ => false
def VTy.lo (t : VTy) : Int := if t.unsignedTy then 0 else -(2 ^ (t.width - 1))
def VTy.hi (t : VTy) : Int := if t.unsignedTy then 2 ^ t.width - 1 else 2 ^ (t.width - 1) - 1
/-- An integer modulo 2^w. -/
def wrap (w : Nat) (i : Int) : Nat := (i % 2 ^ w).toNat
/-- Value of w bits, two's complement. -/
def sInt (w n : Nat) : Int := if n % 2 ^ w < 2 ^ (w - 1) then (n % 2 ^ w : Nat) else (n % 2 ^ w : Nat) - 2 ^ w
/-- Value of w bits of a type: N types unsigned, the others two's complement (R61, R303). -/
def VTy.intVal (t : VTy) (n : Nat) : Int := if t.unsignedTy then (n % 2 ^ t.width : Nat) else sInt t.width n

/-- Magnitudes of the Q4 types in eighths (R62): QI is uniform. -/
def q4Mags (q : Nat) : List Nat :=
  match q with
  | 1 => [0, 4, 8, 12, 16, 24, 32, 48]
  | 2 => [0, 1, 2, 4, 8, 16, 32, 64]
  | _ => [0, 8, 16, 24, 32, 48, 64, 96]
/-- Value of a Q4 code of type q under multiplier exponent e (R62, R68). -/
def q4Val (q e code : Nat) : XNum :=
  if q == 0 then (XNum.ofInt (sInt 4 code)).scale ((e : Int) - 32)
  else .fin (code / 8 % 2 == 1) ((q4Mags q).getD (code % 8) 0) ((e : Int) - 35)
/-- The largest index whose magnitude is at most the one given by `le`. -/
def lastLe (le : Nat → Bool) (mags : List Nat) : Nat := (mags.takeWhile le).length - 1

/-- round_to of R76 for QI: it saturates to −8 or 7, and its largest magnitude, beyond which FSAT is set, is 8 (R62); an image above 7 that rounds to 8 saturates
too. -/
def roundQi (y : XNum) (mode : Mode) : Int × NumBits :=
  let r := roundRange (-8) 7 y mode
  (r.1, if y.gtInt 7 && !y.gtInt 8 && (roundRange (-8) 8 y mode).1 != 8 then r.2 &&& ~~~nFsat else r.2)
/-- round_to of R76 for a Q4 type: y is already divided by the multiplier. -/
def roundQ4 (q : Nat) (y : XNum) (mode : Mode) : Nat × NumBits :=
  if q == 0 then
    let r := roundQi y mode
    (wrap 4 r.1, r.2)
  else
    match y with
    | .nan => (0, nFnan)
    | .inf s => ((if s then 8 else 0) + 7, nFsat ||| nInx)
    | .fin s m e =>
      let sg := if s then 8 else 0
      let mags := q4Mags q
      let i := lastLe (fun g => magCmp g (-3) m e != .gt) mags
      if magCmp m e (mags.getD i 0) (-3) == .eq then (sg + i, 0)
      else if i == 7 then (sg + 7, nFsat ||| nInx)
      else
        let mid := mags.getD i 0 + mags.getD (i + 1) 0
        let j := if roundUp mode s (i % 2 == 0) (magCmp m e mid (-4)) then i + 1 else i
        (sg + j, nInx)

/-- Final rounding of an image into a lane type with scale byte s (R67, R76, R78): the code of the element. -/
def finalRound (t : VTy) (s : Nat) (y : XNum) (mode : Mode) : Nat × NumBits :=
  match t.fmt? with
  | some f => roundFloat f (y.scale (127 - (s : Int))) mode
  | none =>
    if t.isQ then roundQ4 (s / 64 % 4) (y.scale (32 - ((s % 64 : Nat) : Int))) mode
    else if t.isX then
      let r := roundRange t.lo t.hi (y.scale (127 - (s : Int))) mode
      (wrap t.width r.1, r.2)
    else
      let r := roundRange t.lo t.hi y mode
      (wrap t.width r.1, r.2)

/-! ## Block formats -/

/-- The lane type of a format code (R64), for the codes that hold elements. -/
def tyOfCode : Nat → Option VTy
  | 0x01 => some .fp32 | 0x02 => some .bf16 | 0x03 => some .fp16 | 0x04 => some .e4m3 | 0x05 => some .e5m2 | 0x06 => some .q4
  | 0x08 => some .i8 | 0x09 => some .n8 | 0x0A => some .i16 | 0x0B => some .n16 | 0x0C => some .i32 | 0x0D => some .n32
  | 0x0E => some .i64 | 0x0F => some .n64 | 0x10 => some .fx16 | 0x11 => some .fx32
  | _ => none
/-- Integer types and float formats as lane types (R146). -/
def ITy.toVTy : ITy → VTy
  | .i8 => .i8 | .n8 => .n8 | .i16 => .i16 | .n16 => .n16 | .i32 => .i32 | .n32 => .n32 | .i64 => .i64 | .n64 => .n64
def Fmt.toVTy : Fmt → VTy
  | .fp32 => .fp32 | .bf16 => .bf16 | .fp16 => .fp16 | .e4m3 => .e4m3 | .e5m2 => .e5m2
/-- The format code that a store of a type writes (R146). -/
def VTy.blockCode : VTy → Nat
  | .fp32 => 0x01 | .bf16 => 0x02 | .fp16 => 0x03 | .e4m3 => 0x04 | .e5m2 => 0x05 | .q4 => 0x06
  | .i8 => 0x08 | .n8 => 0x09 | .i16 => 0x0A | .n16 => 0x0B | .i32 => 0x0C | .n32 => 0x0D
  | .i64 => 0x0E | .n64 => 0x0F | .fx16 => 0x10 | .fx32 => 0x11
/-- Width class of a format code in bits; 0 for none (R64). -/
def classOf (code : Nat) : Nat :=
  match tyOfCode code with
  | some t => t.width
  | none => 0
/-- The scale byte of an unscaled float block (R64). -/
def unity : Nat := 0x7F
/-- Code of element i of a payload of 512 bits, elements of width w (R63). -/
def elemCode (w : Nat) (b : BitVec 512) (i : Nat) : Nat := b.toNat / 2 ^ (w * i) % 2 ^ w

/-- The exact value of an element code of type t under scale byte s (R68); poison is the caller's. -/
def decodeElem (t : VTy) (s : Nat) (c : Nat) : XNum :=
  match t.fmt? with
  | some f => (elemVal f c).scale ((s : Int) - 127)
  | none =>
    if t.isQ then q4Val (s / 64 % 4) (s % 64) c
    else if t.isX then (XNum.ofInt (sInt t.width c)).scale ((s : Int) - 127)
    else XNum.ofInt (t.intVal c)

/-! ## Arithmetic on pairs -/

/-- A binary operation with its one narrowing (R73). -/
def pairOp (f : Fmt) (op : XNum → XNum → XNum × NumBits) (a b : Pair) : Pair × NumBits :=
  let r := op (image f a) (image f b)
  let q := rto r.1 f
  (q.1, r.2 ||| q.2)
def fpAdd (f : Fmt) : Pair → Pair → Pair × NumBits := pairOp f XNum.add
def fpSub (f : Fmt) : Pair → Pair → Pair × NumBits := pairOp f (fun x y => x.add y.neg)
def fpMul (f : Fmt) : Pair → Pair → Pair × NumBits := pairOp f XNum.mul
/-- ±(a × b) ± c with one narrowing (R87); 0 × ∞ sets FNAN also beside a NaN addend (R74; log entry 58). -/
def fpFma (f : Fmt) (negP negC : Bool) (a b c : Pair) : Pair × NumBits :=
  let p := (image f a).mul (image f b)
  let s := (if negP then p.1.neg else p.1).add (if negC then (image f c).neg else image f c)
  let q := rto s.1 f
  (q.1, p.2 ||| s.2 ||| q.2)
/-- The canonical NaN with tail 0b00. -/
def nanPair (f : Fmt) : Pair := { v := f.nanCode, t := 0 }
/-- FMIN and FMAX (R82, R195): the operand with the smaller, or larger, image with its tail; of +0 and −0 with tail 0b00 the
minimum is −0 and the maximum +0; a NaN operand gives the canonical NaN. -/
def fpMinMax (f : Fmt) (wantMax : Bool) (a b : Pair) : Pair :=
  let x := image f a
  let y := image f b
  if x.isNan || y.isNan then nanPair f
  else
    match x.cmp y with
    | .lt => if wantMax then b else a
    | .gt => if wantMax then a else b
    | .eq => if x.isZero && y.isZero then (if x.isNeg == wantMax then b else a) else a

/-- Whether a value read in a format belongs to the class of bit n of R199. -/
def inClass (f : Fmt) (x : Pair) (n : Nat) : Bool :=
  let neg := f.isNegCode x.v
  let nan := f.isNanCode x.v
  let inf := f.isInfCode x.v
  let finite := !nan && !inf
  let c := f.magOf x.v
  let sub := c / 2 ^ (f.p - 1) == 0
  let tail := x.t % 4 != 0
  match n with
  | 0 => nan
  | 1 => inf && !neg
  | 2 => inf && neg
  | 3 => finite && !sub && !neg
  | 4 => finite && !sub && neg
  | 5 => finite && sub && c != 0 && !neg
  | 6 => finite && sub && c != 0 && neg
  | 7 => c == 0 && !tail && !neg
  | 8 => c == 0 && !tail && neg
  | 9 => c == 0 && tail
  | 10 => tail
  | _ => false
/-- The mask that FCLS writes (R199). -/
def classMask (f : Fmt) (x : Pair) : Nat :=
  (List.range 11).foldl (fun m n => if inClass f x n then m + 2 ^ n else m) 0

/-- The quantised integer of R88: the grid of step 2^(g − 127), RNE, nothing saturating; NaN and infinities give 0 with FNAN. -/
def residue (f : Fmt) (x : Pair) (g : Nat) : Int × NumBits :=
  match image f x with
  | .nan | .inf _ => (0, nFnan)
  | y =>
    let r := roundInt (y.scale (127 - (g : Int))) .rne
    (r.1, if r.2 then nInx else 0)

end Sys2Proof
end

