-- ==== Sys2Proof/Machine/State.lean ====
section
/-! DEFINITION. The state of the KX-512 as plain data: every register, memory, queue and table that the spec gives the
machine, and the model's own agenda, which says what happens next inside a cycle (log entries 1, 2). -/
namespace Sys2Proof.Machine

/-! ## Values -/

/-- A scalar register: 64 data bits and a two-bit tail (R183). -/
structure SVal where
  data : BitVec 64
  tail : BitVec 2
  deriving DecidableEq, Repr

/-- A row image: 512 data bytes and the 128-byte tail plane (R83, R93). -/
structure Row where
  data : BitVec 4096
  tail : BitVec 1024
  deriving DecidableEq, Repr

/-- The two header bytes of a block (R63). -/
structure Head where
  fmt : Byte
  scl : Byte
  deriving DecidableEq, Repr

/-- A block with its header (R63). -/
structure Blk where
  hd  : Head
  pay : BitVec 512
  deriving DecidableEq, Repr

/-- A write to one block: the bits that `mask` selects take `data`; `hd` is the header it writes, if any; a partial write may
ask that the block's header be `need` (MERGE, R66); `bad` is one that has been judged so when it was sent, and is not performed. -/
structure BlkWrite where
  mask : BitVec 512
  data : BitVec 512
  hd   : Option Head
  need : Option Head
  bad  : Bool := false
  deriving DecidableEq, Repr

/-- A memory: payload bytes by offset, and header bytes, the format code of block b at 2b and its scale byte at 2b + 1; each a
list in canonical form (R63, R93, R100). -/
structure Memory where
  cells : List Host.Cell
  heads : List Host.Cell
  deriving DecidableEq, Repr

/-! ## A unit (R12) -/

/-- What a stream is doing: held before ALIGN (R42), issuing, issuing after it missed a realignment cycle, which stays so until it reaches
its point (R45; log entry 45), or waiting at its realignment point since a cycle (R44, R45). -/
inductive SState where
  | held
  | run
  | late
  | point (since : Int)
  deriving DecidableEq, Repr

/-- One stream: program counter, its section of the instruction store in bytes (R12), issue(i − 1) (R23 to R25), and the first
cycle on which the instruction at the program counter could have issued, for STALL (R50). -/
structure Strm where
  pc   : BitVec 64
  lo   : Nat
  hi   : Nat
  last : Int
  due  : Option Int
  st   : SState
  deriving DecidableEq, Repr

/-- Execution control of a unit: XMODE, BASE, T, STALLMAX, ZONE.PART (R40, R44), HALT and whether a fault took one back (R54), ILOAD's hold of K and an ILOAD under way
(R222), the signal cycles still to come of the instructions that issued before HALT, each with its token tag (R54), the pre-emption request, whether the unit has stopped for it, the cycle on which it stopped, whether by the forced stop, and the
tiles discarded at the request (R381, R382, R297), whether it was killed or cancelled (R55, R380), a SNAP not yet accepted (R227), and
the refresh class, floor and drain that its object declares (R179). -/
structure Ctl where
  strms   : Vector Strm 6
  rpend   : Bool
  decl    : Bool
  aligned : Bool
  timed   : Bool
  base    : Dword
  t       : Dword
  limit   : BitVec 32
  part    : BitVec 16
  haltAt  : Option Int
  closed  : Bool
  kfree   : Int
  iload   : Bool
  sigs    : List (Nat × Int)
  preempt : Option Int
  prepped : Bool
  hcyc    : Int
  forced  : Bool
  lost    : List (Fin 4)
  dead    : Bool
  snapHeld : Bool
  hot     : Bool
  floor   : Nat
  drain   : Nat
  deriving DecidableEq, Repr

/-- A token on its way (R21); `tag` is 0, the MMA that may still withdraw it (R290), or the transaction whose landing sends it;
`held` while that cycle is not known (R237), when `rem` counts the cycles on which the unit has run since the issue, which are not left. -/
structure Fly where
  ix  : Fin 12
  rem : Nat
  tag : Nat
  held : Bool
  deriving DecidableEq, Repr

/-- A latch entry (R33). -/
structure LEntry where
  img   : Row
  valid : Bool
  rem   : Nat
  deriving DecidableEq, Repr

/-- An entry of the scale bypass: an FP32 pair, its remaining delay, and the VMAXA's issue cycle (R320, R321). -/
structure SbEntry where
  v      : Nat
  t      : Nat
  rem    : Nat
  issued : Int
  deriving DecidableEq, Repr

/-- An operand latch: rows of blocks with one common header, and the element count and width of a row (R253, R281). -/
structure OpLatch where
  rows  : Nat
  elems : Nat
  w     : Nat
  hd    : Head
  blks  : List (BitVec 512)
  deriving DecidableEq, Repr

/-- An operand queue's control word by its fields (R97). -/
structure QCtl where
  free  : Nat
  depth : Nat
  esz   : Fin 4
  base  : Nat
  head  : Nat
  deriving DecidableEq, Repr

/-- Registers of a unit (R183, R93, R300, R233, R235, R97, R206, R209, R89, R240, R264, R422, R322, R414, R281). -/
structure Regs where
  s     : Vector SVal 64
  tiles : Vector Row 256
  p     : Vector (BitVec 1024) 16
  al    : Vector Dword 8
  as    : Vector Dword 8
  ly    : Vector (BitVec 512) 256
  qc    : Vector QCtl 16
  lc    : Vector (BitVec 32) 4
  vrb   : BitVec 5
  prb   : BitVec 3
  lreg  : Dword
  lsav  : BitVec 32
  numst : NumBits
  erc   : Bool
  netb  : BitVec 16
  noisec : BitVec 2
  qsc   : Dword
  trs   : Vector Dword 3
  deriving DecidableEq, Repr

/-- What a load does with the blocks that reach it (R200, R247 to R253, R222, R259). -/
inductive LoadDst where
  /-- LDS.F: rto of element `ix` to FP32 (R201). -/
  | sF (d : Fin 64) (f : Fmt) (ix : Nat)
  /-- LDS.I: element `ix`, extended by its block's format (R201). -/
  | sI (d : Fin 64) (t : ITy) (ix : Nat)
  /-- VLD, VLDG and, as `splat`, VLDS: lanes of a row of T0 from the tile that the record describes (R247, R248). -/
  | vec (r : Fin 64) (rec : BitVec 512) (splat : Bool)
  /-- LDH: the headers of the tile's blocks to lanes (R251). -/
  | heads (r : Fin 64) (rec : BitVec 512)
  /-- LREC: a layout record (R252). -/
  | lrec (y : Fin 256)
  /-- LTR and MLDT: an operand latch from the tile that the record describes (R253, R293). -/
  | latch (l : OpLat) (rec : BitVec 512)
  /-- QLD: a slot of SP at an offset (R250). -/
  | slot (off : Nat) (rec : BitVec 512)
  /-- ILOAD: the instruction store at an offset (R222). -/
  | code (off : Nat)
  /-- MIDX: the gather that is complete on a cycle, of `rows` rows of `n` blocks and `elems` elements from a record's tile by row numbers (R291). -/
  | gather (done : Int) (rows n elems : Nat) (rec : BitVec 512) (idx : List Nat)
  deriving DecidableEq, Repr

/-- A SUPD form on its way (R268): mode, class, rate, decay (MOM), each element's block, index and gradient, and for the weight and the
momentum tile its memory, its blocks with their headers at issue and the cycle on which each is read, what has been read of them, and its written cycle. -/
structure SupdOp where
  mode : Mode
  w    : Nat
  lr   : XNum
  beta : Option XNum
  els  : List (Nat × Nat × XNum)
  wm   : Mem
  wb   : List (Nat × Head × Int)
  wgot : List (BitVec 512)
  wdue : Int
  mm   : Mem
  mb   : List (Nat × Head × Int)
  mgot : List (BitVec 512)
  mdue : Int
  deriving DecidableEq, Repr

/-- An effect that takes place on a later cycle: a write (R16, R29), or a capture that reads state on its cycle. -/
inductive Eff where
  /-- A scalar register (R184). -/
  | sreg (r : Fin 64) (v : SVal)
  /-- Selected bits of a tile row (R29, R300). -/
  | row (ix : Fin 256) (dm : BitVec 4096) (tm : BitVec 1024) (v : Row)
  /-- Selected bits of a predicate (R300). -/
  | pred (p : Fin 16) (mask v : BitVec 1024)
  /-- The raw value of a special register, by selector. -/
  | spec (sel : Fin 4096) (v : Dword)
  /-- W1C of NUMST (R9, R89). -/
  | numstClear (m : NumBits)
  /-- Sticky bits of NUMST (R89). -/
  | numst (m : NumBits)
  /-- A byte of QSC (R322). -/
  | qsc (j : Fin 8) (v : Byte)
  /-- A layout record (R235, R252). -/
  | lrec (y : Fin 256) (v : BitVec 512)
  /-- An operand latch (R253). -/
  | latch (l : OpLat) (v : OpLatch)
  /-- What the gather that is complete on a cycle holds (R291). -/
  | gather (done : Int) (v : OpLatch)
  /-- A queue control word (R249). -/
  | queue (n : Fin 16) (q : QCtl)
  /-- Block writes of an on-chip memory (R237). -/
  | blocks (m : Mem) (ws : List (Nat × BlkWrite))
  /-- A write to a loan page outside the package, by its block number and GLOBAL address, for block `k` of transaction `tx`, acknowledged
  `ret` cycles later; `home` where that is the block's home, `ph` the column whose phase state decides on a dual write (R121, R131, R415). -/
  | loan (blk va : Nat) (home : Bool) (hp : Col × Nat) (ph : Col) (w : BlkWrite) (tx k : Nat) (ret : Int)
  /-- A load takes its data from the blocks of an on-chip memory, each on its port cycle and under the header it was checked with; `got` are those
  read before (R237, R330). -/
  | capture (m : Mem) (left : List (Nat × Head × Int)) (got : List Blk) (dst : LoadDst) (due : Int)
  /-- LREC from the REC window reads a record on its cycle (R252). -/
  | recCopy (src dst : Fin 256) (due : Int)
  /-- The rows of an MMA read their old value one cycle before its write (R288). -/
  | mmaRow (id j : Nat)
  /-- A row copy of VMOVT, as lanes of a type, or MMOV, whole, reads its source on its cycle (R295, R319). -/
  | copyRow (src dst : Fin 256) (dm : BitVec 4096) (tm : BitVec 1024) (ty : Option VTy) (due : Int)
  /-- A SUPD form takes each block of its tiles on that block's port cycle (R268, R330). -/
  | supd (o : SupdOp)
  /-- EPOCH and SCPOS of a synchronising operation (R339). -/
  | epoch (pos : Int)
  /-- The unit switches to a map (R120). -/
  | mapSwitch (n : Fin 16)
  deriving DecidableEq, Repr

/-- An effect with its cycle and its stream. -/
structure Pend where
  at_    : Int
  stream : Stream
  eff    : Eff
  deriving DecidableEq, Repr

/-- Ports that a cycle of an access takes (R93, R95, R283, R288). -/
inductive Port where
  | wbR | wbW | abR | abW | spR | spW
  | tileR (t : Fin 4)
  | tileW (t : Fin 4)
  deriving DecidableEq, Repr

/-- A read or write of the unit that is not yet landed or acknowledged, with the cycle on which it lands or is written once that is
known (R54, R219, R335, R351); `id` 0 for an on-chip access; `wide` for a target outside the package, `host` for host memory or storage (R349),
`sync` for a synchronising operation. -/
structure Outst where
  id      : Nat
  stream  : Stream
  issue   : Int
  written : Option Int
  isRead  : Bool
  sync    : Bool
  wide    : Bool
  host    : Bool := false
  deriving DecidableEq, Repr

/-- One entry of an engine FIFO, reserved at issue; `word` is there once the engine has posted it (R254). -/
structure FifoEnt where
  id   : Nat
  word : Option Dword
  deriving DecidableEq, Repr

/-- A block's place: column, vault physical address, home, and the extent's attributes (R108, R114). -/
structure Place where
  col  : Col
  pa   : Nat
  hcol : Col
  hpa  : Nat
  ext  : Extent
  deriving DecidableEq, Repr

/-- A block on which a copy, get or queue load is pending (R240): of a memory, or with `mem` none of the row images, by its ACC offset; `place` is
where a GLOBAL destination was translated to (R122), and `form` the formula cycle of a landing that is not there yet, once it is known (R133). -/
structure PendBlk where
  id   : Nat
  mem  : Option Mem
  blk  : Nat
  far  : Bool
  due  : Option Int
  place : Option Place
  form : Option Int := none
  deriving DecidableEq, Repr

/-- Where a block of a copy lies (R256 to R264). -/
inductive CpLoc where
  | none
  | chip (m : Mem) (off : Nat)
  | acc (off : Nat)
  | glob (va : Nat)
  deriving DecidableEq, Repr

/-- Who makes an access, as the race detector and the frame need it (R329, R339, R343), the generations of the target's and of the issuer's own
die (R350), and its issue cycle. -/
structure Who where
  col    : Col
  stream : Stream
  epoch  : Dword
  scpos  : Int
  fpos   : Int
  gen    : BitVec 16
  own    : BitVec 16
  issue  : Int
  deriving DecidableEq, Repr

/-- One block of a copy command: its source, `none` where clipping leaves it unread, where the source lies all the same, its destination, the bits that
clipping fills, and the header of a block that clipping leaves unread (R257). -/
structure CpBlk where
  src  : CpLoc
  raw  : CpLoc := .none
  dst  : CpLoc
  mask : BitVec 512
  fill : BitVec 512
  hd   : Option Head
  deriving DecidableEq, Repr

/-- A sparse expansion (R262): the mask's blocks, the source's blocks with what is read of them (`none` where a block faulted), the next
destination block and the cycle of the one before; element width, source elements, columns and blocks of a row on both sides, fill. -/
structure CpX where
  masks : List CpLoc
  srcs  : List CpBlk
  got   : List (Nat × Option Blk)
  next  : Nat
  last  : Int
  w     : Nat
  n     : Nat
  cols  : Nat
  rowb  : Nat
  dcols : Nat
  drowb : Nat
  fill  : Nat
  deriving DecidableEq, Repr

/-- A copy command in the copy engine (R256 to R264): `start` is b of R259, `m` its length for the timing;
`srcs` the blocks that it reads and `dsts` the places of its destinations, translated at the push; `targets` are the columns of
CPYM, PUT and GET; `pkg` another package's number; `rtx` and `wtx` the far-path transactions of its source and its destination, `far`
where the source is GLOBAL or remote; `bound` NETB's bound at the push in cycles; `left` the blocks not yet settled, `lastW` and `lastAt` the last written cycle and
the last acknowledgement, `acks` the cycles of the acknowledgements of targets' buffers that are still to come (R350), and `posted` a command whose word is posted while an expansion still reads what is left of its source (R260, R262). -/
structure CopyCmd where
  id      : Nat
  seq     : BitVec 32
  op      : Fin 5
  who     : Who
  start   : Int
  m       : Nat
  srcs    : List (CpLoc × Option Place)
  blks    : List CpBlk
  dsts    : List (Option Place)
  targets : List Col
  pkg     : Nat
  rtx     : Nat
  wtx     : Nat
  far     : Bool
  bound   : Nat
  left    : Nat
  written : Nat
  stat    : Fin 16
  lastW   : Int
  lastAt  : Int
  acks    : List Int
  posted  : Bool
  x       : Option CpX
  deriving DecidableEq, Repr

/-- An MMA or MMAG in flight (R287 to R290): rows of A and columns of B as values, read at its issue. -/
structure MmaOp where
  id    : Nat
  issue : Int
  cost  : Nat
  tile  : Fin 4
  row   : Nat
  m     : Nat
  k     : Nat
  chunk : Nat
  int   : Bool
  zero  : Bool
  a     : List (List XNum)
  b     : List (List XNum)
  bad   : Option FaultRec
  pc    : BitVec 64
  took  : List (Fin 12)
  adds  : List (Fin 12)
  sig   : Int
  flags : NumBits
  deriving DecidableEq, Repr

/-- The gather of MIDX (R291, R292): the cycle on which OPA is complete, whether it is, and what it holds then. -/
structure Gather where
  done : Int
  full : Bool
  opa  : OpLatch
  deriving DecidableEq, Repr

/-- The words that a VRNDN drew on a cycle from a sequence number, and the lanes that took one; an RNDN that issues on that cycle after a
turn given up has the lower number nevertheless (R20, R214, R325). -/
structure VDrew where
  at_   : Int
  first : Nat
  words : List Dword
  sel   : BitVec 1024
  deriving DecidableEq, Repr

/-- Engines of a unit (R14, R32, R254, R259, R281, R283, R320); `xcoll` counts the collectives and AMO sequences that the store stage has under way, `inc` are the port cycles that incoming requests have taken (R238), and `srd`
what an SRD that has given up a turn of a cycle has read at its start (R215). -/
structure Eng where
  latches : Vector (List LEntry) 4
  sb      : List SbEntry
  opa     : OpLatch
  opb     : OpLatch
  gidx    : Vector (BitVec 16) 64
  gather  : Option Gather
  mmas    : List MmaOp
  mbusy   : Int
  sbusy   : Int
  xcoll   : Nat
  cpf     : List FifoEnt
  amf     : List FifoEnt
  clf     : List FifoEnt
  cmds    : List CopyCmd
  pushed  : BitVec 32
  cpyEnd  : Int
  inc     : List (Port × Int)
  drawn   : Nat
  vdrew   : Option VDrew
  srd     : Option (Int × Dword)
  supply  : List Dword
  resv    : List (Port × Int × Nat)
  deriving DecidableEq, Repr

/-- A beat of the Wain: one 128-byte vault column from a source to a destination, either of which may lie on loan outside the
package, and the transit between them (R117, R118). -/
structure WainMove where
  src  : Col
  spa  : Nat
  sext : Option Nat
  dst  : Col
  dpa  : Nat
  dext : Option Nat
  home : Bool
  transit : Nat
  va   : Nat
  deriving DecidableEq, Repr

/-- A beat that the Wain has read on cycle `rd` and not yet written: the two blocks with their dirty bits and, where a snapshot has saved them, their saved
copies (R411, R412), and the first cycle for its write. -/
structure Carried where
  mv   : WainMove
  lo   : Blk
  hi   : Blk
  slo  : Option Blk
  shi  : Option Blk
  dlo  : Bool
  dhi  : Bool
  rd   : Int
  from_ : Int
  deriving DecidableEq, Repr

/-- A dual write due (R121): the second placement, the writes of its blocks, whether it has taken its MIG cycle, and, for a block of a COW extent, the job and the
round of the writer (R412). -/
structure Dual where
  id   : Nat
  cow  : Bool
  job  : Dword
  round : BitVec 32
  col  : Col
  pa   : Nat
  dext : Option Nat
  home : Bool
  ws   : List BlkWrite
  land : Int
  done : Bool
  deriving DecidableEq, Repr

/-- Maps and phase of a unit (R110 to R112, R116 to R124); `pick` is the Wain's column that a MIG beat has just chosen. `cache` is the column's
translation cache, newest first, and `walks` the extents on their way into it with the cycle of each (R116); `mirrors` holds for each map the blocks
of either mirror that have failed and are not yet rewritten (R125), and `seen` counts the accesses to each page of a floating extent, for the die's Gleaner (R126). -/
structure MapSt where
  maps    : Vector (Option (List Extent)) 16
  cur     : Fin 16
  tgt     : Fin 16
  valid   : Bool
  ready   : Bool
  active  : Bool
  readyAt : Int
  t0      : Int
  due     : Option Int
  moves   : List WainMove
  carried : List Carried
  lastRd  : Int
  duals   : List Dual
  pick    : Option Nat
  cache   : List Extent
  walks   : List (Extent × Int)
  mirrors : Vector (List Nat × List Nat) 16
  seen    : List (Nat × Nat)
  deriving DecidableEq, Repr

/-- A barrier slot: the word's address and owner, the generation joined, whether an arrival awaits
BARWT, whether it has been performed, and whether its release has come
(R272 to R274). -/
structure BarSlot where
  va      : Nat
  owner   : Col
  pa      : Nat
  gen     : BitVec 16
  arrived : Bool
  joined  : Bool
  released : Bool
  deriving DecidableEq, Repr

/-- What an ILOAD has replaced: the words as they were, the streams whose fetch may still see them, and how many tokens of each counter, on their way
among them, were not sent by a stream past the ILOAD; they are consumed before those that were (R222). -/
structure OldCode where
  words : List (Nat × Word)
  stale : List Stream
  ahead : Vector Nat 12
  deriving DecidableEq, Repr

/-- Ordering state of a unit: `fence` is the cycle of the last FENCE of kind ACQ, AR or SC, `acq` the operations whose report later
accesses await (R17 to R22, R219, R240, R254, R269, R272, R335 to R341). `codeHeld` are the CODE blocks held outside the instruction
store (R221), and `oldCode` what each ILOAD has replaced, the latest first, until every stream is past it (R222). -/
structure Ordr where
  tok    : Vector (Fin 16) 12
  fly    : List Fly
  hold   : List (Fin 12 × Int)
  outst  : List Outst
  pblks  : List PendBlk
  fence  : Option Int
  acq    : List Nat
  slots  : List BarSlot
  epoch  : Dword
  scpos  : Int
  fpos   : Int
  wheel  : List (Nat × Nat × Nat)
  synced : Int
  codeHeld : List (Nat × Blk)
  oldCode : List OldCode
  deriving DecidableEq, Repr

/-- The fault frame and the handler's registers (R374 to R376); `hbase` is where the handler range begins (R368). -/
structure Frame where
  en     : Bool
  insv   : Bool
  entry  : BitVec 18
  faultf : Dword
  faddr  : Dword
  finfo  : Dword
  fpc    : Vector (BitVec 18) 6
  fupc   : Dword
  sscr   : Vector Dword 4
  fcyc   : Dword
  hbase  : Nat
  queue  : List (Stream × FaultRec)
  deriving DecidableEq, Repr

/-- The unit of a column. -/
structure UnitSt where
  ctl  : Ctl
  regs : Regs
  pend : List Pend
  eng  : Eng
  maps : MapSt
  ord  : Ordr
  frm  : Frame
  deriving DecidableEq, Repr

/-! ## Vaults and memories (R93, R100 to R107) -/

/-- A bank: the open row, and the cycles of its last commands; `deadline` is the refresh deadline (R103, R105). -/
structure Bank where
  row  : Option (Fin 8192)
  act  : Option Int
  pre  : Option Int
  rd   : Option Int
  wr   : Option Int
  ref  : Option Int
  deadline : Int
  keeper : Option Int
  deriving DecidableEq, Repr

/-- A declared window: beats on port cycles `first` to `first + n − 1` (R244). -/
structure Win where
  kind  : WinKind
  bank  : Fin 16
  first : Int
  n     : Nat
  deriving DecidableEq, Repr

/-- An atomic's effect on its word (R271, R273, R274). -/
inductive AtomOp where
  | sig (op : SigOp) (v : Dword)
  | amo (op : AmoOp) (v : Dword)
  | cas (old new : Dword)
  | barDef (n : Nat)
  | barArv
  deriving DecidableEq, Repr

/-- What a request does at the block it reaches. -/
inductive ReqKind where
  | read
  | write (w : BlkWrite)
  | atom (id : Nat)
  deriving DecidableEq, Repr

/-- A request travelling to a vault or waiting there (R129 to R131): `part` is the partition in whose cycles `arrive` counts,
`home` the block's home, `phc` the column whose phase state decides on a dual write (R121), `least` the earliest written cycle of a
floating extent (R132). -/
structure Req where
  id     : Nat
  tx     : Nat
  k      : Nat
  who    : Who
  part   : BitVec 16
  va     : Dword
  pa     : Nat
  home   : Col × Nat
  phc    : Col
  arrive : Int
  ret    : Int
  least  : Int
  sh     : Bool
  cow    : Bool
  kind   : ReqKind
  deriving DecidableEq, Repr

/-- A write that its beat has served and that is performed on the next cycle, or later for COW (R131, R115). -/
structure Served where
  at_ : Int
  req : Req
  deriving DecidableEq, Repr

/-- A live barrier word and the units that registered it, each by its column and its launch (R273). -/
structure Live where
  pa    : Nat
  users : List (Col × Nat)
  deriving DecidableEq, Repr

/-- Background activities of a vault with a budget, in the order of R423: fallow of freed pages, with the blocks still to clear;
snapshot drain; Gleaner and telemetry, with their requests that wait, rewrites of maps among them (R126). `set` is what the Reeve gives each period,
`left` what is left in the present one, and `since` the tick on which that began. -/
structure Budget where
  set    : List Nat
  left   : List Nat
  since  : Option Nat
  fallow : List Nat
  rewrites : List Ev
  glean  : Nat
  tele   : Nat
  deriving DecidableEq, Repr

/-- A vault's own state (R102 to R106, R109, R129, R244, R273, R342, R391, R412, R423, R424): `saved` holds, for a job's
snapshot, each saved block with the block of its reserve, `drain` the blocks of an open snapshot that are still to be drained; `temp` is the
last reading in thousandths of a degree, `corrected` counts the errors that ECC has corrected in the column (R99), `stepAt` the tick of the last clock step on the vault's account, `idleAt` the tick since which the column
is idle. -/
structure VaultSt where
  banks  : Vector Bank 16
  acts   : List Int
  lastRd : Option Int
  lastWr : Option Int
  port   : List Int
  wins   : List Win
  reqs   : List Req
  served : List Served
  shadow : List (Nat × BitVec 128)
  dirty  : List Nat
  saved  : List (Dword × Nat × Nat)
  drain  : List (Dword × Nat)
  live   : List Live
  temp   : Int
  corrected : Nat
  stepAt : Option Nat
  budget : Budget
  idleAt : Nat
  idle   : Option IdleState
  deriving DecidableEq, Repr

/-- The memories of a column (R93, R100). -/
structure Mems where
  wb    : Memory
  ab    : Memory
  sp    : Memory
  store : Memory
  vault : Memory
  deriving DecidableEq, Repr

/-! ## Far-path transactions -/

/-- One block of a far-path access: its address, its formula cycle without the wait w, the first block of its run to one owner
through one extent, the formula cycle once w is known (R131, R132), when its data have reached the arrival buffer or it was
written, the data, a fault met at the owner, and whether it is delivered or acknowledged (R133); `loan` is a block outside the package, and
`skip` one that clipping leaves unread, which counts as arrived at its formula cycle (R236); `ret` are the return terms after which a fault of a
read is raised (R239), and `due` the cycle on which a write that its beat has served is performed (R353). -/
structure Arr where
  va   : Dword
  loan : Option Nat
  term : Int
  grp  : Nat
  form : Option Int
  at_  : Option Int
  blk  : Blk
  bad  : Option FaultRec
  del  : Bool
  late : Bool
  skip : Bool
  ret  : Int
  due  : Option Int := none
  deriving DecidableEq, Repr

/-- What a far-path transaction serves. -/
inductive TxKind where
  | load (dst : LoadDst)
  | store
  | copy (cmd : Nat)
  | copyOut (cmd : Nat)
  | atom (id : Nat)
  deriving DecidableEq, Repr

/-- A far-path transaction of a unit: whose it is, what it serves, its blocks. -/
structure Txn where
  id    : Nat
  who   : Who
  kind  : TxKind
  arrs  : List Arr
  deriving DecidableEq, Repr

/-- A signal, atomic or barrier operation under way (R271 to R274): `placed` once its word has been translated at the target, `mem`
and `off` where the word lies then, `loan` its block outside the package, `copy` where it lies in a copy, `ret` the return terms of its report; `result` the word as
it stood, `done` once it has been performed; `launch` the launch of the unit it is of, among those of its column (R273). -/
structure Atomic where
  id     : Nat
  who    : Who
  launch : Nat
  target : Col
  pkg    : Nat
  addr   : Dword
  op     : AtomOp
  size   : Size
  old    : Bool
  placed : Bool
  owner  : Col
  mem    : Mem
  off    : Nat
  loan   : Option Nat
  copy   : Bool
  home   : Col × Nat
  cow    : Bool
  ret    : Int
  result : Dword
  bad    : Option FaultRec
  done   : Bool
  job    : Dword
  deriving DecidableEq, Repr

/-- A block of a PUT, CPYM or GET on its way between columns, with the cycle of its arrival, and the cycle on which its formula has it written,
or back for a GET; of a PUT to GLOBAL, the cycle from which the far path's formula counts (R134, R238, R263, R264). -/
structure Xfer where
  tx     : Nat
  k      : Nat
  arrive : Int
  form   : Option Int
  cmd    : Nat
  from_  : Col
  dest : Col
  loc    : CpLoc
  blk    : Blk
  job    : Dword
  who    : Who
  gen    : BitVec 16
  deriving DecidableEq, Repr

/-- What a block beat does once its link has taken it (R401): a write goes on to its owner, the block of a read comes back, or events follow
some cycles later. -/
inductive LinkGo where
  | req (o : Col) (r : Req)
  | back (tx k : Nat) (rest : Int)
  | events (l : List (Int × Ev))
  deriving DecidableEq, Repr

/-- A block beat on its way to a link or waiting for it (R401): the direction, the cycle on which it reaches the link, and the issue cycle and
column of its access, by which the link orders what waits; a beat that waits has its issue as a reference tick, which cycles of two partitions have in common. -/
structure LinkBeat where
  src   : Die
  dst   : Die
  ready : Int
  issue : Int
  col   : Col
  go    : LinkGo
  deriving DecidableEq, Repr

/-! ## Dies, partitions and launches (R357 to R393) -/

/-- A handler image (R369). -/
structure Handler where
  bytes : List Byte
  size  : Nat
  entry : Nat
  deriving DecidableEq, Repr

/-- A published code range by the vault blocks that hold it (R355). -/
structure Pub where
  id : Nat
  keys : List Nat
  deriving DecidableEq, Repr

/-- A partition (R357): `cyc` is the partition cycle number of R337, `offs` the fixed relation of the dies' counters (R38),
`acc` its phase against the reference tick (log entry 2), `board` the epoch board (R340); `heated` the vaults that it has been throttled for,
`stepped` the tick of its last clock step, `pausedAt` the tick of its last pause and `pausedBy` the vaults on whose account it is paused, `atFloor` the tick of
a check of the package power limit that found it at its floor (R392, R393, R425), `noise` the mode of its units' noise source (R422). -/
structure Part where
  num    : BitVec 16
  tenant : Nat
  cols   : List Col
  ref    : Die
  floor  : Nat
  mhz    : Nat
  cyc    : Int
  acc    : Nat
  paused : Bool
  pausedAt : Nat
  pausedBy : List Col
  offs   : Vector Int 4
  queues : List (Die × Fin 64)
  handler : Option Handler
  board  : List (Col × Int)
  pubs   : List Pub
  heated : List Col
  atFloor : Option Nat
  stepped : Nat
  noise  : Fin 3
  closing : Bool
  deriving DecidableEq, Repr

/-- A die: fused LATT row, ORIENT, GEN, LATTOL (R39, R397, R403, R424), whether it works, drains (R372) and has reset, and how many responses it has
dropped (R350). -/
structure DieSt where
  latt   : Vector (BitVec 8) 4
  orient : Dword
  gen    : Vector (BitVec 16) 4
  works  : Bool
  drains : Bool
  links  : Vector Bool 4
  downAt : Vector (Option Nat) 4
  dropped : Nat
  deriving DecidableEq, Repr

/-- Slot states and commands (R365). -/
inductive SlotState where
  | free | loading | waitBase | running | stopped | held | stopping | saved | fallow | done
  deriving DecidableEq, Repr
inductive SlotCmd where
  | none | bind | preempt | resume | hold | release | kill | fallow
  deriving DecidableEq, Repr

/-- A unit whose save image is taken (R385): the registers and the rest of the unit that its control region holds, with the open rows and the
windows of its vault (R106, R245), the cycle of its halt and of the save, whether it was forced, and the tiles discarded. -/
structure SavedUnit where
  launch : Nat
  page   : Nat
  index  : BitVec 9
  unit   : UnitSt
  rows   : List (Option (Fin 8192))
  wins   : List Win
  hcyc   : Int
  at_    : Int
  forced : Bool
  lost   : List (Fin 4)
  deriving DecidableEq, Repr

/-- A bind record of the slot table (R365), with the launch's argument word (R367). -/
structure Slot where
  base   : Dword
  desc   : Dword
  savepg : BitVec 17
  part   : BitVec 16
  qdie   : Die
  qnum   : Fin 64
  unit   : BitVec 9
  cmd    : SlotCmd
  st     : SlotState
  arg    : Dword
  launch : Nat
  saved  : List SavedUnit
  deriving DecidableEq, Repr

/-- A placed launch in a queue (R359, R362, R370): the ticks since which it is placed, and eligible. -/
structure Placed where
  id    : Nat
  desc  : Dword
  arg   : Dword
  job   : Dword
  pri   : Fin 8
  placed : Nat
  elig  : Option Nat
  deriving DecidableEq, Repr

/-- A launch queue (R359, R370, R372): owner, leader, placed launches, the requests that wait for a leader or for room, and the turns that launches have
left in the round-robin of their priority, by job and descriptor; one that is not named has all that its WEIGHT gives it. -/
structure Queue where
  die    : Die
  q      : Fin 64
  owner  : BitVec 16
  leader : Option Die
  items  : List Placed
  held   : List Nat
  turns  : List (Dword × Dword × Nat)
  deriving DecidableEq, Repr

/-- A LAUNCH or root placement on its way to the leader (R224, R362). -/
structure LReq where
  id   : Nat
  die  : Die
  q    : Fin 64
  part : BitVec 16
  desc : Dword
  arg  : Dword
  job  : Dword
  pri  : Fin 8
  deps : BitVec 16
  deriving DecidableEq, Repr

/-- A bound launch: its columns, its job, the tick since which it has waited (R370), and whether it is saved (R382). -/
structure Bound where
  id    : Nat
  desc  : Dword
  arg   : Dword
  job   : Dword
  part  : BitVec 16
  qdie  : Die
  q     : Fin 64
  cols  : List Col
  faulted : List Col
  since : Nat
  pri   : Fin 8
  saved : Bool
  deriving DecidableEq, Repr

/-- A job as the host placed it (R362, R364, R408; log entry 6): `placed` and `cols` are the descriptors and columns of its launches so
far, which CANCEL knows as its own (R226); `ended` the records whose completion has been acted on, and `cut` the cancelled records that their parents have
counted although they had not completed (R53, R55, R360), and `gone` the columns whose units were killed or cancelled, with their rounds (R364). -/
structure Job where
  handle : Dword
  part   : BitVec 16
  root   : Dword
  groups : Dword
  pkg    : Nat
  map    : List Extent
  placed : List Dword
  cols   : List Col
  ended  : List Dword
  cut    : List Dword
  gone   : List (Col × BitVec 32)
  log    : List (Col × Nat × Dword)
  storage : Option Nat
  reserves : List (Extent × List (Col × Nat))
  deriving DecidableEq, Repr

/-- A member of a collective that has issued: its tile as its record and its map gave it at issue (R276). -/
structure CollPart where
  who    : Who
  id     : Nat
  lay    : BitVec 512
  addr   : Dword
  places : List (Option Place)
  deriving DecidableEq, Repr

/-- A collective under way (R276, R364): its members in this package, whether others lie outside, its root; STAT of its words,
whether all have issued, whether the result is written, and the words still to be delivered: column, cycle, CLF entry. -/
structure Coll where
  id      : Nat
  job     : Dword
  above   : Dword
  group   : Nat
  round   : BitVec 32
  op      : CollOp
  members : List Col
  remote  : Bool
  root    : Option Col
  joined  : List CollPart
  stat    : Fin 4
  closing : Bool
  written : Bool
  due     : List (Col × Int × Nat)
  deriving DecidableEq, Repr

/-- A snapshot of a job (R411 to R414). -/
structure Snap where
  job   : Dword
  round : BitVec 32
  opened : Bool
  deriving DecidableEq, Repr

/-- A SNAP that the snapshot engine has not accepted yet: the unit that holds it, by its column and its launch, its job and the round (R227, R411). -/
structure HeldSnap where
  col    : Col
  launch : Nat
  job    : Dword
  round  : BitVec 32
  deriving DecidableEq, Repr

/-- A loan of vault pages, and the tick on which a recall has cleared them (R415). -/
structure Loan where
  col   : Col
  page  : Nat
  pages : Nat
  pkg   : Nat
  recalled : Option Nat
  deriving DecidableEq, Repr

/-- The launch layer of the package. -/
structure Work where
  queues : List Queue
  reqs   : List LReq
  bound  : List Bound
  jobs   : List Job
  colls  : List Coll
  snaps  : List Snap
  held   : List HeldSnap
  loans  : List Loan
  xfers  : List Xfer
  atoms  : List Atomic
  deriving DecidableEq, Repr

/-- Package and host (R404, R416, R418, R420, R425); `peers` are the packages to which requests are outstanding, each with the tick since which it has
acknowledged nothing (R408). -/
structure Pkg where
  ready   : Bool
  failed  : Bool
  dielist : List Die
  plim    : Nat
  lattol  : BitVec 32
  session : Bool
  peers   : List (Nat × Nat)
  deriving DecidableEq, Repr

/-- What an attestation report carries (R421): the package's identity, the hash of the running image, the dielist, the partition and tenant of the request,
the requester's nonce, and the signature over them. -/
structure Attest where
  identity : Nat
  image    : Nat
  dielist  : List Die
  part     : BitVec 16
  tenant   : Nat
  nonce    : Nat
  sig      : Nat
  deriving DecidableEq, Repr

/-- What the part reports to the outside (R363, R380, R399, R411, R414, R418): a kill with the frames of the units that faulted, a job with the words of its
record, stack errors, repairs and heat with the channel of the die's stack, and telemetry of a vault with its site in the package frame (R395), whose content the spec does
not state (log entry 19), and what a borrower reads of a lent page (R415). -/
inductive Report where
  | ready | bootFail
  | killed (die : Die) (q : Fin 64) (frames : List (Col × Frame))
  | cmdRefused (c : Col) (cmd : SlotCmd)
  | jobDone (job : Dword) (words : List Dword)
  | partitionReady (num : BitVec 16)
  | partitionRefused (num : BitVec 16)
  | snapDiscarded (job : Dword) (round : BitVec 32)
  | snapDone (job : Dword) (round : BitVec 32)
  | bar2Read (bytes : List Byte)
  | bar2Abort
  | attestation (a : Attest)
  | trip
  | stackError (die : Die) (channel : Nat) (blk : Nat)
  | repair (die : Die) (channel : Nat) (blk : Nat)
  | heat (die : Die) (channel : Nat) (milli : Int)
  | telemetry (c : Col) (x y : Nat)
  | loanRead (c : Col) (blk : Nat) (b : Blk)
  | handlerRefused (num : BitVec 16)
  | drained (job : Dword) (c : Col) (blk : Nat) (b : Blk)
  | hostPut (pkg addr : Nat) (b : Blk)
  | hostAtom (pkg addr : Nat) (op : AtomOp) (size : Size)
  | logged (job : Dword) (c : Col) (seq : Nat) (w : Dword)
  deriving DecidableEq, Repr

/-! ## The agenda (log entry 1) -/

/-- What is left to do in the present cycle: an event, the beginning and the end of a partition's cycle, the row writes of M, V and S and the
reads that follow them (R30, R331), or one stream's turn to issue; `turn` counts how often it has come back after the other streams of its column, and
`ring` is the moment at which it is decided which of the streams that wait for each other issue together (R20; log entry 70). -/
inductive Task where
  | event (e : Ev)
  | begin (part : BitVec 16)
  | land (part : BitVec 16)
  | issue (c : Col) (x : Stream) (turn : Nat)
  | ring (c : Col)
  | settle (part : BitVec 16)
  deriving DecidableEq, Repr

/-- An event due on a cycle of a partition, or on a reference tick where `part` is `none`. -/
structure Timer where
  part : Option (BitVec 16)
  at_  : Int
  ev   : Ev
  deriving DecidableEq, Repr

/-- Whose instruction `exec` runs: the column, the stream, and how many turns of the cycle it has given up before (R20). -/
structure Cursor where
  col    : Col
  stream : Stream
  turn   : Nat
  deriving DecidableEq, Repr

/-- The machine. `ext` is memory outside the package, block number package × 2^46 + address ÷ 64 (R415, R417; log entry 22), and `extDirty` its
blocks that hold written copies (R109); `links` are the block beats on their way to a link (R401). `ev` holds the operands of the event under way; `free` counts the free values drawn so far, and `nextId` the identities given (the model's own). -/
structure State where
  units  : Vector UnitSt 512
  mems   : Vector Mems 512
  ext    : Memory
  extDirty : List Nat
  links  : List LinkBeat
  vaults : Vector VaultSt 512
  slots  : Vector Slot 512
  dies   : Vector DieSt 4
  parts  : List Part
  work   : Work
  txns   : List Txn
  pkg    : Pkg
  tick   : Nat
  cur    : Cursor
  ev     : Ev
  agenda : List Task
  timers : List Timer
  inbox  : List Ev
  outbox : List Report
  nextId : Nat
  free   : Nat
  deriving DecidableEq, Repr

/-- Why a step stops. -/
inductive Fault where
  /-- Raised by HOST_BAR2_ACCESS on an offset past the 256 GiB of BAR2, where the spec says no address exists (R416); safe: no
  transaction of the host link reaches such an offset. -/
  | outsideBar2
  deriving DecidableEq, Repr

/-- Why a step is refused. -/
inductive Refusal where
  /-- An instruction whose meaning is not written; safe: the machine stops. -/
  | notModelled (mnemonic : String)
  deriving DecidableEq, Repr

/-! ## Reset -/

def Memory.empty : Memory := { cells := [], heads := [] }
def Mems.reset : Mems := { wb := .empty, ab := .empty, sp := .empty, store := .empty, vault := .empty }
def SVal.zero : SVal := { data := 0, tail := 0 }
def Row.zero : Row := { data := 0, tail := 0 }
/-- The header that memory initialisation leaves (R66). -/
def Head.raw : Head := { fmt := 0x00, scl := 0x7F }
/-- A stream before any dispatch: an empty section, held (log entry 4). -/
def Strm.reset : Strm := { pc := 0, lo := 0, hi := 0, last := 0, due := none, st := .held }
def Ctl.reset : Ctl :=
  { strms := .replicate 6 .reset, rpend := false, decl := false, aligned := false, timed := false, base := 0, t := 0,
    limit := 0x04000000, part := 0, haltAt := none, closed := false, kfree := 0, iload := false, sigs := [], preempt := none, prepped := false, hcyc := 0, forced := false, lost := [], dead := false, snapHeld := false,
    hot := false, floor := 600, drain := 0 }
def QCtl.reset : QCtl := { free := 0, depth := 0, esz := 0, base := 0, head := 0 }
/-- Every register zero, as the fallow pass and dispatch leave them (R136, R367). -/
def Regs.zero : Regs :=
  { s := .replicate 64 .zero, tiles := .replicate 256 .zero, p := .replicate 16 0, al := .replicate 8 0, as := .replicate 8 0,
    ly := .replicate 256 0, qc := .replicate 16 .reset, lc := .replicate 4 0, vrb := 0, prb := 0, lreg := 0, lsav := 0, numst := 0,
    erc := false, netb := 0, noisec := 0, qsc := 0, trs := .replicate 3 0 }
/-- At power-good FSCL of every layout record is 0x7F (R235). -/
def Regs.reset : Regs := { Regs.zero with ly := .replicate 256 (BitVec.ofNat 512 (0x7F * 2 ^ 440)) }
def OpLatch.reset : OpLatch := { rows := 0, elems := 0, w := 8, hd := .raw, blks := [] }
def Eng.reset : Eng :=
  { latches := .replicate 4 [], sb := [], opa := .reset, opb := .reset, gidx := .replicate 64 0, gather := none, mmas := [],
    mbusy := 0, sbusy := 0, xcoll := 0, cpf := [], amf := [], clf := [], cmds := [], pushed := 0, cpyEnd := 0, inc := [], drawn := 0, vdrew := none, srd := none,
    supply := [], resv := [] }
def MapSt.reset : MapSt :=
  { maps := .replicate 16 none, cur := 0, tgt := 0, valid := false, ready := false, active := false, readyAt := 0,
    t0 := 0, due := none, moves := [], carried := [], lastRd := 0, duals := [], pick := none,
    cache := [], walks := [], mirrors := .replicate 16 ([], []), seen := [] }
def Ordr.reset : Ordr :=
  { tok := .replicate 12 0, fly := [], hold := [], outst := [], pblks := [], fence := none, acq := [], slots := [], epoch := 0,
    scpos := 0, fpos := 0, wheel := [], synced := 0, codeHeld := [], oldCode := [] }
def Frame.reset : Frame :=
  { en := false, insv := false, entry := 0, faultf := 0, faddr := 0, finfo := 0, fpc := .replicate 6 0, fupc := 0,
    sscr := .replicate 4 0, fcyc := 0, hbase := 0x40000, queue := [] }
def UnitSt.reset : UnitSt :=
  { ctl := .reset, regs := .reset, pend := [], eng := .reset, maps := .reset, ord := .reset, frm := .reset }
def Bank.reset : Bank :=
  { row := none, act := none, pre := none, rd := none, wr := none, ref := none, deadline := 0, keeper := none }
def VaultSt.reset : VaultSt :=
  { banks := .replicate 16 .reset, acts := [], lastRd := none, lastWr := none, port := [], wins := [], reqs := [], served := [],
    shadow := [], dirty := [], saved := [], drain := [], live := [], temp := 0, corrected := 0, stepAt := none, budget := { set := [0, 0, 0, 0], left := [0, 0, 0, 0], since := none, fallow := [], rewrites := [], glean := 0, tele := 0 },
    idleAt := 0, idle := none }
def Slot.reset : Slot :=
  { base := 0, desc := 0, savepg := 0, part := 0, qdie := 0, qnum := 0, unit := 0, cmd := .none, st := .free, arg := 0, launch := 0,
    saved := [] }
/-- LATT of a die: 0 towards itself, else 1 to 255 (R39, R40; log entry 3). -/
def fusedLatt (d e : Die) : BitVec 8 :=
  if d = e then 0 else if Config.lattFuse d e = 0 then 1 else Config.lattFuse d e
/-- ORIENT as R397 gives it: ROT is the die number, CHM 1 on odd dies, LRD 1 on dies 2 and 3, LRP 1, LRN 0. -/
def fusedOrient (d : Die) : Dword :=
  BitVec.ofNat 64 (d.val * 2 ^ 14 + (d.val % 2) * 2 ^ 13 + (d.val / 2) * 2 ^ 12 + 2 ^ 11)
def DieSt.reset (d : Die) : DieSt :=
  { latt := .ofFn (fun e => fusedLatt d e), orient := fusedOrient d, gen := .replicate 4 0, works := false, drains := false,
    links := .replicate 4 true, downAt := .replicate 4 none, dropped := 0 }
def Work.reset : Work :=
  { queues := [], reqs := [], bound := [], jobs := [], colls := [], snaps := [], held := [], loans := [], xfers := [], atoms := [] }
def Pkg.reset : Pkg :=
  { ready := false, failed := false, dielist := [], plim := 3200, lattol := 0, session := false, peers := [] }

/-- The machine right after power-good, before the boot of R420: no partition, no launch, every unit zero but for the reset values
that a register's table gives (R40, R235; log entry 4), every vault empty. -/
def State.reset : State :=
  { units := .replicate 512 .reset, mems := .replicate 512 .reset, ext := .empty, extDirty := [], links := [], vaults := .replicate 512 .reset, slots := .replicate 512 .reset,
    dies := .ofFn DieSt.reset, parts := [], work := .reset, txns := [], pkg := .reset, tick := 0,
    cur := { col := 0, stream := .k, turn := 0 }, ev := .thermalTrip, agenda := [], timers := [], inbox := [], outbox := [], nextId := 0, free := 0 }

end Sys2Proof.Machine
end

