-- ==== Sys2Proof/Machine/Ops.lean ====
section
/-! DEFINITION. The named operations over the state: memories in canonical form, the primitive updates through which every
step changes the state, and time. -/
namespace Sys2Proof.Machine

/-! ## Memories (R6, R63, R66) -/

/-- What an unlisted payload byte and an unlisted header byte read as: zero, and the header 0x00, 0x7F (R66, R420). -/
def payDefault (_ : Nat) : Byte := 0
def headDefault (k : Nat) : Byte := if k % 2 == 0 then 0x00 else 0x7F

/-- The byte at an address of a list of cells. -/
def cellGet (dflt : Nat → Byte) : List Host.Cell → Nat → Byte
  | [], a => dflt a
  | (b, v) :: t, a => if a == b then v else if a < b then dflt a else cellGet dflt t a

/-- The list with the byte at an address replaced: sorted, and without entries that read as unlisted ones do. -/
def cellSet (dflt : Nat → Byte) : List Host.Cell → Nat → Byte → List Host.Cell
  | [], a, v => if v == dflt a then [] else [(a, v)]
  | (b, w) :: t, a, v =>
    if a == b then (if v == dflt a then t else (a, v) :: t)
    else if a < b then (if v == dflt a then (b, w) :: t else (a, v) :: (b, w) :: t)
    else (b, w) :: cellSet dflt t a v

/-- Canonical form: addresses strictly rising, and no entry equal to what an unlisted address reads as. -/
def cellsWf (dflt : Nat → Byte) : List Host.Cell → Bool
  | [] => true
  | [(a, v)] => v != dflt a
  | (a, v) :: (b, w) :: t => v != dflt a && decide (a < b) && cellsWf dflt ((b, w) :: t)

def Memory.wf (m : Memory) : Bool := cellsWf payDefault m.cells && cellsWf headDefault m.heads

/-- One payload byte (R6). -/
def Memory.byte (m : Memory) (a : Nat) : Byte := cellGet payDefault m.cells a
def Memory.setByte (m : Memory) (a : Nat) (v : Byte) : Memory := { m with cells := cellSet payDefault m.cells a v }
/-- The header of block b (R63). -/
def Memory.head (m : Memory) (b : Nat) : Head :=
  { fmt := cellGet headDefault m.heads (2 * b), scl := cellGet headDefault m.heads (2 * b + 1) }
def Memory.setHead (m : Memory) (b : Nat) (h : Head) : Memory :=
  { m with heads := cellSet headDefault (cellSet headDefault m.heads (2 * b) h.fmt) (2 * b + 1) h.scl }

/-- n bytes from an address, least significant first (R6). -/
def Memory.bytes (m : Memory) : Nat → Nat → Nat
  | _, 0 => 0
  | a, n + 1 => (m.byte a).toNat + 256 * m.bytes (a + 1) n
/-- Block b with its header. -/
def Memory.blk (m : Memory) (b : Nat) : Blk := { hd := m.head b, pay := BitVec.ofNat 512 (m.bytes (64 * b) 64) }

/-- Byte i of a block's payload. -/
def payByte (p : BitVec 512) (i : Nat) : Byte := p.extractLsb' (8 * i) 8

/-- Write the bytes of a block that a mask touches, from byte i upward. -/
def Memory.writeBytes (m : Memory) (b : Nat) (mask data : BitVec 512) : Nat → Nat → Memory
  | _, 0 => m
  | i, n + 1 =>
    let k := payByte mask i
    let m' := if k == 0 then m
      else m.setByte (64 * b + i) ((m.byte (64 * b + i) &&& ~~~k) ||| (payByte data i &&& k))
    Memory.writeBytes m' b mask data (i + 1) n

/-- A block write (R66, R237): the bits of its mask, and its header if it gives one. -/
def Memory.write (m : Memory) (b : Nat) (w : BlkWrite) : Memory :=
  let m := m.writeBytes b w.mask w.data 0 64
  match w.hd with
  | some h => m.setHead b h
  | none => m
def Memory.writes (m : Memory) (ws : List (Nat × BlkWrite)) : Memory := ws.foldl (fun m w => m.write w.1 w.2) m

/-- A write of a whole block with its header. -/
def Blk.whole (b : Blk) : BlkWrite := { mask := BitVec.allOnes 512, data := b.pay, hd := some b.hd, need := none }
/-- A block after a write to it. -/
def Blk.apply (b : Blk) (w : BlkWrite) : Blk :=
  { hd := w.hd.getD b.hd, pay := (b.pay &&& ~~~w.mask) ||| (w.data &&& w.mask) }
/-- The block with zero payload and the header 0x00, 0x7F (R66). -/
def Blk.clear : Blk := { hd := .raw, pay := 0 }
def Blk.poisoned (b : Blk) : Bool := b.hd.scl == 0xFF

def Mems.get (x : Mems) : Mem → Memory
  | .wb => x.wb | .ab => x.ab | .sp => x.sp | .store => x.store | .vault => x.vault
def Mems.set (x : Mems) (m : Mem) (v : Memory) : Mems :=
  match m with
  | .wb => { x with wb := v }
  | .ab => { x with ab := v }
  | .sp => { x with sp := v }
  | .store => { x with store := v }
  | .vault => { x with vault := v }
def Mems.wf (x : Mems) : Bool := x.wb.wf && x.ab.wf && x.sp.wf && x.store.wf && x.vault.wf

/-- Bytes of each memory (R91, R93, R100). -/
def Mem.size : Mem → Nat
  | .wb => 2 ^ 21 | .ab => 2 ^ 20 | .sp => 2 ^ 20 | .store => 2 ^ 18 | .vault => 2 ^ 29

/-! ## Primitive updates -/

/-- Everything a step can do to the state. A memory changes only by block writes, or by being cleared whole (R136, R137). -/
inductive Upd where
  | unit (c : Col) (u : UnitSt)
  | mem (c : Col) (m : Mem) (ws : List (Nat × BlkWrite))
  | clear (c : Col) (m : Mem)
  | ext (ws : List (Nat × BlkWrite))
  | extDirty (l : List Nat)
  | links (l : List LinkBeat)
  | vault (c : Col) (v : VaultSt)
  | slot (c : Col) (x : Slot)
  | die (d : Die) (x : DieSt)
  | parts (ps : List Part)
  | work (w : Work)
  | txns (ts : List Txn)
  | pkg (p : Pkg)
  | tick (n : Nat)
  | cur (c : Cursor)
  | ev (e : Ev)
  | agenda (a : List Task)
  | timers (t : List Timer)
  | inbox (i : List Ev)
  | outbox (o : List Report)
  | nextId (n : Nat)
  | free (n : Nat)

def Upd.apply (u : Upd) (s : State) : State :=
  match u with
  | .unit c u => { s with units := s.units.set c u }
  | .mem c m ws => { s with mems := s.mems.set c ((s.mems[c]).set m (((s.mems[c]).get m).writes ws)) }
  | .clear c m => { s with mems := s.mems.set c ((s.mems[c]).set m .empty) }
  | .ext ws => { s with ext := s.ext.writes ws }
  | .extDirty l => { s with extDirty := l }
  | .links l => { s with links := l }
  | .vault c v => { s with vaults := s.vaults.set c v }
  | .slot c x => { s with slots := s.slots.set c x }
  | .die d x => { s with dies := s.dies.set d x }
  | .parts p => { s with parts := p }
  | .work w => { s with work := w }
  | .txns t => { s with txns := t }
  | .pkg p => { s with pkg := p }
  | .tick n => { s with tick := n }
  | .cur c => { s with cur := c }
  | .ev e => { s with ev := e }
  | .agenda a => { s with agenda := a }
  | .timers t => { s with timers := t }
  | .inbox i => { s with inbox := i }
  | .outbox o => { s with outbox := o }
  | .nextId n => { s with nextId := n }
  | .free n => { s with free := n }

/-- Updates in order. -/
def run (l : List Upd) (s : State) : State := l.foldl (fun s u => u.apply s) s

/-- An action reads the state and answers updates. -/
abbrev Act := State → List Upd
def perform (a : Act) (s : State) : State := run (a s) s
/-- Nothing. -/
def Act.none : Act := fun _ => []
/-- One action, then another on the state it leaves. -/
def Act.seq (a b : Act) : Act := fun s =>
  let l := a s
  l ++ b (run l s)
def Act.all : List Act → Act
  | [] => Act.none
  | a :: l => Act.seq a (Act.all l)
/-- An action chosen on the state as it stands. -/
def Act.bind (f : State → Act) : Act := fun s => f s s
/-- An action for each element of a list. -/
def Act.each {α : Type} (l : List α) (f : α → Act) : Act := Act.all (l.map f)
def Act.when (b : Bool) (a : Act) : Act := if b then a else Act.none

/-- What a meaning answers. -/
abbrev Out := Host.Outcome State Fault Refusal
def done (a : Act) (s : State) : Out := .next (perform a s)

/-! ## Access to the parts of the state -/

def State.unit (s : State) (c : Col) : UnitSt := s.units[c]
def State.mem (s : State) (c : Col) (m : Mem) : Memory := (s.mems[c]).get m
def State.vault (s : State) (c : Col) : VaultSt := s.vaults[c]
def State.slot (s : State) (c : Col) : Slot := s.slots[c]
def State.die (s : State) (d : Die) : DieSt := s.dies[d]
/-- The die of a column: identifier ÷ 128 (R2). -/
def dieOf (c : Col) : Die := Fin.ofNat 4 (c.val / 128)
/-- x and y of a column in its die's own frame (R2). -/
def xOf (c : Col) : Nat := c.val % 16
def yOf (c : Col) : Nat := c.val / 16 % 8
def colOf (d : Die) (x y : Nat) : Col := Fin.ofNat 512 (d.val * 128 + y * 16 + x)

/-- The partition that holds a column (R357). -/
def State.partOf (s : State) (c : Col) : Option Part := s.parts.find? (fun p => p.cols.contains c)
def State.part (s : State) (n : BitVec 16) : Option Part := s.parts.find? (fun p => p.num == n)
/-- The partition cycle number at a column; a column of no partition counts reference ticks (log entry 2). -/
def State.now (s : State) (c : Col) : Int :=
  match s.partOf c with
  | some p => p.cyc
  | none => s.tick
/-- The cycle number of a partition by its number. -/
def State.partNow (s : State) (n : BitVec 16) : Int :=
  match s.part n with
  | some p => p.cyc
  | none => s.tick
def State.partNum (s : State) (c : Col) : BitVec 16 := ((s.partOf c).map (·.num)).getD 0
/-- The die-local count CYC of a column's partition (R37, R38). -/
def State.off (s : State) (c : Col) : Int :=
  match s.partOf c with
  | some p => p.offs[dieOf c]
  | none => 0
def State.cyc (s : State) (c : Col) : Dword := BitVec.ofInt 64 (s.now c + s.off c)
/-- BASE as a partition cycle number. -/
def State.baseAt (s : State) (c : Col) : Int := ((s.unit c).ctl.base.toNat : Int) - s.off c

/-- Update a unit, a vault, a slot, the launch layer or a partition. -/
def onUnit (c : Col) (f : UnitSt → UnitSt) : Act := fun s => [.unit c (f (s.unit c))]
def onVault (c : Col) (f : VaultSt → VaultSt) : Act := fun s => [.vault c (f (s.vault c))]
def onSlot (c : Col) (f : Slot → Slot) : Act := fun s => [.slot c (f (s.slot c))]
def onDie (d : Die) (f : DieSt → DieSt) : Act := fun s => [.die d (f (s.die d))]
def onWork (f : Work → Work) : Act := fun s => [.work (f s.work)]
def onPart (n : BitVec 16) (f : Part → Part) : Act := fun s => [.parts (s.parts.map (fun p => if p.num == n then f p else p))]
def onPkg (f : Pkg → Pkg) : Act := fun s => [.pkg (f s.pkg)]
def onTxn (id : Nat) (f : Txn → Txn) : Act := fun s => [.txns (s.txns.map (fun t => if t.id == id then f t else t))]
def dropTxn (id : Nat) : Act := fun s => [.txns (s.txns.filter (fun t => t.id != id))]
/-- Update block k of a transaction. -/
def onArr (id k : Nat) (f : Arr → Arr) : Act :=
  onTxn id (fun t => { t with arrs := (List.range t.arrs.length).zip t.arrs |>.map (fun x => if x.1 == k then f x.2 else x.2) })
/-- The dirty bit of a block outside the package (R109). -/
def markExt (b : Nat) (dirty : Bool) : Act := fun s =>
  let l := s.extDirty.filter (fun x => x != b)
  [.extDirty (if dirty then b :: l else l)]
def report (r : Report) : Act := fun s => [.outbox (s.outbox ++ [r])]
/-- Put an event on the present cycle, before what is left of it. -/
def eventNow (e : Ev) : Act := fun s => [.agenda (.event e :: s.agenda)]
/-- An event on a cycle of a column's partition; a past cycle means the present one. -/
def eventAt (c : Col) (x : Int) (e : Ev) : Act := fun s =>
  if x ≤ s.now c then [.agenda (.event e :: s.agenda)]
  else [.timers (s.timers ++ [{ part := (s.partOf c).map (·.num), at_ := x, ev := e }])]
def eventAtPart (n : BitVec 16) (x : Int) (e : Ev) : Act := fun s =>
  if x ≤ s.partNow n then [.agenda (.event e :: s.agenda)]
  else [.timers (s.timers ++ [{ part := some n, at_ := x, ev := e }])]
/-- An event of a column that its cycle takes after what happens of itself at the beginning of the cycle, the tokens' countdown among it, where the
cycle has that still before it (R21, R36). -/
def eventDue (c : Col) (x : Int) (e : Ev) : Act := fun s =>
  let starts := (s.partOf c).map (fun p => Task.begin p.num)
  if x ≤ s.now c && s.agenda.any (fun t => some t == starts) then
    [.agenda (s.agenda.takeWhile (fun t => some t != starts) ++ starts.toList ++ .event e :: (s.agenda.dropWhile (fun t => some t != starts)).drop 1)]
  else eventAt c x e s
def eventTick (x : Int) (e : Ev) : Act := fun s => [.timers (s.timers ++ [{ part := none, at_ := x, ev := e }])]
/-- The next identity, from 1. -/
def fresh (f : Nat → Act) : Act := fun s => Upd.nextId (s.nextId + 1) :: f (s.nextId + 1) s
/-- The next free value (log entry 7). -/
def draw (n : Nat) (f : Nat → Act) : Act := fun s => Upd.free (s.free + n) :: f s.free s

/-- The list without the first element that satisfies a condition. -/
def dropFirst {α : Type} (p : α → Bool) : List α → List α
  | [] => []
  | x :: l => if p x then l else x :: dropFirst p l
/-- A list with its first element that satisfies a condition changed. -/
def mapFirst {α : Type} (p : α → Bool) (f : α → α) : List α → List α
  | [] => []
  | x :: l => if p x then f x :: l else x :: mapFirst p f l

/-- The first slot boundary at or after a cycle (R358). -/
def slotAfter (x : Int) : Int := -((-x) / 2048) * 2048

/-! ## Streams -/

def Stream.ix : Stream → Fin 6
  | .k => 0 | .d => 1 | .l => 2 | .m => 3 | .v => 4 | .s => 5
def streams : List Stream := [.k, .d, .l, .m, .v, .s]
def UnitSt.strm (u : UnitSt) (x : Stream) : Strm := u.ctl.strms[Stream.ix x]
def UnitSt.setStrm (u : UnitSt) (x : Stream) (t : Strm) : UnitSt :=
  { u with ctl := { u.ctl with strms := u.ctl.strms.set (Stream.ix x) t } }
def UnitSt.onStrm (u : UnitSt) (x : Stream) (f : Strm → Strm) : UnitSt := u.setStrm x (f (u.strm x))
/-- Add effects on later cycles. -/
def UnitSt.later (u : UnitSt) (ps : List Pend) : UnitSt := { u with pend := u.pend ++ ps }

/-! ## Faults (R375) -/

inductive Cause where
  | schedMiss | fetchRange | illegalInstruction | illegalEncoding | priv | stall | latchEmpty | format | poison | window | xlate
  | guard | refresh | map | farLate | early | record | barrier | wheel | race | stale | trap | break_
  deriving DecidableEq, Repr
/-- Codes of FAULTF.CAUSE (R375). -/
def Cause.code : Cause → Nat
  | .schedMiss => 0x01 | .fetchRange => 0x02 | .illegalInstruction => 0x03 | .illegalEncoding => 0x04 | .priv => 0x05 | .stall => 0x06
  | .latchEmpty => 0x07 | .format => 0x08 | .poison => 0x09 | .window => 0x0A | .xlate => 0x0B | .guard => 0x0C | .refresh => 0x0D
  | .map => 0x0E | .farLate => 0x0F | .early => 0x10 | .record => 0x11 | .barrier => 0x12 | .wheel => 0x13 | .race => 0x14
  | .stale => 0x15 | .trap => 0x16 | .break_ => 0x17
/-- A fault record with its kind and, where there is one, the address of the first offending block. -/
def flt (c : Cause) (kind : Nat := 0) (addr : Dword := 0) (info : Dword := 0) (acc : Nat := 0) : FaultRec :=
  { cause := BitVec.ofNat 8 c.code, kind := BitVec.ofNat 4 kind, acc := BitVec.ofNat 2 acc, addr := addr, info := info }

/-- The kinds of SCHED_MISS (R28). -/
inductive Miss where
  | token | tokfull | busy | stamp | latch | align | realign | phase | arrivals
  deriving DecidableEq, Repr
def Miss.code : Miss → Nat
  | .token => 1 | .tokfull => 2 | .busy => 3 | .stamp => 4 | .latch => 5 | .align => 6 | .realign => 7 | .phase => 8 | .arrivals => 9
def schedMiss (k : Miss) : FaultRec := flt .schedMiss k.code

/-- XPCM (R14, R290): 1 + (cycle − c) from the issue of an MMA until its signal cycle; of two that are in the engine it shows the older
(log entry 18). -/
def UnitSt.xpcm (u : UnitSt) (now : Int) : BitVec 16 :=
  match u.eng.mmas.find? (fun m => m.issue ≤ now && now < m.sig) with
  | some m => BitVec.ofInt 16 (1 + (now - m.issue))
  | none => 0
/-- MIDX's gather is under way (R291, R292). -/
def UnitSt.gathering (u : UnitSt) : Bool :=
  match u.eng.gather with
  | some g => !g.full
  | none => false
/-- XPCS and XPCC read zero when their engine is idle; what they read while it is busy is a free value (R14; log entry 18). -/
def UnitSt.xpcs (u : UnitSt) (now : Int) (free : Nat) : BitVec 16 :=
  if u.eng.sbusy ≤ now && u.eng.xcoll == 0 then 0 else Config.busyUpc free
def UnitSt.xpcc (u : UnitSt) (free : Nat) : BitVec 16 :=
  if u.eng.cmds.isEmpty then 0 else Config.busyUpc (free + 1)
/-- FUPC: XPCC, XPCS, XPCV (always 0, R14) and XPCM (R375). -/
def UnitSt.fupc (u : UnitSt) (now : Int) (free : Nat) : Dword :=
  (u.xpcc free) ++ (u.xpcs now free) ++ (0 : BitVec 16) ++ (u.xpcm now)

/-- FAULTF (R375). -/
def faultfWord (x : Stream) (f : FaultRec) (defer timed : Bool) (pend : Nat) : Dword :=
  BitVec.ofNat 64 (f.cause.toNat + (Stream.ix x).val * 2 ^ 8 + f.kind.toNat * 2 ^ 12 + f.acc.toNat * 2 ^ 20 +
    (boolCode defer) * 2 ^ 22 + (boolCode timed) * 2 ^ 23 + pend * 2 ^ 24)

/-- Fill the frame (R51, R375): the causes, the six program counters as they stand, the micro-program counters and CYC. -/
def UnitSt.fillFrame (u : UnitSt) (x : Stream) (f : FaultRec) (defer : Bool) (now : Int) (cyc : Dword) (free : Nat) : UnitSt :=
  { u with frm := { u.frm with
      faultf := faultfWord x f defer u.ctl.timed u.frm.queue.length
      faddr := f.addr, finfo := f.info
      fpc := .ofFn (fun i => (u.ctl.strms[i]).pc.truncate 18)
      fupc := u.fupc now free, fcyc := cyc } }
/-- A fault after HALT has issued takes it back (R54): K stands at its HALT, a word of its own, and no other stream issues any more; the tokens that
HALT consumed and sent stay consumed and sent (DESIGN CHOICE, log entry 32). -/
def UnitSt.backToHalt (u : UnitSt) : UnitSt :=
  if u.ctl.haltAt.isSome then ({ u with ctl := { u.ctl with closed := true } }).onStrm .k (fun t => { t with pc := t.pc - 4 }) else u
/-- Stop the unit: no stream is due, HALT is taken back (R54), and the unit is loose (R49). -/
def UnitSt.stop (u : UnitSt) : UnitSt :=
  { u with ctl := { u.ctl with timed := false, haltAt := none, strms := u.ctl.strms.map (fun t => { t with due := none }) } }
/-- A stream that has raised SCHED_MISS of kind REALIGN has its missed realignment cycle behind it (R45; log entry 45). -/
def UnitSt.pastRealign (u : UnitSt) (x : Stream) (f : FaultRec) : UnitSt :=
  if f == schedMiss .realign then u.onStrm x (fun t => { t with st := if t.st = .late then .run else t.st }) else u
/-- Enter the handler (R378): supervisor state, K at ENTRY, its first instruction counted from `last`. -/
def UnitSt.enterHandler (u : UnitSt) (last : Int) : UnitSt :=
  let u := { u with frm := { u.frm with insv := true } }
  u.onStrm .k (fun t => { t with pc := u.frm.entry.zeroExtend 64, last := last, due := none })

/-- The bound launch whose unit a column runs. -/
def State.launchOf (s : State) (c : Col) : Option Bound := s.work.bound.find? (fun b => !b.saved && b.cols.contains c)
def onBound (id : Nat) (f : Bound → Bound) : Act :=
  onWork (fun w => { w with bound := w.bound.map (fun b => if b.id == id then f b else b) })

/-- A fault escalates to a kill of the unit's queue (R379). -/
def escalate (c : Col) : Act := fun s => eventNow (.kill (s.slot c).qdie (s.slot c).qnum (some c)) s

/-- A fault in one unit holds every other unit of its launch at the first slot boundary at or after its cycle + 1,024 (R377). -/
def holdLaunch (c : Col) : Act := fun s =>
  match s.launchOf c with
  | some b =>
    Act.seq (onBound b.id (fun b => { b with faulted := if b.faulted.contains c then b.faulted else b.faulted ++ [c] }))
      (eventAtPart b.part (slotAfter (s.now c + 1024)) (.hold b.id c)) s
  | none => []

/-- Take a fault in stream x of a column's unit: the ONE way by which every fault is taken (R51, R375 to R379). In supervisor
state the first frame is kept and the fault escalates; otherwise the unit stops, the frame is filled, and the handler is entered,
or the fault escalates where there is none or the fault is MAP LOST, which is K's whatever stream meets it (R125). -/
def takeFault (c : Col) (x : Stream) (f : FaultRec) (defer : Bool := false) : Act := fun s =>
  let lost := f.cause == BitVec.ofNat 8 Cause.map.code && f.kind == 2
  let x := if lost then .k else x
  let u := ((s.unit c).backToHalt).pastRealign x f
  let now := s.now c
  if u.frm.insv then escalate c s
  else
    let filled := u.fillFrame x f defer now (s.cyc c) s.free
    let st := fun (k : Slot) => { k with st := if k.st = .stopping then .stopping else .stopped }
    if u.frm.en && !lost then
      Act.all [onUnit c (fun _ => (filled.stop).enterHandler now), onSlot c st, fun s => [.free (s.free + 2)], holdLaunch c] s
    else
      Act.all [onUnit c (fun _ => filled.stop), onSlot c st, fun s => [.free (s.free + 2)], escalate c] s

/-- Whether the unit of a column is one that a deferred fault stops at once: it runs, and no handler is in it (R376). -/
def State.issues (s : State) (c : Col) : Bool :=
  let k := (s.slot c).st
  let u := s.unit c
  (k == .waitBase || k == .running || k == .stopping) && !u.frm.insv && !u.ctl.prepped && !u.ctl.dead
/-- A deferred fault reaches the unit (R239, R376): taken, or queued up to four while the unit is stopped, held or in supervisor
state; a fifth escalates; a unit cancelled, killed or completed discards it. -/
def deferredFault (c : Col) (x : Stream) (f : FaultRec) : Act := fun s =>
  let k := (s.slot c).st
  let u := s.unit c
  if u.ctl.dead then []
  else if s.issues c then takeFault c x f true s
  else if k == .stopped || k == .held || k == .stopping then
    if u.frm.queue.length < 4 then
      onUnit c (fun u => { u with frm := { u.frm with queue := u.frm.queue ++ [(x, f)]
                                                      faultf := u.frm.faultf + (1 <<< 24 : Dword) } }) s
    else escalate c s
  else []

/-- Deliver the oldest queued fault before any instruction issues, at ERET or RELEASE (R376, R378). -/
def deliverQueued (c : Col) : Act := fun s =>
  let u := s.unit c
  match u.frm.queue with
  | [] => []
  | (x, f) :: q => Act.seq (onUnit c (fun u => { u with frm := { u.frm with queue := q } })) (takeFault c x f true) s

/-- Return from the handler (R228, R378): every stream restarts at its FPC, counted from the ERET's issue cycle, loose, out of
supervisor state; the launch is released once its last faulted unit has returned (R377). A stream that waits at a point of realignment goes on
waiting there, its FPC past the IDLE.R, and its wait is not counted anew: after a STALL of that wait the next cycle raises STALL again (R45; DESIGN
CHOICE, log entry 11). -/
def UnitSt.leaveHandler (u : UnitSt) (now : Int) : UnitSt :=
  { u with
    ctl := { u.ctl with timed := false,
                        strms := .ofFn (fun i => { u.ctl.strms[i] with pc := (u.frm.fpc[i]).zeroExtend 64, last := now, due := none }) }
    frm := { u.frm with insv := false } }
def releaseLaunch (c : Col) : Act := fun s =>
  match s.launchOf c with
  | some b =>
    let left := b.faulted.filter (fun d => d != c)
    Act.seq (onBound b.id (fun b => { b with faulted := left }))
      (Act.when (left.isEmpty && b.faulted.contains c) (eventAtPart b.part (slotAfter (s.now c + 1024)) (.release b.id))) s
  | none => []
def returnFromHandler (c : Col) : Act := fun s =>
  Act.all [onUnit c (fun u => u.leaveHandler (s.now c)),
           onSlot c (fun k => { k with st := if k.st = .stopped then .running else k.st }),
           fun s => if (s.unit c).frm.queue.isEmpty then releaseLaunch c s else deliverQueued c s] s

end Sys2Proof.Machine
end

