-- ==== Sys2Proof/Machine/Flags.lean ====
section
/-! DEFINITION. Token counters and sync bits (R17 to R22), the numeric status NUMST (R89), and the words of the status
registers that hold flags: XMODE, TOK, PHASE, MAPV, TRAPV (R40, R22, R112, R374). -/
namespace Sys2Proof.Machine

/-! ## The dependency ring -/

/-- Counters in the order of TOK's fields: X→next(X) at 2i, next(X)→X at 2i + 1, i the place of X in the ring (R17, R22). -/
def fromPrev (x : Stream) : Fin 12 := Fin.ofNat 12 (2 * ((Stream.ix x).val + 5))
def fromNext (x : Stream) : Fin 12 := Fin.ofNat 12 (2 * (Stream.ix x).val + 1)
def toPrev (x : Stream) : Fin 12 := Fin.ofNat 12 (2 * ((Stream.ix x).val + 5) + 1)
def toNext (x : Stream) : Fin 12 := Fin.ofNat 12 (2 * (Stream.ix x).val)

/-- The counters that an instruction consumes from, and adds to (R18): WP 8, WN 4, SP 2, SN 1. -/
def waits (x : Stream) (sync : Fin 16) : List (Fin 12) :=
  (if sync.val / 8 % 2 == 1 then [fromPrev x] else []) ++ (if sync.val / 4 % 2 == 1 then [fromNext x] else [])
def signals (x : Stream) (sync : Fin 16) : List (Fin 12) :=
  (if sync.val / 2 % 2 == 1 then [toPrev x] else []) ++ (if sync.val % 2 == 1 then [toNext x] else [])

/-- A counter with the tokens on their way to it and those that an MMA may still return (R20, R143). -/
def UnitSt.tokLoad (u : UnitSt) (now : Int) (i : Fin 12) : Nat :=
  (u.ord.tok[i]).val + (u.ord.fly.filter (fun f => f.ix == i)).length +
    (u.ord.hold.filter (fun h => h.1 == i && now < h.2)).length

/-- The token condition of R20. -/
def UnitSt.tokenMiss (u : UnitSt) (x : Stream) (sync : Fin 16) (now : Int) : Option Miss :=
  if (waits x sync).any (fun i => (u.ord.tok[i]).val == 0) then some .token
  else if (signals x sync).any (fun i => 15 ≤ u.tokLoad now i) then some .tokfull
  else none

/-- Add to or take from a counter of four bits. -/
def tokAdd (t : Vector (Fin 16) 12) (i : Fin 12) : Vector (Fin 16) 12 := t.set i (Fin.ofNat 16 ((t[i]).val + 1))
def tokSub (t : Vector (Fin 16) 12) (i : Fin 12) : Vector (Fin 16) 12 := t.set i (Fin.ofNat 16 ((t[i]).val - 1))

/-- Consume and send the tokens of an instruction whose signal cycle lies `sig` cycles after its issue (R18, R19, R21);
`held` where the signal cycle is not known yet. -/
def UnitSt.sync (u : UnitSt) (x : Stream) (sync : Fin 16) (sig tag : Nat) (held : Bool) : UnitSt :=
  { u with ord := { u.ord with
      tok := (waits x sync).foldl tokSub u.ord.tok
      fly := u.ord.fly ++ (signals x sync).map (fun i => { ix := i, rem := sig, tag := tag, held := held }) } }

/-- One token more, or less, of those that a stream not past the ILOAD has sent (R222). -/
def aheadAdd (t : Vector Nat 12) (i : Fin 12) : Vector Nat 12 := t.set i (t[i] + 1)
def aheadSub (t : Vector Nat 12) (i : Fin 12) : Vector Nat 12 := t.set i (t[i] - 1)
/-- The streams that may still fetch a word that some ILOAD has replaced. -/
def Ordr.stale (o : Ordr) : List Stream := o.oldCode.flatMap (fun g => g.stale)
/-- What an ILOAD has replaced after stream x has issued an instruction with these sync bits. -/
def OldCode.past (g : OldCode) (x : Stream) (sync : Fin 16) : OldCode :=
  let took := waits x sync
  let stale := if took.any (fun i => g.ahead[i] == 0) then g.stale.filter (fun y => y != x) else g.stale
  let less := took.foldl aheadSub g.ahead
  { g with stale := stale, ahead := if stale.contains x then (signals x sync).foldl aheadAdd less else less }
/-- Which streams may still fetch the words that an ILOAD replaced: one that consumes a token which a stream past the ILOAD has sent sees the new ones,
and its own tokens carry that on. Of the tokens of a counter those that were sent before the ILOAD's order reached its sender are consumed first (R222; log
entry 14). -/
def UnitSt.codeOrder (u : UnitSt) (x : Stream) (sync : Fin 16) : UnitSt :=
    { u with ord := { u.ord with oldCode := (u.ord.oldCode.map (fun g => g.past x sync)).filter (fun g => !g.stale.isEmpty) } }
/-- The tokens of each counter, there or on their way. -/
def Ordr.sent (o : Ordr) : Vector Nat 12 := .ofFn (fun i => (o.tok[i]).val + (o.fly.filter (fun f => f.ix == i)).length)
/-- The store as an ILOAD has changed it, block by block: every other stream may still see these words as they were, and every token that is there or on its
way was sent before. Words go with those of the last change as long as no stream and no token is past that one (R222; log entry 14). -/
def UnitSt.codeChanged (u : UnitSt) (old : List (Nat × Word)) : UnitSt :=
  let g : OldCode := { words := old, stale := [.d, .l, .m, .v, .s], ahead := u.ord.sent }
  { u with ord := { u.ord with oldCode := match u.ord.oldCode with
      | h :: r => if h.stale == g.stale && h.ahead == g.ahead then { h with words := h.words ++ old } :: r else g :: h :: r
      | [] => [g] } }

/-- M's tokens as an MMA that has not executed leaves them (R290): those it consumed are back, and those it was due to send are withdrawn. -/
def UnitSt.mmaTokens (u : UnitSt) (took : List (Fin 12)) (tag : Nat) : UnitSt :=
  let tok := took.foldl tokAdd u.ord.tok
  let fly := u.ord.fly.filter (fun f => f.tag != tag)
  let o : Ordr := { u.ord with tok := tok, fly := fly }
  let back := fun (g : OldCode) =>
    let ahead := if g.stale.contains .m then took.foldl aheadAdd g.ahead else g.ahead
    { g with ahead := .ofFn (fun i => min ahead[i] o.sent[i]) }
  { u with ord := { o with oldCode := o.oldCode.map back } }

/-! ## Words of status registers -/

/-- TOK (R22). -/
def UnitSt.tokWord (u : UnitSt) : Dword :=
  BitVec.ofNat 64 ((List.range 12).foldl (fun a i => a + (u.ord.tok[Fin.ofNat 12 i]).val * 16 ^ i) 0)
/-- XMODE (R40). -/
def UnitSt.xmodeWord (u : UnitSt) : Dword :=
  BitVec.ofNat 64 (boolCode u.ctl.rpend * 8 + boolCode u.ctl.decl * 4 + boolCode u.ctl.aligned * 2 + boolCode u.ctl.timed)
/-- PHASE (R112). -/
def UnitSt.phaseWord (u : UnitSt) : Dword :=
  let m := u.maps
  BitVec.ofNat 64 (boolCode (!m.duals.isEmpty) * 2 ^ 11 + boolCode m.ready * 2 ^ 10 + boolCode m.active * 2 ^ 9 +
    boolCode m.valid * 2 ^ 8 + m.tgt.val * 2 ^ 4 + m.cur.val)
/-- MAPV (R112). -/
def UnitSt.mapvWord (u : UnitSt) : Dword :=
  BitVec.ofNat 64 ((List.range 16).foldl (fun a i => a + boolCode (u.maps.maps[Fin.ofNat 16 i]).isSome * 2 ^ i) 0)
/-- TRAPV (R374). -/
def UnitSt.trapvWord (u : UnitSt) : Dword :=
  BitVec.ofNat 64 (boolCode u.frm.en * 2 ^ 63 + boolCode u.frm.insv * 2 ^ 62 + u.frm.entry.toNat)
/-- QCn (R97). -/
def QCtl.word (q : QCtl) : Dword :=
  BitVec.ofNat 64 (q.free * 2 ^ 40 + q.depth * 2 ^ 28 + q.esz.val * 2 ^ 26 + q.base * 2 ^ 12 + q.head)
/-- A control word as it is written: HEAD 0 and FREE the depth (R97, R249). -/
def QCtl.ofWord (w : Dword) : QCtl :=
  let n := w.toNat
  let d := bits n 39 28
  { free := d, depth := d, esz := Fin.ofNat 4 (bits n 27 26), base := bits n 25 12, head := 0 }
/-- Bytes of a slot (R97). -/
def QCtl.slotBytes (q : QCtl) : Nat :=
  match q.esz with
  | 0 => 64 | 1 => 128 | 2 => 256 | 3 => 640
/-- A ring that would pass SP's end (R98). -/
def QCtl.passes (q : QCtl) : Bool := 64 * q.base + q.depth * q.slotBytes > 2 ^ 20

/-! ## NUMST (R89) -/

/-- Sticky bits set at a signal cycle; nothing is scheduled where none are. -/
def numstAt (at_ : Int) (x : Stream) (m : NumBits) : List Pend := if m == 0 then [] else [{ at_ := at_, stream := x, eff := .numst m }]

end Sys2Proof.Machine
end

