-- ==== Sys2Proof/Machine/Operands.lean ====
section
/-! DEFINITION. Operand forms: scalar and vector registers, predicates and rotation (R183, R207, R299, R300), lanes of row images
(R83), generic addresses and windows (R91 to R96), layout records and tiles (R234 to R236), and translation (R113, R114). -/
namespace Sys2Proof.Machine

/-! ## Scalar registers (R183) -/

/-- S0 reads as zero with tail 0b00. -/
def Regs.rd (g : Regs) (r : Fin 64) : SVal := if r = 0 then .zero else g.s[r]
/-- A write to S0 is discarded. -/
def Regs.wr (g : Regs) (r : Fin 64) (v : SVal) : Regs := if r = 0 then g else { g with s := g.s.set r v }
def UnitSt.s (u : UnitSt) (r : Fin 64) : SVal := u.regs.rd r
def UnitSt.sd (u : UnitSt) (r : Fin 64) : Dword := (u.regs.rd r).data
/-- A float operand in format F: the low bits of the data with the tail (R194). -/
def SVal.pair (v : SVal) (f : Fmt) : Pair := { v := v.data.toNat % 2 ^ f.width, t := v.tail.toNat }
/-- A float result in a scalar register (R83, R194). -/
def SVal.ofPair (p : Pair) : SVal := { data := BitVec.ofNat 64 p.v, tail := BitVec.ofNat 2 p.t }
/-- An integer result: tail 0b00 (R71). -/
def SVal.ofData (d : Dword) : SVal := { data := d, tail := 0 }

/-- Whether a pending effect writes scalar register r at or after a cycle. -/
def Pend.writesS (p : Pend) (r : Fin 64) (x : Int) : Bool :=
  match p.eff with
  | .sreg d _ => d == r && x ≤ p.at_
  | .capture _ _ _ (.sF d _ _) due => d == r && x ≤ due
  | .capture _ _ _ (.sI d _ _) due => d == r && x ≤ due
  | _ => false
/-- The cycle on which a block that its owner has served reaches the arrival buffer: it is known, or the block is on its way to a link that it takes when it is
there (R131, R401). -/
def State.arrives (s : State) (t : Txn) (k : Nat) (a : Arr) (now : Int) : Option Int :=
  a.at_.orElse (fun _ => s.links.findSome? (fun b => match b.go with
    | .back tx j rest => if tx == t.id && j == k then some (max b.ready now + rest) else none
    | _ => none))
/-- A GLOBAL load of K that may still write r at or after a cycle (R185, R200): a block that its owner has served lands on its formula cycle, or when it is there; one
that is not served yet may land on any (log entry 26). -/
def State.writesS (s : State) (t : Txn) (c : Col) (r : Fin 64) (now x : Int) : Bool :=
  t.who.col == c && ((List.range t.arrs.length).zip t.arrs).any (fun y => match s.arrives t y.1 y.2 now with
      | some z => decide (x ≤ max (y.2.form.getD z) z)
      | none => true) &&
    match t.kind with
    | .load (.sF d _ _) => d == r
    | .load (.sI d _ _) => d == r
    | _ => false
/-- The BUSY cases of R185: a read of a register whose write is pending after the cycle, a write at or before a pending one; `first` are loads that are
known to land before the instruction's own write. -/
def kBusy (s : State) (c : Col) (u : UnitSt) (now : Int) (reads : List (Fin 64)) (write : Option (Fin 64)) (n : Nat) (first : Txn → Bool := fun _ => false) :
    Option Miss :=
  let pending := fun r x (ts : List Txn) => r != (0 : Fin 64) && (u.pend.any (fun p => p.writesS r x) || ts.any (fun t => s.writesS t c r now x))
  if reads.any (fun r => pending r (now + 1) s.txns) || (write.toList.any (fun r => pending r (now + n) (s.txns.filter (fun t => !first t)))) then some .busy
  else none

/-! ## Vector registers and predicates -/

/-- Mapping of names by rotation (R207). -/
def Regs.physV (g : Regs) (r : Fin 64) : Fin 64 :=
  if r.val < 32 then r else Fin.ofNat 64 (32 + (r.val - 32 + g.vrb.toNat) % 32)
def Regs.physP (g : Regs) (p : Fin 16) : Fin 16 :=
  if p.val < 8 then p else Fin.ofNat 16 (8 + (p.val - 8 + g.prb.toNat) % 8)
/-- Row j of tile t among the 256 rows; V0 to V63 are the rows of T0 (R29, R282, R301). -/
def tileRow (t : Fin 4) (j : Nat) : Fin 256 := Fin.ofNat 256 (t.val * 64 + j)
def vRow (r : Fin 64) : Fin 256 := Fin.ofNat 256 r.val
def UnitSt.v (u : UnitSt) (r : Fin 64) : Row := u.regs.tiles[vRow (u.regs.physV r)]
/-- P0 reads all-true (R300). -/
def UnitSt.p (u : UnitSt) (p : Fin 16) : BitVec 1024 := if p = 0 then BitVec.allOnes 1024 else u.regs.p[u.regs.physP p]

/-- Lane k of width w, and its tail: the pair of its lowest data byte (R83). -/
def Row.lane (r : Row) (w k : Nat) : Nat := r.data.toNat / 2 ^ (w * k) % 2 ^ w
def Row.laneTail (r : Row) (w k : Nat) : Nat := if w < 8 then 0 else r.tail.toNat / 2 ^ (2 * (w / 8) * k) % 4
def Row.pair (r : Row) (w k : Nat) : Pair := { v := r.lane w k, t := r.laneTail w k }
/-- A number of fields of w bits each, the first the lowest. -/
def packNat (w : Nat) (l : List Nat) : Nat := l.foldr (fun v a => a * 2 ^ w + v % 2 ^ w) 0
/-- A row from its lanes and their tails. -/
def Row.ofLanes (w : Nat) (l : List Pair) : Row :=
  { data := BitVec.ofNat 4096 (packNat w (l.map (·.v)))
    tail := if w < 8 then 0 else BitVec.ofNat 1024 (packNat (2 * (w / 8)) (l.map (·.t))) }
/-- The lanes of a row as lanes of a type, each with the tail of its lowest data byte; its other pairs are 0b00 (R83). -/
def Row.asLanes (r : Row) (t : VTy) : Row := Row.ofLanes t.width ((List.range t.lanes).map (r.pair t.width))
/-- The data bits, and the tail pairs, of the lanes that a predicate selects; a 4-bit lane's byte has its pair written 0b00. -/
def laneMask (w n : Nat) (p : Nat → Bool) : BitVec 4096 :=
  BitVec.ofNat 4096 (packNat w ((List.range n).map (fun k => if p k then 2 ^ w - 1 else 0)))
def tailMask (w n : Nat) (p : Nat → Bool) : BitVec 1024 :=
  if w < 8 then BitVec.ofNat 1024 (packNat 2 ((List.range (n / 2)).map (fun k => if p (2 * k) || p (2 * k + 1) then 3 else 0)))
  else BitVec.ofNat 1024 (packNat (2 * (w / 8)) ((List.range n).map (fun k => if p k then 2 ^ (2 * (w / 8)) - 1 else 0)))
/-- Merge selected bits into a row. -/
def Row.merge (r : Row) (dm : BitVec 4096) (tm : BitVec 1024) (v : Row) : Row :=
  { data := (r.data &&& ~~~dm) ||| (v.data &&& dm), tail := (r.tail &&& ~~~tm) ||| (v.tail &&& tm) }
def allData : BitVec 4096 := BitVec.allOnes 4096
def allTail : BitVec 1024 := BitVec.allOnes 1024

/-- Write of a whole row. -/
def rowWrite (r : Fin 256) (v : Row) : Eff := .row r allData allTail v

/-! ## Addresses and windows (R91, R92) -/

def tagOf (a : Dword) : Nat := a.toNat / 2 ^ 60
def offOf (a : Dword) : Nat := a.toNat % 2 ^ 60
/-- Bytes of the windows that exist (R91). -/
def windowSize : Nat → Nat
  | 0 => 2 ^ 48 | 1 => 2 ^ 21 | 2 => 2 ^ 20 | 3 => 2 ^ 20 | 4 => 0x28000 | 5 => 0x4000
  | _ => 0
/-- The first kind among TAG, STRADDLE and RANGE that an access meets; 0 for none (R92). -/
def windowKind (a : Dword) (len : Nat) : Nat :=
  let last := a.toNat + (max len 1 - 1)
  if 6 ≤ tagOf a then 1
  else if last / 2 ^ 60 != tagOf a then 2
  else if windowSize (tagOf a) < offOf a + max len 1 then 3
  else 0
/-- LEA: the tag kept, the offsets added modulo 2^60 (R193, R234). -/
def lea (a b : Dword) : Dword :=
  BitVec.ofNat 64 (tagOf a * 2 ^ 60 + (offOf a + offOf b) % 2 ^ 60)
/-- The memory of a window that lies in the column (R91). -/
def winMem : Nat → Option Mem
  | 1 => some .wb | 2 => some .ab | 3 => some .sp
  | _ => none
/-- WINDOW by kind (R92). -/
def windowFault (kind : Nat) (a : Dword) : FaultRec := flt .window kind a
/-- The checks of R92 in order, with an alignment and the windows that R93 and R94 allow. -/
def checkAccess (a : Dword) (len align : Nat) (allowed : List Nat) : Option FaultRec :=
  let k := windowKind a len
  if k != 0 then some (windowFault k a)
  else if a.toNat % align != 0 then some (windowFault 4 a)
  else if !allowed.contains (tagOf a) then some (windowFault 5 a)
  else none

/-- The bank that serves an offset (R96), and the bytes of a bank word (R93). -/
def bankWord : Mem → Nat
  | .wb => 16 | .ab => 8
  | _ => 64
def bankOf (m : Mem) (a : Nat) : Nat :=
  match m with
  | .wb => ((a / 16) ^^^ (a / 256)) % 16
  | .ab => ((a / 8) ^^^ (a / 128)) % 16
  | _ => a / 64 % 16
/-- Cycles that an access holds its port: the largest number of its bank words in one bank (R96). -/
def occOf (m : Mem) (spans : List (Nat × Nat)) : Nat :=
  let bw := bankWord m
  let words := spans.flatMap (fun s => (List.range ((s.1 + s.2 + bw - 1) / bw - s.1 / bw)).map (fun i => bankOf m ((s.1 / bw + i) * bw)))
  max 1 ((List.range 16).foldl (fun a b => max a (words.filter (· == b)).length) 0)

/-! ## Layout records and tiles (R235, R236) -/

/-- A layout record by its fields. -/
structure Layout where
  fill  : Nat
  fscl  : Byte
  ffmt  : Byte
  ltype : VTy
  t     : Bool
  wcl   : Nat
  clc   : Nat
  clr   : Nat
  cols  : Nat
  rows  : Nat
  rstr  : Dword
  base  : Dword
  resv  : Bool

def vtyOf (n : Nat) : VTy := (VTy.ofCode (n % 16)).getD .i8
def layoutOf (w : BitVec 512) : Layout :=
  let n := w.toNat
  { fill := bits n 511 448, fscl := BitVec.ofNat 8 (bits n 447 440), ffmt := BitVec.ofNat 8 (bits n 439 432), ltype := vtyOf (bits n 423 420),
    t := flag (bits n 419 419), wcl := bits n 418 416, clc := bits n 415 400, clr := bits n 399 384, cols := bits n 383 368,
    rows := bits n 367 352, rstr := BitVec.ofNat 64 (bits n 255 192), base := BitVec.ofNat 64 (bits n 63 0),
    resv := bits n 431 424 != 0 || bits n 351 256 != 0 || bits n 191 64 != 0 }
/-- A layout record as it stands on the cycle: without an LFENCE a read sees the old record until the cycle on which a write takes effect, and the new one
from then on (R220; DESIGN CHOICE, log entry 73). -/
def UnitSt.ly (u : UnitSt) (y : Fin 256) : Layout := layoutOf u.regs.ly[y]
/-- Element width of a class: 4, 8, 16, 32, 64 bits. -/
def Layout.w (l : Layout) : Nat := 4 * 2 ^ l.wcl
def Layout.fillElem (l : Layout) : Nat := l.fill % 2 ^ l.w
def recordFault (kind : Nat) : FaultRec := flt .record kind
/-- RECORD of kind FIELD, but for the lane type, which the instruction judges. -/
def Layout.fieldBad (l : Layout) : Bool :=
  l.resv || 5 ≤ l.wcl || l.rows == 0 || l.cols == 0 || l.base.toNat % 64 != 0 || l.rstr.toNat % 64 != 0
/-- Elements in a block, blocks of a row, and bytes of a row's elements. -/
def Layout.perBlk (l : Layout) : Nat := 512 / l.w
def Layout.rowBlks (l : Layout) : Nat := (l.cols * l.w + 511) / 512
def Layout.rowBytes (l : Layout) : Nat := (l.cols * l.w + 7) / 8
def Layout.elems (l : Layout) : Nat := l.rows * l.cols
def Layout.blks (l : Layout) : Nat := l.rows * l.rowBlks
/-- row_addr(r) with an address register, and without one, where BASE's tag chooses the window (R234, R236). -/
def Layout.rowAddr (l : Layout) (addr : Dword) (r : Nat) : Dword := lea addr (l.base + l.rstr * BitVec.ofNat 64 r)
def Layout.ownRow (l : Layout) (r : Nat) : Dword := lea l.base (l.rstr * BitVec.ofNat 64 r)
/-- Row and column of element k (R236). -/
def Layout.elemAt (l : Layout) (k : Nat) : Nat × Nat := if l.t then (k % l.rows, k / l.rows) else (k / l.cols, k % l.cols)
def Layout.clipped (l : Layout) (r c : Nat) : Bool := l.clr ≤ r || l.clc ≤ c
/-- A block none of whose elements is read. -/
def Layout.blkClipped (l : Layout) (r j : Nat) : Bool := l.clr ≤ r || l.clc ≤ j * l.perBlk

/-- A tile as an access meets it: the address of each of its blocks in block order, and whether clipping leaves it unread. -/
structure TileBlk where
  addr : Dword
  skip : Bool
  row  : Nat
  j    : Nat
  deriving Repr
/-- The blocks of `rows` rows whose addresses `at_` gives. -/
def Layout.tileBlks (l : Layout) (rows : Nat) (at_ : Nat → Dword) (idx : Nat → Nat) : List TileBlk :=
  (List.range rows).flatMap (fun r => (List.range l.rowBlks).map (fun j =>
    { addr := at_ r + BitVec.ofNat 64 (64 * j), skip := l.blkClipped (idx r) j, row := r, j := j }))
/-- The checks of R92 on each row's first and last byte; a row has to be a multiple of 64 (R234). -/
def Layout.checkRows (l : Layout) (rows : Nat) (at_ : Nat → Dword) (allowed : List Nat) : Option FaultRec :=
  (List.range rows).findSome? (fun r => checkAccess (at_ r) l.rowBytes 64 allowed)
/-- The fill element in every element of a block (R235). -/
def Layout.fillBlk (l : Layout) : BitVec 512 := BitVec.ofNat 512 (packNat l.w (List.replicate l.perBlk l.fillElem))
/-- Block j of row r as clipping leaves it (R236, R257): a wholly clipped block is the fill under FFMT, FSCL; a clipped element of
another block is the fill under the block's own header. -/
def Layout.clip (l : Layout) (r j : Nat) (b : Blk) : Blk :=
  if l.blkClipped r j then { hd := { fmt := l.ffmt, scl := l.fscl }, pay := l.fillBlk }
  else if l.cols ≤ l.clc then b
  else
    let m := BitVec.ofNat 512 (packNat l.w ((List.range l.perBlk).map (fun i =>
      let c := j * l.perBlk + i
      if l.clc ≤ c && c < l.cols then 2 ^ l.w - 1 else 0)))
    { b with pay := (b.pay &&& ~~~m) ||| (l.fillBlk &&& m) }
/-- The blocks of a tile in block order, each clipped. -/
def Layout.clipAll (l : Layout) (bs : List Blk) : List Blk :=
  (List.zip (List.range bs.length) bs).map (fun x => l.clip (x.1 / max 1 l.rowBlks) (x.1 % max 1 l.rowBlks) x.2)
/-- The bytes of the rows that are read, for the occupancy of a port (R96). -/
def Layout.spans (l : Layout) (rows : Nat) (at_ : Nat → Dword) : List (Nat × Nat) :=
  (List.range rows).map (fun r => (offOf (at_ r), l.rowBytes))

/-! ## Translation (R108, R113, R114) -/

/-- Column and page of page g of an extent, by its placement, or by its home. -/
def placeOf (dielist : List Die) (hash : Bool) (col : Col) (ppn g : Nat) : Col × Nat :=
  if !hash then (col, ppn + g)
  else
    let n := max 1 dielist.length
    let die := dielist.getD (g % n) 0
    (Fin.ofNat 512 (die.val * 128 + (col.val % 128 + g / n) % 128), ppn + g / (n * 128))
def extHas (e : Extent) (page : Nat) : Bool := e.vpn ≤ page && page < e.vpn + e.pages
def findExtent (es : List Extent) (va : Nat) : Option Extent := es.find? (fun e => extHas e (va / 4096))

def extPlace (e : Extent) (dielist : List Die) (va : Nat) : Place :=
  let g := va / 4096 - e.vpn
  let p := placeOf dielist e.hash e.col e.ppn g
  let h := placeOf dielist e.hash e.hcol e.hppn g
  let o := va % 4096 / 64 * 64
  { col := p.1, pa := p.2 % 2 ^ 17 * 4096 + o, hcol := h.1, hpa := h.2 % 2 ^ 17 * 4096 + o, ext := e }
/-- Whether a place lies in another package (tier Loan, R108). -/
def Place.isLoan (p : Place) : Bool := p.ext.tier = 3
/-- The copy lies elsewhere than its home (R109); the home of a floating page is a vault of the package. -/
def Place.isCopy (p : Place) : Bool := if p.isLoan then p.ext.fl else !(p.col == p.hcol && p.pa == p.hpa)

/-- What an access needs of an extent: RD 0, W 1, X 2, atomic W 3 (R113). -/
def extAllows (e : Extent) (acc : Nat) : Bool :=
  match acc with
  | 0 => e.rd
  | 2 => e.x
  | _ => e.w
/-- The phase mask of an XLATE record (R113). -/
def phaseMask (m : MapSt) (va acc : Nat) : Dword :=
  BitVec.ofNat 64 ((List.range 16).foldl (fun a n =>
    match m.maps[Fin.ofNat 16 n] with
    | some es => a + boolCode (es.any (fun e => extHas e (va / 4096) && extAllows e acc)) * 2 ^ n
    | none => a) 0)
def MapSt.current (m : MapSt) : List Extent := (m.maps[m.cur]).getD []
/-- Translate one block under a list of extents; the fault is XLATE NOMAP or PERM with the phase mask (R113). -/
def translate (dielist : List Die) (m : MapSt) (es : List Extent) (va acc : Nat) : Except FaultRec Place :=
  let bad := fun k => flt .xlate k (BitVec.ofNat 64 (va / 64 * 64)) (phaseMask m va acc) acc
  match findExtent es va with
  | none => .error (bad 1)
  | some e => if extAllows e acc then .ok (extPlace e dielist va) else .error (bad 2)
/-- Translate the blocks of an access under the unit's current map: the first failing block faults (R113). -/
def State.xlate (s : State) (u : UnitSt) (acc : Nat) : List Dword → Except FaultRec (List Place)
  | [] => .ok []
  | a :: l =>
    match translate s.pkg.dielist u.maps u.maps.current (offOf a) acc with
    | .error e => .error e
    | .ok p =>
      match State.xlate s u acc l with
      | .error e => .error e
      | .ok ps => .ok (p :: ps)

/-! ## The translation cache and the mirrors of a map (R116, R125, R126) -/

def mapFault (kind : Nat) : FaultRec := flt .map kind
/-- A block of a map that has failed in both mirrors, among those that a condition selects (R125). -/
def MapSt.lost (m : MapSt) (n : Fin 16) (f : Nat → Bool) : Bool := (m.mirrors[n]).1.any (fun b => f b && (m.mirrors[n]).2.contains b)
/-- A read of such blocks is served from the whole mirror, and the failed one is rewritten (R125). -/
def MapSt.mend (m : MapSt) (n : Fin 16) (f : Nat → Bool) : MapSt :=
  { m with mirrors := m.mirrors.set n ((m.mirrors[n]).1.filter (fun b => !f b), (m.mirrors[n]).2.filter (fun b => !f b)) }
/-- The block of a map that holds the record of an extent: 32 bytes of header, then 32 of each record (R110). -/
def mapBlk (es : List Extent) (e : Extent) : Nat := ((es.findIdx (fun x => x == e)) + 1) / 2
/-- The pinned ones of some extents come into the cache before what it holds, which has 64 entries (R116). -/
def MapSt.loadPins (m : MapSt) (es : List Extent) : MapSt :=
  let p := es.filter (·.pin)
  { m with cache := (p ++ m.cache.filter (fun e => !p.contains e)).take 64 }
/-- An extent comes into the cache; of a full one an entry goes by the free choice `n`, in timed mode no pinned one (R116; log entry 15). -/
def MapSt.cacheIn (m : MapSt) (e : Extent) (timed : Bool) (n : Nat) : MapSt :=
  let out := m.cache.filter (fun x => !(timed && x.pin))
  if m.cache.contains e then m
  else { m with cache := e :: (if m.cache.length < 64 then m.cache else m.cache.filter (fun x => some x != out[n % out.length]?)) }
/-- The cycles of a Wain that waits while its unit does not run come later (R124). -/
def MapSt.delayed (m : MapSt) (d : Int) : MapSt :=
  { m with t0 := m.t0 + d, readyAt := if m.active then m.readyAt + d else m.readyAt, carried := m.carried.map (fun k => { k with from_ := k.from_ + d }) }
/-- The Wain's progress and the dual writes as a restore resumes them, a number of cycles later (R124). -/
def MapSt.moved (m : MapSt) (d : Int) : MapSt :=
  let m := m.delayed d
  { m with lastRd := m.lastRd + d, carried := m.carried.map (fun k => { k with rd := k.rd + d }), duals := m.duals.map (fun k => { k with land := k.land + d }) }
/-- One more access to a page of a floating extent (R126). -/
def MapSt.see (m : MapSt) (page : Nat) : MapSt :=
  { m with seen := (page, ((m.seen.find? (fun x => x.1 == page)).map (·.2)).getD 0 + 1) :: m.seen.filter (fun x => x.1 != page) }
/-- The extents of the current map through which some addresses go and that are not in the cache, which loose accesses wait for (R116). -/
def UnitSt.missing (u : UnitSt) (addrs : List Dword) : List Extent :=
  if u.ctl.timed then []
  else (addrs.filterMap (fun a => if tagOf a = 0 then findExtent u.maps.current (offOf a) else none)).filter (fun e => !u.maps.cache.contains e)
/-- Blocks of the current map that a translation of some addresses reads: those of the extents that are not in the cache (R116, R125). -/
def UnitSt.walked (u : UnitSt) (addrs : List Dword) : List Nat :=
  ((addrs.filterMap (fun a => if tagOf a = 0 then findExtent u.maps.current (offOf a) else none)).filter (fun e => !u.maps.cache.contains e)).map
    (mapBlk u.maps.current)
/-- Walks begin for the extents that are not yet on their way into the cache. -/
def startWalks (c : Col) (es : List Extent) : Act := Act.each es (fun e => fun s =>
  if (s.unit c).maps.walks.any (fun w => w.1 == e) then []
  else draw 1 (fun n => onUnit c (fun u => { u with maps := { u.maps with walks := u.maps.walks ++ [(e, s.now c + 1 + (Config.walkCycles n : Int))] } })) s)
/-- Every translation of some addresses is served at once: the cache holds what loose accesses need of it, and no block that is read is lost. -/
def UnitSt.mapped (u : UnitSt) (addrs : List Dword) : Bool := (u.missing addrs).isEmpty && !u.maps.lost u.maps.cur (u.walked addrs).contains

/-! ## Distances (R39, R130, R396, R406) -/

def absDiff (a b : Nat) : Nat := (a - b) + (b - a)
/-- Mesh hops between two columns of one die (R130). -/
def hops (a b : Col) : Nat := absDiff (xOf a) (xOf b) + absDiff (yOf a) (yOf b)
/-- The bridge column of die d that faces die e (R396). -/
def bridge (d e : Die) : Nat × Nat :=
  if (d.val + 1) % 4 == e.val then (15, 3) else if (d.val + 3) % 4 == e.val then (3, 7) else (11, 7)
def hopsTo (c : Col) (b : Nat × Nat) : Nat := absDiff (xOf c) b.1 + absDiff (yOf c) b.2
/-- A column's site in the package frame (R395). -/
def site (c : Col) : Nat × Nat :=
  match dieOf c with
  | 0 => (xOf c, yOf c)
  | 1 => (23 - yOf c, xOf c)
  | 2 => (23 - xOf c, 23 - yOf c)
  | 3 => (yOf c, 23 - xOf c)
def State.latt (s : State) (d e : Die) : Nat := ((s.dies[d]).latt[e]).toNat
/-- ow(u, v): 2h on one die, 2(h₁ + h₂) + LATT across dies (R259). -/
def State.ow (s : State) (a b : Col) : Nat :=
  if dieOf a = dieOf b then 2 * hops a b
  else 2 * (hopsTo a (bridge (dieOf a) (dieOf b)) + hopsTo b (bridge (dieOf b) (dieOf a))) + s.latt (dieOf a) (dieOf b)
/-- Hops to the scale-out port column of the index x ÷ 4 (R406). -/
def hopsPort (c : Col) : Nat := hopsTo c (5 * (xOf c / 4), 0)
/-- The largest LATT entry over ordered pairs of distinct dies of the dielist (R132), and of the package (R340). -/
def State.maxLatt (s : State) (ds : List Die) : Nat :=
  ds.foldl (fun a d => ds.foldl (fun b e => if d = e then b else max b (s.latt d e)) a) 0
def State.bdly (s : State) : Int := 4 + (s.maxLatt [0, 1, 2, 3] : Int)

/-- The terms of a far-path access to a place (R131, R132): cycles to the owner and back without the bus, the bus and the wait;
`fixed` is w where the extent fixes it, and `loan` chooses the Loan row. Of a floating extent WORST gives the terms alone: the access reaches the
block where its TIER has it. -/
structure PathTerms where
  out   : Nat
  ret   : Nat
  fixed : Option Nat
  loan  : Bool
  walk  : Nat
  deriving Repr

/-- Tiers as an extent names them (R108). -/
def State.pathTerms (s : State) (c : Col) (p : Place) : PathTerms :=
  let e := p.ext
  let walk := if e.pin then 0 else 64
  if e.fl then
    match e.worst with
    | 0 => { out := 0, ret := 0, fixed := some e.waitb, loan := false, walk := walk }
    | 1 => { out := 44, ret := 44, fixed := some e.waitb, loan := false, walk := walk }
    | 2 => let l := s.maxLatt s.pkg.dielist
           { out := 88 + l, ret := 88 + l, fixed := some e.waitb, loan := false, walk := walk }
    | _ => { out := 2 * hopsPort c + 16 * e.loanb, ret := 2 * hopsPort c + 16 * e.loanb, fixed := none, loan := true, walk := walk }
  else if e.tier = 3 then
    { out := 2 * hopsPort c + 16 * e.loanb, ret := 2 * hopsPort c + 16 * e.loanb, fixed := none, loan := true, walk := walk }
  else { out := s.ow c p.col, ret := s.ow p.col c, fixed := none, loan := false, walk := walk }
/-- The true travel time to the owner, whatever the formula counts (R127, R129). -/
def State.travel (s : State) (c : Col) (p : Place) : Nat := s.ow c p.col
/-- The block number of memory outside the package (R417; log entry 22). -/
def extBlk (pkg addr : Nat) : Nat := pkg * 2 ^ 46 + addr / 64
def Place.extBlk (p : Place) : Nat := Sys2Proof.Machine.extBlk p.ext.lpkg (p.col.val * 2 ^ 29 + p.pa)

end Sys2Proof.Machine
end

