-- ==== Sys2Proof/Machine/SpecialRegs.lean ====
section
/-! DEFINITION. The special registers by selector (R149): what each reads, which hold SV fields, and what a write to each changes
(R9, R22, R40, R89, R97, R112, R206, R209, R233, R240, R264, R281, R322, R339, R340, R374, R375, R397, R403, R414, R422, R424). -/
namespace Sys2Proof.Machine

/-- The count on the board of a column's events before a position (R340). -/
def Part.boardCount (p : Part) (k : Col) (pos : Int) : Nat := (p.board.filter (fun e => e.1 == k && e.2 < pos)).length
/-- FRONTIER[k].EP of a unit: the low 32 bits of column k's count on the board as of the frontier's position (R340). -/
def State.frontier (s : State) (c k : Col) : Nat :=
  match s.partOf c with
  | some p => if p.cols.contains k then p.boardCount k (s.unit c).ord.fpos % 2 ^ 32 else 0
  | none => 0
/-- LATT (R40): latencies from die 3 to 0 to this die, then from this die to each. -/
def State.lattWord (s : State) (d : Die) : Dword :=
  BitVec.ofNat 64 ((List.range 4).foldl (fun a i =>
    a + s.latt (Fin.ofNat 4 i) d * 2 ^ (32 + 8 * i) + s.latt d (Fin.ofNat 4 i) * 2 ^ (8 * i)) 0)
/-- GEN (R403). -/
def State.genWord (s : State) (d : Die) : Dword :=
  let g := (s.dies[d]).gen
  g[3] ++ g[2] ++ g[1] ++ g[0]
/-- ZONE (R40). -/
def State.zoneWord (s : State) (c : Col) : Dword :=
  BitVec.ofNat 64 ((s.unit c).ctl.part.toNat * 2 ^ 16 + c.val)

/-- SNAPST (R414): round and state of the snapshot of the job that a column runs. -/
def State.snapstWord (s : State) (c : Col) : Dword :=
  match s.launchOf c with
  | none => 0
  | some b =>
    match s.work.snaps.find? (fun n => n.job == b.job) with
    | some n => BitVec.ofNat 64 (n.round.toNat * 2 ^ 32 + (if n.opened then 2 else 1))
    | none => 0
/-- What a special register reads (R149, R215). -/
def State.readSpec (s : State) (c : Col) (sel : Fin 4096) : Dword :=
  let u := s.unit c
  let n := sel.val
  let d := dieOf c
  if 0x200 ≤ n && n ≤ 0x3FF then BitVec.ofNat 64 (s.frontier c (Fin.ofNat 512 (n - 0x200)))
  else if 0x020 ≤ n && n ≤ 0x027 then u.regs.al[Fin.ofNat 8 (n - 0x020)]
  else if 0x028 ≤ n && n ≤ 0x02F then u.regs.as[Fin.ofNat 8 (n - 0x028)]
  else if 0x040 ≤ n && n ≤ 0x04F then (u.regs.qc[Fin.ofNat 16 (n - 0x040)]).word
  else if 0x014 ≤ n && n ≤ 0x017 then (u.regs.lc[Fin.ofNat 4 (n - 0x014)]).zeroExtend 64
  else if 0x035 ≤ n && n ≤ 0x037 then u.regs.trs[Fin.ofNat 3 (n - 0x035)]
  else if 0x052 ≤ n && n ≤ 0x057 then (u.frm.fpc[Fin.ofNat 6 (n - 0x052)]).zeroExtend 64
  else if 0x05A ≤ n && n ≤ 0x05D then u.frm.sscr[Fin.ofNat 4 (n - 0x05A)]
  else match n with
    | 0x000 => s.cyc c
    | 0x001 => u.ctl.base
    | 0x002 => s.zoneWord c
    | 0x003 => s.lattWord d
    | 0x004 => (s.dies[d]).orient
    | 0x005 => s.genWord d
    | 0x006 => u.xmodeWord
    | 0x007 => u.ctl.limit.zeroExtend 64
    | 0x008 => u.tokWord
    | 0x009 => u.regs.numst.zeroExtend 64
    | 0x00A => u.phaseWord
    | 0x00B => u.mapvWord
    | 0x00C => u.ord.epoch
    | 0x00D => s.pkg.lattol.zeroExtend 64
    | 0x00E => u.frm.faultf
    | 0x00F => u.trapvWord
    | 0x010 => u.regs.vrb.zeroExtend 64
    | 0x011 => u.regs.prb.zeroExtend 64
    | 0x012 => u.regs.noisec.zeroExtend 64
    | 0x013 => s.snapstWord c
    | 0x018 => u.regs.lreg
    | 0x019 => u.regs.lsav.zeroExtend 64
    | 0x030 => if u.regs.erc then 1 else 0
    | 0x031 => u.regs.netb.zeroExtend 64
    | 0x038 => u.regs.qsc
    | 0x03A => BitVec.ofInt 64 u.ord.scpos
    | 0x050 => u.frm.faddr
    | 0x051 => u.frm.finfo
    | 0x058 => u.frm.fupc
    | 0x05E => u.frm.fcyc
    | _ => 0

/-- A register that holds a field of access SV (R9, R215): STALLMAX, TOK, TRAPV, NOISEC, LREG, LSAV, NETB, the FPCs, SSCR. -/
def selSV (sel : Fin 4096) : Bool :=
  let n := sel.val
  n == 0x007 || n == 0x008 || n == 0x00F || n == 0x012 || n == 0x018 || n == 0x019 || n == 0x031 || (0x052 ≤ n && n ≤ 0x057) ||
    (0x05A ≤ n && n ≤ 0x05D)

/-- The RW and SV bits of LREG and of TRS (R209, R281). -/
def lregMask : Dword := 0xFFFFC0000000FFFF
def trsMask : Dword := 0x800000000000FFFF

/-- The unit after a special register's RW and SV fields take a value; RO fields do not change (R9, R41, R215). NUMST is W1C. -/
def UnitSt.writeSpec (u : UnitSt) (sel : Fin 4096) (v : Dword) : UnitSt :=
  let n := sel.val
  let g := u.regs
  if 0x020 ≤ n && n ≤ 0x027 then { u with regs := { g with al := g.al.set (Fin.ofNat 8 (n - 0x020)) v } }
  else if 0x028 ≤ n && n ≤ 0x02F then { u with regs := { g with as := g.as.set (Fin.ofNat 8 (n - 0x028)) v } }
  else if 0x040 ≤ n && n ≤ 0x04F then { u with regs := { g with qc := g.qc.set (Fin.ofNat 16 (n - 0x040)) (QCtl.ofWord v) } }
  else if 0x014 ≤ n && n ≤ 0x017 then { u with regs := { g with lc := g.lc.set (Fin.ofNat 4 (n - 0x014)) (v.truncate 32) } }
  else if 0x035 ≤ n && n ≤ 0x037 then { u with regs := { g with trs := g.trs.set (Fin.ofNat 3 (n - 0x035)) (v &&& trsMask) } }
  else if 0x052 ≤ n && n ≤ 0x057 then
    { u with frm := { u.frm with fpc := u.frm.fpc.set (Fin.ofNat 6 (n - 0x052)) (v.truncate 18) } }
  else if 0x05A ≤ n && n ≤ 0x05D then { u with frm := { u.frm with sscr := u.frm.sscr.set (Fin.ofNat 4 (n - 0x05A)) v } }
  else match n with
    | 0x007 => { u with ctl := { u.ctl with limit := v.truncate 32 } }
    | 0x008 => { u with ord := { u.ord with tok := .ofFn (fun i => Fin.ofNat 16 (bits v.toNat (4 * i.val + 3) (4 * i.val))) } }
    | 0x009 => { u with regs := { g with numst := g.numst &&& ~~~(v.truncate 7 &&& 0x7D) } }
    | 0x00F => { u with frm := { u.frm with en := v.getLsbD 63, entry := v.truncate 18 } }
    | 0x010 => { u with regs := { g with vrb := v.truncate 5 } }
    | 0x011 => { u with regs := { g with prb := v.truncate 3 } }
    | 0x012 => { u with regs := { g with noisec := v.truncate 2 } }
    | 0x018 => { u with regs := { g with lreg := v &&& lregMask } }
    | 0x019 => { u with regs := { g with lsav := v.truncate 32 } }
    | 0x030 => { u with regs := { g with erc := v.getLsbD 0 } }
    | 0x031 => { u with regs := { g with netb := v.truncate 16 } }
    | _ => u

end Sys2Proof.Machine
end

