-- ==== Sys2Proof/Machine/Issue.lean ====
section
/-! DEFINITION. How an instruction issues: the order of its checks (R143), the outcome of an unmet condition in the two modes
(R26, R27, R28), and what every completed instruction does besides its own effect (R15, R18, R23). -/
namespace Sys2Proof.Machine

/-- What an instruction would do if it issued now. -/
structure Attempt where
  /-- Check 2 or 3 of R143 that only the unit's state decides. -/
  illegal : Option FaultRec := none
  /-- Check 4: reserved to supervisor state, or barred from it. -/
  priv  : Bool := false
  /-- An issue condition of its own that fails (R26). -/
  miss  : Option Miss := none
  /-- The first fault that its description names. -/
  fault : Option FaultRec := none
  /-- Effects on later cycles. -/
  eff   : List Pend := []
  /-- Its other effects on the unit. -/
  unit  : UnitSt → UnitSt := id
  /-- Its effects outside the unit. -/
  more  : Act := Act.none
  /-- Where the program counter goes, if not to the next instruction. -/
  pc    : Option Dword := none
  /-- Cycles from issue to the signal cycle (R19). -/
  sig   : Nat := 1
  /-- The MMA that may still withdraw its tokens (R290), or the transaction whose landing is the signal cycle (R237). -/
  tag   : Nat := 0
  /-- The signal cycle is the landing of transaction `tag`. -/
  held  : Bool := false
  /-- What a stall of its own condition does in loose mode (PHADV, R120). -/
  stall : Act := Act.none
  /-- What follows the instruction on its own cycle (a fault of TRAP, the stop of PREP). -/
  after : Act := Act.none

/-- The program counter and issue(i) after an instruction of `len` words (R15, R23). -/
def Strm.advance (t : Strm) (now : Int) (len : Nat) (pc : Option Dword) : Strm :=
  { t with pc := pc.getD (t.pc + BitVec.ofNat 64 (4 * len)), last := now, due := none }

/-- The signal cycle of an instruction, of which completion takes account unless HALT has issued or issues with it (R54); that of a GLOBAL
load is its landing, which the unit tracks as an access. -/
def UnitSt.noteSig (u : UnitSt) (now : Int) (a : Attempt) : UnitSt :=
  if u.ctl.haltAt.isSome || a.held then u
  else { u with ctl := { u.ctl with sigs := (a.tag, now + (a.sig : Int)) :: u.ctl.sigs.filter (fun x => now < x.2) } }
/-- The unit after an instruction has issued: its effects, its tokens, its stream. -/
def UnitSt.complete (u : UnitSt) (x : Stream) (sync : Fin 16) (len : Nat) (now : Int) (a : Attempt) : UnitSt :=
  ((((a.unit ((u.codeOrder x sync).later a.eff)).noteSig now a).sync x sync a.sig a.tag a.held).onStrm x (fun t => t.advance now len a.pc))

/-! ## Fetch -/

/-- The bytes of the instruction store that a stream may fetch: its section, or, in supervisor state, the handler range (R12, R368). -/
def UnitSt.section (u : UnitSt) (x : Stream) : Nat × Nat :=
  if u.frm.insv && x == .k then (u.frm.hbase, 2 ^ 18) else ((u.strm x).lo, (u.strm x).hi)
/-- What the word at a byte of the store was before the ILOADs that a stream is not past (R222). -/
def Ordr.oldWords (o : Ordr) (x : Stream) (a : Nat) : List Word :=
  (o.oldCode.filter (fun g => g.stale.contains x)).flatMap (fun g => (g.words.filter (fun w => w.1 == a)).map (·.2))
/-- The word at a byte of the store, as a stream sees it: a word that an ILOAD has replaced may be seen as it was (R222; log entry 14). -/
def State.codeWord (s : State) (c : Col) (x : Stream) (a : Nat) : Nat :=
  let old := (s.unit c).ord.oldWords x a
  match ((List.range old.length).zip old).find? (fun w => Config.codeChoice (s.free + a + 2 ^ 18 * w.1)) with
  | some w => w.2.toNat
  | none => (s.mem c .store).bytes a 4
/-- The first word at a stream's program counter, where it lies in the section (R140, R141). -/
def State.firstWord (s : State) (c : Col) (x : Stream) : Option Nat :=
  let u := s.unit c
  let pc := (u.strm x).pc.toNat
  let r := u.section x
  if pc % 4 != 0 || pc < r.1 || r.2 < pc + 4 then none else some (s.codeWord c x pc)
/-- What a fetch finds at a stream's program counter: its words, as many as the first word's opcode asks for, or nothing where one lies
outside the section (R140, R141). -/
def State.fetch (s : State) (c : Col) (x : Stream) : Option (List Nat) :=
  let u := s.unit c
  let pc := (u.strm x).pc.toNat
  match s.firstWord c x with
  | none => none
  | some w =>
    let n := wordCount x (bits w 24 18)
    if (u.section x).2 < pc + 4 * n then none else some (w :: (List.range (n - 1)).map (fun i => s.codeWord c x (pc + 4 * (i + 1))))

/-! ## The turns of a cycle -/

/-- The turns that the streams of a column still have on the cycle. -/
def State.turnsLeft (s : State) (c : Col) : List Task :=
  s.agenda.takeWhile (fun t => match t with
    | .issue d _ _ | .ring d => d == c
    | _ => false)
/-- Other streams of the column still have their turn on the cycle. -/
def State.others (s : State) (c : Col) : Bool := (s.turnsLeft c).any (fun t => match t with
    | .issue .. => true
    | _ => false)
/-- The streams that have given up a turn of the cycle and have another one. -/
def State.yielded (s : State) (c : Col) : List Stream :=
  (s.turnsLeft c).filterMap (fun t => match t with
    | .issue _ x (_ + 1) => some x
    | _ => none)
/-- The sync bits of the instruction at a stream's program counter (R18, R139). -/
def State.nextSync (s : State) (c : Col) (x : Stream) : Fin 16 :=
  Fin.ofNat 16 (((s.fetch c x).getD []).foldl (fun a w => a ||| bits w 31 28) 0)
/-- K has given up a turn of the cycle, and its instruction is an XFER from a latch, which takes the older entry (R212). -/
def State.xferWaits (s : State) (c : Col) (x : Latch) : Bool :=
  (s.yielded c).contains .k && (match (s.fetch c .k).map (decode .k) with
    | some (.ok (.xfer _ _ y)) => y == x
    | _ => false)
/-- What SRD reads on a cycle: the register as it stands at the start of the cycle, before the other streams' instructions of it (R29, R215), which an SRD that
has given up a turn has kept. -/
def State.srdWord (s : State) (c : Col) (sel : Fin 4096) : Dword :=
  match (s.unit c).eng.srd.filter (fun x => x.1 == s.now c && 0 < s.cur.turn) with
  | some x => x.2
  | none => s.readSpec c sel
/-- An SRD that gives up a turn keeps what it has read. -/
def keepSrd (c : Col) (x : Stream) : Act := fun s =>
  if x == .k then
    match (s.fetch c .k).map (decode .k) with
    | some (.ok (.srd _ _ sel)) => onUnit c (fun u => { u with eng := { u.eng with srd := some (s.now c, s.srdWord c sel) } }) s
    | _ => []
  else []
/-- How many turns of a cycle a stream gives up for its tokens: with six streams no chain of them is longer. -/
def maxTurns : Nat := 6
/-- The turn of a stream that is known to issue together with others, which empty its counters on the same cycle, and the first one of a stream that is
not (R20; log entry 70). -/
def ringTurn : Nat := maxTurns + 1
def loneTurn : Nat := maxTurns + 2
/-- A turn that is given up for a full counter. -/
def givesUp (n : Nat) : Bool := decide (n < maxTurns) || (decide (loneTurn ≤ n) && decide (n < loneTurn + maxTurns))
/-- A stream that cannot issue before the other streams of its column, because its counter is full, takes its turn after them: what they consume on the
cycle is applied first (R20). Once one has given up as many turns as a chain can ask for, it is decided which of those left issue together. -/
def secondTurn (c : Col) (x : Stream) : Act := Act.seq (keepSrd c x) fun s =>
  let l := s.turnsLeft c
  let mark := if s.cur.turn + 1 == maxTurns && !l.contains (.ring c) then [Task.ring c] else []
  [.agenda (l ++ mark ++ Task.issue c x (if givesUp s.cur.turn then s.cur.turn + 1 else s.cur.turn) :: s.agenda.drop l.length)]
/-- Streams that issue together each fill a counter that another of them consumes from: those consumptions are applied first too (R20; log entry 70). -/
def State.together (s : State) (c : Col) (u : UnitSt) (x : Stream) (sync : Fin 16) (now : Int) : Bool :=
  s.cur.turn == ringTurn && (signals x sync).all (fun i =>
    u.tokLoad now i < 15 + ((s.turnsLeft c).filter (fun t => match t with
      | .issue _ y n => n == ringTurn && (waits y (s.nextSync c y)).contains i
      | _ => false)).length)

/-- The issue conditions: the tokens first, then ILOAD's hold of K (R222), then the instruction's own (R26; log entry 10). -/
def State.missOf (s : State) (c : Col) (u : UnitSt) (x : Stream) (sync : Fin 16) (now : Int) (a : Attempt) : Option Miss :=
  let own := if x == .k && (u.ctl.iload || now < u.ctl.kfree) then some .busy else a.miss
  match u.tokenMiss x sync now with
  | some m => if m == .tokfull && s.together c u x sync now then own else some m
  | none => own

/-- Issue an instruction of `len` words in the stream of the turn, or take the fault or the stall that R143 and R27 give. -/
def issueAs (x : Stream) (sync : Fin 16) (len : Nat) (f : State → Col → UnitSt → Int → Attempt) : Act := fun s =>
  let c := s.cur.col
  let u := s.unit c
  let now := s.now c
  let a := f s c u now
  match a.illegal with
  | some e => takeFault c x { e with addr := (u.strm x).pc } false s
  | none =>
    if x == .k && u.frm.insv && sync != 0 then takeFault c x (flt .illegalEncoding) false s
    else if a.priv then takeFault c x (flt .priv) false s
    else
      match s.missOf c u x sync now a with
      | some m =>
        if m == .tokfull && s.others c && (givesUp s.cur.turn || (u.tokenMiss x sync now).isNone || s.together c u x sync now) then
          secondTurn c x s
        else if u.ctl.timed then takeFault c x (schedMiss m) false s
        else if (u.tokenMiss x sync now).isSome then [] else a.stall s
      | none =>
        match a.fault with
        | some e => takeFault c x e false s
        | none => Act.all [onUnit c (fun u => u.complete x sync len now a), a.more, a.after] s

/-- What translation adds to an attempt: in loose mode it waits for the walk of an extent that is not in the cache (R116); a block of the map that
both mirrors have lost is MAP LOST, and one that a mirror has lost is rewritten (R125). -/
def Attempt.translated (a : Attempt) (c : Col) (u : UnitSt) (addrs : List Dword) : Attempt :=
  let ws := u.walked addrs
  if u.maps.lost u.maps.cur ws.contains then { a with fault := some (mapFault 2) }
  else
    let gone := u.missing addrs
    { a with
      miss := if a.miss.isNone && !gone.isEmpty then some .busy else a.miss
      stall := if gone.isEmpty then a.stall else Act.seq a.stall (startWalks c gone)
      unit := fun u => a.unit { u with maps := u.maps.mend u.maps.cur ws.contains } }

end Sys2Proof.Machine
end

