-- ==== Sys2Proof/Machine/Record.lean ====
section
/-! DEFINITION. How the Reeves read a job's GLOBAL words: work records and descriptors (R360, R361), group tables (R364), through the map that came with the
job (log entry 6), and the round of a unit and the snapshot of its job (R410, R411). -/
namespace Sys2Proof.Machine

def onJob (h : Dword) (f : Job → Job) : Act := onWork (fun w => { w with jobs := w.jobs.map (fun (j : Job) => if j.handle == h then f j else j) })
def State.job (s : State) (h : Dword) : Option Job := s.work.jobs.find? (fun j => j.handle == h)
/-- The place of a GLOBAL byte under a job's map. -/
def State.jobPlace (s : State) (j : Job) (va : Nat) : Option Place := (findExtent j.map va).map (fun e => extPlace e s.pkg.dielist va)
/-- The block at a place. -/
def State.placeBlk (s : State) (p : Place) : Blk := if p.isLoan then s.ext.blk p.extBlk else (s.mem p.col .vault).blk (p.pa / 64)
/-- n bytes of the block at a place, from byte `off`: in a vault, or outside the package (R417). -/
def State.placeBytes (s : State) (p : Place) (off n : Nat) : Nat :=
  if p.isLoan then s.ext.bytes (64 * p.extBlk + off) n else (s.mem p.col .vault).bytes (p.pa + off) n
/-- n bytes at a GLOBAL address of a job, within one block; an unmapped address reads as zero. -/
def State.jobBytes (s : State) (j : Job) (va n : Nat) : Nat :=
  match s.jobPlace j va with
  | some p => s.placeBytes p (va % 64) n
  | none => 0
/-- Word i of what an address of the job names; its window tag is not looked at (DESIGN CHOICE, log entry 42). -/
def State.jobWord (s : State) (j : Job) (a : Dword) (i : Nat) : Dword := BitVec.ofNat 64 (s.jobBytes j (offOf a + 8 * i) 8)

/-- The job whose unit a column runs. -/
def State.jobOf (s : State) (c : Col) : Dword :=
  match s.launchOf c with
  | some b => b.job
  | none => 0


/-! Words of a work record (R360). -/
def wDone : Nat := 0
def wCanc : Nat := 1
def wExpect : Nat := 2
def wParent : Nat := 3
def wHandle : Nat := 4
def wDeps : Nat := 5
def wCexp : Nat := 6
def wCdone : Nat := 7

/-- The records above a launch: graph and round (R363). -/
def State.graphOf (s : State) (j : Job) (desc : Dword) : Dword := s.jobWord j desc wParent
def State.roundRec (s : State) (j : Job) (desc : Dword) : Dword := s.jobWord j (s.graphOf j desc) wParent
/-- The round number of a unit: bits [31:0] of the HANDLE of its round's record (R410). -/
def State.roundOf (s : State) (c : Col) : BitVec 32 :=
  match s.launchOf c with
  | some b =>
    match s.job b.job with
    | some j => (s.jobWord j (s.roundRec j b.desc) wHandle).truncate 32
    | none => 0
  | none => 0
/-- The snapshot in force for a column's job (R411). -/
def State.snapOf (s : State) (c : Col) : Option Snap := s.work.snaps.find? (fun n => n.job == s.jobOf c)

end Sys2Proof.Machine
end

