-- ==== Sys2Proof/Machine/Land.lean ====
section
/-! DEFINITION. How effects take place on their cycle: loads from the blocks that reach them (R200, R201, R246 to R253), the
rows of an MMA (R85, R86, R288, R289), row copies (R295, R319), and every other scheduled write (R16, R29, R30). -/
namespace Sys2Proof.Machine

/-! ## Block checks (R65, R69) -/

/-- FORMAT of a block whose elements are decoded as class w by an instruction that accepts the types of `ok`: 0 for none, else the
kind of R65. A block of no class is rejected, not of another class (log entry 26). -/
def formatKind (fmt : Byte) (w : Nat) (ok : VTy → Bool) : Nat :=
  if !fmtAssigned fmt.toNat then 1
  else match tyOfCode fmt.toNat with
    | none => 3
    | some t => if t.width != w then 2 else if ok t then 0 else 3
def formatFault (kind : Nat) (addr : Dword) : FaultRec := flt .format kind addr
def poisonFault (addr : Dword) : FaultRec := flt .poison 0 addr
def headType (h : Head) : VTy := (tyOfCode h.fmt.toNat).getD .i8

/-- The block formats that a lane type accepts (R248). -/
def laneAccepts (lane bt : VTy) : Bool :=
  if lane.isF then true
  else if lane.isI then bt.isI && bt.width ≤ lane.width
  else if lane.isX then bt.isX && bt.width == lane.width
  else bt.isQ
/-- The lane value of an element code under a block's header (R71, R248). -/
def laneValue (lane : VTy) (h : Head) (code : Nat) : Pair × NumBits :=
  let bt := headType h
  match lane.fmt? with
  | some f =>
    if h.scl == 0xFF then ({ v := f.nanCode, t := 0 }, nPois)
    else rto (decodeElem bt h.scl.toNat code) f
  | none => ({ v := if lane.isI then wrap lane.width (bt.intVal code) else code, t := 0 }, 0)
/-- FORMAT, then POISON, of a block decoded into lanes of a type; in float lanes a poisoned block gives NaN (R69, R248). -/
def laneFault (lane : VTy) (w : Nat) (h : Head) (addr : Dword) : Option FaultRec :=
  let k := formatKind h.fmt w (laneAccepts lane)
  if k != 0 then some (formatFault k addr)
  else if h.scl == 0xFF && !lane.isF then some (poisonFault addr)
  else none

/-! ## Loads -/

/-- The first fault among the blocks that a load decodes, in block order, by their headers (R90, R201, R248, R252, R253). -/
def LoadDst.fault (d : LoadDst) (hds : List Head) (addrs : List Dword) : Option FaultRec :=
  let blocks := hds.zip addrs
  match d with
  | .sF _ f _ => blocks.findSome? (fun x =>
      let k := formatKind x.1.fmt f.width VTy.isF
      if k != 0 then some (formatFault k x.2) else none)
  | .sI _ t _ => blocks.findSome? (fun x =>
      let w := 8 * 2 ^ (t.code / 2)
      let k := formatKind x.1.fmt w VTy.isI
      if k != 0 then some (formatFault k x.2) else if x.1.scl == 0xFF then some (poisonFault x.2) else none)
  | .vec _ rec _ => blocks.findSome? (fun x => laneFault (layoutOf rec).ltype (layoutOf rec).w x.1 x.2)
  | .lrec _ => blocks.findSome? (fun x => if x.1.scl == 0xFF then some (poisonFault x.2) else none)
  | .latch _ _ =>
    match hds with
    | [] => none
    | h0 :: _ => blocks.findSome? (fun x =>
        if classOf x.1.fmt.toNat != classOf h0.fmt.toNat then some (formatFault 2 x.2)
        else if x.1 != h0 then some (formatFault 4 x.2) else none)
  | .code _ => blocks.findSome? (fun x =>
      if x.1.fmt != 0x20 then some (formatFault 3 x.2)
      else if x.1.scl == 0xFF then some (poisonFault x.2) else none)
  | .heads .. | .slot .. | .gather .. => none

/-- The lanes of a register load (R247, R248). -/
def vecLanes (l : Layout) (splat : Bool) (bs : List Blk) : List (Pair × NumBits) :=
  let n := if splat then l.ltype.lanes else l.elems
  (List.range n).map (fun k =>
    let rc := if splat then (0, k % l.cols) else l.elemAt k
    let b := bs.getD (rc.1 * l.rowBlks + rc.2 / l.perBlk) .clear
    let r := laneValue l.ltype b.hd (elemCode l.w b.pay (rc.2 % l.perBlk))
    if l.clipped rc.1 rc.2 then ({ r.1 with t := 0 }, r.2) else r)

/-- An operand latch from the blocks of a tile: with T = 0 latch row c is column c, with T = 1 latch row r is row r, each packed
from a fresh block (R253). -/
def latchOf (l : Layout) (bs : List Blk) : OpLatch :=
  let rows := if l.t then l.rows else l.cols
  let elems := if l.t then l.cols else l.rows
  let nb := (elems * l.w + 511) / 512
  let at_ := fun (i j : Nat) =>
    let rc := if l.t then (i, j) else (j, i)
    let b := bs.getD (rc.1 * l.rowBlks + rc.2 / l.perBlk) .clear
    elemCode l.w b.pay (rc.2 % l.perBlk)
  { rows := rows, elems := elems, w := l.w, hd := (bs.getD 0 .clear).hd,
    blks := (List.range rows).flatMap (fun i => (List.range nb).map (fun k =>
      BitVec.ofNat 512 (packNat l.w ((List.range (min l.perBlk (elems - k * l.perBlk))).map (fun j => at_ i (k * l.perBlk + j)))))) }

/-- Two payloads into a quarter of a row, tails 0b00 (R246). -/
def quarterEff (r : Fin 64) (q : Fin 4) (a b : Option (BitVec 512)) : Eff :=
  let part := fun (x : Option (BitVec 512)) (n m : Nat) => if x.isSome then (2 ^ n - 1) * 2 ^ m else 0
  let dm : BitVec 4096 := BitVec.ofNat 4096 ((part a 512 0 + part b 512 512) * 2 ^ (1024 * q.val))
  let tm : BitVec 1024 := BitVec.ofNat 1024 ((part a 128 0 + part b 128 128) * 2 ^ (256 * q.val))
  .row (vRow r) dm tm { data := BitVec.ofNat 4096 (((a.getD 0).toNat + (b.getD 0).toNat * 2 ^ 512) * 2 ^ (1024 * q.val)), tail := 0 }

/-- What a load writes, from the blocks of its tile in block order as clipping leaves them, and the NUMST bits it sets. -/
def LoadDst.effs (d : LoadDst) (bs : List Blk) : List Eff × NumBits :=
  let b := bs.getD 0 .clear
  match d with
  | .sF r f ix =>
    let p := if b.hd.scl == 0xFF then (nanPair .fp32, nPois)
      else rto (decodeElem (headType b.hd) b.hd.scl.toNat (elemCode f.width b.pay ix)) .fp32
    ([.sreg r (.ofPair p.1)], p.2)
  | .sI r t ix =>
    let w := 8 * 2 ^ (t.code / 2)
    ([.sreg r (.ofData (BitVec.ofInt 64 ((headType b.hd).intVal (elemCode w b.pay ix))))], 0)
  | .vec r rec splat =>
    let l := layoutOf rec
    let v := vecLanes l splat bs
    ([rowWrite (vRow r) (Row.ofLanes l.ltype.width (v.map (·.1)))], v.foldl (fun a x => a ||| x.2) 0)
  | .heads r _ =>
    ([rowWrite (vRow r) (Row.ofLanes 16 (bs.map (fun b => { v := b.hd.fmt.toNat + 256 * b.hd.scl.toNat, t := 0 })))], 0)
  | .lrec y => ([.lrec y b.pay], 0)
  | .latch l rec => ([.latch l (latchOf (layoutOf rec) bs)], 0)
  | .slot off _ => ([.blocks .sp ((List.range bs.length).zip bs |>.map (fun x => (off / 64 + x.1, x.2.whole)))], 0)
  | .gather fin rows _ elems rec _ =>
    ([.gather fin { rows := rows, elems := elems, w := (layoutOf rec).w, hd := b.hd, blks := bs.map (·.pay) }], 0)
  | .code off =>
    ([.blocks .store ((List.range bs.length).zip bs |>.map (fun x => (off / 64 + x.1, x.2.whole)))], 0)

/-- Clipping of a load's tile (R236). -/
def LoadDst.clip (d : LoadDst) (bs : List Blk) : List Blk :=
  match d with
  | .vec _ rec _ | .heads _ rec | .latch _ rec | .slot _ rec => (layoutOf rec).clipAll bs
  | .gather _ _ n _ rec idx => (List.range bs.length).zip bs |>.map (fun x => (layoutOf rec).clip (idx.getD (x.1 / max 1 n) 0) (x.1 % max 1 n) x.2)
  | _ => bs

/-- Effects and NUMST bits of a load, on a cycle (R19, R89). -/
def LoadDst.pend (d : LoadDst) (bs : List Blk) (x : Stream) (at_ : Int) : List Pend :=
  let r := d.effs bs
  r.1.map (fun e => { at_ := at_, stream := x, eff := e }) ++ numstAt at_ x r.2

/-! ## Rows of the matrix engine -/

/-- The integer that an exact value is. -/
def xInt : XNum → Int
  | .fin s m e => (if s then -1 else 1) * ((m : Int) * 2 ^ e.toNat)
  | _ => 0
/-- The exact sum of the products of one chunk (R85). -/
def chunkSum (a b : List XNum) : XNum × NumBits :=
  let ps := (a.zip b).map (fun x => x.1.mul x.2)
  let s := XNum.sum (ps.map (·.1))
  (s.1, ps.foldl (fun f p => f ||| p.2) s.2)
/-- One float element over the contraction index, chunk by chunk (R85); `fuel` bounds the chunks. -/
def mmaFloat (chunk : Nat) : Nat → List XNum → List XNum → Pair → NumBits → Pair × NumBits
  | 0, _, _, acc, f => (acc, f)
  | n + 1, a, b, acc, f =>
    if a.isEmpty then (acc, f)
    else
      let s := chunkSum (a.take chunk) (b.take chunk)
      let t := (image .fp32 acc).add s.1
      let r := rto t.1 .fp32
      mmaFloat chunk n (a.drop chunk) (b.drop chunk) r.1 (f ||| s.2 ||| t.2 ||| r.2)
/-- One integer element: each product is added to the I32 element, which wraps (R86). -/
def mmaInt (a b : List XNum) (acc : Nat) : Nat × NumBits :=
  (a.zip b).foldl (fun r x =>
    let s := sInt 32 r.1 + xInt x.1 * xInt x.2
    (wrap 32 s, if s < -(2 ^ 31) || 2 ^ 31 ≤ s then r.2 ||| nIov else r.2)) (acc, 0)

/-- A destination row's new value (R288, R289). -/
def MmaOp.newRow (o : MmaOp) (j : Nat) (old : Row) : Row × NumBits :=
  let a := o.a.getD j []
  let els := (List.range 128).map (fun n =>
    let b := o.b.getD n []
    if o.int then
      let r := mmaInt a b (if o.zero then 0 else old.lane 32 n)
      (({ v := r.1, t := 0 } : Pair), r.2)
    else mmaFloat o.chunk (o.k + 1) a b (if o.zero then { v := 0, t := 0 } else old.pair 32 n) 0)
  (Row.ofLanes 32 (els.map (·.1)), els.foldl (fun f e => f ||| e.2) 0)

/-! ## Weights in place (R268) -/

/-- The write of some elements of a block, by their indices and codes (R66, R237). -/
def elemWrite (w : Nat) (es : List (Nat × Nat)) (hd need : Option Head) : BlkWrite :=
  { mask := BitVec.ofNat 512 (es.foldl (fun a e => a + (2 ^ w - 1) * 2 ^ (w * e.1)) 0)
    data := BitVec.ofNat 512 (es.foldl (fun a e => a + e.2 % 2 ^ w * 2 ^ (w * e.1)) 0), hd := hd, need := need }
/-- The elements of a list by the block that holds them: block, index in the block, code. -/
def elemsOf (els : List (Nat × Nat × Nat)) (b : Nat) : List (Nat × Nat) := (els.filter (fun e => e.1 == b)).map (·.2)
/-- An element as a SUPD form decodes it: a poisoned block gives NaN (R69). -/
def supdDecode (h : Head) (code : Nat) : XNum × NumBits :=
  if h.scl == 0xFF then (.nan, nPois) else (decodeElem (headType h) h.scl.toNat code, 0)
/-- Final rounding under the header that the block keeps (R67). -/
def supdRound (h : Head) (mode : Mode) (x : XNum) : Nat × NumBits := finalRound (headType h) h.scl.toNat x mode
/-- One element of a SUPD form: the new codes of the weight and of the momentum, and the bits of NUMST. -/
def SupdOp.elem (o : SupdOp) (hw : Head) (cw : Nat) (hm : Head) (cm : Nat) (g : XNum) : Nat × Nat × NumBits :=
  let w := supdDecode hw cw
  let step := fun (x : XNum) =>
    let p := o.lr.mul x
    let y := w.1.add p.1.neg
    let r := supdRound hw o.mode y.1
    (r.1, w.2 ||| p.2 ||| y.2 ||| r.2)
  match o.beta with
  | none => let r := step g; (r.1, 0, r.2)
  | some b =>
    let m := supdDecode hm cm
    let p := b.mul m.1
    let y := p.1.add g
    let n := supdRound hm o.mode y.1
    let d := supdDecode hm n.1
    let r := step d.1
    (r.1, n.1, r.2 ||| m.2 ||| p.2 ||| y.2 ||| n.2 ||| d.2)
/-- What a SUPD form reads of its tiles by a cycle: each block on its port cycle (R268, R330). -/
def SupdOp.take (o : SupdOp) (wmem mmem : Memory) (now : Int) : SupdOp :=
  let more := fun (m : Memory) (bs : List (Nat × Head × Int)) (got : List (BitVec 512)) =>
    got ++ ((bs.drop got.length).takeWhile (fun x => x.2.2 ≤ now)).map (fun x => (m.blk x.1).pay)
  { o with wgot := more wmem o.wb o.wgot, mgot := more mmem o.mb o.mgot }
/-- The cycle on which a SUPD form reads its next block, or none once it has read them all. -/
def SupdOp.next (o : SupdOp) : Option Int :=
  let w := (o.wb[o.wgot.length]?).map (·.2.2)
  let m := (o.mb[o.mgot.length]?).map (·.2.2)
  match w, m with
  | some a, some b => some (min a b)
  | some a, none => some a
  | none, m => m
/-- The effects of a SUPD form from the blocks of its tiles as it has read them. -/
def SupdOp.pend (o : SupdOp) : List Pend :=
  let at_ := fun (bs : List (Nat × Head × Int)) (got : List (BitVec 512)) (b i : Nat) =>
    ((bs.getD b (0, .raw, 0)).2.1, elemCode o.w (got.getD b 0) i)
  let res := o.els.map (fun e =>
    let w := at_ o.wb o.wgot e.1 e.2.1
    let m := at_ o.mb o.mgot e.1 e.2.1
    (e.1, e.2.1, o.elem w.1 w.2 m.1 m.2 e.2.2))
  let writes := fun (bs : List (Nat × Head × Int)) (els : List (Nat × Nat × Nat)) =>
    ((List.range bs.length).zip bs).filterMap (fun x =>
      match elemsOf els x.1 with
      | [] => none
      | es => some (x.2.1, elemWrite o.w es none none))
  { at_ := o.wdue, stream := .s, eff := .blocks o.wm (writes o.wb (res.map (fun r => (r.1, r.2.1, r.2.2.1)))) } ::
    (if o.beta.isSome then [{ at_ := o.mdue, stream := .s, eff := .blocks o.mm (writes o.mb (res.map (fun r => (r.1, r.2.1, r.2.2.2.1)))) }] else []) ++
    numstAt (max o.wdue o.mdue) .s (res.foldl (fun a r => a ||| r.2.2.2.2) 0)

/-! ## Landing -/

/-- Words of the instruction store that differ between two blocks, with their offsets (R222). -/
def changedWords (blk : Nat) (old new : BitVec 512) : List (Nat × Word) :=
  (List.range 16).filterMap (fun i =>
    let o := old.extractLsb' (32 * i) 32
    if o == new.extractLsb' (32 * i) 32 then none else some (64 * blk + 4 * i, o))

/-- Whether an effect reads state on its cycle; such effects follow the writes of the cycle (R331). -/
def Eff.captures : Eff → Bool
  | .capture .. | .mmaRow .. | .copyRow .. | .recCopy .. | .supd _ => true
  | _ => false

/-- The unit after an effect that touches its registers alone. -/
def UnitSt.applyEff (u : UnitSt) (e : Eff) : UnitSt :=
  let g := u.regs
  match e with
  | .sreg r v => { u with regs := g.wr r v }
  | .row ix dm tm v => { u with regs := { g with tiles := g.tiles.set ix ((g.tiles[ix]).merge dm tm v) } }
  | .pred p m v => { u with regs := { g with p := g.p.set p ((g.p[p] &&& ~~~m) ||| (v &&& m)) } }
  | .spec sel v => u.writeSpec sel v
  | .numstClear m => { u with regs := { g with numst := g.numst &&& ~~~m } }
  | .numst m => { u with regs := { g with numst := g.numst ||| m } }
  | .qsc j v =>
    { u with regs := { g with qsc := (g.qsc &&& ~~~((0xFF : Dword) <<< (8 * j.val))) ||| ((v.zeroExtend 64) <<< (8 * j.val)) } }
  | .lrec y v => { u with regs := { g with ly := g.ly.set y v } }
  | .latch .opa v => { u with eng := { u.eng with opa := v } }
  | .latch .opb v => { u with eng := { u.eng with opb := v } }
  | .gather fin v =>
    { u with eng := { u.eng with gather := u.eng.gather.map (fun g => if g.done == fin && !g.full then { g with opa := v } else g) } }
  | .queue n q => { u with regs := { g with qc := g.qc.set n q } }
  | .epoch pos => { u with ord := { u.ord with epoch := u.ord.epoch + 1, scpos := pos } }
  | .mapSwitch n => { u with maps := ({ u.maps with cur := n, valid := false, walks := [] } : MapSt).loadPins ((u.maps.maps[n]).getD []) }
  | .blocks .. | .loan .. | .capture .. | .mmaRow .. | .copyRow .. | .recCopy .. | .supd _ => u

/-! ## Dual writes (R121) -/

/-- Where a write to a block lands besides its current placement between PHPRE and PHADV: memory outside the package or a vault, whether
that is the block's home, and whether the block is of a COW extent there. `cext` is the current placement outside the package, `atHome` whether the block is at home. -/
def State.dualPlace (s : State) (ph : Col) (va : Nat) (cext : Option Nat) (o : Col) (pa : Nat) (home : Col × Nat) (atHome : Bool) :
    Option (Option Nat × Col × Nat × Bool × Nat × Bool) :=
  let m := (s.unit ph).maps
  if !m.valid then none
  else
    match findExtent ((m.maps[m.tgt]).getD []) va with
    | some e =>
      let p := extPlace e s.pkg.dielist va
      let pe := if p.isLoan then some p.extBlk else none
      let same := match cext with
        | some _ => pe == cext
        | none => pe.isNone && p.col == o && p.pa == pa
      if same then none else some (pe, p.col, p.pa, !p.isCopy, 16 * e.loanb, e.cow)
    | none => if atHome then none else some (none, home.1, home.2, true, 0, ((findExtent m.current va).map (fun e => e.cow)).getD false)
def MapSt.addDual (m : MapSt) (d : Dual) : MapSt := { m with duals := m.duals ++ [d] }
/-- The second landing of a write of column `w`'s unit that lands on the present cycle: it waits for a MIG cycle of its bank, or, on loan pages, travels
there. One that crosses dies takes none of a link's beats (R400, R401; DESIGN CHOICE, log entry 66). -/
def dualFor (w ph : Col) (va : Nat) (cext : Option Nat) (o : Col) (pa : Nat) (home : Col × Nat) (atHome : Bool) (ws : List BlkWrite) : Act := fun s =>
  match s.dualPlace ph va cext o pa home atHome with
  | none => []
  | some d => fresh (fun id =>
      let x : Dual := { id := id, cow := d.2.2.2.2.2, job := s.jobOf w, round := s.roundOf w, col := d.2.1, pa := d.2.2.1, dext := d.1, home := d.2.2.2.1, ws := ws, land := s.now ph,
                        done := false }
      Act.seq (onUnit ph (fun u => { u with maps := u.maps.addDual x }))
        (Act.when d.1.isSome (eventAt ph (s.now ph + (max 1 d.2.2.2.2.1 : Nat)) (.dualWrite ph id)))) s

/-! ## Effects on their cycle -/

/-- An effect of stream x takes place in a column's unit on the present cycle. -/
def landEff (c : Col) (p : Pend) : Act := fun s =>
  let u := s.unit c
  let now := s.now c
  match p.eff with
  | .blocks m ws =>
    let m0 := s.mem c m
    if m == .store then
      let old := ws.flatMap (fun w => changedWords w.1 (m0.blk w.1).pay ((m0.blk w.1).apply w.2).pay)
      [.unit c (u.codeChanged old), .mem c m ws]
    else [.mem c m ws]
  | .loan blk va home hp ph w tx k ret =>
    if w.bad then
      let e := formatFault 4 (BitVec.ofNat 64 va)
      Act.seq (onArr tx k (fun a => { a with bad := some e })) (eventAt c (now + ret) (.deferredFaultReport c p.stream e)) s
    else
      Act.all [fun _ => [.ext [(blk, w)]], Act.when (!home) (markExt blk true), dualFor c ph va (some blk) hp.1 hp.2 hp home [w]] s
  | .capture m left got dst due =>
    let bs := (left.takeWhile (fun x => x.2.2 ≤ now)).map (fun x =>
      match dst with
      | .heads .. | .slot .. => (s.mem c m).blk x.1
      | _ => { (s.mem c m).blk x.1 with hd := x.2.1 })
    let got := got ++ bs
    match left.drop bs.length with
    | [] => [.unit c (u.later (dst.pend (dst.clip got) p.stream due))]
    | x :: l => [.unit c (u.later [{ p with at_ := x.2.2, eff := .capture m (x :: l) got dst due }])]
  | .mmaRow id j =>
    match u.eng.mmas.find? (fun o => o.id == id) with
    | none => []
    | some o =>
      let ix := tileRow o.tile (o.row + j)
      let r := o.newRow j u.regs.tiles[ix]
      let f := o.flags ||| r.2
      let u := { u with eng := { u.eng with mmas := u.eng.mmas.map (fun (q : MmaOp) => if q.id == id then { q with flags := f } else q) } }
      [.unit c (u.later ({ at_ := now + 1, stream := .m, eff := rowWrite ix r.1 } ::
        (if j + 1 == o.m then numstAt (now + 1) .m f else [])))]
  | .copyRow src dst dm tm ty due =>
    let r := u.regs.tiles[src]
    let v := match ty with
      | some t => r.asLanes t
      | none => r
    [.unit c (u.later [{ at_ := due, stream := p.stream, eff := .row dst dm tm v }])]
  | .supd o =>
    let o := o.take (s.mem c o.wm) (s.mem c o.mm) now
    [.unit c (u.later (match o.next with
      | some x => [{ p with at_ := x, eff := .supd o }]
      | none => o.pend))]
  | .recCopy src dst due => [.unit c (u.later [{ at_ := due, stream := p.stream, eff := .lrec dst u.regs.ly[src] }])]
  | .epoch pos =>
    Act.seq (onUnit c (fun u => u.applyEff p.eff))
      (onPart (s.partNum c) (fun q => { q with board := q.board ++ [(c, pos)] })) s
  | e => [.unit c (u.applyEff e)]

/-- A row write of M, V or S, which prevails over one of L that lands on its cycle (R30). -/
def Pend.prevails (p : Pend) : Bool :=
  match p.eff with
  | .row .. => p.stream == .m || p.stream == .v || p.stream == .s
  | _ => false
/-- Effects in the order in which they take place on one cycle: the writes in the order K, D, L, M, V, S of R30, then what reads the cycle. -/
def landOrder (ps : List Pend) : List Pend :=
  streams.flatMap (fun x => ps.filter (fun p => p.stream == x && !p.eff.captures)) ++ ps.filter (fun p => p.eff.captures)
/-- The effects due in a column's unit that satisfy a condition take place. -/
def landSome (c : Col) (f : Pend → Bool) : Act := fun s =>
  let now := s.now c
  let due := (s.unit c).pend.filter (fun p => p.at_ ≤ now && f p)
  if due.isEmpty then []
  else Act.seq (onUnit c (fun u => { u with pend := u.pend.filter (fun p => !(p.at_ ≤ now && f p)) })) (Act.each (landOrder due) (landEff c)) s
/-- The effects due on a cycle, those of loose mode's reads and writes of several streams too, which the model orders by their cycles where R31 leaves open which
value the reader sees (DESIGN CHOICE, log entry 26): first the writes that nothing prevails over, which precede the landing of GLOBAL loads, then the row writes of
M, V and S and what reads the cycle. -/
def landFirst (c : Col) : Act := landSome c (fun p => !p.eff.captures && !p.prevails)
def landLast (c : Col) : Act := landSome c (fun _ => true)

end Sys2Proof.Machine
end

