-- ==== Sys2Proof/Machine/Vault.lean ====
section
/-! DEFINITION. A vault: its addresses and the timing guard (R100 to R104), refresh and the keeper (R105 to R107), windows (R244,
R245), the race detector (R341 to R344), and a block's access performed at its owner (R109, R115, R275, R330, R331, R412). -/
namespace Sys2Proof.Machine

/-! ## Addresses (R100) -/

def bankPa (pa : Nat) : Fin 16 := Fin.ofNat 16 (pa / 2 ^ 12)
def rowPa (pa : Nat) : Fin 8192 := Fin.ofNat 8192 (pa / 2 ^ 16)
/-- The vault physical address of a column of a bank's row. -/
def paOf (bank : Fin 16) (row : Fin 8192) (col : Fin 32) : Nat := row.val * 2 ^ 16 + bank.val * 2 ^ 12 + col.val * 2 ^ 7

/-! ## The guard (R102 to R104, R242) -/

/-- Commands as the guard sees them; `cow` is a write that holds the port for two cycles (R115). -/
inductive Cmd where
  | act | pre | refb | rd | wr (cow : Bool)
  deriving DecidableEq, Repr

/-- A timer that is kept: no such command yet, or at least n cycles ago. -/
def kept (x : Option Int) (n now : Int) : Bool :=
  match x with
  | some a => a + n ≤ now
  | none => true
def Win.last (w : Win) : Int := w.first + w.n - 1
def Win.covers (w : Win) (x : Int) : Bool := w.first ≤ x && x ≤ w.last
/-- A cycle of the vault port that a column command or a window holds (R103, R244). -/
def VaultSt.portHeld (v : VaultSt) (x : Int) : Bool := v.port.contains x || v.wins.any (fun w => w.covers x)
/-- Window beats declared on a bank after a cycle (R242). -/
def VaultSt.beatsAfter (v : VaultSt) (b : Fin 16) (now : Int) : Bool := v.wins.any (fun w => w.bank == b && now < w.last)

def guardFault (kind : Nat) (timing : Bool) (b : Fin 16) : FaultRec :=
  flt .guard kind 0 (BitVec.ofNat 64 (b.val + (if timing then 0x100 else 0)))
/-- The first broken parameter in the order of R102, tRCD being 0x1 and tRFCb 0xC; 0 for none. -/
def VaultSt.timing (v : VaultSt) (cmd : Cmd) (b : Fin 16) (now : Int) : Nat :=
  let k := v.banks[b]
  let column := match cmd with | .rd | .wr _ => true | _ => false
  let rowCmd := cmd == .act || cmd == .refb
  let isWr := match cmd with | .wr _ => true | _ => false
  let held := v.portHeld now || (cmd == .wr true && v.portHeld (now + 1))
  let near := v.acts.filter (fun a => now - Config.tFAW < a && a ≤ now)
  let broken := [column && !kept k.act Config.tRCD now, rowCmd && !kept k.pre Config.tRP now, cmd == .pre && !kept k.act Config.tRAS now,
    rowCmd && !kept k.act Config.tRC now, cmd == .pre && !kept k.wr Config.tWR now, cmd == .pre && !kept k.rd Config.tRTP now,
    rowCmd && near.any (fun a => now < a + Config.tRRD), rowCmd && 4 ≤ near.length, column && held,
    cmd == .rd && !kept v.lastWr Config.tWTR now, isWr && !kept v.lastRd Config.tRTW now, rowCmd && !kept k.ref Config.tRFCb now]
  match broken.findIdx? id with
  | some i => i + 1
  | none => 0
/-- What the guard answers to a command on a bank (R103, R104, R242). PRE of an idle bank has no effect and no check. -/
def VaultSt.guard (v : VaultSt) (cmd : Cmd) (b : Fin 16) (now : Int) : Option FaultRec :=
  let active := (v.banks[b]).row.isSome
  let column := match cmd with | .rd | .wr _ => true | _ => false
  if cmd == .pre && !active then none
  else if (column && !active) || ((cmd == .act || cmd == .refb) && active) then some (guardFault 1 false b)
  else if (cmd == .pre || cmd == .refb) && v.beatsAfter b now then some (guardFault 1 false b)
  else
    let t := v.timing cmd b now
    if t != 0 then some (guardFault t true b) else none

def VaultSt.onBank (v : VaultSt) (b : Fin 16) (f : Bank → Bank) : VaultSt := { v with banks := v.banks.set b (f v.banks[b]) }
/-- Recent cycles are enough for tFAW. -/
def VaultSt.addAct (v : VaultSt) (x : Int) : VaultSt := { v with acts := v.acts.filter (fun a => x - 64 < a) ++ [x] }
def VaultSt.addPort (v : VaultSt) (x : Int) : VaultSt := { v with port := v.port.filter (fun a => x - 64 < a) ++ [x] }

/-- A command that the guard lets through takes effect (R103). -/
def VaultSt.command (v : VaultSt) (cmd : Cmd) (b : Fin 16) (row : Fin 8192) (span now : Int) : VaultSt :=
  match cmd with
  | .act => (v.onBank b (fun k => { k with row := some row, act := some now })).addAct now
  | .pre => if (v.banks[b]).row.isSome then v.onBank b (fun k => { k with row := none, pre := some now }) else v
  | .refb => (v.onBank b (fun k => { k with ref := some now, deadline := now + span })).addAct now
  | .rd => ({ v with lastRd := some now }.onBank b (fun k => { k with rd := some now })).addPort now
  | .wr cow =>
    let v := ({ v with lastWr := some now }.onBank b (fun k => { k with wr := some now })).addPort now
    if cow then v.addPort (now + 1) else v

/-! ## Refresh (R102, R105 to R107) -/

/-- The refresh deadline span of a unit: floor(I × f ÷ 1.2 GHz) (R105). -/
def UnitSt.span (u : UnitSt) : Int :=
  (((if u.ctl.hot then Config.refreshHot else Config.refreshCool) * u.ctl.floor / Config.clockMHz : Nat) : Int)
/-- Whether the keeper holds a bank (R106). -/
def VaultSt.keeperHolds (v : VaultSt) (b : Fin 16) (now : Int) : Bool :=
  match (v.banks[b]).keeper with
  | some x => now < x
  | none => false
/-- The latest of some cycles and what a timer asks for. -/
def after (x : Option Int) (n : Int) (m : Int) : Int :=
  match x with
  | some a => max m (a + n)
  | none => m
/-- The first cycle from x at which an ACT or REFB keeps tRRD and tFAW towards the others; `fuel` bounds the search. -/
def VaultSt.freeAct (v : VaultSt) : Nat → Int → Int
  | 0, x => x
  | n + 1, x =>
    let near := v.acts.filter (fun a => x - Config.tFAW < a && a < x + Config.tFAW)
    if near.any (fun a => x - Config.tRRD < a && a < x + Config.tRRD) || 4 ≤ near.length then VaultSt.freeAct v n (x + 1) else x
/-- The keeper refreshes a bank: it precharges an active bank, refreshes it and reopens its row, each at the earliest cycle within
the timers, and is done when no timer of its last command can be broken any more (R106; log entry 16). -/
def VaultSt.keep (v : VaultSt) (b : Fin 16) (span now : Int) : VaultSt :=
  let k := v.banks[b]
  let p := after k.act Config.tRAS (after k.wr Config.tWR (after k.rd Config.tRTP now))
  let pre := if k.row.isSome then some p else k.pre
  let r := v.freeAct 64 (after pre Config.tRP (after k.act Config.tRC (after k.ref Config.tRFCb now)))
  let v := v.addAct r
  match k.row with
  | none => v.onBank b (fun k => { k with ref := some r, deadline := r + span, keeper := some (r + Config.tRFCb) })
  | some _ =>
    let a := v.freeAct 64 (r + Config.tRFCb)
    (v.addAct a).onBank b (fun k => { k with pre := pre, ref := some r, deadline := r + span, act := some a, keeper := some (a + Config.tRAS) })
/-- A bank that the keeper has held since a cycle: its commands count as issued by then (R107; log entry 16). -/
def Bank.keptBy (k : Bank) (x span : Int) : Bank :=
  let by_ := fun (y : Option Int) => y.map (fun y => min y x)
  match k.keeper with
  | some y => if x < y then { k with keeper := none, pre := by_ k.pre, act := by_ k.act, ref := by_ k.ref, deadline := min k.deadline (x + span) } else k
  | none => k
/-- At an alignment or realignment cycle x every deadline is at least x + span − 1,024 (and a slack that stays open, so that the REFB it implies lies
before the 128 cycles before x); at ALIGN every bank is idle and no keeper command lies in those 128 cycles (R107). -/
def VaultSt.align (v : VaultSt) (x span : Int) (first : Bool) (free : Nat) : VaultSt :=
  let floor := fun (i : Nat) => x + span - 1024 + ((Config.refreshSlack (free + i) % 896 : Nat) : Int)
  let kept := (v.banks.toList.filter (fun k => match k.keeper with
    | some y => decide (x - 129 < y)
    | none => false)).flatMap (fun k => k.act.toList ++ k.ref.toList)
  { v with
    acts := if first then [] else v.acts.filter (fun a => !(decide (x - 129 < a) && kept.contains a))
    lastRd := if first then none else v.lastRd
    lastWr := if first then none else v.lastWr
    banks := .ofFn (fun i =>
      let k := v.banks[i]
      let k := if first then { Bank.reset with deadline := min k.deadline (x - 129 + span) } else k.keptBy (x - 129) span
      { k with deadline := max k.deadline (floor i.val) }) }

/-! ## The race detector (R341 to R344) -/

def fieldSet (w : Nat) (hi lo v : Nat) : Nat := w - bits w hi lo * 2 ^ lo + v % 2 ^ (hi + 1 - lo) * 2 ^ lo
/-- Column k's count on the board as of the frontier that an access recorded at its issue. -/
def State.frontierAt (s : State) (w : Who) (k : Col) : Nat :=
  match s.partOf w.col with
  | some p => if p.cols.contains k then p.boardCount k w.fpos % 2 ^ 32 else 0
  | none => 0
/-- An access recorded with column k and epoch e is ordered towards the accessing unit (R341). -/
def State.ordered (s : State) (w : Who) (k e : Nat) : Bool :=
  let d := (s.frontierAt w (Fin.ofNat 512 k) + 2 ^ 32 - e) % 2 ^ 32
  k == w.col.val || (1 ≤ d && d < 2 ^ 31)
/-- The check and record of one access (R343): the shadow word it leaves, or the kind of race and the other party. -/
def State.shadow (s : State) (w : Who) (write : Bool) (pos : Int) (sh : BitVec 128) : Except (Nat × Dword) (BitVec 128) :=
  let n := sh.toNat
  let e := w.epoch.toNat % 2 ^ 32
  let c := w.col.val
  let broad := bits n 127 126 == 1
  let wv := flag (bits n 84 84)
  let av := flag (bits n 83 83)
  let bv := flag (bits n 41 41)
  let other := fun (hi lo ehi elo : Nat) => BitVec.ofNat 64 (bits n hi lo * 2 ^ 32 + bits n ehi elo)
  let stamp := sInt 64 (bits n 63 0)
  let wOk := !wv || s.ordered w (bits n 125 117) (bits n 116 85)
  if write then
    if !wOk then .error (2, other 125 117 116 85)
    else if broad && w.scpos ≤ stamp then .error (4, BitVec.ofNat 64 (bits n 63 0))
    else if !broad && av && !s.ordered w (bits n 82 74) (bits n 73 42) then .error (3, other 82 74 73 42)
    else if !broad && bv && !s.ordered w (bits n 40 32) (bits n 31 0) then .error (3, other 40 32 31 0)
    else .ok (BitVec.ofNat 128 (c * 2 ^ 117 + e * 2 ^ 85 + 2 ^ 84))
  else
    if !wOk then .error (1, other 125 117 116 85)
    else if broad then .ok (BitVec.ofNat 128 (fieldSet n 63 0 (wrap 64 (max stamp pos))))
    else if av && bits n 82 74 == c then .ok (BitVec.ofNat 128 (fieldSet n 73 42 e))
    else if bv && bits n 40 32 == c then .ok (BitVec.ofNat 128 (fieldSet n 31 0 e))
    else if !av then .ok (BitVec.ofNat 128 (fieldSet (fieldSet (fieldSet n 83 83 1) 82 74 c) 73 42 e))
    else if !bv then .ok (BitVec.ofNat 128 (fieldSet (fieldSet (fieldSet n 41 41 1) 40 32 c) 31 0 e))
    else .ok (BitVec.ofNat 128 (fieldSet (fieldSet n 127 126 1) 63 0 (wrap 64 pos)))
def VaultSt.shadowOf (v : VaultSt) (blk : Nat) : BitVec 128 := ((v.shadow.find? (fun x => x.1 == blk)).map (·.2)).getD 0
def VaultSt.setShadow (v : VaultSt) (blk : Nat) (w : BitVec 128) : VaultSt :=
  { v with shadow := (if w == 0 then [] else [(blk, w)]) ++ v.shadow.filter (fun x => x.1 != blk) }
def raceFault (addr : Dword) (r : Nat × Dword) : FaultRec := flt .race r.1 addr r.2

/-! ## An access performed at its owner -/

/-- A live barrier word lies in a block (R273, R275). -/
def VaultSt.isLive (v : VaultSt) (blk : Nat) : Bool := v.live.any (fun l => l.pa / 64 == blk)
def VaultSt.addDirty (v : VaultSt) (blk : Nat) : VaultSt := if v.dirty.contains blk then v else { v with dirty := blk :: v.dirty }

/-- The block of the reserve that the host gave for a block of a job's COW extents in a vault (R411). -/
def State.reserveBlk (s : State) (job : Dword) (o : Col) (blk : Nat) : Option Nat :=
  match s.work.jobs.find? (fun j => j.handle == job) with
  | none => none
  | some j => j.reserves.findSome? (fun x =>
      let e := x.1
      let p := blk / 64
      let n := max 1 s.pkg.dielist.length
      let len := if e.hash then (e.pages + n * 128 - 1) / (n * 128) else e.pages
      if e.ppn ≤ p && p < e.ppn + len && (e.hash || e.col == o) then
        (x.2.find? (fun y => y.1 == o)).map (fun y => (y.2 + (p - e.ppn)) % 2 ^ 17 * 64 + blk % 64)
      else none)
/-- What a write to a block of a COW extent does for the snapshot (R412): the block as it stood is saved, or the write is applied to the
saved copy as well. `round` is the round of the writer. A block whose reserve waits to be cleared has been drained, and is not saved again (log entry 74). -/
def State.snapWrite (s : State) (o : Col) (snap : Option Snap) (round : BitVec 32) (blk : Nat) (w : BlkWrite) :
    VaultSt × List (Nat × BlkWrite) :=
  let v := s.vault o
  match snap with
  | none => (v, [])
  | some n =>
    match v.saved.find? (fun x => x.1 == n.job && x.2.1 == blk) with
    | none =>
      if n.round < round || n.opened then
        match s.reserveBlk n.job o blk with
        | some r => if v.budget.fallow.contains r then (v, []) else ({ v with saved := v.saved ++ [(n.job, blk, r)] }, [(r, ((s.mem o .vault).blk blk).whole)])
        | none => (v, [])
      else (v, [])
    | some x => if round ≤ n.round && !n.opened then (v, [(x.2.2, w)]) else (v, [])

/-- A job's saved copy of a block (R411). -/
def State.savedBlk (s : State) (job : Dword) (o : Col) (blk : Nat) : Option Blk :=
  ((s.vault o).saved.find? (fun x => x.1 == job && x.2.1 == blk)).map (fun x => (s.mem o .vault).blk x.2.2)
/-- A block's saved copy comes with it to another place (R411; log entry 74). -/
def carrySaved (job : Dword) (o : Col) (blk : Nat) (b : Option Blk) : Act := fun s =>
  match b, s.reserveBlk job o blk with
  | some b, some r =>
    let v := s.vault o
    [.vault o { v with saved := v.saved.filter (fun x => !(x.1 == job && x.2.1 == blk)) ++ [(job, blk, r)] }, .mem o .vault [(r, b.whole)]]
  | _, _ => []
/-- A write performed at an owner on the present cycle: a live barrier block, a race, then the MERGE check, which was made on the issue cycle (R66), in the order of
R344; the access is not performed at a block that fails. -/
def State.writeFault (s : State) (o : Col) (r : Req) (w : BlkWrite) : Except FaultRec (Option (BitVec 128)) :=
  let v := s.vault o
  let blk := r.pa / 64
  if v.isLive blk then .error (flt .barrier 6 r.va)
  else
    let race := if r.sh then (s.shadow r.who true (s.now o) (v.shadowOf blk)).map some else .ok none
    match race with
    | .error e => .error (raceFault r.va e)
    | .ok sh =>
      if w.bad then .error (formatFault 4 r.va) else .ok sh

end Sys2Proof.Machine
end

