-- ==== Sys2Proof/Machine/Reeve.lean ====
section
/-! DEFINITION. How the Reeves write a job's GLOBAL words (R360, R361), operations on words (R271 to R274), and how records complete (R53, R360). The Reeves'
accesses act for no unit (R329, R360). -/
namespace Sys2Proof.Machine

/-- A write of n bytes at a byte of a block; the header stays. -/
def bytesWrite (off n v : Nat) : BlkWrite :=
  { mask := BitVec.ofNat 512 ((2 ^ (8 * n) - 1) * 2 ^ (8 * off)), data := BitVec.ofNat 512 (v % 2 ^ (8 * n) * 2 ^ (8 * off)), hd := none, need := none }
/-- A write at a place by no unit: no race check, no dual write (R329). -/
def writePlace (p : Place) (w : BlkWrite) : Act := fun s =>
  if p.isLoan then Act.seq (markExt p.extBlk (p.isCopy || s.extDirty.contains p.extBlk)) (fun _ => [.ext [(p.extBlk, w)]]) s
  else
    let x := s.vault p.col
    [.vault p.col (if p.isCopy then x.addDirty (p.pa / 64) else x), .mem p.col .vault [(p.pa / 64, w)]]
/-- What a write at a place does for the job's snapshot where the block is COW: it counts with the snapshot's own round (R412; log entry 74). -/
def saveFor (j : Job) (p : Place) (w : BlkWrite) : Act := fun s =>
  match s.work.snaps.find? (fun n => n.job == j.handle) with
  | some n =>
    if p.isLoan || !p.ext.cow then []
    else
      let sw := s.snapWrite p.col (some n) n.round (p.pa / 64) w
      [.vault p.col sw.1, .mem p.col .vault sw.2]
  | none => []
/-- The Reeve writes word i of a record (R360). -/
def setJobWord (j : Job) (a : Dword) (i : Nat) (v : Dword) : Act := fun s =>
  let va := offOf a + 8 * i
  match s.jobPlace j va with
  | some p => let w := bytesWrite (va % 64) 8 v.toNat; Act.seq (saveFor j p w) (writePlace p w) s
  | none => []
def addJobWord (j : Job) (a : Dword) (i : Nat) (d : Dword) : Act := fun s => setJobWord j a i (s.jobWord j a i + d) s

/-! ## Words (R271 to R274) -/

def Size.bytes : Size → Nat
  | .b32 => 4 | .b64 => 8
def Size.bitsOf (z : Size) : Nat := 8 * Size.bytes z
/-- The low bits of a register as an operand (R271). -/
def Size.low (z : Size) (d : Dword) : Nat := d.toNat % 2 ^ Size.bitsOf z
/-- op of AMO on a word (R271). -/
def amoWord (z : Size) (op : AmoOp) (w v : Nat) : Nat :=
  let n := Size.bitsOf z
  match op with
  | .add => (w + v) % 2 ^ n
  | .and => w &&& v
  | .or => w ||| v
  | .xor => w ^^^ v
  | .min => if sInt n w ≤ sInt n v then w else v
  | .max => if sInt n v ≤ sInt n w then w else v
  | .minn => min w v
  | .maxn => max w v
  | .swap => v
/-- Fields of a barrier word, whose low 16 bits are reserved and read zero (R272). -/
def barGen (w : Nat) : Nat := bits w 63 48
def barCount (w : Nat) : Nat := bits w 47 32
def barArr (w : Nat) : Nat := bits w 31 16
def barWord (gen count arr : Nat) : Nat := gen % 2 ^ 16 * 2 ^ 48 + count % 2 ^ 16 * 2 ^ 32 + arr % 2 ^ 16 * 2 ^ 16
/-- The word after an operation (R271, R273, R274); `live` for a barrier word that some unit has registered. -/
def AtomOp.apply (o : AtomOp) (z : Size) (live : Bool) (w : Nat) : Nat :=
  match o with
  | .sig .set v => Size.low z v
  | .sig .add v => (w + Size.low z v) % 2 ^ Size.bitsOf z
  | .amo op v => amoWord z op w (Size.low z v)
  | .cas x y => if w == Size.low z x then Size.low z y else w
  | .barDef n => if n == 0 || live then w else barWord (barGen w) n 0
  | .barArv => if barArr w + 1 == barCount w then barWord (barGen w + 1) (barCount w) 0 else barWord (barGen w) (barCount w) (barArr w + 1)
def AtomOp.isBar : AtomOp → Bool
  | .barDef _ | .barArv => true
  | _ => false

/-- A record's completion is due when DONE = EXPECT and, for a round, CDONE = CEXP (R360). -/
def State.recordDone (s : State) (j : Job) (a : Dword) : Bool :=
  s.jobWord j a wDone == s.jobWord j a wExpect && s.jobWord j a wCdone == s.jobWord j a wCexp
/-- A record that is complete is acted on, once for each time that it becomes so (R53, R360). -/
def completes (j : Job) (a : Dword) : Act := fun s =>
  if s.recordDone j a then
    Act.seq (onJob j.handle (fun j => { j with ended := j.ended.filter (fun b => b != a) })) (eventNow (.workRecordCompletion j.handle a)) s
  else []
/-- A record counts an item, cancelled or not, and completes if it now does (R53, R55, R58, R360). -/
def countItem (j : Job) (a : Dword) (cancelled : Bool) : Act :=
  Act.seq (addJobWord j a wDone 1) (Act.seq (Act.when cancelled (addJobWord j a wCanc 1)) (completes j a))
/-- Records of a level, each once. -/
def distinct (l : List Dword) : List Dword := l.foldl (fun a x => if a.contains x then a else a ++ [x]) []
/-- The record of a job (R360, R363). -/
def State.jobRec (s : State) (j : Job) : Dword := s.jobWord j (s.roundRec j j.root) wParent
/-- The records of the work that a job has placed (R363). -/
def State.watched (s : State) (j : Job) : List Dword :=
  if j.placed.isEmpty then []
  else (distinct (j.placed ++ j.placed.map (s.graphOf j) ++ j.placed.map (s.roundRec j) ++ [s.jobRec j])).filter (fun a => a != 0)
/-- What a unit's own writes have made of the records of a partition's jobs by the end of a cycle: those that have become complete are acted on
(R360; log entry 67). -/
def sweepRecords (num : BitVec 16) : Act := fun s =>
  Act.each (s.work.jobs.filter (fun j => j.part == num)) (fun j => fun s =>
    let full := (s.watched j).filter (s.recordDone j)
    let ended := j.ended.filter full.contains
    Act.seq (if ended == j.ended then Act.none else onJob j.handle (fun j => { j with ended := ended }))
      (Act.each (full.filter (fun a => !ended.contains a)) (fun a => eventNow (.workRecordCompletion j.handle a))) s) s

end Sys2Proof.Machine
end

