-- ==== Sys2Proof/Machine/Path.lean ====
section
/-! DEFINITION. The far path (R127 to R135): the requests of an access, their formula cycles, and what a request does at the vault
that serves it. -/
namespace Sys2Proof.Machine

/-! ## Ports -/

def readPort : Mem → Port
  | .wb => .wbR | .ab => .abR | _ => .spR
def writePort : Mem → Port
  | .wb => .wbW | .ab => .abW | _ => .spW
/-- Whether a port is free for n cycles from x (R95). -/
def UnitSt.portFree (u : UnitSt) (p : Port) (x : Int) (n : Nat) : Bool :=
  !u.eng.resv.any (fun r => r.1 == p && r.2.1 < x + n && x < r.2.1 + r.2.2)
/-- Take a port for n cycles from x. -/
def UnitSt.takePort (u : UnitSt) (p : Port) (x : Int) (n : Nat) : UnitSt :=
  if n == 0 || u.eng.resv.contains (p, x, n) then u
  else { u with eng := { u.eng with resv := u.eng.resv ++ [(p, x, n)] } }
/-- Drop a reservation. -/
def UnitSt.freePort (u : UnitSt) (p : Port) (x : Int) (n : Nat) : UnitSt :=
  { u with eng := { u.eng with resv := u.eng.resv.filter (fun r => r != (p, x, n)) } }

/-! ## Locations (R256 to R264) -/

def locOf (a : Dword) : CpLoc :=
  match tagOf a with
  | 0 => .glob (offOf a)
  | 1 => .chip .wb (offOf a)
  | 2 => .chip .ab (offOf a)
  | 3 => .chip .sp (offOf a)
  | 4 => .acc (offOf a)
  | _ => .none
def CpLoc.addr : CpLoc → Dword
  | .none => 0
  | .glob va => BitVec.ofNat 64 va
  | .chip m off => BitVec.ofNat 64 ((match m with | .wb => 1 | .ab => 2 | _ => 3) * 2 ^ 60 + off)
  | .acc off => BitVec.ofNat 64 (4 * 2 ^ 60 + off)
def CpLoc.isGlob : CpLoc → Bool
  | .glob _ => true
  | _ => false
/-- Row and block of a row image at an ACC offset (R83, R258). -/
def accRow (off : Nat) : Fin 256 := Fin.ofNat 256 (off / 640)
def accPart (off : Nat) : Nat := off % 640 / 64
def accTile (off : Nat) : Fin 4 := Fin.ofNat 4 (off / 640 / 64)
/-- The port that a block's access takes in its column (R93, R95). -/
def CpLoc.port (l : CpLoc) (write : Bool) : Option Port :=
  match l with
  | .chip m _ => some (if write then writePort m else readPort m)
  | .acc off => some (if write then .tileW (accTile off) else .tileR (accTile off))
  | _ => Option.none
/-! ## Requests and their formula cycles -/

/-- Who makes an access issued now (R329, R339): the epoch, SCPOS and frontier that stand at its issue, and the generation of the
target's die that the request carries (R350). -/
def State.who (s : State) (c : Col) (x : Stream) (target : Die) : Who :=
  let o := (s.unit c).ord
  { col := c, stream := x, epoch := o.epoch, scpos := o.scpos, fpos := o.fpos, gen := ((s.dies[dieOf c]).gen)[target],
    own := ((s.dies[dieOf c]).gen)[dieOf c], issue := s.now c }

/-- One block of an access on its way: its address and its place; `skip` where clipping leaves it unread, and its place, if there is one, only
says in which run it counts (R131, R236; log entry 26). -/
structure FarBlk where
  va    : Dword
  place : Option Place
  skip  : Bool := false
/-- Places for blocks that have none of their own: that of the block before, or else of the first one that has a place (log entry 26). -/
def fillPlaces (ps : List (Option Place)) : List (Option Place) :=
  (ps.foldl (fun (a : List (Option Place) × Option Place) p =>
    let q := p.orElse (fun _ => a.2)
    (a.1 ++ [q], q)) ([], ps.findSome? id)).1

/-- Position of each block in its run to one owner through one extent (R131): the run's first index, and the place in the run. A clipped block has its place
in the run as any other (log entry 26). -/
def runs : List FarBlk → Nat → Option (Col × Extent × Nat × Nat) → List (Nat × Nat)
  | [], _, _ => []
  | b :: l, i, prev =>
    match b.place with
    | none => (i, 0) :: runs l (i + 1) prev
    | some p =>
      match prev with
      | some (c, e, g, j) =>
        if c == p.col && e == p.ext then (g, j) :: runs l (i + 1) (some (c, e, g, j + 1))
        else (i, 0) :: runs l (i + 1) (some (p.col, p.ext, i, 1))
      | none => (i, 0) :: runs l (i + 1) (some (p.col, p.ext, i, 1))

/-- Formula cycle of block j of a run but for the wait w (R131, R132); `extra` is added to every return (R264). A write to a block of a COW extent takes
two beats (R115; log entry 72). -/
def State.term (s : State) (req : Col) (p : Place) (issue : Int) (j extra : Nat) (write : Bool) : Int :=
  let t := s.pathTerms req p
  if t.loan then issue + (t.walk + t.out + j + 1 + (if write then 0 else extra) : Nat)
  else if write then issue + (t.walk + t.out + 3 + (if p.ext.cow then 2 * (j + 1) else j + 1) : Nat)
  else issue + (t.walk + t.out + 3 + j + 18 + t.ret + extra : Nat)
/-- A block without a place, which no cycle waits for. -/
def Arr.blank (va : Dword) (at_ : Option Int) (issue : Int) (grp : Nat) : Arr :=
  { va := va, loan := none, term := issue, grp := grp, form := none, at_ := at_, blk := .clear, bad := none, del := at_.isSome, late := false,
    skip := at_.isSome, ret := 0 }
/-- The cycle on which a loan access is served whose bound is `m`: the lender may miss it (R415; log entry 22). -/
def State.loanAt (s : State) (k : Nat) (m : Int) : Int := m + (Config.loanLate (s.free + k) : Int)
/-- The first cycle from `x` on for an access of a unit to a block on loan: the accesses of one unit to one block are performed in their order, a read with the
write before it at the earliest and a write after it (R332). -/
def State.loanTurn (s : State) (c : Col) (blk : Nat) (write : Bool) (x : Int) : Int :=
  (s.unit c).pend.foldl (fun m p => match p.eff with
    | .loan b .. => if b == blk then max m (p.at_ + (if write then 1 else 0)) else m
    | _ => m) x
/-- The blocks of a transaction with what is known of their cycles at issue. A tile none of whose blocks is read meets no wait. -/
def State.farArrs (s : State) (who req : Col) (issue : Int) (extra : Nat) (write : Bool) (bs : List FarBlk) : List Arr :=
  let unread := bs.all (·.skip)
  ((List.range bs.length).zip (bs.zip (runs bs 0 none))).map (fun (i, x) =>
    match x.1.place with
    | none => .blank x.1.va (some issue) issue x.2.1
    | some p =>
      let t := s.pathTerms req p
      let m := s.term req p issue x.2.2 extra write
      let out := p.isLoan && !x.1.skip
      let there := s.loanTurn who p.extBlk write (s.loanAt i m)
      { va := x.1.va, loan := if out then some p.extBlk else none
        term := if out && write then there + (t.ret + extra : Nat) else m, grp := x.2.1
        form := if t.loan then some m else if unread then some (m + (t.fixed.getD 0 : Int)) else t.fixed.map (fun w => m + (w : Int))
        at_ := if out then some there else if x.1.skip then some issue else none, blk := .clear, bad := none, del := false, late := false,
        skip := x.1.skip, ret := (t.ret + extra : Nat) })
/-- The request of block k to its owner: it arrives after the true travel time and 3 cycles up the vertical bus (R131). -/
def State.farReq (s : State) (id tx k : Nat) (who : Who) (req phc : Col) (p : Place) (va : Dword) (issue : Int) (extra : Nat)
    (least : Int) (kind : ReqKind) : Req :=
  let t := s.pathTerms req p
  let back := match kind with
    | .read => s.ow p.col req
    | _ => if p.ext.fl then t.ret else s.ow p.col req
  { id := id, tx := tx, k := k, who := { who with gen := ((s.dies[dieOf who.col]).gen)[dieOf p.col] }, part := s.partNum who.col, va := va,
    pa := p.pa, home := (p.hcol, p.hpa), phc := phc, arrive := issue + (t.walk + s.travel req p + 3 : Nat), ret := (back + extra : Nat),
    least := least, sh := p.ext.sh, cow := p.ext.cow, kind := kind }
/-- A request joins the queue of its owner. -/
def sendReq (o : Col) (r : Req) : Act := onVault o (fun v => { v with reqs := v.reqs ++ [r] })
/-- The reference tick of a cycle of a column, as its clock runs now. -/
def State.tickOf (s : State) (c : Col) (x : Int) : Int :=
  (s.tick : Int) + (x - s.now c) * (Config.clockMHz : Int) / (max 1 (((s.partOf c).map (·.mhz)).getD Config.clockMHz) : Nat)
/-- A block beat sets out for a link (R400, R401); two issue cycles in one reference tick count as the same (log entry 66). -/
def sendBeat (b : LinkBeat) : Act := fun s => [.links (s.links ++ [{ b with issue := s.tickOf b.col b.issue }])]
/-- Cycles from a column to the bridge of its die that faces another (R130, R396). -/
def toBridge (c : Col) (d : Die) : Nat := 2 * hopsTo c (bridge (dieOf c) d)
/-- A request of an access sets out from a column: a read and an atomic carry no block and go straight to their owner's queue, and so does a write
on the column's own die; the block of another write crosses a link, which it sets out for `lag` cycles after `issue` (R130, R131, R400, R401). -/
def sendOutReq (req o : Col) (issue : Int) (lag : Nat) (r : Req) : Act :=
  match r.kind with
  | .write _ =>
    if dieOf req = dieOf o then sendReq o r
    else sendBeat { src := dieOf req, dst := dieOf o, ready := issue + (lag + toBridge req (dieOf o) : Nat), issue := issue, col := r.who.col,
                    go := .req o r }
  | _ => sendReq o r

/-- The requests of a transaction's blocks, but for skipped and loan blocks. -/
def sendReqs (id : Nat) (who : Who) (req phc : Col) (issue : Int) (extra : Nat) (arrs : List Arr) (bs : List FarBlk)
    (kind : Nat → ReqKind) : Act :=
  Act.each ((List.range bs.length).zip (bs.zip arrs)) (fun x => fun s =>
    match x.2.1.place with
    | none => []
    | some p =>
      if p.isLoan || x.2.1.skip then []
      else sendOutReq req p.col issue ((s.pathTerms req p).walk + (x.1 - x.2.2.grp)) (s.farReq id id x.1 who req phc p x.2.1.va issue extra
        (match x.2.2.form with | some f => f | none => issue) (kind x.1)) s)

/-- The accesses of a column's unit to pages of floating extents are counted for the Gleaner (R126). -/
def countPages (c : Col) (bs : List (Dword × Option Place)) : Act :=
  let ps := bs.filterMap (fun b => b.2.bind (fun p => if p.ext.fl then some (offOf b.1 / 4096) else none))
  if ps.isEmpty then Act.none else onUnit c (fun u => { u with maps := ps.foldl MapSt.see u.maps })
/-- A response that reaches a die with another generation than the one it carries is dropped and counted (R350; log entry 68). -/
def dropResponse (d : Die) : Act := onDie d (fun x => { x with dropped := x.dropped + 1 })
/-- The die of an access's issuer has not reset since the access was made (R350). -/
def State.ownOk (s : State) (w : Who) : Bool := w.own == ((s.dies[dieOf w.col]).gen)[dieOf w.col]
/-- Ticks for which a package may acknowledge nothing (R408). -/
def peerTicks : Nat := 12000000
/-- Requests go out to other packages: from now on each has to acknowledge something every 10 ms (R408). -/
def askPeers (l : List Nat) : Act := Act.each (l.filter (fun p => p != 0 && p != 0xFFFFF)) (fun p => fun s =>
  if s.pkg.peers.any (fun x => x.1 == p) then []
  else Act.seq (onPkg (fun k => { k with peers := k.peers ++ [(p, s.tick)] })) (eventTick (s.tick + peerTicks : Nat) (.peerPackageTimeout p)) s)
/-- Packages acknowledge something (R408). -/
def hearPeers (l : List Nat) : Act := fun s =>
  if l.isEmpty then [] else onPkg (fun k => { k with peers := k.peers.map (fun x => if l.contains x.1 then (x.1, s.tick) else x) }) s
/-- The packages whose pages the blocks of an access lie in on loan. -/
def loanPkgs (l : List (Option Place)) : List Nat := l.filterMap (fun p => p.bind (fun p => if p.isLoan then some p.ext.lpkg else none))
/-- The free values that the loan blocks of an access have taken. -/
def drawLoans (arrs : List Arr) : Act := if arrs.any (fun a => a.loan.isSome) then draw arrs.length (fun _ => Act.none) else Act.none
/-- A far-path read of some blocks: the transaction and its requests (R128, R131). -/
def farRead (id : Nat) (who : Who) (kind : TxKind) (req : Col) (issue : Int) (extra : Nat) (bs : List FarBlk) : Act := fun s =>
  let arrs := s.farArrs who.col req issue extra false bs
  Act.all [countPages req ((bs.filter (fun b => !b.skip)).map (fun b => (b.va, b.place))), askPeers (loanPkgs ((bs.filter (fun b => !b.skip)).map (·.place))),
    fun s => [.txns (s.txns ++ [{ id := id, who := who, kind := kind, arrs := arrs }])],
    sendReqs id who req req issue extra arrs bs (fun _ => .read), drawLoans arrs] s

/-- A far-path write of some blocks; a loan block is written on the cycle on which its lender serves it (R131, R415). -/
def farWrite (id : Nat) (who : Who) (kind : TxKind) (req phc : Col) (issue : Int) (extra : Nat) (bs : List (FarBlk × BlkWrite)) : Act :=
  fun s =>
    let fb := bs.map (·.1)
    let arrs := s.farArrs who.col req issue extra true fb
    let loans := ((List.range bs.length).zip (bs.zip arrs)).filterMap (fun (k, x) =>
      match x.2.loan, x.2.at_, x.1.1.place with
      | some b, some f, some p =>
        some ({ at_ := f, stream := who.stream,
                eff := .loan b (offOf x.1.1.va) (!p.isCopy) (p.hcol, p.hpa) phc x.1.2 id k x.2.ret } : Pend)
      | _, _, _ => none)
    Act.all [countPages phc (fb.map (fun b => (b.va, b.place))), askPeers (loanPkgs (fb.map (·.place))),
      fun s => [.txns (s.txns ++ [{ id := id, who := who, kind := kind, arrs := arrs }])],
      onUnit who.col (fun u => u.later loans),
      sendReqs id who req phc issue extra arrs fb (fun k => .write ((bs.getD k ({ va := 0, place := none }, Blk.clear.whole)).2)),
      drawLoans arrs] s

/-- Cycles of the SP write port that a slot's blocks take (R96, R250). -/
def slotOcc (off n : Nat) : Nat := occOf .sp [(off, 64 * n)]
/-- The formula cycle of a pending landing of a command is known (R133). -/
def UnitSt.markForm (u : UnitSt) (id : Nat) (m : Option Mem) (blk : Nat) (x : Int) : UnitSt :=
  { u with ord := { u.ord with pblks := u.ord.pblks.map (fun p => if p.id == id && p.mem == m && p.blk == blk then { p with form := some x } else p) } }
def CpLoc.markForm (l : CpLoc) (id : Nat) (x : Int) (u : UnitSt) : UnitSt :=
  match l with
  | .chip m off => u.markForm id (some m) (off / 64) x
  | .acc off => u.markForm id Option.none (off / 64) x
  | .glob va => u.markForm id (some .vault) (va / 64) x
  | .none => u
/-- The write port that a load's destination takes is reserved once every formula cycle of the load is known: that of a queue slot's memory for the cycles that end
at the written cycle, when the slot's blocks are pending until then, and T0's for a row on its cycle (R95, R133, R250). -/
def reserveLoad (id : Nat) : Act := fun s =>
  match s.txns.find? (fun t => t.id == id) with
  | none => []
  | some t =>
    let fs := t.arrs.filterMap (·.form)
    let due := fs.foldl max 0
    if fs.length != t.arrs.length then []
    else match t.kind with
    | .load (.slot off _) =>
      let n := slotOcc off t.arrs.length
      onUnit t.who.col (fun u =>
        { u.takePort .spW (due + 1 - n) n with
          ord := { u.ord with pblks := u.ord.pblks.map (fun p => if p.id == id then { p with form := some due } else p) } }) s
    | .load (.vec ..) | .load (.heads ..) => onUnit t.who.col (fun u => u.takePort (.tileW 0) due 1) s
    | _ => []
/-- Block k of a command goes to its destination in the unit on cycle x: its port cycle, or the formula of its write to GLOBAL where that has no wait
of its own, and how long the block is pending (R95, R133, R259). -/
def reserveDst (c : Col) (q : CopyCmd) (k : Nat) (x : Int) : Act := fun s =>
  let l := (q.blks.map (·.dst)).getD k .none
  match l.port true, q.dsts.getD k none with
  | some p, _ => onUnit c (fun u => l.markForm q.id x (u.takePort p x 1)) s
  | none, some p =>
    let t := s.pathTerms c p
    let m := s.term c p x 0 0 true
    (match (if t.loan then some m else t.fixed.map (fun w => m + (w : Int))) with
      | some f => onUnit c (l.markForm q.id f)
      | none => Act.none) s
  | none, none => []
/-- The cycles on which an expansion's destination blocks are written, as far as the formula cycles of its pieces are known: block i is block
`masks + i` of a copy, one a cycle, and comes after every piece up to that one (R259, R262; log entry 63). -/
def CopyCmd.expandForms (q : CopyCmd) (x : CpX) (arrs : List Arr) : List (Option Int) :=
  let lands := fun (j : Nat) => match q.srcs[j]? with
    | some (_, some _) => (arrs[j]?).bind (·.form)
    | _ => some (q.start + (j : Int))
  ((List.range q.blks.length).foldl (fun (a : List (Option Int) × Option Int) i =>
    let ls := (List.range (min (x.masks.length + i + 1) q.srcs.length)).map lands
    let w := a.2.bind (fun prev => if ls.all Option.isSome then some ((ls.filterMap (fun x => x)).foldl (fun m f => max m (f + 1)) (prev + 1)) else none)
    (a.1 ++ [w], w)) ([], some q.start)).1
/-- The port cycles that the formula of an expansion with a GLOBAL side names, once they are known (R95, R259, R262). -/
def reserveExpand (c : Col) (cmd : Nat) : Act := fun s =>
  match (s.unit c).eng.cmds.find? (fun q => q.id == cmd) with
  | none => []
  | some q =>
    match q.x, s.txns.find? (fun t => t.id == q.rtx) with
    | some x, some t => Act.each ((List.range q.blks.length).zip (q.expandForms x t.arrs)) (fun y => match y.2 with
        | some w => if x.next ≤ y.1 then reserveDst c q y.1 w else Act.none
        | none => Act.none) s
    | _, _ => []
/-- The port cycles that the formula of a copy's block names once its source lands on cycle f (R95, R238, R259, R263, R264). -/
def reserveBlock (c : Col) (cmd k : Nat) (f : Int) : Act := fun s =>
  match (s.unit c).eng.cmds.find? (fun q => q.id == cmd) with
  | none => []
  | some q =>
    let l := (q.blks.map (·.dst)).getD k .none
    if q.op = 0 || q.op = 3 then reserveDst c q k (f + 1) s
    else if (q.op = 2 || q.op = 4) && q.pkg == 0 then
      match l.port true with
      | none => []
      | some p => Act.each q.targets (fun v => fun s =>
          let x := f + (s.ow c v : Int) + 1
          onUnit v (fun u => (if v == c then l.markForm q.id x else id) (u.takePort p x 1)) s) s
    else []
/-- The first beat of a run gives its wait w, and with it every formula cycle of the run (R131), and the port cycles that these name. -/
def fixForms (id k : Nat) (w : Int) : Act := fun s =>
  match s.txns.find? (fun t => t.id == id) with
  | none => []
  | some t =>
    let g := (t.arrs.map (·.grp)).getD k k
    let open_ := fun (a : Arr) => a.grp == g && a.form.isNone && !a.del
    let news := (List.range t.arrs.length).filterMap (fun i => match t.arrs[i]? with
      | some a => if open_ a then some (i, a.term + w) else none
      | none => none)
    Act.all [onTxn id (fun t => { t with arrs := t.arrs.map (fun a => if open_ a then { a with form := some (a.term + w) } else a) }),
      reserveLoad id,
      (match t.kind with
        | .copy cmd => Act.seq (Act.each news (fun x => reserveBlock t.who.col cmd x.1 x.2)) (reserveExpand t.who.col cmd)
        | .copyOut cmd => onUnit t.who.col (fun u => news.foldl (fun u x => u.markForm cmd (some .vault) (offOf ((t.arrs.map (·.va)).getD x.1 0) / 64) x.2) u)
        | _ => Act.none)] s

/-- The virtual address that an extent gives to a vault physical address of a column, if it places it there. -/
def extVa (dielist : List Die) (e : Extent) (c : Col) (pa : Nat) : Option Nat :=
  let page := pa / 4096
  let n := max 1 dielist.length
  let g : Option Nat :=
    if e.tier = 3 || page < e.ppn then none
    else if !e.hash then (if e.col == c then some (page - e.ppn) else none)
    else (dielist.findIdx? (fun d => d == dieOf c)).map (fun i => (page - e.ppn) * (n * 128) + (c.val % 128 + 128 - e.col.val % 128) % 128 * n + i)
  match g with
  | some g => if g < e.pages then some ((e.vpn + g) * 4096 + pa % 4096) else none
  | none => none
/-- The extent of a unit's current map that places a vault address there, and the virtual address. -/
def State.mappedAt (s : State) (u : UnitSt) (c : Col) (pa : Nat) : Option (Extent × Nat) :=
  u.maps.current.findSome? (fun e => (extVa s.pkg.dielist e c pa).map (fun va => (e, va)))

/-! ## At the owner -/

/-- A beat serves a read: it is performed now, and its block reaches the arrival buffer 18 cycles and the return later, over a link from another
die (R101, R131, R401). -/
def serveRead (o : Col) (r : Req) : Act := fun s =>
  let now := s.now r.who.col
  let blk := r.pa / 64
  let v := s.vault o
  let d := dieOf r.who.col
  let race := if r.sh then (s.shadow r.who false (s.now o) (v.shadowOf blk)).map some else .ok none
  let put := fun (b : Blk) (bad : Option FaultRec) =>
    let far := dieOf o != d
    let lag : Int := 18 + (toBridge o d : Int)
    if !s.ownOk r.who then dropResponse d
    else Act.all [onArr r.tx r.k (fun a => { a with at_ := if far then none else some (now + 18 + r.ret), blk := b, bad := bad }),
      fixForms r.tx r.k (now - r.arrive),
      Act.when far (sendBeat { src := dieOf o, dst := d, ready := now + lag, issue := r.who.issue, col := r.who.col,
                               go := .back r.tx r.k (18 + r.ret - lag) })]
  match race with
  | .error e => put .clear (some (raceFault r.va e)) s
  | .ok sh =>
    Act.seq (onVault o (fun v => match sh with | some w => v.setShadow blk w | none => v)) (put ((s.mem o .vault).blk blk) none) s

/-- A block write lands at its current placement (R109, R412): snapshot, data, dirty bit, shadow word. -/
def landBlock (o : Col) (pa : Nat) (home : Col × Nat) (cow : Bool) (writer : Col) (w : BlkWrite) (sh : Option (BitVec 128)) : Act := fun s =>
  let blk := pa / 64
  let sw := if cow then s.snapWrite o (s.snapOf writer) (s.roundOf writer) blk w else (s.vault o, [])
  let v := if home == (o, pa) then sw.1 else sw.1.addDirty blk
  let v := match sh with | some x => v.setShadow blk x | none => v
  [.vault o v, .mem o .vault sw.2, .mem o .vault [(blk, w)]]
/-- A block write lands, at its second placement too where one is due (R121). -/
def landWrite (o : Col) (pa : Nat) (va : Nat) (home : Col × Nat) (cow : Bool) (writer ph : Col) (w : BlkWrite) (sh : Option (BitVec 128)) :
    Act :=
  Act.seq (landBlock o pa home cow writer w sh) (dualFor writer ph va none o pa home (home == (o, pa)) [w])

/-- A write is performed at its owner (R330): or its fault is deferred to the issuer (R239). Either way it is acknowledged. -/
def performWrite (o : Col) (r : Req) (w : BlkWrite) : Act := fun s =>
  let now := s.now r.who.col
  let ack := if s.ownOk r.who then onArr r.tx r.k (fun a => { a with at_ := some now, term := now + r.ret, del := true }) else dropResponse (dieOf r.who.col)
  match s.writeFault o r w with
  | .error e => Act.seq ack (Act.when (s.ownOk r.who) (Act.seq (onArr r.tx r.k (fun a => { a with bad := some e }))
      (eventAt r.who.col (now + r.ret) (.deferredFaultReport r.who.col r.who.stream e)))) s
  | .ok sh => Act.seq ack (landWrite o r.pa (offOf r.va) r.home r.cow r.who.col r.phc w sh) s

def UnitSt.onOutst (u : UnitSt) (id : Nat) (f : Outst → Outst) : UnitSt :=
  { u with ord := { u.ord with outst := u.ord.outst.map (fun o => if o.id == id then f o else o) } }
def UnitSt.dropOutst (u : UnitSt) (id : Nat) : UnitSt := { u with ord := { u.ord with outst := u.ord.outst.filter (fun o => o.id != id) } }
def UnitSt.addOutst (u : UnitSt) (o : Outst) : UnitSt := { u with ord := { u.ord with outst := u.ord.outst ++ [o] } }
/-- The unit knows the written cycle of a write transaction, that of the blocks in the package where there are any, once they are all written; once all
blocks are, the last acknowledgement is on its way (R349). -/
def closeWrite (id : Nat) : Act := fun s =>
  match s.txns.find? (fun t => t.id == id) with
  | none => []
  | some t =>
    let near := t.arrs.filter (fun a => a.loan.isNone)
    let base := if near.isEmpty then t.arrs else near
    let last := base.foldl (fun m a => max m (a.at_.getD 0)) t.who.issue
    let ack := t.arrs.foldl (fun m a => max m a.term) t.who.issue
    Act.seq (Act.when (base.all (fun a => a.at_.isSome)) (onUnit t.who.col (fun u => u.onOutst id (fun o => { o with written := some last }))))
      (Act.when (t.arrs.all (fun a => a.at_.isSome)) (eventAt t.who.col ack (.writeAcknowledgement t.who.col id))) s

end Sys2Proof.Machine
end

