-- ==== Sys2Proof/Machine/Access.lean ====
section
/-! DEFINITION. Accesses of K, L and S to memory: ports (R93, R95, R96), the early-read rule (R240), the conditions that FENCE and
ACQ operations put on accesses (R335, R336), on-chip and GLOBAL loads and stores (R200, R237), and their tracking (R54, R219). -/
namespace Sys2Proof.Machine

/-! ## Conditions on accesses (R240, R335, R336) -/

/-- Whether the report, or the AMF word, of an operation is still on its way and not known to come by a cycle (R335, R336). -/
def State.awaits (s : State) (u : UnitSt) (x : Int) (id : Nat) : Bool :=
  (u.eng.amf.any (fun f => f.id == id && f.word.isNone) || s.work.atoms.any (fun a => a.id == id)) &&
    !s.timers.any (fun t => t.ev == .atomicReport id && decide (t.at_ ≤ x))
/-- A read that has not landed by a cycle. -/
def Outst.flying (o : Outst) (now : Int) : Bool :=
  match o.written with
  | some w => now < w
  | none => true
/-- BUSY for an access issued after a FENCE of kind ACQ, AR or SC while an earlier read has not landed, or after an ACQ or SC
operation whose report has not come by `x`, the cycle on which the access counts as issued (R332, R335, R336). -/
def State.accessHeld (s : State) (u : UnitSt) (now : Int) (x : Int := now) : Bool :=
  (match u.ord.fence with
    | some f => f < now && u.ord.outst.any (fun o => o.isRead && o.issue ≤ f && o.flying now)
    | none => false) || u.ord.acq.any (s.awaits u x)

/-- What the early-read rule answers to a read of some blocks (R240): nothing, BUSY in loose mode, or EARLY. A read that an engine makes on a later cycle `x`
finds a landing made that in timed mode has its formula cycle by then (R133). -/
inductive Gate where
  | ok | busy
  | early (blk : Nat)
def UnitSt.gate (u : UnitSt) (now : Int) (m : Option Mem) (blks : List Nat) (x : Int := now) : Gate :=
  let pending := fun b => u.ord.pblks.filter (fun p => p.mem == m && p.blk == b &&
    (match p.due, p.form with
      | some d, _ => decide (x < d)
      | none, some f => !u.ctl.timed || x == now || decide (x < f)
      | none, none => true))
  if !u.ctl.timed then (if blks.any (fun b => !(pending b).isEmpty) then .busy else .ok)
  else
    match blks.find? (fun b => (pending b).any (fun p => p.far) || (u.regs.erc && !(pending b).isEmpty)) with
    | some b => .early b
    | none => .ok
def earlyFault (addr : Dword) : FaultRec := flt .early 0 addr
/-- The blocks of rows' images, by their ACC offset (R83, R93). -/
def accBlks (rows : List (Fin 256)) : List Nat := rows.flatMap (fun r => (List.range 10).map (fun i => 10 * r.val + i))
/-- No copy, get or queue load whose landing the early-read rule makes a reader wait for is pending on rows of the accumulator store (R48, R240). -/
def UnitSt.rowsClear (u : UnitSt) (now : Int) (rows : List (Fin 256)) (x : Int := now) : Bool :=
  match u.gate now none (accBlks rows) x with
  | .ok => true
  | _ => false
/-- The rows of T0 that names of registers stand for. -/
def UnitSt.vRows (u : UnitSt) (rv : List (Fin 64)) : List (Fin 256) := rv.map (fun r => vRow (u.regs.physV r))
/-- What the early-read rule adds to an attempt for the rows that it reads: BUSY in loose mode, or EARLY (R48, R240). -/
def Attempt.reads (a : Attempt) (u : UnitSt) (now : Int) (rows : List (Fin 256)) (x : Int := now) : Attempt :=
  match u.gate now none (accBlks rows) x with
  | .ok => a
  | .busy => { a with miss := if a.miss.isNone then some .busy else a.miss }
  | .early b => { a with fault := some (earlyFault (CpLoc.addr (.acc (64 * b)))) }

/-- A V instruction raises no EARLY (R328): in timed mode it reads a pending row as it stands, and in loose mode it waits for it (R240; log entry 26). -/
def UnitSt.rowsStand (u : UnitSt) (now : Int) (rows : List (Fin 256)) (x : Int := now) : Bool := u.ctl.timed || u.rowsClear now rows x
def Attempt.readsV (a : Attempt) (u : UnitSt) (now : Int) (rows : List (Fin 256)) (x : Int := now) : Attempt :=
  if u.rowsStand now rows x then a else { a with miss := if a.miss.isNone then some .busy else a.miss }

/-- Rows that an attempt reads on cycles of their own; the first that answers decides. -/
def Attempt.readsAt (a : Attempt) (u : UnitSt) (now : Int) (rows : List (Fin 256 × Int)) : Attempt := rows.foldr (fun r a => a.reads u now [r.1] r.2) a
def UnitSt.rowsClearAt (u : UnitSt) (now : Int) (rows : List (Fin 256 × Int)) : Bool := rows.all (fun r => u.rowsClear now [r.1] r.2)

/-! ## Tracking (R54, R219) -/

/-- An on-chip access that takes effect on a known cycle. -/
def UnitSt.track (u : UnitSt) (x : Stream) (now at_ : Int) (isRead : Bool) : UnitSt :=
  let live := u.ord.outst.filter (fun o => o.id != 0 || o.flying now)
  let o : Outst := { id := 0, stream := x, issue := now, written := some at_, isRead := isRead, sync := false, wide := false }
  { u with ord := { u.ord with outst := live ++ [o] } }
/-- An access whose landing or acknowledgement is awaited under an identity. -/
def UnitSt.trackFar (u : UnitSt) (id : Nat) (x : Stream) (now : Int) (isRead sync wide : Bool) (host : Bool := false) : UnitSt :=
  u.addOutst { id := id, stream := x, issue := now, written := none, isRead := isRead, sync := sync, wide := wide, host := host }
/-- Every write of the unit issued so far has reached the point of R219 for a scope: its written cycle, for a block of the package, or, at POD and
SYS, its acknowledgement, of a write to host memory or storage at SYS alone (R349); `only` limits it to what a stream itself writes, without the blocks of its copy commands (R351). -/
def UnitSt.writesDone (u : UnitSt) (scope : Scope) (now : Int) (only : Option Stream) : Bool :=
  u.ord.outst.all (fun o =>
    o.isRead || (match only with | some x => o.stream != x || u.eng.cmds.any (fun q => q.wtx == o.id) | none => false) ||
      match scope with
      | .pod => o.host || (o.id == 0 && !o.flying now)
      | .sys => o.id == 0 && (o.sync || !o.flying now)
      | _ => o.wide || !o.flying now)

/-! ## Tiles of an access -/

/-- The blocks of an access in block order: addresses, whether clipping leaves each unread, and the byte spans of the rows (R96). -/
structure Tile where
  addrs : List Dword
  skips : List Bool
  spans : List (Nat × Nat)
def Tile.read (t : Tile) : List Dword := (t.addrs.zip t.skips).filterMap (fun x => if x.2 then none else some x.1)
def Tile.window (t : Tile) : Nat := tagOf (t.addrs.getD 0 0)
/-- A tile of `rows` rows whose addresses `at_` gives (R236). -/
def Layout.tile (l : Layout) (rows : Nat) (at_ : Nat → Dword) : Tile :=
  let bs := l.tileBlks rows at_ id
  { addrs := bs.map (·.addr), skips := bs.map (·.skip), spans := l.spans rows at_ }
def blkOf (a : Dword) : Nat := offOf a / 64

/-- The address register of L or S, and the special register that a post-increment writes (R233, R234). -/
def UnitSt.areg (u : UnitSt) (store : Bool) (ax : Fin 8) : Dword := if store then u.regs.as[ax] else u.regs.al[ax]
def aregSel (store : Bool) (ax : Fin 8) : Fin 4096 := Fin.ofNat 4096 ((if store then 0x028 else 0x020) + ax.val)
/-- The address of a MEM instruction, and its post-increment at issue + 1 (R234). -/
def UnitSt.memAddr (u : UnitSt) (store : Bool) (ax : Fin 8) (pi : Bool) (disp : Int) : Dword :=
  if pi then u.areg store ax else lea (u.areg store ax) (BitVec.ofInt 64 (64 * disp))
def UnitSt.postInc (u : UnitSt) (x : Stream) (store : Bool) (ax : Fin 8) (pi : Bool) (disp now : Int) : List Pend :=
  if pi then [{ at_ := now + 1, stream := x, eff := .spec (aregSel store ax) (lea (u.areg store ax) (BitVec.ofInt 64 (64 * disp))) }]
  else []

/-! ## Loads -/

/-- Blocks pending in the column's arrival buffer (R135); code blocks go to the instruction store (log entry 14). -/
def State.arrivals (s : State) (c : Col) : Nat :=
  s.txns.foldl (fun n t => match t.kind with
    | .load (.code _) => n
    | .load _ | .copy _ => if t.who.col == c then n + (t.arrs.filter (fun a => !a.del && !a.skip)).length else n
    | _ => n) 0

/-- The part of the issue that every read of memory shares: the conditions and the early-read fault. -/
def State.readBlocked (s : State) (u : UnitSt) (now : Int) (m : Mem) (blks : List Nat) : Option Miss :=
  if s.accessHeld u now then some .busy
  else match u.gate now (some m) blks with
    | .busy => some .busy
    | _ => none
def UnitSt.earlyAt (u : UnitSt) (now : Int) (m : Mem) (addrs : List Dword) : Option FaultRec :=
  match u.gate now (some m) (addrs.map blkOf) with
  | .early b => (addrs.find? (fun a => blkOf a == b)).map earlyFault
  | _ => none

/-- The port cycle, from 0, on which an access reads each of its blocks: every bank serves its words in block order, one a cycle, and a block is
read with the last of its words, never before the block ahead of it and on one of the access's cycles (R96, R237, R330; log entry 24). -/
def portCycles (m : Mem) (occ : Nat) (addrs : List Dword) : List Nat :=
  let per := 64 / bankWord m
  (addrs.foldl (fun (a : List Nat × List Nat × Nat) x =>
    let banks := (List.range per).map (fun i => bankOf m (offOf x / 64 * 64 + i * bankWord m))
    let at_ := banks.foldl (fun n b => max n (a.2.1.getD b 0)) 0
    let cyc := max a.2.2 (min at_ (occ - 1))
    (a.1 ++ [cyc], banks.foldl (fun l b => l.set b (at_ + 1)) a.2.1, cyc)) ([], List.replicate 16 0, 0)).1
/-- A load from an on-chip memory (R200, R237): the port for occ cycles from issue + 1, each block's data on its port cycle, the
destination at issue + 4 + occ + `extra`; `dest` is a port it needs on that cycle, `n` cycles ending there. -/
def State.chipLoad (s : State) (u : UnitSt) (c : Col) (x : Stream) (now : Int) (m : Mem) (t : Tile) (occ extra : Nat)
    (dst : LoadDst) (dest : Option (Port × Nat)) : Attempt :=
  let due := now + (4 + occ + extra : Nat)
  let blks := t.addrs.map blkOf
  let hds := blks.map (fun b => (s.mem c m).head b)
  let live := (hds.zip (t.addrs.zip t.skips)).filter (fun y => !y.2.2)
  let portsOk := u.portFree (readPort m) (now + 1) occ &&
    (match dest with | some (p, n) => u.portFree p (due + 1 - n) n | none => true)
  { miss := match s.readBlocked u now m (t.read.map blkOf) with
      | some k => some k
      | none => if portsOk then none else some .busy
    fault := match u.earlyAt now m t.read with
      | some e => some e
      | none => dst.fault (live.map (·.1)) (live.map (fun y => y.2.1))
    eff := [{ at_ := now + 1, stream := x, eff := .capture m ((blks.zip hds).zip (portCycles m occ t.addrs) |>.map (fun y => (y.1.1, y.1.2, now + 1 + (y.2 : Int)))) [] dst due }]
    unit := fun u =>
      let u := (u.takePort (readPort m) (now + 1) occ).track x now due true
      match dest with | some (p, n) => u.takePort p (due + 1 - n) n | none => u
    sig := 4 + occ + extra }

/-- The blocks of a tile on the far path: those read by their places, in order; the others, which count in their run, by a neighbour's, or where
none is read by their own, if there is one (R131, R236; log entry 26). -/
def State.farTile (s : State) (u : UnitSt) (acc : Nat) (t : Tile) (ps : List Place) : List FarBlk :=
  let own := fun (a : Dword) => (translate s.pkg.dielist u.maps u.maps.current (offOf a) acc).toOption
  let rec go : List (Dword × Bool) → List Place → List (Option Place)
    | [], _ => []
    | (a, true) :: l, ps => (if t.read.isEmpty then own a else none) :: go l ps
    | (_, false) :: l, p :: ps => some p :: go l ps
    | (_, false) :: l, [] => none :: go l []
  let at_ := go (t.addrs.zip t.skips) ps
  ((t.addrs.zip t.skips).zip (if t.read.isEmpty then at_ else fillPlaces at_)).map (fun x => { va := x.1.1, place := x.2, skip := x.1.2 })
/-- A load from GLOBAL (R113, R131, R237): translated at issue; the destination is written when its last block has landed, which is
also the signal cycle, from which its tokens' cycles are counted then (R21). `dest` is a port that it takes for n cycles ending on the written cycle, from the issue on where that cycle is known (R250). -/
def State.farLoad (s : State) (u : UnitSt) (c : Col) (x : Stream) (now : Int) (acc : Nat) (t : Tile) (dst : LoadDst)
    (dest : Option (Port × Nat) := none) : Attempt :=
  match s.xlate u acc t.read with
  | .error e => ({ miss := if s.accessHeld u now then some .busy else none, fault := some e } : Attempt).translated c u t.read
  | .ok ps =>
    let bs := s.farTile u acc t ps
    let id := s.nextId + 1
    let fs := (s.farArrs c c now 0 false bs).filterMap (·.form)
    let port := match dest with
      | some (p, n) => if fs.length == bs.length then some (p, fs.foldl max 0 + 1 - (n : Int), n) else none
      | none => none
    let busy := match port with
      | some r => !u.portFree r.1 r.2.1 r.2.2
      | none => false
    Attempt.translated
    { miss := match s.readBlocked u now .vault (t.read.map blkOf) with
        | some k => some k
        | none =>
          match dst with
          | .code _ => none
          | _ => if busy || 512 < s.arrivals c + t.read.length then some .busy else none
      fault := u.earlyAt now .vault t.read
      unit := fun u =>
        let u := u.trackFar id x now true false false
        match port with
        | some r => u.takePort r.1 r.2.1 r.2.2
        | none => u
      more := fresh (fun id => Act.seq (farRead id (s.who c x (dieOf c)) (.load dst) c now 0 bs)
        (Act.when (bs.all (fun b => b.place.isNone)) (eventAt c (now + 1) (.farPathDelivery id 0))))
      sig := 0, tag := id, held := true } c u t.read

/-- A load from the window of its tile: a buffer or GLOBAL. -/
def State.load (s : State) (u : UnitSt) (c : Col) (x : Stream) (now : Int) (t : Tile) (extra : Nat) (dst : LoadDst)
    (dest : Option (Port × Nat)) : Attempt :=
  match winMem t.window with
  | some m => s.chipLoad u c x now m t (occOf m t.spans) extra dst dest
  | none => s.farLoad u c x now 0 t dst dest

/-! ## Stores -/

/-- A store of block writes into an on-chip memory (R66, R237): MERGE and live-barrier checks at issue, written at issue + 1 + occ. -/
def State.chipStore (s : State) (u : UnitSt) (c : Col) (x : Stream) (now : Int) (m : Mem) (ws : List (Dword × BlkWrite)) (occ : Nat)
    (flags : NumBits) : Attempt :=
  let w := now + (1 + occ : Nat)
  { miss := if s.accessHeld u now then some .busy else if u.portFree (writePort m) (now + 1) occ then none else some .busy
    fault := ws.findSome? (fun y => match y.2.need with
      | some h => if (s.mem c m).head (blkOf y.1) == h then none else some (formatFault 4 y.1)
      | none => none)
    eff := { at_ := w, stream := x, eff := .blocks m (ws.map (fun y => (blkOf y.1, y.2))) } :: numstAt w x flags
    unit := fun u => (u.takePort (writePort m) (now + 1) occ).track x now w false
    sig := 1 + occ }
/-- A partial write is judged by the header that its block has at the start of the store's issue cycle (MERGE, R66). -/
def State.judged (s : State) (p : Place) (w : BlkWrite) : BlkWrite :=
  match w.need with
  | some h => { w with need := none, bad := (s.placeBlk p).hd != h }
  | none => w
/-- A store of block writes to GLOBAL (R131, R237): translated at issue, signal cycle issue + 1. -/
def State.farStore (s : State) (u : UnitSt) (c : Col) (x : Stream) (now : Int) (ws : List (Dword × BlkWrite)) (flags : NumBits) : Attempt :=
  match s.xlate u 1 (ws.map (·.1)) with
  | .error e => ({ miss := if s.accessHeld u now then some .busy else none, fault := some e } : Attempt).translated c u (ws.map (·.1))
  | .ok ps =>
    let id := s.nextId + 1
    let bs := (ws.zip ps).map (fun y => (({ va := y.1.1, place := some y.2 } : FarBlk), s.judged y.2 y.1.2))
    Attempt.translated
    { miss := if s.accessHeld u now then some .busy else none
      eff := numstAt (now + 1) x flags
      unit := fun u => if ws.isEmpty then u else u.trackFar id x now false false (ps.all Place.isLoan)
      more := if ws.isEmpty then Act.none
        else fresh (fun id => Act.seq (farWrite id (s.who c x (dieOf c)) .store c c now 0 bs) (closeWrite id)) } c u (ws.map (·.1))
def State.store (s : State) (u : UnitSt) (c : Col) (x : Stream) (now : Int) (window : Nat) (spans : List (Nat × Nat))
    (ws : List (Dword × BlkWrite)) (flags : NumBits) : Attempt :=
  match winMem window with
  | some m => s.chipStore u c x now m ws (occOf m spans) flags
  | none => s.farStore u c x now ws flags

end Sys2Proof.Machine
end

