-- ==== Sys2Proof/Machine/Scalar.lean ====
section
/-! DEFINITION. K: integer arithmetic and logic, division, immediates, compares and addresses (R183 to R193). -/
namespace Sys2Proof.Machine

/-- A K instruction of `len` words that reads some registers and writes one at issue + n (R184, R185). -/
def scalar (h : Hdr) (len : Nat) (reads : List (Fin 64)) (d : Fin 64) (n : Nat) (f : UnitSt → SVal × NumBits) : Act :=
  issueAs .k h.sync len (fun s c u now =>
    let r := f u
    { miss := kBusy s c u now reads (some d) n
      eff := { at_ := now + n, stream := .k, eff := .sreg d r.1 } :: numstAt (now + n) .k r.2
      sig := n })
/-- Integer form on two registers: data modulo 2^64, tail 0b00, at issue + 1 (R187). -/
def intOp (h : Hdr) (d a b : Fin 64) (f : Dword → Dword → Dword) : Act :=
  scalar h 1 [a, b] d 1 (fun u => (.ofData (f (u.sd a) (u.sd b)), 0))
/-- Integer form on one register (R189, R190). -/
def intOp1 (h : Hdr) (d a : Fin 64) (f : Dword → Dword) : Act := scalar h 1 [a] d 1 (fun u => (.ofData (f (u.sd a)), 0))
def truth (b : Bool) : Dword := if b then 1 else 0

/-- Leading zero bits of a 64-bit number (R189). -/
def leadingZeros (a : Dword) : Nat := if a == 0 then 64 else 63 - a.toNat.log2
/-- Trailing zero bits, counted from bit 0. -/
def trailingZeros (a : Dword) : Nat := ((List.range 64).find? (fun i => a.getLsbD i)).getD 64
def onesCount (a : Dword) : Nat := ((List.range 64).filter (fun i => a.getLsbD i)).length
/-- SEXT: a[imm:0] with bit imm copied upwards (R190). -/
def signExtendFrom (a : Dword) (imm : Nat) : Dword := BitVec.ofInt 64 (sInt (imm + 1) a.toNat)

/-! ## Latches (R32 to R35) -/

def Latch.ix : Latch → Fin 4
  | .xs => 0 | .xr => 1 | .xd => 2 | .xn => 3
/-- Entries of a latch (R32). -/
def latchEntries : Latch → Nat
  | .xs => 32 | .xr => 16 | .xd => 8 | .xn => 8
def latchLatency : Latch → Nat
  | .xs => 24 | .xr => 10 | .xd => 34 | .xn => 40
def UnitSt.latch (u : UnitSt) (x : Latch) : List LEntry := u.eng.latches[Latch.ix x]
def UnitSt.setLatch (u : UnitSt) (x : Latch) (l : List LEntry) : UnitSt :=
  { u with eng := { u.eng with latches := u.eng.latches.set (Latch.ix x) l } }
def UnitSt.latchFull (u : UnitSt) (x : Latch) : Bool := latchEntries x ≤ (u.latch x).length
/-- Take the youngest free entry (R34). -/
def UnitSt.pushLatch (u : UnitSt) (x : Latch) (img : Row) : UnitSt :=
  u.setLatch x (u.latch x ++ [{ img := img, valid := false, rem := latchLatency x }])
/-- A scalar result in a latch entry (R33). -/
def scalarImg (v : SVal) : Row := { data := v.data.zeroExtend 4096, tail := v.tail.zeroExtend 1024 }

/-- A division form (R188); it is barred from supervisor state (R374). -/
def divide (h : Hdr) (a b : Fin 64) (f : Dword → Dword → Dword) : Act :=
  issueAs .k h.sync 1 (fun s c u now =>
    { priv := u.frm.insv
      miss := match kBusy s c u now [a, b] none 0 with
        | some m => some m
        | none => if u.latchFull .xd then some .latch else none
      unit := fun u => u.pushLatch .xd (scalarImg (.ofData (f (u.sd a) (u.sd b)))) })
/-- Quotients and remainders with their corners (R188). -/
def quotS (a b : Dword) : Dword := if b == 0 then BitVec.allOnes 64 else a.sdiv b
def quotN (a b : Dword) : Dword := if b == 0 then BitVec.allOnes 64 else a / b
def remS (a b : Dword) : Dword := if b == 0 then a else a.srem b
def remN (a b : Dword) : Dword := if b == 0 then a else a % b

/-- ADD (R187). -/
def execAdd (h : Hdr) (d a b : Fin 64) (s : State) : Out := done (intOp h d a b (fun a b => a + b)) s
/-- SUB (R187). -/
def execSub (h : Hdr) (d a b : Fin 64) (s : State) : Out := done (intOp h d a b (fun a b => a - b)) s
/-- MUL (R187): the low 64 bits of the product. -/
def execMul (h : Hdr) (d a b : Fin 64) (s : State) : Out := done (intOp h d a b (fun a b => a * b)) s
/-- MULH (R187): the high 64 bits of the signed product. -/
def execMulh (h : Hdr) (d a b : Fin 64) (s : State) : Out := done (intOp h d a b (fun a b => BitVec.ofInt 64 (a.toInt * b.toInt / 2 ^ 64))) s
/-- MULHN (R187): the high 64 bits of the unsigned product. -/
def execMulhn (h : Hdr) (d a b : Fin 64) (s : State) : Out := done (intOp h d a b (fun a b => BitVec.ofNat 64 (a.toNat * b.toNat / 2 ^ 64))) s
/-- DIV (R188). -/
def execDiv (h : Hdr) (a b : Fin 64) (s : State) : Out := done (divide h a b quotS) s
/-- DIVN (R188). -/
def execDivn (h : Hdr) (a b : Fin 64) (s : State) : Out := done (divide h a b quotN) s
/-- REM (R188). -/
def execRem (h : Hdr) (a b : Fin 64) (s : State) : Out := done (divide h a b remS) s
/-- REMN (R188). -/
def execRemn (h : Hdr) (a b : Fin 64) (s : State) : Out := done (divide h a b remN) s
/-- AND (R187). -/
def execAnd (h : Hdr) (d a b : Fin 64) (s : State) : Out := done (intOp h d a b (fun a b => a &&& b)) s
/-- OR (R187). -/
def execOr (h : Hdr) (d a b : Fin 64) (s : State) : Out := done (intOp h d a b (fun a b => a ||| b)) s
/-- XOR (R187). -/
def execXor (h : Hdr) (d a b : Fin 64) (s : State) : Out := done (intOp h d a b (fun a b => a ^^^ b)) s
/-- ANDN (R187): a and not b. -/
def execAndn (h : Hdr) (d a b : Fin 64) (s : State) : Out := done (intOp h d a b (fun a b => a &&& ~~~b)) s
/-- SHL (R187): the count is b[5:0]. -/
def execShl (h : Hdr) (d a b : Fin 64) (s : State) : Out := done (intOp h d a b (fun a b => a <<< (b.toNat % 64))) s
/-- SHR (R187). -/
def execShr (h : Hdr) (d a b : Fin 64) (s : State) : Out := done (intOp h d a b (fun a b => a >>> (b.toNat % 64))) s
/-- SRA (R187). -/
def execSra (h : Hdr) (d a b : Fin 64) (s : State) : Out := done (intOp h d a b (fun a b => a.sshiftRight (b.toNat % 64))) s
/-- MIN (R187), signed. -/
def execMin (h : Hdr) (d a b : Fin 64) (s : State) : Out := done (intOp h d a b (fun a b => if a.slt b then a else b)) s
/-- MAX (R187), signed. -/
def execMax (h : Hdr) (d a b : Fin 64) (s : State) : Out := done (intOp h d a b (fun a b => if a.slt b then b else a)) s
/-- MINN (R187), unsigned. -/
def execMinn (h : Hdr) (d a b : Fin 64) (s : State) : Out := done (intOp h d a b (fun a b => if a.ult b then a else b)) s
/-- MAXN (R187), unsigned. -/
def execMaxn (h : Hdr) (d a b : Fin 64) (s : State) : Out := done (intOp h d a b (fun a b => if a.ult b then b else a)) s
/-- CLZ (R189). -/
def execClz (h : Hdr) (d a : Fin 64) (s : State) : Out := done (intOp1 h d a (fun a => BitVec.ofNat 64 (leadingZeros a))) s
/-- CTZ (R189). -/
def execCtz (h : Hdr) (d a : Fin 64) (s : State) : Out := done (intOp1 h d a (fun a => BitVec.ofNat 64 (trailingZeros a))) s
/-- POPC (R189). -/
def execPopc (h : Hdr) (d a : Fin 64) (s : State) : Out := done (intOp1 h d a (fun a => BitVec.ofNat 64 (onesCount a))) s
/-- SEXT (R190). -/
def execSext (h : Hdr) (d a : Fin 64) (imm : Int) (s : State) : Out := done (intOp1 h d a (fun a => signExtendFrom a imm.toNat)) s
/-- WTAG (R193): imm[3:0] as the tag. -/
def execWtag (h : Hdr) (d a : Fin 64) (imm : Int) (s : State) : Out := done (intOp1 h d a (fun a => BitVec.ofNat 64 (imm.toNat % 16 * 2 ^ 60 + offOf a))) s
/-- ADDI (R190). -/
def execAddi (h : Hdr) (d a : Fin 64) (imm : Int) (s : State) : Out := done (intOp1 h d a (fun a => a + BitVec.ofInt 64 imm)) s
/-- ANDI (R190). -/
def execAndi (h : Hdr) (d a : Fin 64) (imm : Int) (s : State) : Out := done (intOp1 h d a (fun a => a &&& BitVec.ofInt 64 imm)) s
/-- ORI (R190). -/
def execOri (h : Hdr) (d a : Fin 64) (imm : Int) (s : State) : Out := done (intOp1 h d a (fun a => a ||| BitVec.ofInt 64 imm)) s
/-- XORI (R190). -/
def execXori (h : Hdr) (d a : Fin 64) (imm : Int) (s : State) : Out := done (intOp1 h d a (fun a => a ^^^ BitVec.ofInt 64 imm)) s
/-- SHLI (R190). -/
def execShli (h : Hdr) (d a : Fin 64) (imm : Int) (s : State) : Out := done (intOp1 h d a (fun a => a <<< imm.toNat)) s
/-- SHRI (R190). -/
def execShri (h : Hdr) (d a : Fin 64) (imm : Int) (s : State) : Out := done (intOp1 h d a (fun a => a >>> imm.toNat)) s
/-- SRAI (R190). -/
def execSrai (h : Hdr) (d a : Fin 64) (imm : Int) (s : State) : Out := done (intOp1 h d a (fun a => a.sshiftRight imm.toNat)) s
/-- CSEL (R192): a tail-carrying move of a where the data of d is nonzero, else of b. -/
def execCsel (h : Hdr) (d a b : Fin 64) (s : State) : Out :=
  done (scalar h 1 [d, a, b] d 1 (fun u => (if u.sd d != 0 then u.s a else u.s b, 0))) s
/-- LEA (R193). -/
def execLea (h : Hdr) (d a b : Fin 64) (s : State) : Out := done (intOp h d a b lea) s
/-- WCHK (R193): the code of the first of TAG, STRADDLE and RANGE for max(b, 1) bytes at a. -/
def execWchk (h : Hdr) (d a b : Fin 64) (s : State) : Out :=
  done (intOp h d a b (fun a b => BitVec.ofNat 64 (windowKind a b.toNat))) s
/-- LI (R191): 40 bits, sign-extended. -/
def execLi (h : Hdr) (d : Fin 64) (imm : Int) (s : State) : Out := done (scalar h 2 [] d 1 (fun _ => (.ofData (BitVec.ofInt 64 imm), 0))) s
/-- LIH (R191): bits [63:40] of d. -/
def execLih (h : Hdr) (d : Fin 64) (imm : Fin 16777216) (s : State) : Out :=
  done (scalar h 2 [d] d 1 (fun u => (.ofData (BitVec.ofNat 64 (imm.val * 2 ^ 40 + (u.sd d).toNat % 2 ^ 40)), 0))) s
/-- CMP.EQ (R192). -/
def execCmpEq (h : Hdr) (d a b : Fin 64) (s : State) : Out := done (intOp h d a b (fun a b => truth (a == b))) s
/-- CMP.NE (R192). -/
def execCmpNe (h : Hdr) (d a b : Fin 64) (s : State) : Out := done (intOp h d a b (fun a b => truth (a != b))) s
/-- CMP.LT (R192). -/
def execCmpLt (h : Hdr) (d a b : Fin 64) (s : State) : Out := done (intOp h d a b (fun a b => truth (a.slt b))) s
/-- CMP.LE (R192). -/
def execCmpLe (h : Hdr) (d a b : Fin 64) (s : State) : Out := done (intOp h d a b (fun a b => truth (a.sle b))) s
/-- CMP.LTN (R192). -/
def execCmpLtn (h : Hdr) (d a b : Fin 64) (s : State) : Out := done (intOp h d a b (fun a b => truth (a.ult b))) s
/-- CMP.LEN (R192). -/
def execCmpLen (h : Hdr) (d a b : Fin 64) (s : State) : Out := done (intOp h d a b (fun a b => truth (a.ule b))) s

end Sys2Proof.Machine
end

