-- ==== Sys2Proof/Machine/ScalarFloat.lean ====
section
/-! DEFINITION. K: scalar floating point (R194 to R199), and loads and stores of one element (R200 to R202). -/
namespace Sys2Proof.Machine

/-- A compare of FP32 images: 1 or 0 with tail 0b00 at issue + 1, no NUMST bit (R196). -/
def fcompare (h : Hdr) (d a b : Fin 64) (f : XNum → XNum → Bool) : Act :=
  scalar h 1 [a, b] d 1 (fun u => (.ofData (truth (f (image .fp32 ((u.s a).pair .fp32)) (image .fp32 ((u.s b).pair .fp32)))), 0))
/-- FCMP.EQ (R196). -/
def execFcmpEq (h : Hdr) (d a b : Fin 64) (s : State) : Out := done (fcompare h d a b XNum.eq) s
/-- FCMP.NE (R196). -/
def execFcmpNe (h : Hdr) (d a b : Fin 64) (s : State) : Out := done (fcompare h d a b XNum.ne) s
/-- FCMP.LT (R196). -/
def execFcmpLt (h : Hdr) (d a b : Fin 64) (s : State) : Out := done (fcompare h d a b XNum.lt) s
/-- FCMP.LE (R196). -/
def execFcmpLe (h : Hdr) (d a b : Fin 64) (s : State) : Out := done (fcompare h d a b XNum.le) s
/-- FCMP.UN (R196). -/
def execFcmpUn (h : Hdr) (d a b : Fin 64) (s : State) : Out := done (fcompare h d a b (fun x y => x.isNan || y.isNan)) s

/-- An arithmetic form on FP32 pairs, narrowed once, at issue + 4 (R195). -/
def farith (h : Hdr) (d a b : Fin 64) (f : Pair → Pair → Pair × NumBits) : Act :=
  scalar h 1 [a, b] d 4 (fun u =>
    let r := f ((u.s a).pair .fp32) ((u.s b).pair .fp32)
    (.ofPair r.1, r.2))
/-- FADD (R195). -/
def execFadd (h : Hdr) (d a b : Fin 64) (s : State) : Out := done (farith h d a b (fpAdd .fp32)) s
/-- FSUB (R195). -/
def execFsub (h : Hdr) (d a b : Fin 64) (s : State) : Out := done (farith h d a b (fpSub .fp32)) s
/-- FMUL (R195). -/
def execFmul (h : Hdr) (d a b : Fin 64) (s : State) : Out := done (farith h d a b (fpMul .fp32)) s
/-- FFMA (R195): a × b + d, with d read at issue. -/
def execFfma (h : Hdr) (d a b : Fin 64) (s : State) : Out :=
  done (scalar h 1 [a, b, d] d 4 (fun u =>
    let r := fpFma .fp32 false false ((u.s a).pair .fp32) ((u.s b).pair .fp32) ((u.s d).pair .fp32)
    (.ofPair r.1, r.2))) s
/-- FMIN and FMAX: the selected operand with its tail, at issue + 1 (R195). -/
def fselect (h : Hdr) (d a b : Fin 64) (wantMax : Bool) : Act :=
  scalar h 1 [a, b] d 1 (fun u => (.ofPair (fpMinMax .fp32 wantMax ((u.s a).pair .fp32) ((u.s b).pair .fp32)), 0))
/-- FMIN (R195). -/
def execFmin (h : Hdr) (d a b : Fin 64) (s : State) : Out := done (fselect h d a b false) s
/-- FMAX (R195). -/
def execFmax (h : Hdr) (d a b : Fin 64) (s : State) : Out := done (fselect h d a b true) s

/-- Conversion of a float pair between formats (R75, R197, R314): a tail-carrying move, an exact widening or a narrowing; the widening
and the narrowing both are rto(), which is exact where the target covers the source. -/
def convert (f g : Fmt) (x : Pair) : Pair × NumBits :=
  if f == g then (if f.isNanCode x.v then nanPair g else x, 0) else rto (image f x) g
/-- FCVT (R197). -/
def execFcvt (h : Hdr) (d a : Fin 64) (f g : Fmt) (s : State) : Out :=
  done (scalar h 1 [a] d 2 (fun u =>
    let r := convert f g ((u.s a).pair f)
    (.ofPair r.1, r.2))) s
/-- FFIN (R198): final rounding in the format itself, tail 0b00. -/
def execFfin (h : Hdr) (d a : Fin 64) (f : Fmt) (mode : Mode) (s : State) : Out :=
  done (scalar h 1 [a] d 2 (fun u =>
    let r := roundFloat f (image f ((u.s a).pair f)) mode
    (.ofData (BitVec.ofNat 64 r.1), r.2))) s
/-- FCVTI (R198): saturating, extended by the type. -/
def execFcvti (h : Hdr) (d a : Fin 64) (mode : Mode) (t : ITy) (s : State) : Out :=
  done (scalar h 1 [a] d 2 (fun u =>
    let r := roundRange t.toVTy.lo t.toVTy.hi (image .fp32 ((u.s a).pair .fp32)) mode
    (.ofData (BitVec.ofInt 64 r.1), r.2))) s
/-- ICVTF (R198): the integer in a[w−1:0] narrowed to FP32. -/
def execIcvtf (h : Hdr) (d a : Fin 64) (t : ITy) (s : State) : Out :=
  done (scalar h 1 [a] d 2 (fun u =>
    let r := rto (XNum.ofInt (t.toVTy.intVal (u.sd a).toNat)) .fp32
    (.ofPair r.1, r.2))) s
/-- FCLS (R199). -/
def execFcls (h : Hdr) (d a : Fin 64) (f : Fmt) (s : State) : Out :=
  done (scalar h 1 [a] d 1 (fun u => (.ofData (BitVec.ofNat 64 (classMask f ((u.s a).pair f))), 0))) s
/-- FTAIL (R199). -/
def execFtail (h : Hdr) (d a : Fin 64) (s : State) : Out :=
  done (scalar h 1 [a] d 1 (fun u => (.ofData ((u.s a).tail.zeroExtend 64), 0))) s

/-! ## Scalar memory -/

/-- The tile of one element of `bytes` bytes at an address (R200). -/
def elemTile (addr : Dword) (bytes : Nat) : Tile :=
  { addrs := [BitVec.ofNat 64 (addr.toNat / 64 * 64)], skips := [false], spans := [(offOf addr, bytes)] }
/-- What every K access checks first: its registers, the fences before it, its address (R185, R200, R335). -/
def State.kAccess (s : State) (c : Col) (u : UnitSt) (now : Int) (reads : List (Fin 64)) (write : Option (Fin 64)) (n : Nat)
    (addr : Dword) (bytes : Nat) (go : Attempt) (first : Txn → Bool := fun _ => false) : Attempt :=
  let busy := kBusy s c u now reads write n first
  match checkAccess addr bytes bytes [0, 1, 2, 3] with
  | some e => { miss := if busy.isSome || s.accessHeld u now then some .busy else none, fault := some e }
  | none => { go with miss := if busy.isSome then busy else go.miss }
/-- Cycles from the issue of a K load to its own write (R185, R200): 5, or, from GLOBAL, those of its formula, without the wait where that is not known
yet (log entry 26). -/
def State.ownLand (s : State) (c : Col) (u : UnitSt) (now : Int) (t : Tile) : Nat :=
  if t.window != 0 then 5
  else match s.xlate u 0 t.read with
    | .error _ => 21
    | .ok ps => ((s.farArrs c c now 0 false (s.farTile u 0 t ps)).foldl (fun m a => max m (a.form.getD a.term)) now - now).toNat
/-- An earlier load of one block lands before a load from GLOBAL that issues now: its request waits at the same owner for the same row, where it arrives no later
and is served first (R129, R185; log entry 26). -/
def State.landsFirst (s : State) (c : Col) (u : UnitSt) (now : Int) (t : Tile) (x : Txn) : Bool :=
  t.window == 0 && (match s.xlate u 0 t.read with
    | .ok (p :: _) => !p.isLoan && x.arrs.length == 1 && (s.vault p.col).reqs.any (fun r => r.tx == x.id && bankPa r.pa == bankPa p.pa && rowPa r.pa == rowPa p.pa &&
        decide (r.arrive ≤ now + ((s.pathTerms c p).walk + s.travel c p + 3 : Nat)))
    | _ => false)
/-- A K load of one element (R200, R201): written at issue + 5, or where it lands. -/
def kLoad (h : Hdr) (d a : Fin 64) (w : Nat) (dst : Nat → LoadDst) : Act :=
  issueAs .k h.sync 1 (fun s c u now =>
    let addr := u.sd a
    let bytes := w / 8
    s.kAccess c u now [a] (some d) (s.ownLand c u now (elemTile addr bytes)) addr bytes
      (s.load u c .k now (elemTile addr bytes) 0 (dst (addr.toNat % 64 / bytes)) none) (s.landsFirst c u now (elemTile addr bytes)))
/-- LDS.F (R201). -/
def execLdsF (h : Hdr) (d a : Fin 64) (f : Fmt) (s : State) : Out := done (kLoad h d a f.width (fun ix => .sF d f ix)) s
/-- LDS.I (R201). -/
def execLdsI (h : Hdr) (d a : Fin 64) (t : ITy) (s : State) : Out := done (kLoad h d a t.toVTy.width (fun ix => .sI d t ix)) s

/-- A K store of one element under the MERGE check (R66, R200, R202). -/
def kStore (h : Hdr) (d a : Fin 64) (w code : Nat) (f : SVal → Nat × NumBits) : Act :=
  issueAs .k h.sync 1 (fun s c u now =>
    let addr := u.sd a
    let bytes := w / 8
    let r := f (u.s d)
    let b : BlkWrite := { bytesWrite (addr.toNat % 64) bytes r.1 with need := some { fmt := BitVec.ofNat 8 code, scl := 0x7F } }
    s.kAccess c u now [a, d] none 0 addr bytes
      (s.store u c .k now (tagOf addr) [(offOf addr, bytes)] [(BitVec.ofNat 64 (addr.toNat / 64 * 64), b)] r.2))
/-- STS.F (R202). -/
def execStsF (h : Hdr) (d a : Fin 64) (f : Fmt) (mode : Mode) (s : State) : Out :=
  done (kStore h d a f.width f.toVTy.blockCode (fun v => roundFloat f (image .fp32 (v.pair .fp32)) mode)) s
/-- STS.I (R202): the low bits, without saturation. -/
def execStsI (h : Hdr) (d a : Fin 64) (t : ITy) (s : State) : Out :=
  done (kStore h d a t.toVTy.width t.toVTy.blockCode (fun v => (v.data.toNat, 0))) s

end Sys2Proof.Machine
end

