-- ==== Sys2Proof/Machine/Control.lean ====
section
/-! DEFINITION. K: branches, jumps, loops and pre-emption points (R203 to R211). -/
namespace Sys2Proof.Machine

/-- The address of the instruction plus 4 × off (R203). -/
def Strm.target (t : Strm) (off : Int) : Dword := t.pc + BitVec.ofInt 64 (4 * off)
/-- A conditional branch on a scalar register against zero (R204). -/
def branch (h : Hdr) (a : Fin 64) (off : Int) (f : Dword → Bool) : Act :=
  issueAs .k h.sync 1 (fun s c u now =>
    { miss := kBusy s c u now [a] none 0
      pc := if f (u.sd a) then some ((u.strm .k).target off) else none })
/-- BR.EQ (R204). -/
def execBrEq (h : Hdr) (a : Fin 64) (off : Int) (s : State) : Out := done (branch h a off (fun x => x == 0)) s
/-- BR.NE (R204). -/
def execBrNe (h : Hdr) (a : Fin 64) (off : Int) (s : State) : Out := done (branch h a off (fun x => x != 0)) s
/-- BR.LT (R204). -/
def execBrLt (h : Hdr) (a : Fin 64) (off : Int) (s : State) : Out := done (branch h a off (fun x => x.slt 0)) s
/-- BR.GE (R204). -/
def execBrGe (h : Hdr) (a : Fin 64) (off : Int) (s : State) : Out := done (branch h a off (fun x => !x.slt 0)) s
/-- BR.LE (R204). -/
def execBrLe (h : Hdr) (a : Fin 64) (off : Int) (s : State) : Out := done (branch h a off (fun x => x.sle 0)) s
/-- BR.GT (R204). -/
def execBrGt (h : Hdr) (a : Fin 64) (off : Int) (s : State) : Out := done (branch h a off (fun x => !x.sle 0)) s

/-- JMP (R205). -/
def execJmp (h : Hdr) (off : Int) (s : State) : Out :=
  done (issueAs .k h.sync 1 (fun _ _ u _ => { pc := some ((u.strm .k).target off) })) s
/-- JMPI (R205). -/
def execJmpi (h : Hdr) (a : Fin 64) (s : State) : Out :=
  done (issueAs .k h.sync 1 (fun s c u now => { miss := kBusy s c u now [a] none 0, pc := some (u.sd a) })) s
/-- CALL (R205): S63 takes the address of the next word at issue + 1. -/
def execCall (h : Hdr) (off : Int) (s : State) : Out :=
  done (issueAs .k h.sync 1 (fun s c u now =>
    { miss := kBusy s c u now [] (some 63) 1
      eff := [{ at_ := now + 1, stream := .k, eff := .sreg 63 (.ofData ((u.strm .k).pc + 4)) }]
      pc := some ((u.strm .k).target off) })) s
/-- RET (R205). -/
def execRet (h : Hdr) (s : State) : Out :=
  done (issueAs .k h.sync 1 (fun s c u now => { miss := kBusy s c u now [63] none 0, pc := some (u.sd 63) })) s

/-! ## Loops (R206 to R210) -/

/-- The selectors of LCn, VRB, PRB, LREG and LSAV (R206, R209). -/
def selLC (n : Fin 4) : Fin 4096 := Fin.ofNat 4096 (0x014 + n.val)
def selVRB : Fin 4096 := 0x010
def selPRB : Fin 4096 := 0x011
def selLREG : Fin 4096 := 0x018
def selLSAV : Fin 4096 := 0x019
/-- Fields of LREG (R209). -/
def Regs.regd (g : Regs) : Bool := g.lreg.getLsbD 63
def Regs.clamped (g : Regs) : Bool := g.lreg.getLsbD 62
def Regs.lci (g : Regs) : Fin 4 := Fin.ofNat 4 (bits g.lreg.toNat 61 60)
def Regs.label (g : Regs) : Nat := bits g.lreg.toNat 15 0
def lregWord (reg clamp : Bool) (lci : Fin 4) (drain label : Nat) : Dword :=
  BitVec.ofNat 64 (boolCode reg * 2 ^ 63 + boolCode clamp * 2 ^ 62 + lci.val * 2 ^ 60 + drain * 2 ^ 46 + label)
/-- clamp() of R210. -/
def Regs.clamp (g : Regs) : Regs :=
  if g.regd && !g.clamped then
    let c := g.lc[g.lci]
    let m : BitVec 32 := if c == 0 then 0 else 1
    { g with lsav := c - m, lc := g.lc.set g.lci m, lreg := g.lreg ||| (1 <<< 62 : Dword) }
  else g
/-- LOOP (R208): the counter, and the bases and LREG of a registered loop, take effect at issue + 1. -/
def execLoop (h : Hdr) (lc : Fin 4) (off : Int) (s : State) : Out :=
  done (issueAs .k h.sync 1 (fun _ _ u now =>
    let g := u.regs
    let n := g.lc[lc]
    let taken := n != 0 && n - 1 != 0
    let at1 := fun (sel : Fin 4096) (v : Dword) => ({ at_ := now + 1, stream := .k, eff := .spec sel v } : Pend)
    { eff := (if n == 0 then [] else [at1 (selLC lc) ((n - 1).zeroExtend 64)]) ++
        (if g.regd && g.lci == lc then
          [at1 selVRB ((g.vrb - 1).zeroExtend 64), at1 selPRB ((g.prb - 1).zeroExtend 64)] ++
            (if !taken && !g.clamped then [at1 selLREG (g.lreg &&& ~~~(1 <<< 63 : Dword))] else [])
        else [])
      pc := if taken then some ((u.strm .k).target off) else none })) s
/-- LSET (R209): registers a loop; under a pending pre-emption it is clamped at once. -/
def execLset (h : Hdr) (lc : Fin 4) (label : Fin 65536) (a : Fin 64) (drain : Fin 16384) (s : State) : Out :=
  done (issueAs .k h.sync 2 (fun s c u now =>
    let n : BitVec 32 := BitVec.ofNat 32 (min (u.sd a).toNat 0xFFFFFFFF)
    let g := { u.regs with lreg := lregWord true false lc drain.val label.val, lsav := 0, lc := u.regs.lc.set lc n }
    let g := if u.ctl.preempt.isSome then g.clamp else g
    let at1 := fun (sel : Fin 4096) (v : Dword) => ({ at_ := now + 1, stream := .k, eff := .spec sel v } : Pend)
    { miss := kBusy s c u now [a] none 0
      eff := [at1 selLREG g.lreg, at1 selLSAV (g.lsav.zeroExtend 64), at1 (selLC lc) ((g.lc[lc]).zeroExtend 64)] })) s

/-- A pre-emption point is taken when no registered loop still has iterations (R211). -/
def Regs.drained (g : Regs) : Bool := !g.regd || g.lc[g.lci] == 0
/-- PREP (R211): the unit stops for a pending pre-emption, with PCK at the next instruction (R382). -/
def execPrep (h : Hdr) (s : State) : Out :=
  done (issueAs .k h.sync 1 (fun _ c u now =>
    { after := Act.when (u.ctl.preempt.isSome && u.regs.drained) (onUnit c (fun u => { u with ctl := { u.ctl with prepped := true, hcyc := now } })) })) s

end Sys2Proof.Machine
end

