-- ==== Sys2Proof/Machine/Phase.lean ====
section
/-! DEFINITION. The phase-transition engine (R116 to R124, R354): PHPRE, PHADV and PHQ, the Wain's moves and beats on MIG cycles, and
dual writes. -/
namespace Sys2Proof.Machine

def VaultSt.dropDirty (v : VaultSt) (blk : Nat) : VaultSt := { v with dirty := v.dirty.filter (fun b => b != blk) }
/-- A block of a non-home copy that has been written since it was placed (R109); `pa` lies in the place's page. -/
def State.dirtyAt (s : State) (p : Place) (pa : Nat) : Bool :=
  p.isCopy && (if p.isLoan then s.extDirty.contains ({ p with pa := pa } : Place).extBlk else (s.vault p.col).dirty.contains (pa / 64))
/-- Two places are the same placement. -/
def Place.same (p q : Place) : Bool := p.isLoan == q.isLoan && p.col == q.col && p.pa == q.pa && (!p.isLoan || p.ext.lpkg == q.ext.lpkg)
/-- Transit of a beat (R118). -/
def State.transit (s : State) (src dst : Place) : Nat :=
  if dst.isLoan then 16 * dst.ext.loanb
  else if src.isLoan then 16 * src.ext.loanb
  else if src.col == dst.col then 15 else 18 + s.ow src.col dst.col
/-- The home of a place as a place. -/
def Place.home (p : Place) : Place := { p with col := p.hcol, pa := p.hpa, ext := { p.ext with tier := if p.ext.fl then 0 else p.ext.tier } }
def State.wainMove (s : State) (va : Nat) (src dst : Place) : WainMove :=
  { src := src.col, spa := src.pa, sext := if src.isLoan then some src.extBlk else none
    dst := dst.col, dpa := dst.pa, dext := if dst.isLoan then some dst.extBlk else none
    home := !dst.isCopy, transit := s.transit src dst, va := va }

/-- The move of the column at a virtual address, if its page needs one (R117, R118). -/
def State.moveOf (s : State) (tgt : List Extent) (e : Extent) (va : Nat) : Option WainMove :=
  let p := extPlace e s.pkg.dielist va
  let dirty := s.dirtyAt p p.pa || s.dirtyAt p (p.pa + 64)
  match findExtent tgt va with
  | none => if dirty then some (s.wainMove va p p.home) else none
  | some e2 =>
    let q := extPlace e2 s.pkg.dielist va
    if p.same q then none
    else if dirty then some (s.wainMove va p q)
    else if q.isCopy then some (s.wainMove va p q) else none
/-- The moves from the current map to a target, in increasing virtual address. -/
def State.moves (s : State) (cur tgt : List Extent) : List WainMove :=
  cur.flatMap (fun e => (List.range e.pages).flatMap (fun g => (List.range 32).filterMap (fun k =>
    s.moveOf tgt e ((e.vpn + g) * 4096 + 128 * k))))
/-- A page of a shared extent that both maps place, at different placements (R354). -/
def State.shMove (s : State) (cur tgt : List Extent) : Bool :=
  cur.any (fun e => (List.range e.pages).any (fun g =>
    let va := (e.vpn + g) * 4096
    match findExtent tgt va with
    | none => false
    | some e2 => (e.sh || e2.sh) && !(extPlace e s.pkg.dielist va).same (extPlace e2 s.pkg.dielist va)))

/-- What keeps a unit from starting the Wain for a phase: ABSENT or SHMOVE (R117, R354), or a map that cannot be read (R125). -/
def State.wainFault (s : State) (u : UnitSt) (n : Fin 16) : Option FaultRec :=
  match u.maps.maps[n] with
  | none => some (mapFault 1)
  | some tgt =>
    if u.maps.lost u.maps.cur (fun _ => true) || u.maps.lost n (fun _ => true) then some (mapFault 2)
    else if s.shMove u.maps.current tgt then some (mapFault 3) else none
/-- Start the Wain for a phase, abandoning an earlier one with its dual writes (R117 to R119); it reads both maps (R125). The deadline of an abandoned one is
dropped with it (R217; DESIGN CHOICE, log entry 27). -/
def startWain (c : Col) (n : Fin 16) (due : Option Int) : Act := fun s =>
  let m := ((s.unit c).maps.mend (s.unit c).maps.cur (fun _ => true)).mend n (fun _ => true)
  let now := s.now c
  let tgt := (m.maps[n]).getD []
  let mv := s.moves m.current tgt
  let t := now + 96 + 2 * ((m.current.length + tgt.length : Nat) : Int)
  let m' : MapSt := { m with tgt := n, valid := true, ready := false, active := true, readyAt := t, t0 := t, due := due,
                             moves := mv, carried := [], lastRd := now, duals := [], pick := none }
  onUnit c (fun u => { u with maps := m' }) s

/-- PHPRE (R117 to R119, R217): in timed mode a nonzero due sets a deadline. -/
def execPhpre (h : Hdr) (n : Fin 16) (due : Fin 1048576) (s : State) : Out :=
  done (issueAs .k h.sync 2 (fun s c u now =>
    let dl := if due.val != 0 && u.ctl.timed then some (now + due.val) else none
    { fault := s.wainFault u n
      more := Act.seq (startWain c n dl)
        (match dl with
          | some d => eventAt c d (.phpreDueDeadline c)
          | none => Act.none) })) s

/-- An arrival of R122: a pending GLOBAL destination of a copy or get that the target map places elsewhere, or does not map while it
lies in a copy. -/
def State.arrivalOut (s : State) (u : UnitSt) (n : Fin 16) (now : Int) : Bool :=
  u.ord.pblks.any (fun p => p.mem == some .vault && (match p.due with | some d => now < d | none => true) &&
    match p.place with
    | none => false
    | some a =>
      match findExtent ((u.maps.maps[n]).getD []) (64 * p.blk) with
      | none => a.isCopy
      | some e2 => !a.same (extPlace e2 s.pkg.dielist (64 * p.blk)))
/-- PHADV (R120, R218): switches the map at issue + 1. In loose mode it starts the Wain where none runs for the phase, and waits. -/
def execPhadv (h : Hdr) (n : Fin 16) (s : State) : Out :=
  done (issueAs .k h.sync 1 (fun s c u now =>
    let m := u.maps
    let other := !m.valid || m.tgt != n
    let starts := !u.ctl.timed && other
    let bad := if starts then s.wainFault u n else none
    { miss := if bad.isSome then none
        else if other || !m.ready then some .phase
        else if s.arrivalOut u n now || !m.duals.isEmpty then some .arrivals else none
      fault := bad
      stall := Act.when starts (startWain c n none)
      eff := [{ at_ := now + 1, stream := .k, eff := .mapSwitch n }] })) s
/-- PHQ (R218). -/
def execPhq (h : Hdr) (d : Fin 64) (n : Fin 16) (s : State) : Out :=
  done (issueAs .k h.sync 1 (fun s c u now =>
    let m := u.maps
    let b62 := m.valid && m.tgt == n
    let b61 := b62 && m.ready
    let w := boolCode (m.maps[n]).isSome * 2 ^ 63 + boolCode b62 * 2 ^ 62 + boolCode b61 * 2 ^ 61 +
      (if b61 then wrap 48 (m.readyAt + s.off c) else 0)
    { miss := kBusy s c u now [] (some d) 1
      eff := [{ at_ := now + 1, stream := .k, eff := .sreg d (.ofData (BitVec.ofNat 64 w)) }] })) s

/-! ## The Wain's beats and dual writes -/

/-- A beat of the Wain's own column on MIG, or towards a loan, where no cycle of the package's vaults is taken. -/
def MapSt.beatWrite (m : MapSt) (now : Int) : Option Carried :=
  match m.pick with
  | some va => m.carried.find? (fun k => k.mv.va == va)
  | none => m.carried.find? (fun k => k.mv.dext.isSome && k.from_ ≤ now)
/-- The block of a move's source or destination, low or high. -/
def State.wainBlk (s : State) (c : Col) (pa : Nat) (ext : Option Nat) (i : Nat) : Blk :=
  match ext with
  | some b => s.ext.blk (b + i)
  | none => (s.mem c .vault).blk (pa / 64 + i)
/-- Two blocks written at a place with a zero shadow word and the dirty bits that they carry (R109, R117, R342). -/
def wainPut (c : Col) (pa : Nat) (ext : Option Nat) (home : Bool) (bs : List (Blk × Bool)) : Act := fun s =>
  let ix := (List.range bs.length).zip bs
  match ext with
  | some b => Act.seq (fun _ => [.ext (ix.map (fun x => (b + x.1, x.2.1.whole)))]) (Act.each ix (fun x => markExt (b + x.1) (x.2.2 && !home))) s
  | none =>
    let blk := pa / 64
    let v := ix.foldl (fun v x =>
      let v := (v.dropDirty (blk + x.1)).setShadow (blk + x.1) 0
      if x.2.2 && !home then v.addDirty (blk + x.1) else v) (s.vault c)
    [.vault c v, .mem c .vault (ix.map (fun x => (blk + x.1, x.2.1.whole)))]
/-- A beat's command on the bank it uses. -/
def beatCmd (c : Col) (pa : Nat) (ext : Option Nat) (cmd : Cmd) : Act :=
  Act.when ext.isNone (fun s => onVault c (fun v => v.command cmd (bankPa pa) (rowPa pa) 0 (s.now c)) s)

/-- WAIN_BEAT (R118): reads the next column of the Wain's moves, or writes one that it carries, with what a snapshot has saved of it (log entry 74). A beat that crosses dies takes none of a link's beats (DESIGN
CHOICE, log entry 66). -/
def execWainBeat (s : State) : Out :=
  match s.ev with
  | .wainBeat c false =>
    let m := (s.unit c).maps
    match m.moves with
    | [] => .next s
    | mv :: rest =>
      let now := s.now c
      let dirty := fun i => match mv.sext with
        | some b => s.extDirty.contains (b + i)
        | none => (s.vault mv.src).dirty.contains (mv.spa / 64 + i)
      let old := fun i => match mv.sext with
        | some _ => none
        | none => s.savedBlk (s.jobOf c) mv.src (mv.spa / 64 + i)
      let k : Carried := { mv := mv, slo := old 0, shi := old 1, lo := s.wainBlk mv.src mv.spa mv.sext 0, hi := s.wainBlk mv.src mv.spa mv.sext 1, dlo := dirty 0, dhi := dirty 1, rd := now, from_ := now + mv.transit }
      done (Act.seq (beatCmd mv.src mv.spa mv.sext .rd)
        (onUnit c (fun u => { u with maps := { m with moves := rest, carried := m.carried ++ [k], lastRd := now, pick := none } }))) s
  | .wainBeat c true =>
    let m := (s.unit c).maps
    match m.beatWrite (s.now c) with
    | none => .next s
    | some k =>
      let left := m.carried.filter (fun q => q.mv.va != k.mv.va)
      let fin := left.isEmpty && m.moves.isEmpty
      done (Act.all [beatCmd k.mv.dst k.mv.dpa k.mv.dext (.wr false), wainPut k.mv.dst k.mv.dpa k.mv.dext k.mv.home [(k.lo, k.dlo), (k.hi, k.dhi)],
        Act.when k.mv.dext.isNone (Act.seq (carrySaved (s.jobOf c) k.mv.dst (k.mv.dpa / 64) k.slo) (carrySaved (s.jobOf c) k.mv.dst (k.mv.dpa / 64 + 1) k.shi)),
        onUnit c (fun u => { u with maps := { m with carried := left, pick := none, readyAt := if fin then s.now c + 1 else m.readyAt } })]) s
  | _ => .next s
/-- WAIN_READY (R118): READY is set, and the pinned extents of the target that find room are in the translation cache (R116). -/
def execWainReady (s : State) : Out :=
  match s.ev with
  | .wainReady c =>
    let m := (s.unit c).maps
    if m.active && m.moves.isEmpty && m.carried.isEmpty && m.readyAt ≤ s.now c then
      done (onUnit c (fun u => { u with maps := { m with ready := true, active := false }.loadPins (m.current ++ (m.maps[m.tgt]).getD []) })) s
    else .next s
  | _ => .next s
/-- A beat that the Wain has read at or before a landing, of the column that the landing's second placement lies in, is not yet written (R118). -/
def Dual.behind (d : Dual) (m : MapSt) : Bool :=
  m.carried.any (fun k => decide (k.rd ≤ d.land) && (match d.dext with
    | some b => k.mv.dext.map (· / 2) == some (b / 2)
    | none => k.mv.dext.isNone && k.mv.dst == d.col && k.mv.dpa / 128 == d.pa / 128))
/-- DUAL_WRITE (R121): the second landing of a write; on loan pages it waits for such a beat. In a COW extent it counts as a write of its unit's round for the snapshot,
as the first landing does (R412). -/
def execDualWrite (s : State) : Out :=
  match s.ev with
  | .dualWrite c id =>
    match (s.unit c).maps.duals.find? (fun d => d.id == id && !d.done) with
    | none => .next s
    | some d =>
      if d.dext.isSome && d.behind (s.unit c).maps then done (eventAt c (s.now c + 1) (.dualWrite c id)) s
      else
      let ws := (List.range d.ws.length).zip d.ws
      let put : Act := fun s =>
        match d.dext with
        | some b => Act.seq (fun _ => [.ext (ws.map (fun x => (b + x.1, x.2)))]) (Act.when (!d.home) (Act.each ws (fun x => markExt (b + x.1) true))) s
        | none =>
          Act.seq (Act.when d.cow (Act.each ws (fun x => fun s =>
              let sw := s.snapWrite d.col (s.work.snaps.find? (fun n => n.job == d.job)) d.round (d.pa / 64 + x.1) x.2
              [.vault d.col sw.1, .mem d.col .vault sw.2]))) (fun s =>
            let v := ws.foldl (fun v x => if d.home then v else v.addDirty (d.pa / 64 + x.1)) (s.vault d.col)
            [.vault d.col v, .mem d.col .vault (ws.map (fun x => (d.pa / 64 + x.1, x.2)))]) s
      done (Act.all [beatCmd d.col d.pa d.dext (.wr false), put,
        onUnit c (fun u => { u with maps := { u.maps with duals := u.maps.duals.map (fun (q : Dual) => if q.id == id then { q with done := true } else q) } })]) s
  | _ => .next s
/-- PHPRE_DUE_DEADLINE (R217): K stops at its next instruction boundary as the faulting stream. -/
def execPhpreDueDeadline (s : State) : Out :=
  match s.ev with
  | .phpreDueDeadline c =>
    let u := s.unit c
    if u.maps.due == some (s.now c) && u.ctl.timed && !u.maps.ready && s.issues c then
      done (takeFault c .k (schedMiss .phase) false) s
    else .next s
  | _ => .next s

/-- What a MIG beat of a bank may serve (R118, R121). -/
inductive MigJob where
  | dual (c : Col) (id : Nat)
  | write (c : Col) (va : Nat)
  | read (c : Col) (va : Nat)
def allCols : List Col := List.finRange 512
/-- A dual write that may take a MIG cycle: it has landed before, and no beat that the Wain read before the landing is still on its way to
the same column (R118). -/
def Dual.ready (d : Dual) (m : MapSt) (now : Int) : Bool :=
  !d.done && d.dext.isNone && d.land < now && !d.behind m
/-- The job of a MIG beat on a bank with an open row: dual writes first, then the beats of running Wains in their order (log entry 27). -/
def State.migJob (s : State) (o : Col) (b : Fin 16) (row : Fin 8192) : Option MigJob :=
  let now := s.now o
  let here := fun (c : Col) (pa : Nat) => c == o && bankPa pa == b && rowPa pa == row
  match allCols.findSome? (fun c =>
      let m := (s.unit c).maps
      (m.duals.find? (fun d => here d.col d.pa && d.ready m now)).map (fun d => MigJob.dual c d.id)) with
  | some j => some j
  | none => allCols.findSome? (fun c =>
      let m := (s.unit c).maps
      if !s.issues c then none
      else match m.carried.find? (fun k => k.mv.dext.isNone && here k.mv.dst k.mv.dpa && k.from_ ≤ now) with
        | some k => some (.write c k.mv.va)
        | none =>
          match m.moves with
          | mv :: _ => if mv.sext.isNone && here mv.src mv.spa && m.t0 ≤ now && m.lastRd < now then some (.read c mv.va) else none
          | [] => none)
/-- A beat serves a MIG job. -/
def serveMig : MigJob → Act
  | .dual c id => eventNow (.dualWrite c id)
  | .write c va => Act.seq (onUnit c (fun u => { u with maps := { u.maps with pick := some va } })) (eventNow (.wainBeat c true))
  | .read c va => Act.seq (onUnit c (fun u => { u with maps := { u.maps with pick := some va } })) (eventNow (.wainBeat c false))

end Sys2Proof.Machine
end

