-- ==== Sys2Proof/Machine/Work.lean ====
section
/-! DEFINITION. Removing work (R55, R58, R226, R380): how a unit is stopped for good, how cancelled items are counted, CANCEL at each
level, and the kill of a queue. -/
namespace Sys2Proof.Machine

/-- A column is idle from the present tick on (R424). -/
def idleFrom (c : Col) : Act := fun s => onVault c (fun v => { v with idle := none, idleAt := s.tick }) s
/-- Free the registration of a barrier word by the unit of a column that is of a launch; the word is live while any unit holds it (R273). -/
def dropBarrier (c : Col) (launch : Nat) (b : BarSlot) : Act :=
  onVault b.owner (fun v => { v with live := (v.live.map (fun l =>
    if l.pa == b.pa then { l with users := l.users.filter (fun k => k != (c, launch)) } else l)).filter (fun l => !l.users.isEmpty) })
/-- Free every barrier slot of a unit. -/
def dropBarriers (c : Col) : Act := fun s =>
  Act.seq (Act.each (s.unit c).ord.slots (dropBarrier c (s.slot c).launch)) (onUnit c (fun u => { u with ord := { u.ord with slots := [] } })) s
/-- A member whose unit is killed or cancelled settles its collectives: every member that has issued gets STAT 2 (R364). -/
def abortColls (c : Col) (job : Dword) : Act := fun s =>
  let mine := fun (k : Coll) => k.job == job && k.members.contains c && !k.closing
  let hit := s.work.colls.filter mine
  Act.seq (onWork (fun w => { w with colls := w.colls.map (fun (k : Coll) => if mine k then { k with stat := 2 } else k) }))
    (Act.each hit (fun k => eventNow (.collectiveClose k.id))) s
/-- The job's later collectives of a unit's round have lost a member (R364). -/
def noteGone (b : Bound) (c : Col) : Act := fun s =>
  match s.job b.job with
  | some j => onJob b.job (fun k => { k with gone := (c, (s.jobWord j (s.roundRec j b.desc) wHandle).truncate 32) :: k.gone }) s
  | none => []
/-- A unit stops for good at its next instruction boundaries, with no frame and no save, and a load under way is given up (R55, R380); its column
becomes DONE once its last transfer has retired. -/
def endUnit (c : Col) : Act := fun s =>
  Act.all [fun s => [.timers (s.timers.filter (fun t => t.ev != .objectLoadComplete c))],
    onUnit c (fun u => { u with ctl := { u.ctl with dead := true, haltAt := none, preempt := none, prepped := false }
                                frm := { u.frm with queue := [] } }),
    dropBarriers c, abortColls c (s.jobOf c)] s

/-- The record above a launch at a level; its own at LAUNCH (R363). -/
def State.recAt (s : State) (j : Job) (l : Level) (desc : Dword) : Dword :=
  match l with
  | .unit | .launch => desc
  | .graph => s.graphOf j desc
  | .round => s.roundRec j desc
  | .job => s.jobRec j
/-- Whether a launch lies under the work that a handle names at a level (R226). -/
def State.under (s : State) (j : Job) (l : Level) (h desc : Dword) : Bool := s.jobWord j (s.recAt j l desc) wHandle == h
/-- The descriptors of a job's launches: those placed, and those whose requests the Reeve still holds (R224, R226). -/
def State.descs (s : State) (j : Job) : List Dword :=
  distinct (j.placed ++ (s.work.reqs.filter (fun r => r.job == j.handle)).map (·.desc))
/-- Whether a handle names work of a job (R226). -/
def State.handleKnown (s : State) (j : Job) (l : Level) (h : Dword) : Bool :=
  match l with
  | .unit => j.cols.any (fun c => c.val == h.toNat)
  | _ => (s.descs j).any (fun d => s.under j l h d)

/-- A bound launch without one of its columns. -/
def Bound.without (b : Bound) (c : Col) : Bound :=
  { b with cols := b.cols.filter (fun k => k != c), faulted := b.faulted.filter (fun k => k != c) }
/-- A launch is saved once every unit that it still has is (R382). -/
def State.markSaved (s : State) (b : Bound) : Bound :=
  if b.cols.all (fun c => (s.slot c).saved.any (fun k => k.launch == b.id)) then { b with saved := true, since := s.tick } else b
/-- A column leaves a launch, which is over once no column is left. -/
def leave (id : Nat) (c : Col) : Act := fun s =>
  onWork (fun w => { w with bound := (w.bound.map (fun b => if b.id == id then s.markSaved (b.without c) else b)).filter (fun b => !b.cols.isEmpty) }) s
/-- A saved unit is removed with its barrier slots (R380). -/
def dropSaved (b : Bound) (c : Col) (k : SavedUnit) : Act :=
  Act.all [Act.each k.unit.ord.slots (dropBarrier c k.launch), noteGone b c, abortColls c b.job,
    onSlot c (fun x => { x with saved := x.saved.filter (fun k => k.launch != b.id), st := if x.st = .loading && x.launch = b.id then .done else x.st }),
    leave b.id c]
/-- A running or saved unit of a launch is removed and counts in the launch's record as cancelled. -/
def dropUnit (b : Bound) (c : Col) : Act := fun s =>
  let count := match s.job b.job with
    | some j => countItem j b.desc true
    | none => Act.none
  match (s.slot c).saved.find? (fun k => k.launch == b.id) with
  | some k => Act.seq (dropSaved b c k) count s
  | none => if (s.unit c).ctl.dead then [] else Act.all [noteGone b c, endUnit c, count] s
/-- Every unit of a bound launch is removed; the launch counts as cancelled in its graph, whose DONE advances with the launch's own
completion (R55, R58). A launch that has completed, and whose units only retire, counts no more. -/
def dropBound (b : Bound) : Act := fun s =>
  match s.job b.job with
  | some j =>
    if s.recordDone j b.desc then Act.each b.cols (dropUnit b) s
    else Act.seq (Act.each b.cols (dropUnit b)) (addJobWord j (s.graphOf j b.desc) wCanc 1) s
  | none => Act.each b.cols (dropUnit b) s
/-- An undispatched launch counts in its graph as cancelled. -/
def dropLaunch (job desc : Dword) : Act := fun s =>
  match s.job job with
  | some j => countItem j (s.graphOf j desc) true s
  | none => []

/-- Take undispatched launches out of the queues, and count them. -/
def dropWaiting (inQ : Queue → Placed → Bool) (inReq : LReq → Bool) : Act := fun s =>
  let items := s.work.queues.flatMap (fun q => (q.items.filter (inQ q)).map (fun p => (p.job, p.desc)))
  let reqs := (s.work.reqs.filter inReq).map (fun r => (r.job, r.desc))
  Act.seq (onWork (fun w => { w with
      queues := w.queues.map (fun q => { q with items := q.items.filter (fun p => !inQ q p) })
      reqs := w.reqs.filter (fun r => !inReq r) }))
    (Act.each (items ++ reqs) (fun x => dropLaunch x.1 x.2)) s

/-- A level of work is over: its record is full, and something has been counted there (R53, R55, R360; log entry 67). -/
def State.levelOver (s : State) (j : Job) (a : Dword) : Bool := s.recordDone j a && s.jobWord j a wDone != 0
/-- A cancelled record counts in its parent, once: with its completion if it is complete by now, else at once, and its completion, if that comes,
counts no more (R55). -/
def cancelRec (j : Job) (a : Dword) : Act := fun s =>
  let up := s.jobWord j a wParent
  if up == 0 || ((s.job j.handle).map (·.cut.contains a)).getD false then []
  else if s.levelOver j a then addJobWord j up wCanc 1 s
  else Act.seq (onJob j.handle (fun j => { j with cut := a :: j.cut })) (countItem j up true) s
/-- CANCEL at a level (R55, R226): of a level that is over it has no effect. The units of other columns stop, too, with the cycle on which it issues (DESIGN
CHOICE, log entry 42: no rule gives the transport). -/
def cancelWork (j : Job) (l : Level) (h : Dword) : Act := fun s =>
  match l with
  | .unit =>
    let c : Col := Fin.ofNat 512 h.toNat
    Act.each (s.work.bound.filter (fun b => b.job == j.handle && b.cols.contains c)) (fun b => dropUnit b c) s
  | _ =>
    let hit := fun desc => s.under j l h desc && !s.levelOver j (s.recAt j l desc)
    let live := (s.descs j).filter (fun d => hit d)
    let recs := fun (k : Level) => (distinct (live.map (s.recAt j k))).filter (fun a => !s.levelOver j a)
    let gs := if l == .launch then [] else recs .graph
    let rs := if l == .launch || l == .graph then [] else recs .round
    Act.all [Act.each (s.work.bound.filter (fun b => b.job == j.handle && hit b.desc)) dropBound,
      dropWaiting (fun _ p => p.job == j.handle && hit p.desc) (fun r => r.job == j.handle && hit r.desc),
      Act.each gs (cancelRec j), Act.each rs (cancelRec j)] s

/-- KILL of a queue (R380): its bound units and its undispatched launches are removed and counted as R58 says, and the host is told, with the frame of
the unit whose fault escalated, or of each unit that stands in a fault. -/
def killQueue (die : Die) (q : Fin 64) (by_ : Option Col) : Act := fun s =>
  let hit := s.work.bound.filter (fun b => b.qdie == die && b.q == q)
  let cols : List Col := match by_ with
    | some c => [c]
    | none => hit.flatMap (fun (b : Bound) => b.faulted)
  Act.all [report (.killed die q (cols.map (fun c => (c, (s.unit c).frm)))), Act.each hit dropBound,
    dropWaiting (fun k _ => k.die == die && k.q == q) (fun r => r.die == die && r.q == q)] s

end Sys2Proof.Machine
end

