-- ==== Sys2Proof/Machine/System.lean ====
section
/-! DEFINITION. K: transports, noise, special registers, alignment, fences, code, launches, traps (R212 to R216, R219 to R228), and the
idles and the undefined opcode of every stream (R142, R144). -/
namespace Sys2Proof.Machine

/-! ## Transports, mixing and noise -/

/-- XFER (R212, R35): the oldest entry's data bits [63:0] and first tail pair; barred from supervisor state (R374). Another stream's instruction on the
same cycle finds the entry free already, since K comes first; one that a VXF frees K does not find free (R34; DESIGN CHOICE, log entry 71). -/
def execXfer (h : Hdr) (d : Fin 64) (x : Latch) (s : State) : Out :=
  done (issueAs .k h.sync 1 (fun s c u now =>
    let l := u.latch x
    let e := l.head?
    { priv := u.frm.insv
      miss := match kBusy s c u now [] (some d) 1 with
        | some m => some m
        | none => match e with
          | some e => if e.valid then none else some .latch
          | none => none
      fault := if e.isNone then some (flt .latchEmpty) else none
      unit := fun u => u.setLatch x (l.drop 1)
      eff := match e with
        | some e => [{ at_ := now + 1, stream := .k, eff := .sreg d { data := e.img.data.truncate 64, tail := e.img.tail.truncate 2 } }]
        | none => [] })) s

/-- One round of mix64 (R213). -/
def mixRound (z : Dword) : Dword :=
  let z := z ^^^ (z >>> 32)
  let z := z * 0xD35A2D976B1C43E5
  let z := z ^^^ (z >>> 29)
  z * 0xA7C158F32E09B6DB
def mix64 (key ctr : Dword) : Dword :=
  let z := mixRound (mixRound (mixRound (key ^^^ ctr)))
  z ^^^ (z >>> 32)
/-- KMIX (R213): at issue + 3. -/
def execKmix (h : Hdr) (d a b : Fin 64) (s : State) : Out := done (scalar h 1 [a, b] d 3 (fun u => (.ofData (mix64 (u.sd a) (u.sd b)), 0))) s

/-- The next n words of the unit's noise sequence: free values, or the supplied words in replay mode (R214, R422; log entry 7). -/
def State.noiseWords (s : State) (u : UnitSt) (n : Nat) : List Dword :=
  if u.regs.noisec == 2 then u.eng.supply.take n else (List.range n).map (fun i => Config.noise (s.free + i))
/-- A draw in replay mode waits for its words (R422). -/
def UnitSt.noiseReady (u : UnitSt) (n : Nat) : Bool := u.regs.noisec != 2 || n ≤ u.eng.supply.length
def UnitSt.drawNoise (u : UnitSt) (n : Nat) : UnitSt :=
  { u with eng := { u.eng with drawn := u.eng.drawn + n, supply := if u.regs.noisec == 2 then u.eng.supply.drop n else u.eng.supply } }
/-- In log mode the Reeve records the words with their sequence numbers (R422). -/
def logNoise (c : Col) (mode : BitVec 2) (first : Nat) (ws : List Dword) : Act := fun s =>
  let job := s.jobOf c
  let new := (List.range ws.length).zip ws |>.map (fun x => (c, first + x.1, x.2))
  Act.seq (Act.when (mode != 2) (draw ws.length (fun _ => Act.none)))
    (Act.when (mode == 1) (onWork (fun w => { w with jobs := w.jobs.map (fun (j : Job) => if j.handle == job then { j with log := j.log ++ new } else j) }))) s
/-- 64 words of noise as lanes, zero on lanes that are not selected (R325). -/
def noiseRow (sel : BitVec 1024) (ws : List Dword) : Row :=
  Row.ofLanes 64 ((List.range 64).map (fun k => { v := if sel.getLsbD k then (ws.getD k 0).toNat else 0, t := 0 }))
def UnitSt.noteDraw (u : UnitSt) (v : VDrew) : UnitSt := { u with eng := { u.eng with vdrew := some v } }
/-- RNDN draws beside a VRNDN of the same cycle: it has the lower sequence number and the earlier entry, and the words of VRNDN's entry move up by
one (R214, R325). -/
def UnitSt.drawFirst (u : UnitSt) (v : VDrew) (w : Dword) : UnitSt :=
  let l := u.latch .xn
  let mine : LEntry := { img := scalarImg (.ofData (v.words.getD 0 0)), valid := false, rem := latchLatency .xn }
  u.setLatch .xn (l.dropLast ++ mine :: (l.drop (l.length - 1)).map (fun e => { e with img := noiseRow v.sel (v.words.drop 1 ++ [w]) }))
/-- RNDN (R214): the next word in a latch entry, its sequence number in d; barred from supervisor state (R374). -/
def execRndn (h : Hdr) (d : Fin 64) (s : State) : Out :=
  done (issueAs .k h.sync 1 (fun s c u now =>
    let ws := s.noiseWords u 1
    let w := ws.getD 0 0
    let vd := u.eng.vdrew.filter (fun v => v.at_ == now)
    let first := match vd with
      | some v => v.first
      | none => u.eng.drawn
    { priv := u.frm.insv
      miss := match kBusy s c u now [] (some d) 1 with
        | some m => some m
        | none => if u.latchFull .xn then some .latch else if u.noiseReady 1 then none else some .busy
      eff := [{ at_ := now + 1, stream := .k, eff := .sreg d (.ofData (BitVec.ofNat 64 first)) }]
      unit := fun u => (match vd with
        | some v => u.drawFirst v w
        | none => u.pushLatch .xn (scalarImg (.ofData w))).drawNoise 1
      more := logNoise c u.regs.noisec u.eng.drawn ws })) s

/-! ## Special registers (R215) -/

/-- SRD (R215). -/
def execSrd (h : Hdr) (d : Fin 64) (sel : Fin 4096) (s : State) : Out :=
  done (issueAs .k h.sync 1 (fun s c u now =>
    { priv := selSV sel && !u.frm.insv
      miss := kBusy s c u now [] (some d) 1
      eff := [{ at_ := now + 1, stream := .k, eff := .sreg d (.ofData (s.srdWord c sel)) }] })) s
/-- What a write to a queue control word raises (R98), and mode 3 of NOISEC (R422), an ILLEGAL_ENCODING that a register's value decides and that is raised
with the instruction's own faults, at check 6 of R143 (DESIGN CHOICE, log entry 37). -/
def swrFault (sel : Fin 4096) (v : Dword) : Option FaultRec :=
  if 0x040 ≤ sel.val && sel.val ≤ 0x04F && (QCtl.ofWord v).passes then some (windowFault 3 0)
  else if sel == 0x012 && v.toNat % 4 == 3 then some (flt .illegalEncoding)
  else none
/-- SWR (R215): the RW and SV fields take the data of d at issue + 1; NUMST clears where the data is 1 (R9). -/
def execSwr (h : Hdr) (d : Fin 64) (sel : Fin 4096) (s : State) : Out :=
  done (issueAs .k h.sync 1 (fun s c u now =>
    { priv := selSV sel && !u.frm.insv
      miss := kBusy s c u now [d] none 0
      fault := swrFault sel (u.sd d)
      eff := [{ at_ := now + 1, stream := .k,
                eff := if sel == 0x009 then .numstClear ((u.sd d).truncate 7 &&& 0x7D) else .spec sel (u.sd d) }] })) s

/-! ## Alignment and completion -/

/-- The unit at its alignment point (R42, R43, R49): the other streams start, counted from it, and the mode is set. -/
def UnitSt.alignAt (u : UnitSt) (now : Int) : UnitSt :=
  let f := fun (t : Strm) => if t.st = .held then { t with st := .run, last := now } else t
  { u with ctl := { u.ctl with aligned := true, timed := !u.ctl.decl, strms := u.ctl.strms.map f } }
/-- Deadlines of the unit's vault at an alignment or realignment cycle (R107). -/
def armVault (c : Col) (first : Bool) : Act := fun s =>
  Act.seq (onVault c (fun v => v.align (s.now c) (s.unit c).span first s.free)) (draw 16 (fun _ => Act.none)) s
/-- An ALIGN or REALIGN that the unit's state makes an ILLEGAL_INSTRUCTION: check 2 of R143, before its fields are looked at (R43, R44). -/
def UnitSt.alignBad (u : UnitSt) : Bool := u.ctl.aligned
def UnitSt.realignBad (u : UnitSt) : Bool := !u.ctl.aligned || u.ctl.rpend
/-- ALIGN (R43): waits for BASE, and is late where it is reached above BASE − 1. -/
def execAlign (h : Hdr) (s : State) : Out :=
  done (issueAs .k h.sync 1 (fun s c u now =>
    let base := s.baseAt c
    let reached := (u.strm .k).due.getD now
    { illegal := if u.alignBad then some (flt .illegalInstruction) else none
      miss := if reached ≤ base - 1 && now < base then some .align else none
      fault := if base - 1 < reached || base < now then some (schedMiss .align) else none
      unit := fun u => u.alignAt now
      more := Act.seq (onSlot c (fun k => { k with st := if k.st = .waitBase then .running else k.st })) (armVault c true) })) s
/-- REALIGN (R44, R45, R216). -/
def execRealign (h : Hdr) (a : Fin 64) (s : State) : Out :=
  done (issueAs .k h.sync 1 (fun s c u now =>
    { illegal := if u.realignBad then some (flt .illegalInstruction) else none
      miss := kBusy s c u now [a] none 0
      fault := if s.baseAt c + ((u.sd a).toNat : Int) ≤ now then some (schedMiss .realign) else none
      unit := fun u => { u with ctl := { u.ctl with rpend := true, t := u.sd a } }.onStrm .k (fun t => { t with st := .point now }) })) s
/-- HALT (R54); in supervisor state it escalates (R379). -/
def execHalt (h : Hdr) (s : State) : Out :=
  done (issueAs .k h.sync 1 (fun _ c u now =>
    { unit := fun u => if u.frm.insv then u else { u with ctl := { u.ctl with haltAt := some now } }
      after := Act.when u.frm.insv (escalate c) })) s

/-! ## Fences, records and code -/

/-- The ids of AMF words that are reserved and not delivered (R335). -/
def UnitSt.amfWaiting (u : UnitSt) : List Nat := (u.eng.amf.filter (fun f => f.word.isNone)).map (·.id)
/-- Every earlier synchronising operation has been reported (R335). -/
def UnitSt.syncDone (u : UnitSt) (now : Int) : Bool := u.ord.outst.all (fun o => !o.sync || (o.id == 0 && !o.flying now))
/-- FENCE (R219, R335): it takes its turn after the other streams of its column, whose accesses of the cycle are issued before it. -/
def execFence (h : Hdr) (kind : FenceKind) (scope : Scope) (s : State) : Out :=
  done (issueAs .k h.sync 1 (fun s c u now =>
    { miss := if kind != .acq && (!u.writesDone scope now none || (kind == .sc && !u.syncDone now)) then some .busy
        else if s.others c then some .tokfull else none
      unit := fun u => if kind == .rel then u
        else { u with ord := { u.ord with fence := some now, acq := u.ord.acq.filter (s.awaits u now) ++ u.amfWaiting } } })) s
/-- A layout-record write is still on its way (R220). -/
def State.recordsPending (s : State) (c : Col) (u : UnitSt) : Bool :=
  u.pend.any (fun p => match p.eff with
    | .lrec .. => true
    | .capture _ _ _ (.lrec _) _ | .recCopy .. => true
    | _ => false) ||
  s.txns.any (fun t => t.who.col == c && match t.kind with
    | .load (.lrec _) => true
    | _ => false)
/-- LFENCE (R220). -/
def execLfence (h : Hdr) (s : State) : Out :=
  done (issueAs .k h.sync 1 (fun s c u _ => { miss := if s.recordsPending c u then some .busy else none })) s
/-- ISYNC (R221): words fetched ahead and CODE blocks held outside the store are discarded. -/
def execIsync (h : Hdr) (s : State) : Out :=
  done (issueAs .k h.sync 1 (fun _ _ _ _ => { unit := fun u => { u with ord := { u.ord with oldCode := [], codeHeld := [] } } })) s

/-- The address and length faults of ILOAD and CPUB (R222, R223), in the order of R92. -/
def codeRange (a : Dword) (n : Nat) (misaligned outside : Bool) : Option FaultRec :=
  let k := windowKind a (64 * max 1 n)
  if k != 0 then some (windowFault k a)
  else if outside then some (windowFault 3 a)
  else if a.toNat % 64 != 0 || misaligned then some (windowFault 4 a)
  else if tagOf a != 0 then some (windowFault 5 a) else none
def codeTile (a : Dword) (n : Nat) : Tile :=
  { addrs := (List.range n).map (fun i => a + BitVec.ofNat 64 (64 * i)), skips := List.replicate n false, spans := [] }
/-- ILOAD (R222). -/
def execIload (h : Hdr) (a b : Fin 64) (s : State) : Out :=
  done (issueAs .k h.sync 1 (fun s c u now =>
    let w := (u.sd b).toNat
    let off := bits w 17 0
    let n := bits w 32 20
    let busy := kBusy s c u now [a, b] none 0
    let outside := bits w 19 18 != 0 || w / 2 ^ 33 != 0 || n == 0 || 4096 < n || 2 ^ 18 < off + 64 * n
    match codeRange (u.sd a) n (off % 64 != 0) outside with
    | some e => { miss := if busy.isSome || s.accessHeld u now then some .busy else none, fault := some e }
    | none =>
      let go := s.farLoad u c .k now 2 (codeTile (u.sd a) n) (.code off)
      { go with miss := if busy.isSome then busy else go.miss
                sig := 1, tag := 0, held := false
                unit := fun u => let u := go.unit u; { u with ctl := { u.ctl with iload := true } } })) s

/-- The vault block of a place, as held CODE blocks are known by. -/
def Place.key (p : Place) : Nat := if p.isLoan then 2 ^ 40 + p.extBlk else p.col.val * 2 ^ 23 + p.pa / 64
def State.headAt (s : State) (p : Place) : Head := if p.isLoan then s.ext.head p.extBlk else (s.mem p.col .vault).head (p.pa / 64)

/-! ## Synchronising operations (R269, R339, R340) -/

/-- A unit owns the slot-wheel position of a cycle (R177, R269). -/
def UnitSt.ownsPos (u : UnitSt) (pos : Nat) : Bool :=
  u.ord.wheel.any (fun w => (List.range w.2.1).any (fun i => (w.1 + i * w.2.2) % 2048 == pos))
def State.owned (s : State) (c : Col) (u : UnitSt) (now : Int) : Bool := u.ownsPos ((now - s.baseAt c) % 2048).toNat
/-- The conditions of a synchronising operation of any stream (R269): the position is owned, and no other issued on the cycle. -/
def State.syncMiss (s : State) (c : Col) (u : UnitSt) (now : Int) : Option Miss :=
  if u.ord.synced == now then some .busy
  else if !u.ctl.timed && !s.owned c u now then some .busy else none
def State.syncFault (s : State) (c : Col) (u : UnitSt) (now : Int) : Option FaultRec :=
  if u.ctl.timed && !s.owned c u now then some (flt .wheel) else none
/-- What a synchronising operation does to epoch, SCPOS and the board at issue + 1 (R339). -/
def syncEff (x : Stream) (now : Int) : Pend := { at_ := now + 1, stream := x, eff := .epoch now }
def UnitSt.synced (u : UnitSt) (now : Int) : UnitSt := { u with ord := { u.ord with synced := now } }
/-- The frontier is refreshed as of a position BDLY later (R340). -/
def refreshFrontier (c : Col) : Act := fun s => eventAt c (s.now c + s.bdly) (.frontierRefresh c (s.now c)) s
/-- FRONTIER_REFRESH (R340). -/
def execFrontierRefresh (s : State) : Out :=
  match s.ev with
  | .frontierRefresh c pos => done (onUnit c (fun u => { u with ord := { u.ord with fpos := pos } })) s
  | _ => .next s

/-- CPUB (R223, R269, R355). -/
def execCpub (h : Hdr) (a b : Fin 64) (s : State) : Out :=
  done (issueAs .k h.sync 1 (fun s c u now =>
    let len := (u.sd b).toNat
    let n := len / 64
    let bad := codeRange (u.sd a) n false (len % 64 != 0 || len < 64 || 2 ^ 18 < len)
    let tile := codeTile (u.sd a) n
    let places := if bad.isSome then .error (flt .window) else s.xlate u 1 tile.addrs
    Attempt.translated
    { miss := match kBusy s c u now [a, b] none 0 with
        | some m => some m
        | none => s.syncMiss c u now
      fault := match s.syncFault c u now with
        | some e => some e
        | none => match bad with
          | some e => some e
          | none => match places with
            | .error e => some e
            | .ok ps => LoadDst.fault (.code 0) (ps.map s.headAt) tile.addrs
      eff := [syncEff .k now]
      unit := fun u => (u.synced now).addOutst { id := 0, stream := .k, issue := now, written := some (now + s.bdly), isRead := false, sync := true, wide := true, host := true }
      more := match places with
        | .error _ => Act.none
        | .ok ps => fresh (fun id => Act.all [refreshFrontier c,
            onPart (s.partNum c) (fun p => { p with pubs := p.pubs ++ [{ id := id, keys := ps.map Place.key }] }),
            eventAt c (now + s.bdly) (.codeRangeDiscard (s.partNum c) id)]) } c u (if bad.isSome || (s.syncFault c u now).isSome then [] else tile.addrs))) s
/-- CODE_RANGE_DISCARD (R355): every column discards the published blocks that it holds. -/
def execCodeRangeDiscard (s : State) : Out :=
  match s.ev with
  | .codeRangeDiscard n id =>
    match (s.part n).bind (fun p => p.pubs.find? (fun q => q.id == id)) with
    | none => .next s
    | some q =>
      done (Act.seq (Act.each allCols (fun c => fun s =>
          if (s.unit c).ord.codeHeld.isEmpty then []
          else onUnit c (fun u => { u with ord := { u.ord with codeHeld := u.ord.codeHeld.filter (fun x => !q.keys.contains x.1) } }) s))
        (onPart n (fun p => { p with pubs := p.pubs.filter (fun q => q.id != id) }))) s
  | _ => .next s

/-! ## Launches, graphs, snapshots -/

/-- LAUNCH (R224): the request goes to the queue's leader; a queue that the partition does not own is a privilege fault. -/
def execLaunch (h : Hdr) (a b q : Fin 64) (pri : Fin 8) (deps : Fin 65536) (s : State) : Out :=
  done (issueAs .k h.sync 2 (fun s c u now =>
    let owns := match s.partOf c with
      | some p => p.queues.contains (dieOf c, q)
      | none => false
    { fault := if owns then none else some (flt .priv)
      miss := kBusy s c u now [a, b] none 0
      more := fresh (fun id =>
        let r : LReq := { id := id, die := dieOf c, q := q, part := s.partNum c, desc := u.sd a, arg := u.sd b, job := s.jobOf c, pri := pri, deps := BitVec.ofNat 16 deps.val }
        Act.seq (onWork (fun w => { w with reqs := w.reqs ++ [r] })) (eventAt c (now + 1) (.launchPlacement id))) })) s
/-- The graph counter at a GLOBAL address (R225), under the unit's map, or under the job's where the unit's does not map it; none where
it is not an aligned mapped word (log entry 28). -/
def State.graphCounter (s : State) (c : Col) (u : UnitSt) (a : Dword) : Option Nat :=
  if a.toNat % 8 != 0 || windowKind a 8 != 0 || tagOf a != 0 then none
  else
    match findExtent u.maps.current (offOf a) with
    | some e =>
      let p := extPlace e s.pkg.dielist (offOf a)
      some (s.placeBytes p (offOf a % 64) 8)
    | none =>
      match s.job (s.jobOf c) with
      | some j => if (s.jobPlace j (offOf a)).isSome then some (s.jobWord j a 0).toNat else none
      | none => none
/-- WAITG (R225, R340). -/
def execWaitg (h : Hdr) (a b : Fin 64) (s : State) : Out :=
  done (issueAs .k h.sync 1 (fun s c u now =>
    Attempt.translated
    { miss := match kBusy s c u now [a, b] none 0 with
        | some m => some m
        | none =>
          match s.graphCounter c u (u.sd a) with
          | some n => if (u.sd b).toNat ≤ n then none else some .busy
          | none => some .busy
      more := refreshFrontier c } c u [u.sd a])) s
/-- CANCEL (R55, R226): a handle outside the unit's job is a privilege fault. It takes effect on its own issue cycle in every column and die (DESIGN CHOICE, log
entry 42). -/
def execCancel (h : Hdr) (level : Level) (a : Fin 64) (s : State) : Out :=
  done (issueAs .k h.sync 1 (fun s c u now =>
    let j := s.job (s.jobOf c)
    { fault := match j with
        | some j => if s.handleKnown j level (u.sd a) then none else some (flt .priv)
        | none => some (flt .priv)
      miss := kBusy s c u now [a] none 0
      after := match j with
        | some j => cancelWork j level (u.sd a)
        | none => Act.none })) s
/-- SNAP (R227): held until the engine accepts it (R411). Of S[a] the low 32 bits are the round (DESIGN CHOICE, log entry 42). -/
def execSnap (h : Hdr) (a : Fin 64) (s : State) : Out :=
  done (issueAs .k h.sync 1 (fun s c u now =>
    { miss := match kBusy s c u now [a] none 0 with
        | some m => some m
        | none => if u.ctl.snapHeld then some .busy else none
      unit := fun u => { u with ctl := { u.ctl with snapHeld := true } }
      more := Act.seq (onWork (fun w => { w with held := w.held ++ [{ col := c, launch := (s.slot c).launch, job := s.jobOf c, round := (u.sd a).truncate 32 }] })) (eventAt c (now + 1) (.snapAccept c)) })) s

/-! ## Traps -/

/-- TRAP (R228): executes, then faults with PCK at the next instruction. -/
def execTrap (h : Hdr) (code : Fin 4096) (s : State) : Out :=
  done (issueAs .k h.sync 1 (fun _ c _ _ => { after := takeFault c .k (flt .trap 0 0 (BitVec.ofNat 64 code.val)) })) s
/-- BKPT (R228). -/
def execBkpt (h : Hdr) (code : Fin 4096) (s : State) : Out :=
  done (issueAs .k h.sync 1 (fun _ c _ _ => { after := takeFault c .k (flt .break_ 0 0 (BitVec.ofNat 64 code.val)) })) s
/-- ERET (R228, R378): reserved to supervisor state. -/
def execEret (h : Hdr) (s : State) : Out :=
  done (issueAs .k h.sync 1 (fun _ c u _ => { priv := !u.frm.insv, after := returnFromHandler c })) s
/-- UNDEF (R142): ILLEGAL_INSTRUCTION in the stream that meets it. -/
def execUndef (h : Hdr) (_o : Fin 262144) (s : State) : Out :=
  done (issueAs s.cur.stream h.sync 1 (fun _ _ _ _ => { illegal := some (flt .illegalInstruction) })) s

/-! ## Idles (R144) -/

/-- The MMA in the engine of which a block is to raise a fault at c + cost (R290). -/
def Eng.faulting (e : Eng) (now : Int) : Option MmaOp := e.mmas.find? (fun o => o.bad.isSome && decide (now < o.issue + (o.cost : Int)))
/-- An instruction that M has issued behind such an MMA: the fault takes M back past it too, so the tokens that it consumes are returned with the MMA's, and count
for TOKFULL until then (R143, R290; log entry 76). -/
def UnitSt.behindMma (u : UnitSt) (o : MmaOp) (sync : Fin 16) : UnitSt :=
  { u with eng := { u.eng with mmas := u.eng.mmas.map (fun (q : MmaOp) => if q.id == o.id then { q with took := q.took ++ waits .m sync } else q) }
           ord := { u.ord with hold := u.ord.hold ++ (waits .m sync).map (fun i => (i, o.issue + (o.cost : Int))) } }
/-- An idle, or with count 0x3_FFFF the stream's realignment point, which faults where the realignment cycle has passed it by (R45).
The count acts on the computed cycle (R23). In M it does not wait for the engine (R283). -/
def idle (x : Stream) (sync : Fin 16) (len : Nat) (n : Fin 262144) : Act :=
  issueAs x sync len (fun _ _ u now =>
    let under := if x == .m then u.eng.faulting now else none
    let go := fun (u : UnitSt) => match under with
      | some o => u.behindMma o sync
      | none => u
    let tag := (under.map (·.id)).getD 0
    if n.val == 0x3FFFF then
      { fault := if (u.strm x).st = .late then some (schedMiss .realign) else none
        unit := fun u => (go u).onStrm x (fun t => { t with st := .point now })
        tag := tag }
    else { unit := go, tag := tag })
/-- IDLE in K. -/
def execIdleK (h : Hdr) (n : Fin 262144) (s : State) : Out := done (idle .k h.sync 1 n) s
/-- IDLE in D. -/
def execIdleD (h : Hdr) (n : Fin 262144) (s : State) : Out := done (idle .d h.sync 1 n) s
/-- IDLE in L. -/
def execIdleL (h : Hdr) (n : Fin 262144) (s : State) : Out := done (idle .l h.sync 2 n) s
/-- IDLE in M. -/
def execIdleM (h : MHdr) (n : Fin 262144) (s : State) : Out := done (idle .m h.sync 3 n) s
/-- IDLE in V. -/
def execIdleV (h : Hdr) (n : Fin 262144) (s : State) : Out := done (idle .v h.sync 2 n) s
/-- IDLE in S. -/
def execIdleS (h : Hdr) (n : Fin 262144) (s : State) : Out := done (idle .s h.sync 2 n) s

end Sys2Proof.Machine
end

