-- ==== Sys2Proof/Machine/Data.lean ====
section
/-! DEFINITION. D: the commands of the vault and its windows (R241 to R245), the refresh of its banks (R105, R106), and what a beat of a
window serves (R129, R244, R423). -/
namespace Sys2Proof.Machine

/-- A command of D on a bank: BUSY while the keeper holds it, checked by the guard, acting at issue (R106, R241). -/
def bankCommand (h : Hdr) (cmd : Cmd) (b : Fin 16) (row : UnitSt → Fin 8192) : Act :=
  issueAs .d h.sync 1 (fun s c u now =>
    let v := s.vault c
    { miss := if v.keeperHolds b now then some .busy else none
      fault := v.guard cmd b now
      more := onVault c (fun v => v.command cmd b (row u) u.span now) })
/-- ACT with an immediate row (R241). -/
def execAct (h : Hdr) (bank : Fin 16) (row : Fin 8192) (s : State) : Out := done (bankCommand h .act bank (fun _ => row)) s
/-- ACT with the row in bits [12:0] of S[a] (R241). -/
def execActRegister (h : Hdr) (bank : Fin 16) (a : Fin 64) (s : State) : Out :=
  done (bankCommand h .act bank (fun u => Fin.ofNat 8192 (u.sd a).toNat)) s
/-- PRE (R241). -/
def execPre (h : Hdr) (bank : Fin 16) (s : State) : Out := done (bankCommand h .pre bank (fun _ => 0)) s
/-- REFB (R241, R243). -/
def execRefb (h : Hdr) (bank : Fin 16) (s : State) : Out := done (bankCommand h .refb bank (fun _ => 0)) s
def allBanks : List (Fin 16) := List.finRange 16
/-- PREA (R242): every active bank, or none. -/
def execPrea (h : Hdr) (s : State) : Out :=
  done (issueAs .d h.sync 1 (fun s c u now =>
    let v := s.vault c
    let act := allBanks.filter (fun b => (v.banks[b]).row.isSome)
    { miss := if allBanks.any (fun b => v.keeperHolds b now) then some .busy else none
      fault := act.findSome? (fun b => v.guard .pre b now)
      more := onVault c (fun v => act.foldl (fun v b => v.command .pre b 0 u.span now) v) })) s

/-- Declarations with beats still to come (R244). -/
def VaultSt.openWins (v : VaultSt) (now : Int) : List Win := v.wins.filter (fun w => now ≤ w.last && 0 < w.n)
/-- WIN (R244). -/
def execWin (h : Hdr) (kind : WinKind) (bank : Fin 16) (beats delay : Fin 64) (s : State) : Out :=
  done (issueAs .d h.sync 1 (fun s c _ now =>
    let v := s.vault c
    let first := now + delay.val
    { miss := if 32 ≤ (v.openWins now).length then some .busy else none
      fault := if (List.range beats.val).any (fun i => v.portHeld (first + i)) then some (guardFault 9 true bank) else none
      more := Act.seq (onVault c (fun v => { v with wins := v.openWins now ++ [{ kind := kind, bank := bank, first := first, n := beats.val }] }))
        (Act.when (delay.val == 0) (eventNow (.windowBeat c))) })) s
/-- WCLS (R245): beats from issue + 1 on. -/
def Win.cut (w : Win) (now : Int) : Win := if now < w.first then { w with n := 0 } else { w with n := min w.n (now - w.first + 1).toNat }
def execWcls (h : Hdr) (kind : WinKind) (bank : Fin 16) (all : Bool) (s : State) : Out :=
  done (issueAs .d h.sync 1 (fun _ c _ now =>
    { more := onVault c (fun v => { v with wins := (v.wins.map (fun w =>
        if w.kind == kind && (all || w.bank == bank) then w.cut now else w)).filter (fun w => 0 < w.n) }) })) s

/-! ## Refresh -/

/-- REFRESH (R105): a deadline that arrives in timed mode. -/
def execRefresh (s : State) : Out :=
  match s.ev with
  | .refresh c bank =>
    if s.issues c && (s.unit c).ctl.timed then done (takeFault c .d (flt .refresh 0 0 (BitVec.ofNat 64 bank.val)) false) s else .next s
  | _ => .next s
/-- KEEPER_REFRESH (R106). -/
def execKeeperRefresh (s : State) : Out :=
  match s.ev with
  | .keeperRefresh c bank => done (onVault c (fun v => v.keep bank (s.unit c).span (s.now c))) s
  | _ => .next s

/-! ## Beats of windows -/

/-- The requests that have arrived at a vault, for the open row of a bank, the oldest first, ties by the lower column, and in one column by the
stream order (R129, R332). -/
def State.waiting (s : State) (o : Col) (b : Fin 16) (row : Fin 8192) : List Req :=
  (s.vault o).reqs.filter (fun r => bankPa r.pa == b && rowPa r.pa == row && r.arrive ≤ s.partNow r.part)
def Req.older (r q : Req) : Bool :=
  r.arrive < q.arrive || (r.arrive == q.arrive && (r.who.col.val < q.who.col.val ||
    (r.who.col == q.who.col && (Stream.ix r.who.stream).val < (Stream.ix q.who.stream).val)))
def oldest : List Req → Option Req
  | [] => none
  | r :: l =>
    match oldest l with
    | none => some r
    | some q => some (if q.older r then q else r)
/-- A write of a vault's block that a beat has served and that is still to be performed. -/
def VaultSt.toCome (v : VaultSt) (blk : Nat) : List Served := v.served.filter (fun x => x.req.pa / 64 == blk)
/-- A request is served in its turn: no earlier request of its unit to its block is still on its way, a read comes after the unit's earlier writes to its block are
performed (R332), and a block of a copy to GLOBAL is written no earlier than the blocks before it (R353). -/
def State.inTurn (s : State) (o : Col) (r : Req) (written : Int) : Bool :=
  let before := fun (q : Req) => q.who.col == r.who.col && q.pa / 64 == r.pa / 64 && (q.who.issue < r.who.issue ||
    (q.who.issue == r.who.issue && (Stream.ix q.who.stream).val < (Stream.ix r.who.stream).val))
  !(s.vault o).reqs.any before && !(r.kind == .read && ((s.vault o).toCome (r.pa / 64)).any (fun x => before x.req && decide (s.now x.req.who.col < x.at_))) && !s.links.any (fun b => match b.go with
    | .req p q => p == o && before q
    | _ => false) &&
  (match r.kind, s.txns.find? (fun t => t.id == r.tx) with
    | .write _, some t => (match t.kind with
      | .copyOut _ => (t.arrs.take r.k).all (fun a => match a.at_.orElse (fun _ => a.due) with
        | some x => decide (x ≤ written)
        | none => false)
      | _ => true)
    | _, _ => true)
/-- The cycle on which a write is performed that a beat serves now: the next one, or one later for a COW block, and never before the formula of a floating
extent has it written, nor before or with another write of its block that a beat has served: the accesses of a unit to one block are performed in their order, and a
vault's block takes one write a cycle (R115, R131, R132, R331, R332). -/
def State.writtenAt (s : State) (o : Col) (r : Req) : Int :=
  let rest := (s.vault o).toCome (r.pa / 64)
  let mine := (rest.filter (fun x => x.req.who.col == r.who.col)).foldl (fun m x => max m (x.at_ + 1)) (max (s.now r.who.col + (if r.cow then 2 else 1)) r.least)
  rest.foldl (fun m _ => if rest.any (fun x => x.at_ == m) then m + 1 else m) mine
/-- A command on the beat breaks a timer, apart from the port that the window itself holds. -/
def VaultSt.beatOk (v : VaultSt) (cmd : Cmd) (b : Fin 16) (now : Int) : Bool := ({ v with wins := [], port := [] } : VaultSt).guard cmd b now == none

/-- A REMOTE beat (R129, R131, R244): a read is performed now, a write on the next cycle, or one later for a COW block. -/
def remoteBeat (o : Col) (b : Fin 16) (row : Fin 8192) (more : Bool) : Act := fun s =>
  let now := s.now o
  let v := s.vault o
  match oldest ((s.waiting o b row).filter (fun r => s.inTurn o r (s.writtenAt o r))) with
  | none => []
  | some r =>
    let v' := { v with reqs := v.reqs.filter (fun q => q != r) }
    if r.who.gen != ((s.dies[dieOf o]).gen)[dieOf o] then [.vault o v']
    else
      match r.kind with
      | .read =>
        if v.beatOk .rd b now then Act.seq (fun _ => [.vault o (v'.command .rd b row 0 now)]) (serveRead o r) s else []
      | _ =>
        if !v.beatOk (.wr r.cow) b now || (r.cow && !more) then []
        else
          let v' := v'.command (.wr r.cow) b row 0 now
          let written := s.writtenAt o r
          Act.all [fun _ => [.vault o { v' with served := v'.served ++ [{ at_ := written, req := r }] }],
            onArr r.tx r.k (fun a => { a with due := some written }), fixForms r.tx r.k (s.now r.who.col - r.arrive)] s
/-- A MIG beat (R118, R121). -/
def migBeat (o : Col) (b : Fin 16) (row : Fin 8192) : Act := fun s =>
  match s.migJob o b row with
  | none => []
  | some j =>
    let cmd := match j with | .read .. => Cmd.rd | _ => .wr false
    if (s.vault o).beatOk cmd b (s.now o) then serveMig j s else []

/-- The tier of a placement at a column, seen from another (R108). -/
def tierAt (c d : Col) : Fin 4 := if c = d then 0 else if dieOf c = dieOf d then 1 else 2
/-- A running Wain reads a map of its unit (R126). -/
def MapSt.read_ (m : MapSt) (n : Fin 16) : Bool := m.active && (n == m.cur || n == m.tgt)
/-- A rewrite that the Gleaner asks for is held up while a Wain reads the map (R126). -/
def State.rewriteReady (s : State) : Ev → Bool
  | .gleanerRewrite c map .. => !(s.unit c).maps.read_ map
  | _ => false
/-- A unit's maps after a rewrite (R126): TIER, COL and PPN of a floating private extent, in a map that is neither current nor the target of a PHPRE, in both of
its mirrors; any other rewrite is not made. -/
def State.rewritten (s : State) : Ev → Option (Col × MapSt)
  | .gleanerRewrite c map ix tier col ppn =>
    let m := (s.unit c).maps
    match m.maps[map] with
    | none => none
    | some es =>
      match es[ix]? with
      | none => none
      | some e =>
        if e.fl && !e.sh && map != m.cur && !(m.valid && map == m.tgt) && tier ≤ e.worst && (tier != 3 || e.worst == 3) &&
            (tier == 3 || (tier == tierAt c col && s.pkg.dielist.contains (dieOf col))) && ppn < 2 ^ 17 then
          some (c, ({ m with maps := m.maps.set map (some (es.set ix { e with tier := tier, col := col, ppn := ppn })) } : MapSt).mend map (fun k => k == (ix + 1) / 2))
        else none
  | _ => none
/-- Spend one beat of activity i's budget. -/
def Budget.spend (b : Budget) (i : Nat) : Budget := { b with left := b.left.set i (b.left.getD i 0 - 1) }
def blkIn (b : Fin 16) (row : Fin 8192) (blk : Nat) : Bool := bankPa (64 * blk) == b && rowPa (64 * blk) == row
/-- Where the content of a block of an open snapshot lies: its saved copy, or the block itself (R412). -/
def VaultSt.snapBlk (v : VaultSt) (job : Dword) (blk : Nat) : Nat :=
  match v.saved.find? (fun x => x.1 == job && x.2.1 == blk) with
  | some x => x.2.2
  | none => blk
/-- A snapshot block has been drained: its saved copy is freed, and the fallow activity is to clear it (R414). -/
def VaultSt.drained (v : VaultSt) (job : Dword) (blk : Nat) : VaultSt :=
  let at_ := v.snapBlk job blk
  { v with
    drain := v.drain.filter (fun x => x != (job, blk))
    saved := v.saved.filter (fun x => !(x.1 == job && x.2.1 == blk))
    budget := if at_ == blk then v.budget else { v.budget with fallow := v.budget.fallow ++ [at_] } }
/-- The SNAPs that wait are looked at again, once blocks of reserves have been cleared (R414). -/
def retrySnaps : Act := fun s => Act.each s.work.held (fun h => eventNow (.snapAccept h.col)) s
/-- A SHARED beat goes to the first activity with budget and a request: fallow, drain, Gleaner, telemetry, whose reading goes to the host (R418, R423). -/
def sharedBeat (o : Col) (b : Fin 16) (row : Fin 8192) : Act := fun s =>
  let now := s.now o
  let v := s.vault o
  let g := v.budget
  let has := fun i => 0 < g.left.getD i 0
  match (if has 0 then g.fallow.find? (blkIn b row) else none) with
  | some blk =>
    if v.beatOk (.wr false) b now then
      Act.seq (fun _ => [.vault o ({ v with budget := ({ g with fallow := g.fallow.filter (fun x => x != blk) } : Budget).spend 0 }.command (.wr false) b row 0 now),
        .mem o .vault [(blk, Blk.clear.whole)]]) retrySnaps s
    else []
  | none =>
    match (if has 1 then v.drain.find? (fun x => blkIn b row (v.snapBlk x.1 x.2) && ((s.job x.1).bind (·.storage)).isSome) else none) with
    | some x =>
      if v.beatOk .rd b now then
        let v' := ({ v with budget := g.spend 1 }.command .rd b row 0 now).drained x.1 x.2
        Act.all [fun _ => [.vault o v'], report (.drained x.1 o x.2 ((s.mem o .vault).blk (v.snapBlk x.1 x.2))),
          fun s => if (s.vault o).drain.isEmpty then onVault o (fun v => { v with idleAt := s.tick }) s else [],
          fun s => if allCols.any (fun c => (s.vault c).drain.any (fun y => y.1 == x.1)) then [] else eventNow (.snapshotDrained x.1) s] s
      else []
    | none =>
      match (if has 2 then g.rewrites.find? s.rewriteReady else none) with
      | some e =>
        let rest := { g with rewrites := dropFirst (fun x => x == e) g.rewrites }
        (match s.rewritten e with
          | some (c, m) => [.vault o { v with budget := rest.spend 2 }, .unit c { s.unit c with maps := m }]
          | none => [.vault o { v with budget := rest }])
      | none =>
        if has 2 && 0 < g.glean then [.vault o { v with budget := { g with glean := g.glean - 1 }.spend 2 }]
        else if has 3 && 0 < g.tele then Act.seq (fun _ => [.vault o { v with budget := { g with tele := g.tele - 1 }.spend 3 }]) (report (.telemetry o (site o).1 (site o).2)) s
        else []

/-- WINDOW_BEAT (R244): the beat of the window that covers the cycle; it is left unused where the bank is idle or the keeper holds it. -/
def execWindowBeat (s : State) : Out :=
  match s.ev with
  | .windowBeat o =>
    let now := s.now o
    let v := s.vault o
    match v.wins.find? (fun w => w.covers now) with
    | none => .next s
    | some w =>
      let more := now < w.last
      let spent := onVault o (fun v => v.addPort now)
      match (v.banks[w.bank]).row with
      | none => done spent s
      | some row =>
        if v.keeperHolds w.bank now then done spent s
        else done (Act.seq spent (match w.kind with
          | .remote => remoteBeat o w.bank row more
          | .mig => migBeat o w.bank row
          | .shared => sharedBeat o w.bank row)) s
  | _ => .next s

end Sys2Proof.Machine
end

