-- ==== Sys2Proof/Machine/Load.lean ====
section
/-! DEFINITION. L: register loads (R247, R248), vault reads (R246), operand queues (R249, R250), headers, records and operand latches (R251
to R253), and POP (R255). -/
namespace Sys2Proof.Machine

/-- What a MEM instruction of L is: the rows it reads, where they lie, its size limit, and where its tile goes. -/
structure LForm where
  rows  : Layout → Nat
  index : Nat → Nat := id
  shape : Layout → Bool
  extra : Nat := 0
  dst   : BitVec 512 → LoadDst
  dest  : Layout → Option (Port × Nat) := fun _ => none

/-- The part common to the loads of L (R234 to R237): record and address checks, the access, the post-increment. -/
def State.tileLoad (s : State) (c : Col) (u : UnitSt) (now : Int) (m : LMem) (f : LForm) : Attempt :=
  let w := u.regs.ly[m.y]
  let l := layoutOf w
  let addr := u.memAddr false m.ax m.pi m.disp
  let at_ := fun r => l.rowAddr addr (f.index r)
  let bad := if l.fieldBad then some (recordFault 1)
    else if f.shape l then some (recordFault 2)
    else l.checkRows (f.rows l) at_ [0, 2, 3]
  match bad with
  | some e => { miss := if s.accessHeld u now then some .busy else none, fault := some e }
  | none =>
    let go := s.load u c .l now (l.tile (f.rows l) at_) f.extra (f.dst w) (f.dest l)
    { go with eff := go.eff ++ u.postInc .l false m.ax m.pi m.disp now }

/-- The row port of T0 on the cycle on which a load writes its register (R93, R95). -/
def regPort : Layout → Option (Port × Nat) := fun _ => some (.tileW 0, 1)
/-- VLD (R247). -/
def execVld (h : Hdr) (v : Fin 64) (m : LMem) (s : State) : Out :=
  done (issueAs .l h.sync 2 (fun s c u now => s.tileLoad c u now m
    { rows := (·.rows), shape := fun l => l.ltype.lanes < l.elems, dst := fun rec => .vec (u.regs.physV v) rec false, dest := regPort })) s
/-- VLDS (R247): row 0 over every lane. -/
def execVlds (h : Hdr) (v : Fin 64) (m : LMem) (s : State) : Out :=
  done (issueAs .l h.sync 2 (fun s c u now => s.tileLoad c u now m
    { rows := fun _ => 1, shape := fun l => l.ltype.lanes < l.cols, dst := fun rec => .vec (u.regs.physV v) rec true, dest := regPort })) s
/-- VLDG (R247): row r lies at the row address of the index in lane r of Vx, read as N16 at issue through the row port of T0. -/
def execVldg (h : Hdr) (v : Fin 64) (m : LMem) (x : Fin 64) (s : State) : Out :=
  done (issueAs .l h.sync 2 (fun s c u now =>
    let ix := u.v x
    let go := s.tileLoad c u now m
      { rows := (·.rows), index := fun r => ix.lane 16 r, shape := fun l => 256 < l.rows || l.ltype.lanes < l.elems,
        dst := fun rec => .vec (u.regs.physV v) rec false, dest := regPort }
    let go := go.reads u now (u.vRows [x])
    { go with miss := if u.portFree (.tileR 0) now 1 then go.miss else some .busy
              unit := fun u => (go.unit u).takePort (.tileR 0) now 1 })) s
/-- LDH (R251): at most 256 blocks. -/
def execLdh (h : Hdr) (v : Fin 64) (m : LMem) (s : State) : Out :=
  done (issueAs .l h.sync 2 (fun s c u now => s.tileLoad c u now m
    { rows := (·.rows), shape := fun l => 256 < l.blks, dst := fun rec => .heads (u.regs.physV v) rec, dest := regPort })) s
/-- Bytes of the operand latch that a tile makes, each latch row packed from a fresh block (R253). -/
def Layout.latchBytes (l : Layout) : Nat :=
  if l.t then l.rows * l.rowBlks * 64 else l.cols * ((l.rows * l.w + 511) / 512) * 64
/-- LTR (R253): written two cycles after a register would be; the gather of MIDX holds OPA (R292). -/
def execLtr (h : Hdr) (lat : OpLat) (m : LMem) (s : State) : Out :=
  done (issueAs .l h.sync 2 (fun s c u now =>
    let go := s.tileLoad c u now m { rows := (·.rows), shape := fun l => 65536 < l.latchBytes, extra := 2, dst := fun rec => .latch lat rec }
    { go with miss := if lat == .opa && u.eng.gather.isSome then some .busy else go.miss })) s

/-- LREC (R252): one block at the address, whatever the record's geometry; REC gives a record itself. -/
def execLrec (h : Hdr) (m : LMem) (s : State) : Out :=
  done (issueAs .l h.sync 2 (fun s c u now =>
    let addr := u.memAddr false m.ax m.pi m.disp
    let inc := u.postInc .l false m.ax m.pi m.disp now
    match checkAccess addr 64 64 [0, 2, 3, 5] with
    | some e => { miss := if s.accessHeld u now then some .busy else none, fault := some e }
    | none =>
      if tagOf addr == 5 then
        { miss := if s.accessHeld u now then some .busy else none
          eff := { at_ := now + 1, stream := .l, eff := .recCopy (Fin.ofNat 256 (offOf addr / 64)) m.y (now + 5) } :: inc
          unit := fun u => u.track .l now (now + 5) true
          sig := 5 }
      else
        let go := s.load u c .l now { addrs := [addr], skips := [false], spans := [(offOf addr, 64)] } 0 (.lrec m.y) none
        { go with eff := go.eff ++ inc })) s

/-! ## Operand queues -/

/-- QCW (R249, R98). -/
def execQcw (h : Hdr) (n : Fin 16) (a : Fin 64) (s : State) : Out :=
  done (issueAs .l h.sync 2 (fun _ _ u now =>
    let q := QCtl.ofWord (u.sd a)
    { fault := if q.passes then some (windowFault 3 0) else none
      eff := [{ at_ := now + 1, stream := .l, eff := .queue n q }] })) s
/-- The slot that a push takes: its SP offset (R250). -/
def QCtl.tail (q : QCtl) : Nat := 64 * q.base + (q.head + q.depth - q.free) % max 1 q.depth * q.slotBytes
/-- QLD (R250): one slot of undecoded blocks, pending until it is written, which is a write of the stream for its later pushes (R351). -/
def execQld (h : Hdr) (n : Fin 16) (m : LMem) (s : State) : Out :=
  done (issueAs .l h.sync 2 (fun s c u now =>
    let q := u.regs.qc[n]
    let off := q.tail
    if q.depth == 0 then { fault := some (windowFault 5 0) }
    else
      let far := tagOf (u.memAddr false m.ax m.pi m.disp) == 0
      let go := s.tileLoad c u now m
        { rows := (·.rows), shape := fun l => l.blks * 64 != q.slotBytes, dst := fun rec => .slot off rec,
          dest := fun l => some (.spW, slotOcc off l.blks) }
      let id := s.nextId + 1
      let due : Option Int := if far then none else some (now + go.sig)
      let blks := (List.range (q.slotBytes / 64)).map (fun i => ({ id := if far then id else 0, mem := some .sp, blk := off / 64 + i, far := far, due := due, place := none } : PendBlk))
      { go with
        miss := if q.free == 0 then some .busy else go.miss
        more := Act.seq go.more (Act.when far (reserveLoad id))
        unit := fun u =>
          let u := go.unit u
          let u := if far then u.trackFar id .l now false false false else u.track .l now (now + go.sig) false
          let u := { u with ord := { u.ord with pblks := u.ord.pblks ++ blks } }
          { u with regs := { u.regs with qc := u.regs.qc.set n { q with free := q.free - 1 } } } })) s

/-! ## Vault reads -/

/-- Pending GLOBAL destinations that lie at a vault column of the unit's own vault (R240, R246). -/
def State.pendingAt (s : State) (c : Col) (u : UnitSt) (pa : Nat) : List Nat :=
  (u.ord.pblks.filter (fun p => p.mem == some .vault && match findExtent u.maps.current (64 * p.blk) with
    | some e =>
      let q := extPlace e s.pkg.dielist (64 * p.blk)
      !q.isLoan && q.col == c && q.pa / 128 == pa / 128
    | none => false)).map (·.blk)
/-- The race check of one block that a VRD reads (R343, R344), and the shadow word that the read leaves. -/
def State.vrdRace (s : State) (c : Col) (x : Option (Extent × Nat)) (pa : Nat) : Except (Nat × Dword) (Option (BitVec 128)) :=
  match x with
  | some (e, _) => if e.sh then (s.shadow (s.who c .l (dieOf c)) false (s.now c) ((s.vault c).shadowOf (pa / 64))).map some else .ok none
  | none => .ok none
/-- A block of a VRD is read, or its race is raised once the beat lands. -/
def vrdBlock (c : Col) (x : Option (Extent × Nat)) (pa i : Nat) : Act := fun s =>
  match s.vrdRace c x (pa + 64 * i) with
  | .error e => eventAt c (s.now c + 15) (.deferredFaultReport c .l (raceFault (BitVec.ofNat 64 ((x.map (·.2)).getD 0 + 64 * i)) e)) s
  | .ok (some w) => onVault c (fun v => v.setShadow (pa / 64 + i) w) s
  | .ok none => []
/-- A VRD (R246): an RD of the open row performed at issue, whose beat lands at issue + 15; a block that races is not read. -/
def vaultRead (h : Hdr) (bank : Fin 16) (col : Fin 32) (port : Port) (bad : UnitSt → Option FaultRec)
    (land : UnitSt → Option Blk → Option Blk → Eff) (write : Bool) : Act :=
  issueAs .l h.sync 2 (fun s c u now =>
    let v := s.vault c
    let row := ((v.banks[bank]).row).getD 0
    let pa := paOf bank row col
    let x := s.mappedAt u c pa
    let read := fun (i : Nat) => match s.vrdRace c x (pa + 64 * i) with
      | .ok _ => some ((s.mem c .vault).blk (pa / 64 + i))
      | .error _ => none
    let gate := u.gate now (some .vault) (s.pendingAt c u pa)
    let poison := ([0, 1] : List Nat).findSome? (fun i => match read i with
      | some b => if b.poisoned then some (pa + 64 * i) else none
      | none => none)
    { miss := if v.keeperHolds bank now || s.accessHeld u now || !u.portFree port (now + 15) 1 then some .busy
        else match gate with
          | .busy => some .busy
          | _ => none
      fault := match bad u with
        | some e => some e
        | none => match v.guard .rd bank now with
          | some e => some e
          | none => match gate with
            | .early b => some (earlyFault (BitVec.ofNat 64 (64 * b)))
            | _ => none
      eff := [{ at_ := now + 15, stream := .l, eff := land u (read 0) (read 1) }]
      unit := fun u =>
        let u := (u.takePort port (now + 15) 1).track .l now (now + 15) true
        if write then u.track .l now (now + 15) false else u
      more := Act.all [onVault c (fun v => v.command .rd bank row 0 now), vrdBlock c x pa 0, vrdBlock c x pa 1,
        match poison with
          | some a => eventAt c (now + 15) (.deferredFaultReport c .l (poisonFault (BitVec.ofNat 64 a)))
          | none => Act.none]
      sig := 15 })
/-- VRD (R246): a quarter of a register. -/
def execVrd (h : Hdr) (v : Fin 64) (bank : Fin 16) (col : Fin 32) (q : Fin 4) (s : State) : Out :=
  done (vaultRead h bank col (.tileW 0) (fun _ => none) (fun u lo hi => quarterEff (u.regs.physV v) q (lo.map (·.pay)) (hi.map (·.pay))) false) s
/-- VRD.BUF (R246): two blocks with their headers at an SP address. -/
def execVrdBuf (h : Hdr) (bank : Fin 16) (col : Fin 32) (ax : Fin 8) (s : State) : Out :=
  done (vaultRead h bank col .spW (fun u => checkAccess u.regs.al[ax] 128 128 [3])
    (fun u lo hi =>
      let b := offOf u.regs.al[ax] / 64
      .blocks .sp ((lo.map (fun x => (b, x.whole))).toList ++ (hi.map (fun x => (b + 1, x.whole))).toList)) true) s

/-! ## FIFOs (R254, R255) -/

def UnitSt.fifo (u : UnitSt) : Fifo → List FifoEnt
  | .cpf => u.eng.cpf | .amf => u.eng.amf | .clf => u.eng.clf
def UnitSt.setFifo (u : UnitSt) (f : Fifo) (l : List FifoEnt) : UnitSt :=
  match f with
  | .cpf => { u with eng := { u.eng with cpf := l } }
  | .amf => { u with eng := { u.eng with amf := l } }
  | .clf => { u with eng := { u.eng with clf := l } }
def fifoDepth : Fifo → Nat
  | .cpf => 64 | .amf => 32 | .clf => 16
/-- No entry is left to reserve (R254). -/
def UnitSt.fifoFull (u : UnitSt) (f : Fifo) : Bool := fifoDepth f ≤ (u.fifo f).length
def UnitSt.reserve (u : UnitSt) (f : Fifo) (id : Nat) : UnitSt := u.setFifo f (u.fifo f ++ [{ id := id, word := none }])
/-- The engine posts its word. -/
def UnitSt.post (u : UnitSt) (f : Fifo) (id : Nat) (w : Dword) : UnitSt :=
  u.setFifo f ((u.fifo f).map (fun e => if e.id == id then { e with word := some w } else e))
/-- A reserved entry is freed with no word. -/
def UnitSt.unreserve (u : UnitSt) (f : Fifo) (id : Nat) : UnitSt := u.setFifo f ((u.fifo f).filter (fun e => e.id != id))
/-- POP (R255): the oldest delivered word at issue + 2. -/
def execPop (h : Hdr) (v : Fin 64) (f : Fifo) (s : State) : Out :=
  done (issueAs .l h.sync 2 (fun _ _ u now =>
    let w := (u.fifo f).head?.bind (·.word)
    { miss := if w.isNone || !u.portFree (.tileW 0) (now + 2) 1 then some .busy else none
      eff := [{ at_ := now + 2, stream := .l, eff := rowWrite (vRow (u.regs.physV v)) (scalarImg (.ofData (w.getD 0))) }]
      unit := fun u => (u.setFifo f ((u.fifo f).drop 1)).takePort (.tileW 0) (now + 2) 1
      sig := 2 })) s

end Sys2Proof.Machine
end

