-- ==== Sys2Proof/Machine/Copy.lean ====
section
/-! DEFINITION. The copy engine (R256 to R264): copies, sparse expansion, multicasts, puts and gets, what a request does at its target
(R238, R263, R264), and retirement (R260). -/
namespace Sys2Proof.Machine

/-! ## Blocks of an image (R258) -/

/-- 64 bytes of a row image (R83). -/
def Row.part (r : Row) (i : Nat) : BitVec 512 :=
  if i < 8 then r.data.extractLsb' (512 * i) 512 else r.tail.extractLsb' (512 * (i - 8)) 512
/-- The write of 64 bytes of a row image. -/
def partEff (ix : Fin 256) (i : Nat) (v : BitVec 512) : Eff :=
  if i < 8 then
    .row ix (BitVec.ofNat 4096 ((2 ^ 512 - 1) * 2 ^ (512 * i))) 0 { data := BitVec.ofNat 4096 (v.toNat * 2 ^ (512 * i)), tail := 0 }
  else
    .row ix 0 (BitVec.ofNat 1024 ((2 ^ 512 - 1) * 2 ^ (512 * (i - 8)))) { data := 0, tail := BitVec.ofNat 1024 (v.toNat * 2 ^ (512 * (i - 8))) }
/-- An on-chip block as it stands; out of ACC with the header 0x00, 0x7F (R258). -/
def State.locBlk (s : State) (c : Col) : CpLoc → Blk
  | .chip m off => (s.mem c m).blk (off / 64)
  | .acc off => { hd := .raw, pay := ((s.unit c).regs.tiles[accRow off]).part (accPart off) }
  | _ => .clear
/-- The effect of writing a block on chip. -/
def locEff (l : CpLoc) (w : BlkWrite) : List Eff :=
  match l with
  | .chip m off => [.blocks m [(off / 64, w)]]
  | .acc off => [partEff (accRow off) (accPart off) w.data]
  | _ => []
/-- FORMAT of kind REJECT of a block on its way into ACC (R83, R258). A RAW block is taken whatever its scale byte, and the poison of 0xFF is lost, since the
image has no header (log entry 62). -/
def accFault (l : CpLoc) (h : Head) : Option FaultRec :=
  match l with
  | .acc _ => if h.fmt == 0x00 then none else some (formatFault 3 l.addr)
  | _ => none

/-- The bits of block j of row r that clipping fills (R257). -/
def Layout.clipMask (l : Layout) (r j : Nat) : BitVec 512 :=
  if l.blkClipped r j then BitVec.allOnes 512
  else if l.cols ≤ l.clc then 0
  else BitVec.ofNat 512 (packNat l.w ((List.range l.perBlk).map (fun i =>
    let c := j * l.perBlk + i
    if l.clc ≤ c && c < l.cols then 2 ^ l.w - 1 else 0)))
/-- A source block as clipping leaves it (R257). -/
def CpBlk.out (b : CpBlk) (raw : Blk) : Blk := { hd := b.hd.getD raw.hd, pay := (raw.pay &&& ~~~b.mask) ||| (b.fill &&& b.mask) }

/-! ## The push -/

/-- A command as it is pushed: operation, records, addresses, target word (R256, R261). -/
structure Push where
  op  : Fin 5
  ys  : Fin 256
  yd  : Fin 256
  src : Dword
  dst : Dword
  tgt : Dword

/-- The targets of a multicast (R263). -/
def castCols (t : Dword) : List Col :=
  let n := t.toNat
  allCols.filter (fun c => flag (n / 2 ^ (dieOf c).val) && flag (n / 2 ^ (8 + yOf c)) && bits n 19 16 ≤ xOf c && xOf c ≤ bits n 23 20)
/-- ILLEGAL_ENCODING of a target word (R263, R264), a register's value: it is raised with the instruction's own faults, at check 6 of R143 (DESIGN CHOICE, log
entry 37). -/
def Push.wordBad (p : Push) : Bool :=
  let n := p.tgt.toNat
  if p.op = 2 then n / 2 ^ 24 != 0 || bits n 7 4 != 0 || bits n 23 20 < bits n 19 16
  else if p.op = 3 || p.op = 4 then n / 2 ^ 29 != 0
  else false
/-- A target word whose package number is that of the job's own package names it as number 0 does (R408). -/
def State.homeWord (s : State) (c : Col) (t : Dword) : Dword :=
  match s.job (s.jobOf c) with
  | some j => if bits t.toNat 28 9 == j.pkg then t &&& ~~~(0xFFFFF <<< 9 : Dword) else t
  | none => t
def Push.pkg (p : Push) : Nat := if p.op = 3 || p.op = 4 then bits p.tgt.toNat 28 9 else 0
def Push.targets (p : Push) : List Col :=
  if p.op = 2 then castCols p.tgt else if p.op = 3 || p.op = 4 then [Fin.ofNat 512 (bits p.tgt.toNat 8 0)] else []
/-- A column runs a unit of the launch of another column's unit, or of the job of a request that came from there (R263, R264). -/
def State.sameLaunch (s : State) (c v : Col) : Bool :=
  match s.launchOf c with
  | some b => b.cols.contains v
  | none => c == v
def State.jobAt (s : State) (job : Dword) (c v : Col) : Bool :=
  match s.launchOf v with
  | some b => b.job == job
  | none => c == v

/-- The maps of the unit at a target under which a GLOBAL address of a job is translated there: the bound unit's, or, where none is bound, a saved
unit's (R264, R389). -/
def State.targetMaps (s : State) (job : Dword) (c v : Col) : Option MapSt :=
  if s.jobAt job c v then some (s.unit v).maps
  else
    match s.launchOf v with
    | none => (s.slot v).saved.findSome? (fun k =>
        if s.work.bound.any (fun x => x.id == k.launch && x.job == job) then some k.unit.maps else none)
    | some _ => none
/-- Rows of an address in host memory: tag 0 and bits [51:0] (R417). -/
def Layout.checkHost (l : Layout) (at_ : Nat → Dword) : Option FaultRec :=
  (List.range l.rows).findSome? (fun r =>
    let a := at_ r
    if 6 ≤ tagOf a then some (windowFault 1 a)
    else if 2 ^ 52 < offOf a + l.rowBytes then some (windowFault 3 a)
    else if a.toNat % 64 != 0 then some (windowFault 4 a)
    else if tagOf a != 0 then some (windowFault 5 a) else none)
/-- The ACC side of an image transfer (R258): its rows start and cover whole row images. -/
def Layout.checkAcc (l : Layout) (at_ : Nat → Dword) : Option FaultRec :=
  (List.range l.rows).findSome? (fun r =>
    if tagOf (at_ r) == 4 && (offOf (at_ r) % 640 != 0 || l.rowBlks % 10 != 0) then some (windowFault 4 (at_ r)) else none)
/-- The blocks of a source tile with their clipping (R257). -/
def Layout.srcBlks (l : Layout) (at_ : Nat → Dword) : List CpBlk :=
  (l.tileBlks l.rows at_ id).map (fun b =>
    { src := if b.skip then .none else locOf b.addr, raw := locOf b.addr, dst := .none, mask := l.clipMask b.row b.j, fill := l.fillBlk,
      hd := if b.skip then some { fmt := l.ffmt, scl := l.fscl } else none })

/-- Places for the GLOBAL blocks of a list of locations, translated under the unit's map; other locations have none. -/
def State.placesOf (s : State) (u : UnitSt) (acc : Nat) : List CpLoc → Except FaultRec (List (Option Place))
  | [] => .ok []
  | l :: ls =>
    let first : Except FaultRec (Option Place) := match l with
      | .glob va => (translate s.pkg.dielist u.maps u.maps.current va acc).map some
      | _ => .ok none
    match first with
    | .error e => .error e
    | .ok p =>
      match State.placesOf s u acc ls with
      | .error e => .error e
      | .ok ps => .ok (p :: ps)
/-- Places for the blocks of a source on the far path (R131, R257; log entry 26): a GLOBAL block that clipping leaves unread takes its cycle with the block
before it, or the next one, and where none is read with its own place, if there is one. `raws` says where each block lies. -/
def State.copyPlaces (s : State) (u : UnitSt) (raws : List CpLoc) (ps : List (Option Place)) : List (Option Place) :=
  let own := fun (l : CpLoc) => match l with
    | .glob va => (translate s.pkg.dielist u.maps u.maps.current va 0).toOption
    | _ => none
  let fill := if ps.any Option.isSome then fillPlaces ps else raws.map own
  ((raws.zip ps).zip fill).map (fun x => if x.1.2.isNone && x.1.1.isGlob then x.2 else x.1.2)

/-- What the push of a command makes: its blocks, what it reads, the places of its GLOBAL sides (`srcAt` those that give an unread block its cycle), its
length, its expansion. -/
structure Plan where
  blks  : List CpBlk
  srcs  : List CpLoc
  srcPl : List (Option Place)
  srcAt : List (Option Place)
  dstPl : List (Option Place)
  m     : Nat
  x     : Option CpX

/-- Blocks of a row of a mask, and the mask's addresses (R262). -/
def maskAddrs (a : Dword) (elems : Nat) : List Dword := (List.range ((elems + 511) / 512)).map (fun i => a + BitVec.ofNat 64 (64 * i))

/-- The checks of a push in their order, and its plan (R257, R258, R262 to R264). -/
def State.plan (s : State) (c : Col) (u : UnitSt) (p : Push) : Except FaultRec Plan :=
  let ls := u.ly p.ys
  let ld := u.ly p.yd
  let sat := ls.rowAddr p.src
  let dat := ld.rowAddr p.dst
  let host := p.pkg == 0xFFFFF
  let ms := if p.op = 1 then maskAddrs p.tgt ld.elems else []
  let any := [0, 1, 2, 3, 4]
  let bad : Option FaultRec :=
    if p.wordBad then some (flt .illegalEncoding)
    else if ls.fieldBad || ld.fieldBad then some (recordFault 1)
    else if ls.t || ld.t || (p.op != 1 && ls.blks != ld.blks) then some (recordFault 2)
    else if ls.wcl != ld.wcl then some (recordFault 1)
    else [if host && p.op = 3 then ls.checkHost sat else ls.checkRows ls.rows sat any,
          if host && p.op = 4 then ld.checkHost dat else ld.checkRows ld.rows dat (if p.op = 2 then [1, 2, 3] else any),
          if p.op = 1 then checkAccess p.tgt (64 * ms.length) 64 [0, 1, 2, 3] else none,
          ls.checkAcc sat, ld.checkAcc dat,
          if p.op = 2 && p.targets.any (fun v => !s.sameLaunch c v) then some (flt .priv) else none,
          if p.op = 3 && p.pkg == 0 && tagOf (sat 0) != 0 && p.targets.any (fun v => !s.sameLaunch c v) then some (flt .priv) else none,
          if p.op = 4 && p.pkg == 0 && tagOf (dat 0) != 0 && p.targets.any (fun v => !s.sameLaunch c v) then some (flt .priv) else none].findSome? id
  match bad with
  | some e => .error e
  | none =>
    let sb := ls.srcBlks sat
    let db := (ld.tileBlks ld.rows dat id).map (fun b => locOf b.addr)
    let srcs := ms.map locOf ++ sb.map (·.src)
    let here := if p.op = 3 then [] else srcs
    let at_ := fun (sp : List (Option Place)) => sp.take ms.length ++ s.copyPlaces u (sb.map (·.raw)) (sp.drop ms.length)
    let there := if p.op = 2 || p.op = 4 then [] else db
    match s.placesOf u 0 here with
    | .error e => .error e
    | .ok sp =>
      match s.placesOf u 1 there with
      | .error e => .error e
      | .ok dp =>
        if p.op = 1 then
          let x : CpX := { masks := ms.map locOf, srcs := sb, got := [], next := 0, last := 0, w := ld.w, n := ls.elems, cols := ls.cols,
                           rowb := ls.rowBlks, dcols := ld.cols, drowb := ld.rowBlks, fill := ld.fillElem }
          .ok { blks := db.map (fun d => { src := .none, dst := d, mask := 0, fill := 0, hd := none }), srcs := srcs, srcPl := sp, srcAt := at_ sp, dstPl := dp,
                m := ms.length + max sb.length db.length, x := some x }
        else
          .ok { blks := (sb.zip db).map (fun y => { y.1 with dst := y.2 }), srcs := srcs, srcPl := sp, srcAt := at_ sp, dstPl := dp, m := sb.length, x := none }

/-- The GLOBAL addresses that the unit's map translates for a command, with their places. -/
def Plan.globs (pl : Plan) : List (Dword × Option Place) :=
  (((pl.srcs.zip pl.srcPl) ++ ((pl.blks.map (·.dst)).zip pl.dstPl)).filter (fun x => x.2.isSome)).map (fun x => (x.1.addr, x.2))

/-- The blocks of one side of a copy as far-path blocks: block k is requested at b + k, and its formula counts k from b (R259). Where no block of a run is read,
no wait is met. -/
def State.copyArrs (s : State) (req : Col) (b : Int) (write : Bool) (locs : List CpLoc) (places : List (Option Place)) : List Arr :=
  let fb := (locs.zip places).map (fun x => ({ va := x.1.addr, place := x.2 } : FarBlk))
  let n := locs.length
  let ix := (List.range n).zip ((locs.zip places).zip (fb.zip (runs fb 0 none)))
  ix.map (fun x =>
    let k := x.1
    let g := x.2.2.2.1
    let unread := ix.all (fun y => y.2.2.2.1 != g || !y.2.1.1.isGlob)
    let own := x.2.1.1.isGlob
    match x.2.2.1.place with
    | none => .blank x.2.1.1.addr (some b) b k
    | some p =>
      let t := s.pathTerms req p
      let m := s.term req p (b + g) (k - g) 0 write
      { va := x.2.1.1.addr, loan := if p.isLoan && own then some p.extBlk else none, term := m, grp := g,
        form := if t.loan then some m else if unread then some (m + (t.fixed.getD 0 : Int)) else t.fixed.map (fun w => m + (w : Int)),
        at_ := if !own then some b else if p.isLoan && !write then some (s.loanTurn req p.extBlk false (s.loanAt k m)) else none, blk := .clear, bad := none, del := false, late := false,
        skip := !own, ret := t.ret })
/-- The blocks of a side whose cycles are not known before they are sent: each has its own wait, and those that lie on loan are known where the unit's map gives their
places. A block that clipping leaves unread is none of the arrivals (R135, R257). -/
def openArrs (b : Int) (locs : List CpLoc) (places : List (Option Place)) : List Arr :=
  (List.range locs.length).zip locs |>.map (fun x =>
    { Arr.blank x.2.addr none b x.1 with
      skip := x.2 == .none
      loan := (places.getD x.1 none).bind (fun p => if p.isLoan then some p.extBlk else none) })

/-- The pending marks of a command's destinations in the unit (R240), with the cycles that its formulas give an expansion between on-chip memories (R262). -/
def Plan.marks (pl : Plan) (p : Push) (c : Col) (id : Nat) (b : Int) (far : Bool) : List PendBlk :=
  let mine := p.op != 2 && p.op != 4
  if !mine && !(p.pkg == 0 && p.targets.contains c) then []
  else
    ((List.range pl.blks.length).zip pl.blks).filterMap (fun x =>
      let due : Option Int := if far || !mine || p.op = 1 then none else some (b + x.1 + 4)
      let form : Option Int := if far then none else pl.x.map (fun y => b + y.masks.length + x.1 + 4)
      match x.2.dst with
      | .chip m off => some { id := id, mem := some m, blk := off / 64, far := far, due := due, place := none, form := form }
      | .acc off => some { id := id, mem := none, blk := off / 64, far := far, due := due, place := none, form := form }
      | .glob va =>
        if mine then some { id := id, mem := some .vault, blk := va / 64, far := far, due := none, place := pl.dstPl.getD x.1 none } else none
      | .none => none)
/-- Port cycles of the unit that the formulas of a command with a local source name (R95, R259, R262): the reads of its blocks, and the writes in
the unit, those of an expansion after its mask blocks. -/
def Plan.ports (pl : Plan) (p : Push) (b : Int) (far : Bool) : List (Port × Int × Nat) :=
  if p.op = 3 then []
  else
    let first : Int := match pl.x with
      | some x => x.masks.length
      | none => 0
    let rd := ((List.range pl.srcs.length).zip pl.srcs).filterMap (fun x => (x.2.port false).map (fun q => (q, b + (x.1 : Int), 1)))
    let wr := if far || 1 < p.op then [] else
      ((List.range pl.blks.length).zip pl.blks).filterMap (fun x => (x.2.dst.port true).map (fun q => (q, b + first + (x.1 : Int) + 4, 1)))
    rd ++ wr
/-- Port cycles of other columns and of the unit that the formula of block k of a put, multicast or get names from its push on (R238, R263,
R264); with a GLOBAL source, those that `arrs` shows to be known, and of a get from another package, which has its bound. -/
def reserveCopy (c : Col) (q : CopyCmd) (arrs : List Arr) : Act := fun s =>
  if q.pkg != 0 && q.op = 3 then Act.each (List.range q.blks.length) (fun k => reserveBlock c q.id k (q.start + (q.bound + k : Nat))) s
  else if q.pkg != 0 && q.op = 4 then []
  else
    Act.each (List.range q.blks.length) (fun k => fun s =>
      let src := (q.srcs.map (·.1)).getD k .none
      let f : Option Int := match arrs[k]? with
        | some a => a.form
        | none => none
      if q.op = 3 then
        Act.each q.targets (fun v => fun s =>
          let there := q.start + (k : Int) + (s.ow c v : Int)
          let raw := (q.blks.map (·.raw)).getD k .none
          let here := reserveBlock c q.id k (there + 4 + (s.ow v c : Int))
          match src.port false with
          | some p => Act.seq (onUnit v (fun u => u.takePort p there 1)) here s
          | none => if raw.isGlob then [] else here s) s
      else if q.far then (match f with
        | some f => reserveBlock c q.id k f s
        | none => [])
      else if q.op = 2 || q.op = 4 then reserveBlock c q.id k (q.start + (k : Int)) s
      else []) s

/-- What the early-read rule answers to the reads of a command, each at its request cycle (R240, R353). -/
def UnitSt.copyGate (u : UnitSt) (now : Int) (p : Push) (pl : Plan) (b : Int) : Gate :=
  if p.op = 3 then .ok
  else
    let gates := ((List.range pl.srcs.length).zip pl.srcs).map (fun x =>
      match x.2 with
      | .chip m off => u.gate now (some m) [off / 64] (b + (x.1 : Int))
      | .acc off => u.gate now none [off / 64] (b + (x.1 : Int))
      | .glob va => u.gate now (some .vault) [va / 64] (b + (x.1 : Int))
      | .none => .ok)
    gates.foldl (fun a g => match a with | .ok => g | _ => a) .ok

/-- The bound under which the unit's writes of a command count at the scopes of one package (R349): another package, or destinations all of which lie on loan;
of a put that is known once the target has translated its blocks. -/
def Push.wide (p : Push) (pl : Plan) : Bool :=
  let loan := fun (q : Option Place) => match q with
    | some q => q.isLoan
    | none => false
  p.pkg != 0 || (p.op != 4 && !pl.dstPl.isEmpty && pl.dstPl.all loan)
/-- Push a command (R256 to R264, R351). BLOCKS of a multicast counts each target's block (DESIGN CHOICE, log entry 78). -/
def State.pushCopy (s : State) (c : Col) (u : UnitSt) (x : Stream) (now : Int) (p : Push) : Attempt :=
  let b := max (now + 2) u.eng.cpyEnd
  let held := u.fifoFull .cpf || s.accessHeld u now b || !u.writesDone .pkg now (some x)
  match s.plan c u p with
  | .error e => { miss := if held then some .busy else none, fault := some e }
  | .ok pl =>
    let srcGlob := p.op != 3 && (tagOf ((u.ly p.ys).rowAddr p.src 0) == 0 || (p.op = 1 && tagOf p.tgt == 0))
    let far := srcGlob || p.op = 3
    let dstGlob := pl.blks.any (fun k => k.dst.isGlob) && p.pkg == 0
    let gate := u.copyGate now p pl b
    let id := s.nextId + 1
    let who := s.who c x (dieOf c)
    let writes := p.op = 2 || p.op = 4 || dstGlob
    let wide := p.wide pl
    let n := pl.blks.length * (if p.op = 2 then p.targets.length else 1)
    let far0 := if p.op = 3 then (tagOf ((u.ly p.ys).rowAddr p.src 0) == 0 && p.pkg == 0) else srcGlob
    let pend := if !far0 then 0 else if p.op = 3 then (pl.srcs.filter (fun l => l != .none)).length else (pl.srcPl.filter Option.isSome).length
    let cmd : CopyCmd := { id := id, seq := u.eng.pushed, op := p.op, who := who, start := b, m := pl.m, srcs := pl.srcs.zip (if p.op = 3 then List.replicate pl.srcs.length none else pl.srcAt), blks := pl.blks, dsts := pl.dstPl, targets := p.targets, pkg := p.pkg,
                           rtx := if far0 then id + 1 else 0, wtx := id + 2, far := far, bound := 16 * u.regs.netb.toNat, left := n, written := 0, stat := 0, lastW := now, lastAt := now, acks := [], posted := false, x := pl.x }
    let rt : Txn := { id := id + 1, who := who, kind := .copy id, arrs := if p.op = 3 then openArrs b pl.srcs [] else s.copyArrs c b false pl.srcs pl.srcAt }
    let dl := pl.blks.map (·.dst)
    let wt : Txn := { id := id + 2, who := who, kind := .copyOut id,
                      arrs := if far || p.op = 4 then openArrs b dl pl.dstPl else s.copyArrs c (b + (pl.x.map (·.masks.length)).getD 0) true dl pl.dstPl }
    Attempt.translated
    { miss := if held then some .busy
        else if 512 < s.arrivals c + pend then some .busy
        else match gate with
          | .busy => some .busy
          | _ => none
      fault := match gate with
        | .early k => some (earlyFault (BitVec.ofNat 64 (64 * k)))
        | _ => none
      unit := fun u =>
        let u := u.reserve .cpf id
        let u := u.trackFar id x now true false false
        let u := if writes then u.trackFar (id + 2) x now false false wide (p.pkg == 0xFFFFF) else u
        let u := (pl.ports p b far).foldl (fun u r => u.takePort r.1 r.2.1 r.2.2) u
        { u with ord := { u.ord with pblks := u.ord.pblks ++ pl.marks p c id b far }
                 eng := { u.eng with pushed := u.eng.pushed + 1, cpyEnd := b + pl.m, cmds := u.eng.cmds ++ [cmd] } }
      more := Act.all [fun s => [.nextId (s.nextId + 3)], countPages c pl.globs, askPeers (p.pkg :: loanPkgs (pl.globs.map (·.2))),
        fun s => [.txns (s.txns ++ (if far0 then [rt] else []) ++ (if dstGlob then [wt] else []))],
        drawLoans rt.arrs, reserveCopy c cmd (if far0 && p.op != 1 then rt.arrs else []), reserveExpand c id,
        onUnit c (fun u => (wt.arrs.zip dl).foldl (fun u x => match x.1.form with
          | some f => x.2.markForm id f u
          | none => u) u),
        Act.when (n == 0) (eventAt c (now + 1) (.copyRetirement c id)),
        Act.when (n != 0 || p.op == 1) (eventAt c b (.copyBlock c id 0))] } c u (pl.globs.map (·.1))

/-- What an instruction of L or S pushes: its records and addresses, and the data of its scalar register, a target word for GET and PUT (R408). -/
def State.pushOf (s : State) (c : Col) (u : UnitSt) (x : Stream) (op : Fin 5) (k : Cp) (tg : Option (Fin 64)) : Push :=
  { op := op, ys := k.ys, yd := k.yd, src := u.areg (x == .s) k.sa, dst := u.areg (x == .s) k.da,
    tgt := match tg with | some t => (if op = 3 || op = 4 then s.homeWord c (u.sd t) else u.sd t) | none => 0 }
/-- The push of an instruction of L or S. -/
def copyPush (x : Stream) (h : Hdr) (op : Fin 5) (k : Cp) (tg : Option (Fin 64)) : Act :=
  issueAs x h.sync 2 (fun s c u now => s.pushCopy c u x now (s.pushOf c u x op k tg))
/-- CPY in L (R257). -/
def execCpyL (h : Hdr) (k : Cp) (s : State) : Out := done (copyPush .l h 0 k none) s
/-- CPYX (R262). -/
def execCpyx (h : Hdr) (k : Cp) (tg : Fin 64) (s : State) : Out := done (copyPush .l h 1 k (some tg)) s
/-- CPYM in L (R263). -/
def execCpymL (h : Hdr) (k : Cp) (tg : Fin 64) (s : State) : Out := done (copyPush .l h 2 k (some tg)) s
/-- GET (R264). -/
def execGet (h : Hdr) (k : Cp) (tg : Fin 64) (s : State) : Out := done (copyPush .l h 3 k (some tg)) s
/-- PUT (R264). -/
def execPut (h : Hdr) (k : Cp) (tg : Fin 64) (s : State) : Out := done (copyPush .s h 4 k (some tg)) s
/-- CPY in S (R257). -/
def execCpyS (h : Hdr) (k : Cp) (s : State) : Out := done (copyPush .s h 0 k none) s
/-- CPYM in S (R263). -/
def execCpymS (h : Hdr) (k : Cp) (tg : Fin 64) (s : State) : Out := done (copyPush .s h 2 k (some tg)) s

/-! ## Commands under way -/

def UnitSt.cmd? (u : UnitSt) (id : Nat) : Option CopyCmd := u.eng.cmds.find? (fun q => q.id == id)
def UnitSt.onCmd (u : UnitSt) (id : Nat) (f : CopyCmd → CopyCmd) : UnitSt :=
  { u with eng := { u.eng with cmds := u.eng.cmds.map (fun q => if q.id == id then f q else q) } }
/-- A pending block of a command has a written cycle (R240). -/
def UnitSt.markDue (u : UnitSt) (id : Nat) (m : Option Mem) (blk : Nat) (x : Int) : UnitSt :=
  { u with ord := { u.ord with pblks := u.ord.pblks.map (fun p => if p.id == id && p.mem == m && p.blk == blk then { p with due := some x } else p) } }
def CpLoc.unmark (l : CpLoc) (id : Nat) (x : Int) (u : UnitSt) : UnitSt :=
  match l with
  | .chip m off => u.markDue id (some m) (off / 64) x
  | .acc off => u.markDue id Option.none (off / 64) x
  | .glob va => u.markDue id (some .vault) (va / 64) x
  | .none => u

/-- One destination block of a command is settled: written on cycle w, or not, and acknowledged on cycle a (R260, R335). -/
def settle (c : Col) (id : Nat) (wrote : Bool) (w a : Int) : Act := fun s =>
  match (s.unit c).cmd? id with
  | none => []
  | some q =>
    if q.left == 0 then [] else
    let q' := { q with left := q.left - 1, written := q.written + boolCode wrote, lastW := max q.lastW w, lastAt := max q.lastAt a }
    Act.all [onUnit c (fun u => u.onCmd id (fun _ => q')),
      Act.when (q'.left == 0) (Act.all [
        onUnit c (fun u => (u.onOutst id (fun o => { o with written := some q'.lastW })).onOutst q.wtx (fun o => { o with written := some q'.lastW })),
        eventAt c q'.lastAt (.writeAcknowledgement c q.wtx),
        eventAt c (q'.lastAt + 1) (.copyRetirement c id)])] s
/-- The answer of a target's buffer reaches the issuer on cycle `a`: an acknowledgement, or what became of the block; one that reaches a die which has reset since is
dropped and counted (R350). -/
def answerPut (who : Who) (id : Nat) (a : Int) : Act := fun s =>
  if s.ownOk who then onUnit who.col (fun u => u.onCmd id (fun q => { q with acks := q.acks.filter (fun x => decide (s.now who.col < x)) ++ [a] })) s
  else dropResponse (dieOf who.col) s
/-- A command that has posted its word leaves the engine. -/
def UnitSt.endCmd (u : UnitSt) (id : Nat) : UnitSt :=
  let u := u.dropOutst id
  { u with eng := { u.eng with cmds := u.eng.cmds.filter (fun q => q.id != id) }
           ord := { u.ord with pblks := u.ord.pblks.filter (fun p => p.id != id) } }
/-- An expansion has still to read some of its pieces (R262). -/
def CopyCmd.reading (q : CopyCmd) : Bool :=
  match q.x with
  | some x => decide (x.got.length < q.srcs.length)
  | none => false
/-- A block for a GLOBAL destination that is not written: its transaction counts it as done. -/
def failOut (q : CopyCmd) (k : Nat) (x : Int) (e : FaultRec) : Act :=
  Act.seq (onArr q.wtx k (fun a => { a with at_ := some x, term := x, del := true, bad := some e })) (closeWrite q.wtx)
/-- The fault that a command meets at a block is deferred to the stream that pushed it (R239). -/
def copyFault (q : CopyCmd) (at_ : Int) (e : FaultRec) : Act := eventDue q.who.col at_ (.deferredFaultReport q.who.col q.who.stream e)

/-- The write of a block to GLOBAL: a request to its place, sent at `issue` and counted from `req`; its formula counts from `from_` (R259, R264). Blocks on loan are
written in block order (R353), and count as such from here on (R349). -/
def sendOut (q : CopyCmd) (k : Nat) (req : Col) (issue from_ : Int) (extra : Nat) (p : Place) (va : Nat) (w : BlkWrite) : Act := fun s =>
  let t := s.pathTerms req p
  let m := s.term req p from_ 0 extra true
  let known := match s.txns.find? (fun t => t.id == q.wtx) with
    | some t => (t.arrs.map (·.form)).getD k none
    | none => none
  let c := q.who.col
  if p.isLoan then
    let f := max issue (known.getD m)
    let arrs := ((s.txns.find? (fun t => t.id == q.wtx)).map (·.arrs)).getD []
    let x := (arrs.take k).foldl (fun m a => if a.loan.isSome then max m (a.at_.getD m) else m) (s.loanTurn c p.extBlk true (s.loanAt 0 f))
    let ret : Int := (t.ret + extra : Nat)
    let all := ((List.range arrs.length).zip arrs).all (fun y => y.1 == k || y.2.loan.isSome)
    Act.all [Act.when all (onUnit c (fun u => u.onOutst q.wtx (fun o => { o with wide := true }))), onArr q.wtx k (fun a => { a with loan := some p.extBlk, form := some f, at_ := some x, term := x + ret, del := true }),
      onUnit c (fun u => (u.later [{ at_ := x, stream := q.who.stream, eff := .loan p.extBlk va (!p.isCopy) (p.hcol, p.hpa) req w q.wtx k ret }]).markDue q.id (some .vault) (va / 64) x),
      draw 1 (fun _ => Act.none), closeWrite q.wtx] s
  else
    let form := match known with
      | some f => some f
      | none => if t.loan then some m else t.fixed.map (fun y => m + (y : Int))
    Act.seq (onArr q.wtx k (fun a => { a with form := form, term := if known.isSome then a.term else m }))
      (sendOutReq req p.col issue t.walk (s.farReq q.wtx q.wtx k { q.who with issue := q.start + (k : Int) } req req p (BitVec.ofNat 64 va) issue extra (form.getD issue) (.write w))) s
/-- A block, or a get's request, for a target: it has the next identity, and the port cycle that its formula names (R238, R263, R264). -/
def addXfer (q : CopyCmd) (k : Nat) (v : Col) (l : CpLoc) (b : Blk) (at_ : Int) (form : Option Int) (get : Bool) (go : Nat → Act) : Act := fun s =>
  let c := q.who.col
  fresh (fun id =>
    let x : Xfer := { tx := id, k := k, arrive := at_, form := form, cmd := q.id, from_ := c, dest := v, loc := l, blk := b, job := s.jobOf c, who := q.who,
                      gen := ((s.dies[dieOf c]).gen)[dieOf v] }
    Act.all [onWork (fun w => { w with xfers := w.xfers ++ [x] }),
      (match l.port (!get) with
        | some p => onUnit v (fun u => u.takePort p at_ 1)
        | none => Act.none),
      go id]) s
/-- A get's request sets out for its target; it carries no block (R400). -/
def sendGet (q : CopyCmd) (k : Nat) (v : Col) (l : CpLoc) (at_ : Int) (form : Option Int) : Act :=
  addXfer q k v l .clear at_ form true (fun id => eventAt q.who.col at_ (.incomingGet id k))
/-- A block sets out from the unit, on the present cycle, for some targets of one die, which it reaches on cycle `at_`: over a link as one copy,
which the far bridge replicates (R401, R402). -/
def sendPut (q : CopyCmd) (k : Nat) (l : CpLoc) (b : Blk) (d : Die) (vs : List Col) (at_ : Col → Int) : Act := fun s =>
  let c := q.who.col
  if vs.isEmpty then []
  else if d = dieOf c then Act.each vs (fun v => addXfer q k v l b (at_ v) (some (at_ v)) false (fun id => eventAt c (at_ v) (.incomingPut id k))) s
  else
    let ready := s.now c + (toBridge c d : Int)
    let evs := (List.range vs.length).zip vs |>.map (fun x => (at_ x.2 - ready, Ev.incomingPut (s.nextId + 1 + x.1) k))
    Act.seq (Act.each vs (fun v => addXfer q k v l b (at_ v) (some (at_ v)) false (fun _ => Act.none)))
      (sendBeat { src := dieOf c, dst := d, ready := ready, issue := q.start + (k : Int), col := c, go := .events evs }) s

/-- A block is written in the unit, or its write to GLOBAL starts, from the present cycle (R259, R264). -/
def localBlk (q : CopyCmd) (k : Nat) (w : BlkWrite) : Act := fun s =>
  let c := q.who.col
  let now := s.now c
  let l := (q.blks.map (·.dst)).getD k .none
  let lag : Int := if q.far then 1 else 4
  let t := now + lag
  match l with
  | .glob va =>
    match q.dsts.getD k none with
    | some p => let t := if q.far then now + 1 else now; sendOut q k c t t 0 p va w s
    | none => []
  | _ =>
    match accFault l (w.hd.getD .raw) with
    | some e => Act.all [copyFault q t e, onUnit c (l.unmark q.id t), settle c q.id false t t] s
    | none =>
      Act.all [onUnit c (fun u => l.unmark q.id t (u.later ((locEff l w).map (fun e => { at_ := t, stream := q.who.stream, eff := e })))),
        (match l.port true with
          | some p => onUnit c (fun u => u.takePort p t 1)
          | none => Act.none),
        settle c q.id true t t] s
/-- Block k of a command is there, on the present cycle: it goes to its destination (R259, R263, R264). -/
def sendBlk (q : CopyCmd) (k : Nat) (b : Blk) : Act := fun s =>
  let c := q.who.col
  let now := s.now c
  let l := (q.blks.map (·.dst)).getD k .none
  let v := q.targets.getD 0 0
  if q.op = 2 then
    Act.each ([0, 1, 2, 3] : List Die) (fun d => sendPut q k l b d (q.targets.filter (fun v => dieOf v = d)) (fun v => now + (s.ow c v : Int) + 1)) s
  else if q.op = 4 then
    if q.pkg != 0 then
      let t := now + (Config.fabricCycles s.free : Int) + 1
      Act.all [draw 1 (fun _ => Act.none), report (.hostPut q.pkg (v.val * 2 ^ 64 + l.addr.toNat) b), settle c q.id true t t, answerPut q.who q.id t] s
    else sendPut q k l b (dieOf v) [v] (fun v => now + (s.ow c v : Int) + (if l.isGlob then 0 else 1)) s
  else localBlk q k b.whole s
/-- A block that is not written because of a fault at its source (R239, R257). -/
def skipBlk (q : CopyCmd) (k : Nat) (x : Int) (e : FaultRec) : Act :=
  let c := q.who.col
  let l := (q.blks.map (·.dst)).getD k .none
  if l.isGlob && q.pkg == 0 then failOut q k x e
  else Act.seq (onUnit c (l.unmark q.id x)) (Act.each (List.range (if q.op = 2 then q.targets.length else 1)) (fun _ => settle c q.id false x x))

/-! ## Sparse expansion (R262) -/

def CpX.piece (x : CpX) (i : Nat) : Option (Option Blk) := (x.got.find? (fun y => y.1 == i)).map (·.2)
/-- Ones among the first n bits of the mask's blocks. -/
def CpX.ones (x : CpX) : Nat → Nat → Nat
  | 0, _ => 0
  | j + 1, n =>
    CpX.ones x j n + match x.piece j with
      | some (some b) => ((List.range (min 512 (n - 512 * j))).filter (fun i => b.pay.getLsbD i)).length
      | _ => 0
/-- What a destination block is made of: the pieces it needs, and its elements by source element, `none` for fill. -/
def CpX.elems (x : CpX) (i : Nat) : List (Option Nat) :=
  let per := 512 / x.w
  let r := i / max 1 x.drowb
  let j := i % max 1 x.drowb
  (List.range (min per (x.dcols - j * per))).map (fun e =>
    let k := r * x.dcols + j * per + e
    let bit := match x.piece (k / 512) with
      | some (some b) => flag (b.pay.toNat / 2 ^ (k % 512))
      | _ => false
    let rank := x.ones (k / 512 + 1) k
    if bit && rank < x.n then some rank else none)
/-- The source block of a source element, as a piece, and its place in the block. -/
def CpX.at_ (x : CpX) (e : Nat) : Nat × Nat :=
  let per := 512 / x.w
  (x.masks.length + e / x.cols * x.rowb + e % x.cols / per, e % x.cols % per)
/-- Mask pieces that destination block i needs. -/
def CpX.maskNeed (x : CpX) (i : Nat) : List Nat :=
  let per := 512 / x.w
  let last := i / max 1 x.drowb * x.dcols + min x.dcols (i % max 1 x.drowb * per + per) - 1
  List.range (last / 512 + 1)
/-- Destination block i, once everything that it needs has been read; `some none` where one of its pieces faulted. It takes the header of the source, and where
the row ends inside it the bits past the row keep what stands there (R262, R66; log entry 63). -/
def CpX.block (x : CpX) (i : Nat) : Option (Option BlkWrite) :=
  let ms := x.maskNeed i
  if ms.any (fun j => (x.piece j).isNone) then none
  else
    let es := x.elems i
    let need := x.masks.length :: es.filterMap (fun e => e.map (fun e => (x.at_ e).1))
    if need.any (fun j => (x.piece j).isNone) then none
    else if (ms ++ need).any (fun j => (x.piece j) == some none) then some none
    else
      let vals := es.map (fun e => match e with
        | none => x.fill
        | some e => match x.piece (x.at_ e).1 with
          | some (some b) => elemCode x.w b.pay (x.at_ e).2
          | _ => 0)
      let hd := match x.piece x.masks.length with
        | some (some b) => b.hd
        | _ => .raw
      some (some { mask := BitVec.ofNat 512 (2 ^ (x.w * es.length) - 1), data := BitVec.ofNat 512 (packNat x.w vals), hd := some hd, need := none })
/-- A piece as it is read, and the fault that it raises: a mask block that is not SPARSE or poisoned, a source block whose header is not
that of the others (R262). -/
def CpX.judge (x : CpX) (i : Nat) (b : Blk) (addr : Dword) : Option FaultRec :=
  if i < x.masks.length then
    if b.hd.fmt != 0x22 then some (formatFault 3 addr)
    else if b.poisoned then some (poisonFault addr) else none
  else if x.got.any (fun y => x.masks.length ≤ y.1 && match y.2 with | some z => z.hd != b.hd | none => false) then some (formatFault 4 addr)
  else none

/-! ## Blocks on their cycles -/

/-- The next destination block of an expansion goes out, one a cycle, once the pieces up to that block's place in the command are there, whatever the mask
holds (R259, R262). -/
def pump (c : Col) (id : Nat) : Act := fun s =>
  let now := s.now c
  match (s.unit c).cmd? id with
  | none => []
  | some q =>
    match q.x with
    | none => []
    | some x =>
      if q.blks.length ≤ x.next || now ≤ x.last || now < q.start + (x.masks.length + x.next : Nat) then []
      else
        match (if (List.range (min (x.masks.length + x.next + 1) q.srcs.length)).any (fun j => (x.piece j).isNone) then none else x.block x.next) with
        | none => []
        | some w =>
          Act.all [onUnit c (fun u => u.onCmd id (fun q => { q with x := some { x with next := x.next + 1, last := now } })),
            (match w with
              | some w => localBlk q x.next w
              | none => skipBlk q x.next now (formatFault 3 0)),
            Act.when (decide (x.next + 1 < q.blks.length)) (eventAt c (now + 1) (.copyBlock c id q.m))] s
/-- Piece i of a command's source is there, as it was read, or with the fault that it met; the report of a fault takes `lag` cycles more (R239). -/
def copyGot (c : Col) (id i : Nat) (raw : Blk) (bad : Option FaultRec) (lag : Int := 0) : Act := fun s =>
  match (s.unit c).cmd? id with
  | none => []
  | some q =>
    let now := s.now c
    match q.x with
    | none =>
      let k := q.blks.getD i { src := .none, dst := .none, mask := 0, fill := 0, hd := none }
      match bad with
      | some e => skipBlk q i (now + lag) e s
      | none => sendBlk q i (k.out raw) s
    | some x =>
      let b := if i < x.masks.length then raw else (x.srcs.getD (i - x.masks.length) { src := .none, dst := .none, mask := 0, fill := 0, hd := none }).out raw
      let e := x.judge i b ((q.srcs.map (·.1.addr)).getD i 0)
      let x' := { x with got := x.got ++ [(i, if bad.isSome || e.isSome then none else some b)] }
      let until_ := if bad.isSome || e.isSome then max q.lastAt (now + lag) else q.lastAt
      Act.all [onUnit c (fun u => u.onCmd id (fun q => { q with x := some x', lastAt := until_ })),
        (match bad, e with
          | none, some e => copyFault q (now + lag) e
          | _, _ => Act.none),
        if q.posted then Act.when (!({ q with x := some x' } : CopyCmd).reading) (Act.seq (onUnit c (fun u => u.endCmd id)) (dropTxn q.rtx)) else pump c id] s

/-- What a read from another package returns, and when it does: free values (log entry 22). -/
def freeBlk (n : Nat) : Blk :=
  { hd := { fmt := Config.fabricByte n, scl := Config.fabricByte (n + 1) }
    pay := BitVec.ofNat 512 (packNat 8 ((List.range 64).map (fun i => (Config.fabricByte (n + 2 + i)).toNat))) }
/-- Piece i of a command's source is requested or read on its request cycle (R259, R264). One in another package is back on its formula cycle, or later by a free
count (DESIGN CHOICE, log entry 22). -/
def readPiece (c : Col) (q : CopyCmd) (i : Nat) : Act := fun s =>
  let now := s.now c
  match q.srcs[i]? with
  | none => pump c q.id s
  | some (l, p) =>
    if q.op = 3 then
      let v := q.targets.getD 0 0
      if q.pkg != 0 then
        let f := q.start + (q.bound + i : Nat)
        draw 66 (fun n => fresh (fun id =>
          let t := max f (now + (Config.fabricCycles n : Int))
          let x : Xfer := { tx := id, k := i, arrive := t, form := some f, cmd := q.id, from_ := c, dest := v, loc := l, blk := freeBlk n, job := s.jobOf c, who := q.who, gen := 0 }
          Act.seq (onWork (fun w => { w with xfers := w.xfers ++ [x] })) (eventAt c t (.getResponse id i)))) s
      else
        let there := now + (s.ow c v : Int)
        let raw := (q.blks.map (·.raw)).getD i .none
        let at_ := if l == .none && raw.isGlob then raw else l
        sendGet q i v at_ there (if at_.isGlob then none else some (there + 4 + (s.ow v c : Int))) s
    else
      match l, p with
      | .glob va, some p =>
        if p.isLoan then []
        else sendReq p.col (s.farReq q.rtx q.rtx i { q.who with issue := now } c c p (BitVec.ofNat 64 va) now 0 now .read) s
      | .none, some _ => []
      | _, _ => copyGot c q.id i (s.locBlk c l) none 0 s
/-- COPY_BLOCK (R259): block k of a command is requested, and the next one is due a cycle later. -/
def execCopyBlock (s : State) : Out :=
  match s.ev with
  | .copyBlock c id k =>
    match (s.unit c).cmd? id with
    | none => .next s
    | some q =>
      done (Act.seq (if k < q.m then readPiece c q k else pump c id)
        (Act.when (decide (k + 1 < q.m)) (eventAt c (s.now c + 1) (.copyBlock c id (k + 1))))) s
  | _ => .next s
/-- COPY_RETIREMENT (R260): the word is posted; an expansion goes on to read and judge what is left of its source (R262; log entry 63). -/
def execCopyRetirement (s : State) : Out :=
  match s.ev with
  | .copyRetirement c id =>
    let u := s.unit c
    match u.cmd? id with
    | none => .next s
    | some q =>
      let n := match s.txns.find? (fun t => t.id == q.wtx) with
        | some t => (t.arrs.filter (fun a => a.bad.isNone)).length
        | none => q.written
      let w := BitVec.ofNat 64 (q.seq.toNat * 2 ^ 32 + n % 2 ^ 16 * 2 ^ 16 + q.stat.val * 2 ^ 8 + q.op.val)
      if q.posted then (if q.reading then .next s else done (Act.seq (onUnit c (fun u => u.endCmd id)) (dropTxn q.rtx)) s)
      else done (Act.all [onUnit c (fun u =>
          let u := if u.ctl.dead then u.unreserve .cpf id else u.post .cpf id w
          let u := u.dropOutst q.wtx
          if q.reading then u.onCmd id (fun q => { q with posted := true }) else u.endCmd id),
        Act.when (!q.reading) (dropTxn q.rtx), dropTxn q.wtx, hearPeers (q.pkg :: loanPkgs (q.srcs.map (·.2) ++ q.dsts))]) s
  | _ => .next s

/-- A write whose beat has served it is performed; a copy's block is written then, and the transaction may close (R131, R240, R259). -/
def serveWrite (o : Col) (r : Req) (w : BlkWrite) : Act := fun s =>
  let c := r.who.col
  let mark := match s.txns.find? (fun t => t.id == r.tx) with
    | some t => match t.kind with
      | .copyOut cmd => onUnit c (fun u => u.markDue cmd (some .vault) (offOf r.va / 64) (s.now c))
      | _ => Act.none
    | none => Act.none
  Act.all [performWrite o r w, mark, closeWrite r.tx] s
/-- WRITE_ACKNOWLEDGEMENT (R131): the last acknowledgement of an access's writes. -/
def execWriteAcknowledgement (s : State) : Out :=
  match s.ev with
  | .writeAcknowledgement c id =>
    match s.txns.find? (fun t => t.id == id) with
    | none => done (onUnit c (fun u => u.dropOutst id)) s
    | some t =>
      match t.kind with
      | .copyOut cmd =>
        let live := t.arrs.any (fun a => match a.bad with
          | some e => e.cause == BitVec.ofNat 8 Cause.barrier.code
          | none => false)
        let last := t.arrs.foldl (fun m a => max m (a.at_.getD 0)) t.who.issue
        done (Act.all [onUnit c (fun u => ((u.dropOutst id).onOutst cmd (fun o => { o with written := some last })).onCmd cmd (fun q =>
            if live && q.stat = 0 then { q with stat := 1 } else q)),
          fun s => eventAt c (max (s.now c) ((((s.unit c).cmd? cmd).map (·.lastAt)).getD (s.now c)) + 1) (.copyRetirement c cmd) s]) s
      | _ => done (Act.all [onUnit c (fun u => u.dropOutst id), dropTxn id, hearPeers (t.arrs.filterMap (fun a => a.loan.map (· / 2 ^ 46)))]) s
  | _ => .next s

/-! ## At a target (R238, R263, R264, R350) -/

def dropXfer (tx : Nat) : Act := onWork (fun w => { w with xfers := w.xfers.filter (fun x => x.tx != tx) })
def UnitSt.incTaken (u : UnitSt) (p : Port) (x : Int) : Bool := u.eng.inc.contains (p, x)
def UnitSt.takeInc (u : UnitSt) (p : Port) (x : Int) : UnitSt :=
  { u with eng := { u.eng with inc := u.eng.inc.filter (fun r => x - 64 < r.2) ++ [(p, x)] } }
/-- A transfer whose command is gone, since its issuer's die has reset or the command was settled: it reaches its target all the same (R350). -/
def Xfer.orphan (x : Xfer) : CopyCmd :=
  { id := 0, seq := 0, op := 4, who := x.who, start := x.arrive, m := 0, srcs := [], blks := [], dsts := [], targets := [x.dest], pkg := 0, rtx := 0,
    wtx := 0, far := false, bound := 0, left := 0, written := 0, stat := 3, lastW := 0, lastAt := 0, acks := [], posted := false, x := none }
/-- The part of the target: the transfer with its command, and whether the die has not reset since the request was made. -/
def State.arrived (s : State) (tx : Nat) : Option (Xfer × CopyCmd) :=
  match s.work.xfers.find? (fun x => x.tx == tx) with
  | none => none
  | some x => some (x, ((s.unit x.from_).cmd? x.cmd).getD x.orphan)
def State.genOk (s : State) (x : Xfer) : Bool := x.gen == ((s.dies[dieOf x.dest]).gen)[dieOf x.dest]
/-- A block that one target does not take: it is settled for that target alone (R260, R263). -/
def dropBlk (x : Xfer) (q : CopyCmd) (at_ : Int) (e : FaultRec) : Act :=
  let c := q.who.col
  let l := (q.blks.map (·.dst)).getD x.k .none
  if l.isGlob && q.pkg == 0 then failOut q x.k at_ e
  else Act.seq (Act.when (q.op != 2 || x.dest == c) (onUnit c (l.unmark q.id at_))) (Act.seq (settle c q.id false at_ at_) (Act.when (q.op != 3) (answerPut x.who q.id at_)))
/-- No unit of the issuer's job is at the target: STAT 2, and one XLATE of kind NOMAP (R264). -/
def dropAtTarget (x : Xfer) (q : CopyCmd) : Act := fun s =>
  let back := s.now x.from_ + (s.ow x.dest x.from_ : Int)
  let e := flt .xlate 1 x.loc.addr 0 (if q.op = 3 then 0 else 1)
  Act.all [dropXfer x.tx, Act.when (q.stat != 2) (copyFault q back e), onUnit x.from_ (fun u => u.onCmd q.id (fun q => { q with stat := 2 })),
    dropBlk x q back e] s
/-- A vault block lies on a page that this package lends, until its recall (R415). -/
def State.lent (s : State) (c : Col) (blk : Nat) : Bool :=
  s.work.loans.any (fun l => l.col == c && l.recalled.isNone && decide (l.page ≤ blk / 64) && decide (blk / 64 < l.page + l.pages))
/-- What a borrower's write makes of a lent block: some of its payload bytes, and its header if the write gives one. -/
def loanBytes (bytes : List (Fin 64 × Byte)) (head : Option (Byte × Byte)) : BlkWrite :=
  { bytes.foldl (fun (w : BlkWrite) b => { w with mask := w.mask ||| (bytesWrite b.1.val 1 0).mask
                                                  data := w.data &&& ~~~(bytesWrite b.1.val 1 0).mask ||| (bytesWrite b.1.val 1 b.2.toNat).data })
      { mask := 0, data := 0, hd := none, need := none } with
    hd := head.map (fun h => { fmt := h.1, scl := h.2 }) }
/-- INCOMING_PUT (R263, R264): a block of a put or multicast reaches its target; a row of the accumulator store takes its place among the row writes of the
cycle (R30). A borrower's write to a page that this package lends is served by the lender's keeper (R415). -/
def execIncomingPut (s : State) : Out :=
  match s.ev with
  | .incomingPut tx k =>
    match s.arrived tx with
    | none => done (dropXfer tx) s
    | some (x, q) =>
      let c := x.from_
      let v := x.dest
      let now := s.now c
      let back := (s.ow v c : Int)
      if !s.genOk x then done (dropXfer tx) s
      else
        match x.loc with
        | .glob va =>
          match s.targetMaps x.job c v with
          | none => done (dropAtTarget x q) s
          | some m => match translate s.pkg.dielist m m.current va 1 with
          | .error e => done (Act.all [dropXfer tx, copyFault q (now + back) e, failOut q k (now + back) e]) s
          | .ok p => done (Act.all [dropXfer tx, Act.when (s.jobAt x.job c v) (countPages v [(BitVec.ofNat 64 va, some p)]), (sendOut q k v now (x.form.getD now) (s.ow v c) p va x.blk.whole)]) s
        | l =>
          let port := (l.port true).getD .spW
          if !s.jobAt x.job c v then done (dropAtTarget x q) s
          else if (s.unit v).incTaken port now then
            done (Act.seq (onUnit v (fun u => u.takePort port (now + 1) 1)) (eventAt c (now + 1) (.incomingPut tx k))) s
          else
            match accFault l x.blk.hd with
            | some e => done (Act.all [dropXfer tx, copyFault q (now + back) e, onUnit c (fun u => if c == v then l.unmark q.id now u else u), settle c q.id false now (now + back), answerPut x.who q.id (now + back)]) s
            | none =>
              done (Act.all [dropXfer tx, onUnit v (fun u => u.takeInc port now),
                Act.each (locEff l x.blk.whole) (fun e => match e with
                  | .row .. => onUnit v (fun u => u.later [{ at_ := s.now v, stream := q.who.stream, eff := e }])
                  | e => landEff v { at_ := now, stream := q.who.stream, eff := e }),
                onUnit c (fun u => if c == v then l.unmark q.id now u else u), settle c q.id true now (now + back), answerPut x.who q.id (now + back)]) s
  | .loanWrite c blk bytes head => done (Act.when (s.lent c blk) (fun _ => [.mem c .vault [(blk, loanBytes bytes head)]])) s
  | _ => .next s
/-- Block k of a get from GLOBAL as the target's map places it when its request arrives: its place, its run, its formula cycle without the wait, and that cycle once
it is known, the run's wait being that of its first beat, from issue b with n := m (R131, R264; of a block that clipping leaves unread, log entry 26). -/
def State.getBlk (s : State) (q : CopyCmd) (m : MapSt) (k : Nat) : Option (Place × Nat × Int × Option Int) :=
  let c := q.who.col
  let raws := q.blks.map (·.raw)
  let ps := s.copyPlaces { s.unit c with maps := m } raws (q.blks.map (fun b => match b.src with
    | .glob va => (translate s.pkg.dielist m m.current va 0).toOption
    | _ => none))
  let ix := runs ((raws.zip ps).map (fun x => { va := x.1.addr, place := x.2 })) 0 none
  let g := (ix.getD k (k, 0)).1
  let mine := (List.range q.blks.length).filter (fun i => (ix.getD i (i, 0)).1 == g)
  let arrs := ((s.txns.find? (fun t => t.id == q.rtx)).map (·.arrs)).getD []
  let wait := mine.findSome? (fun i => (arrs[i]?).bind (fun a => if a.grp == g && i != k then a.form.map (fun f => f - a.term) else none))
  let read := mine.any (fun i => (q.blks.map (·.src)).getD i .none != .none)
  (ps.getD k none).map (fun p =>
    let t := s.pathTerms c p
    let f := s.term c p (q.start + (g : Int)) (k - g) 0 false
    (p, g, f, if t.loan then some f else match t.fixed with
      | some w => some (f + (w : Int))
      | none => if read then wait.map (fun w => f + w) else some f))
/-- INCOMING_GET (R264): a get's request reaches its target, where its address is interpreted. A borrower's read of a page that this package lends is answered
from the vault (R415). -/
def execIncomingGet (s : State) : Out :=
  match s.ev with
  | .incomingGet tx k =>
    match s.arrived tx with
    | none => done (dropXfer tx) s
    | some (x, q) =>
      let c := x.from_
      let v := x.dest
      let now := s.now c
      let back := (s.ow v c : Int)
      let answer := fun (b : Blk) => Act.seq (onWork (fun w => { w with xfers := w.xfers.map (fun (y : Xfer) => if y.tx == tx then { y with blk := b } else y) }))
        (if dieOf v = dieOf c then eventAt c (now + 4 + back) (.getResponse tx k)
         else sendBeat { src := dieOf v, dst := dieOf c, ready := now + 4 + (toBridge v (dieOf c) : Int), issue := q.start + (k : Int), col := c,
                         go := .events [(back - (toBridge v (dieOf c) : Int), .getResponse tx k)] })
      if !s.genOk x then done (dropXfer tx) s
      else
        let unread : Bool := match q.blks[k]? with
          | some b => b.src == .none
          | none => false
        match x.loc with
        | .none => done (answer .clear) s
        | .glob va =>
          if unread then
            match (s.targetMaps x.job c v).bind (fun m => s.getBlk q m k) with
            | none => done (answer .clear) s
            | some (p, g, f, form) =>
              done (Act.all [dropXfer tx, onArr q.rtx k (fun a => { a with term := f, grp := g, form := form, at_ := some now, skip := true, ret := (s.pathTerms c p).ret }),
                (match form with
                  | some f => reserveBlock c q.id k f
                  | none => Act.none)]) s
          else match s.targetMaps x.job c v with
          | none => done (Act.seq (onArr q.rtx k (fun a => { a with del := true })) (dropAtTarget x q)) s
          | some m => match translate s.pkg.dielist m m.current va 0 with
          | .error e =>
            done (Act.all [dropXfer tx, copyFault q (now + back) e, onArr q.rtx k (fun a => { a with del := true }), skipBlk q k (now + back) e]) s
          | .ok p =>
            let t := s.pathTerms c p
            let b := s.getBlk q m k
            let f := (b.map (·.2.2.1)).getD now
            let form := b.bind (·.2.2.2)
            done (Act.all [dropXfer tx, Act.when (s.jobAt x.job c v) (countPages v [(BitVec.ofNat 64 va, some p)]),
              onArr q.rtx k (fun a => { a with term := f, grp := (b.map (·.2.1)).getD k, form := form, loan := if p.isLoan then some p.extBlk else none,
                                               at_ := if p.isLoan then some (s.loanTurn c p.extBlk false (s.loanAt 0 f)) else none,
                                               ret := t.ret }),
              (match form with
                | some f => reserveBlock c q.id k f
                | none => Act.none),
              if p.isLoan then draw 1 (fun _ => Act.none)
              else sendReq p.col (s.farReq q.rtx q.rtx k { q.who with issue := q.start + (k : Int) } c c p (BitVec.ofNat 64 va) (q.start + (k : Int)) 0 now .read)]) s
        | l =>
          let port := (l.port false).getD .spR
          if !s.jobAt x.job c v then done (Act.seq (onArr q.rtx k (fun a => { a with del := true })) (dropAtTarget x q)) s
          else if (s.unit v).incTaken port now then
            done (Act.seq (onUnit v (fun u => u.takePort port (now + 1) 1)) (eventAt c (now + 1) (.incomingGet tx k))) s
          else done (Act.seq (onUnit v (fun u => u.takeInc port now)) (answer (s.locBlk v l))) s
  | .loanRead c blk => done (Act.when (s.lent c blk) (report (.loanRead c blk ((s.mem c .vault).blk blk)))) s
  | _ => .next s
/-- A block of a command before block k is not there yet: the blocks of one command are written in block order (R353). -/
def State.copyBehind (s : State) (q : CopyCmd) (k : Nat) : Bool :=
  s.work.xfers.any (fun x => x.cmd == q.id && x.k < k) ||
    (match s.txns.find? (fun t => t.id == q.rtx) with
      | some t => (t.arrs.take k).any (fun a => !a.del)
      | none => false)
/-- GET_RESPONSE (R264, R353): the block is back at the issuer, and is written on the next cycle; a block that is ahead of its turn waits. -/
def execGetResponse (s : State) : Out :=
  match s.ev with
  | .getResponse tx k =>
    match s.arrived tx with
    | none => done (dropXfer tx) s
    | some (x, q) =>
      if !s.ownOk x.who then done (Act.seq (dropXfer tx) (dropResponse (dieOf x.from_))) s
      else if s.copyBehind q x.k then done (eventAt x.from_ (s.now x.from_ + 1) (.getResponse tx k)) s
      else done (Act.all [dropXfer tx, onArr q.rtx k (fun a => { a with del := true }), hearPeers [q.pkg], copyGot x.from_ q.id k x.blk none]) s
  | _ => .next s

end Sys2Proof.Machine
end

