-- ==== Sys2Proof/Machine/Matrix.lean ====
section
/-! DEFINITION. M: products (R284 to R290), the gather (R291, R292), operand latches (R293), and rows of tiles (R294 to R296). -/
namespace Sys2Proof.Machine

/-! ## Conditions (R283, R287) -/

/-- The cycles on which writes of earlier M instructions to a row take effect. -/
def UnitSt.rowWrites (u : UnitSt) (ix : Fin 256) : List Int :=
  (u.pend.filter (fun p => p.stream == .m)).filterMap (fun p =>
    match p.eff with
    | .row r _ _ _ => if r == ix then some p.at_ else none
    | .copyRow _ d _ _ _ due => if d == ix then some due else none
    | .mmaRow id j =>
      match u.eng.mmas.find? (fun (o : MmaOp) => o.id == id) with
      | some o => if tileRow o.tile (o.row + j) == ix then some (p.at_ + 1) else none
      | none => none
    | _ => none)
/-- A read of a row on a cycle precedes a pending write of it, or a write comes no later than one (R283). -/
def UnitSt.rowReadBusy (u : UnitSt) (ix : Fin 256) (x : Int) : Bool := (u.rowWrites ix).any (fun w => x < w)
def UnitSt.rowWriteBusy (u : UnitSt) (ix : Fin 256) (x : Int) : Bool := (u.rowWrites ix).any (fun w => x ≤ w)
/-- Whether rows of a tile, read from cycle r where there is one and written from cycle w, one a cycle, are free. -/
def UnitSt.rowsFree (u : UnitSt) (t : Fin 4) (first n : Nat) (r : Option Int) (w : Option Int) : Bool :=
  (List.range n).all (fun j =>
    let ix := tileRow t (first + j)
    (match r with | some x => !u.rowReadBusy ix (x + j) | none => true) &&
      (match w with | some x => !u.rowWriteBusy ix (x + j) | none => true))
/-- A write of an operand latch that has not taken effect. -/
def State.latchPending (s : State) (c : Col) (u : UnitSt) (l : OpLat) : Bool :=
  u.pend.any (fun p => match p.eff with
    | .latch k _ => k == l
    | .capture _ _ _ (.latch k _) _ => k == l
    | _ => false) ||
  s.txns.any (fun t => t.who.col == c && match t.kind with
    | .load (.latch k _) => k == l
    | _ => false)
def UnitSt.holdEngine (u : UnitSt) (x : Int) : UnitSt := { u with eng := { u.eng with mbusy := x } }

/-! ## Operands (R285, R286) -/

/-- An operand of a product: rows over the contraction index, each element with its block's header; its width; its blocks in block order
with their addresses; the blocks of its tile in memory. -/
structure MOperand where
  w    : Nat
  elem : Nat → Nat → Head × Nat
  blks : List (Head × Dword)
  tile : List Dword

/-- The elements of a latch row (R253). -/
def OpLatch.elem (l : OpLatch) (i k : Nat) : Nat :=
  let per := 512 / max 1 l.w
  let nb := (l.elems * l.w + 511) / 512
  elemCode l.w (l.blks.getD (i * nb + k / per) 0) (k % per)
/-- An operand from a latch: at least `rows` rows of at least k elements. A latch has no address, and FADDR of a fault found in it is 0
(log entry 61). -/
def OpLatch.operand (l : OpLatch) (rows k : Nat) : Except FaultRec MOperand :=
  if l.rows < rows || l.elems < k then .error (recordFault 2)
  else .ok { w := l.w, elem := fun i j => (l.hd, l.elem i j), blks := [(l.hd, 0)], tile := [] }
/-- An operand from a tile in a memory. `kFirst` where the tile with T = 0 has the contraction index first (B). -/
def State.tileOperand (s : State) (c : Col) (u : UnitSt) (y : Fin 256) (m : Mem) (tag rows k : Nat) (kFirst : Bool) : Except FaultRec MOperand :=
  let l := u.ly y
  let swap := l.t != kFirst
  if l.fieldBad then .error (recordFault 1)
  else if 3 ≤ l.wcl then .error (recordFault 1)
  else if (if swap then l.rows != k || l.cols != rows else l.rows != rows || l.cols != k) then .error (recordFault 2)
  else
    match l.checkRows l.rows l.ownRow [tag] with
    | some e => .error e
    | none =>
      let t := l.tile l.rows l.ownRow
      let bs := l.clipAll (t.addrs.map (fun a => (s.mem c m).blk (blkOf a)))
      let arr := bs.toArray
      .ok { w := l.w
            elem := fun i j =>
              let rc := if swap then (j, i) else (i, j)
              let b := arr.getD (rc.1 * l.rowBlks + rc.2 / l.perBlk) .clear
              (b.hd, elemCode l.w b.pay (rc.2 % l.perBlk))
            blks := (bs.map (·.hd)).zip t.addrs
            tile := t.addrs }

/-- The operands of a product, with the faults that need no memory (R285, R290); MMAG uses the record of its gathered A. -/
def State.operands (s : State) (c : Col) (u : UnitSt) (o : Mm) (latchA : Bool) (gathered : Bool := false) : Except FaultRec (MOperand × MOperand) :=
  let m := Msz.rows o.msz
  let k := o.k.val
  let a := if gathered && ((u.ly o.ya).fieldBad || 3 ≤ (u.ly o.ya).wcl) then .error (recordFault 1)
    else if latchA then u.eng.opa.operand m k else s.tileOperand c u o.ya .ab 2 m k false
  match a with
  | .error e => .error e
  | .ok a =>
    let b := if o.bl then u.eng.opb.operand 128 k else s.tileOperand c u o.yb .wb 1 128 k true
    match b with
    | .error e => .error e
    | .ok b =>
      if a.w != b.w then .error (if latchA || o.bl then formatFault 2 0 else recordFault 1) else .ok (a, b)

/-- The width of a product's elements as far as its operands give one, A's first (R288). -/
def UnitSt.mmWidth (u : UnitSt) (o : Mm) (latchA gathered : Bool) : Option Nat :=
  let known := fun (y : Fin 256) => let l := u.ly y; if l.fieldBad || 3 ≤ l.wcl then none else some l.w
  let b := if o.bl then some u.eng.opb.w else known o.yb
  (if gathered then known o.ya else if latchA then some u.eng.opa.w else known o.ya).orElse (fun _ => b)
/-- A block of a record's tile in a memory is pending (R240, R287). -/
def Layout.pendingIn (l : Layout) (u : UnitSt) (m : Mem) (tag : Nat) (now : Int) : Bool :=
  !l.fieldBad && u.ord.pblks.any (fun p => p.mem == some m && (match p.due with | some d => decide (now < d) | none => true) &&
    (List.range l.rows).any (fun r => tagOf (l.ownRow r) == tag && blkOf (l.ownRow r) ≤ p.blk && p.blk < blkOf (l.ownRow r) + l.rowBlks))

/-- Float or integer formats of a product (R286). -/
def mulFloat (t : VTy) : Bool := t == .bf16 || t == .fp16 || t == .e4m3 || t == .e5m2 || t == .q4
def mulInt (t : VTy) : Bool := t == .i8 || t == .n8 || t == .i16 || t == .n16
/-- The kind of a product by its blocks in block order, A's first: integer or not, and the fault that the engine meets (R65, R286). -/
def mulKind (w : Nat) (hs : List (Head × Dword)) : Bool × Option FaultRec :=
  let int := match hs with
    | (h, _) :: _ => mulInt (headType h)
    | [] => false
  let ok := fun t => if int then mulInt t else mulFloat t
  (int, hs.findSome? (fun x =>
    let k := formatKind x.1.fmt w ok
    if k != 0 then some (formatFault k x.2)
    else if int && x.1.scl == 0xFF then some (poisonFault x.2) else none))
/-- An element's exact value under its block's header; a poisoned one is NaN (R69). -/
def mulElem (x : Head × Nat) : XNum := if x.1.scl == 0xFF then .nan else decodeElem (headType x.1) x.1.scl.toNat x.2
/-- Occupancy of the engine (R288), and the chunk of R85. -/
def mulCost (w k : Nat) : Nat := if w == 16 then 2 * k else if w == 8 then k else (k + 1) / 2
def mulChunk (w : Nat) : Nat := if w == 16 then 32 else if w == 8 then 64 else 128

/-! ## MMA and MMAG -/

/-- The rows whose old values a product accumulates onto, with the cycles on which it reads them (R288). -/
def oldRows (o : Mm) (w0 : Int) : List (Fin 256 × Int) :=
  if o.z then [] else (List.range (Msz.rows o.msz)).map (fun (j : Nat) => (tileRow o.dt (16 * o.roff.val + j), w0 - 1 + (j : Int)))
/-- Ports of a product that holds the engine for `cost` cycles (R288). -/
def mmPorts (o : Mm) (latchA : Bool) (now : Int) (cost : Nat) : List (Port × Int × Nat) :=
  let m := Msz.rows o.msz
  let w0 := now + (cost + 4 : Nat)
  (if o.bl then [] else [(Port.wbR, now, cost)]) ++ (if latchA then [] else [(Port.abR, now, cost)]) ++
    (if o.z then [] else [(Port.tileR o.dt, w0 - 1, m)]) ++ [(Port.tileW o.dt, w0, m)]
def UnitSt.mmFree (u : UnitSt) (o : Mm) (latchA : Bool) (now : Int) (cost : Nat) : Bool :=
  let w0 := now + (cost + 4 : Nat)
  (mmPorts o latchA now cost).all (fun p => u.portFree p.1 p.2.1 p.2.2) &&
    u.rowsFree o.dt (16 * o.roff.val) (Msz.rows o.msz) (if o.z then none else some (w0 - 1)) (some w0)
/-- A product (R284 to R290). Where its operands raise a fault of their own, what is known of them is examined first: blocks that are still pending, and, with the width
of one of them, the ports and rows (R143, R287; log entry 61). -/
def product (h : MHdr) (o : Mm) (latchA gathered : Bool) : Act :=
  issueAs .m h.sync 3 (fun s c u now =>
    let m := Msz.rows o.msz
    let k := o.k.val
    let first := 16 * o.roff.val
    let held := now < u.eng.mbusy || s.accessHeld u now || (latchA && !gathered && u.eng.gather.isSome)
    let gatherOpen := gathered && (match u.eng.gather with | some g => now < g.done | none => false)
    let open_ := (latchA && s.latchPending c u .opa) || (o.bl && s.latchPending c u .opb) || gatherOpen
    match s.operands c u o latchA gathered with
    | .error e =>
      let free := match u.mmWidth o latchA gathered with
        | some w => u.mmFree o latchA now (mulCost w k)
        | none => true
      let pending := (!latchA && (u.ly o.ya).pendingIn u .ab 2 now) || (!o.bl && (u.ly o.yb).pendingIn u .wb 1 now)
      { miss := if held || !free then some .busy else if open_ || pending then some .stamp else none, fault := some e }
    | .ok (a, b) =>
      let cost := mulCost a.w k
      let w0 := now + (cost + 4 : Nat)
      let id := s.nextId + 1
      let kind := mulKind a.w (a.blks ++ b.blks)
      let pois := if !kind.1 && (a.blks ++ b.blks).any (fun x => x.1.scl == 0xFF) then nPois else 0
      let ports := mmPorts o latchA now cost
      let free := u.mmFree o latchA now cost
      let pending := fun (mem : Mem) (l : List Dword) =>
        l.any (fun a => u.ord.pblks.any (fun p => p.mem == some mem && p.blk == blkOf a && (match p.due with | some d => now < d | none => true)))
      let sig := cost + 4 + m - 1
      let op : MmaOp := { id := id, issue := now, cost := cost, tile := o.dt, row := first, m := m, k := k, chunk := mulChunk a.w, int := kind.1, zero := o.z,
                          a := if kind.2.isSome then [] else (List.range m).map (fun i => (List.range k).map (fun j => mulElem (a.elem i j)))
                          b := if kind.2.isSome then [] else (List.range 128).map (fun n => (List.range k).map (fun j => mulElem (b.elem n j)))
                          bad := kind.2, pc := (u.strm .m).pc, took := waits .m h.sync, adds := signals .m h.sync, sig := now + (sig : Int), flags := pois }
      Attempt.readsAt
      { miss := if held || !free then some .busy
          else if open_ || pending .ab a.tile || pending .wb b.tile then some .stamp else none
        eff := if kind.2.isSome then [] else (List.range m).map (fun (j : Nat) => { at_ := w0 - 1 + (j : Int), stream := .m, eff := .mmaRow id j })
        unit := fun u =>
          let u := (ports.foldl (fun u p => u.takePort p.1 p.2.1 p.2.2) u).holdEngine (now + (cost : Int))
          { u with eng := { u.eng with mmas := (u.eng.mmas.filter (fun q => now < q.sig)) ++ [op], gather := if gathered then none else u.eng.gather }
                   ord := { u.ord with hold := (u.ord.hold.filter (fun x => now < x.2)) ++ (waits .m h.sync).map (fun i => (i, now + (cost : Int))) } }
        more := Act.seq (fresh (fun _ => Act.none)) (Act.when kind.2.isSome (eventAt c (now + (cost : Int)) (.mmaBlockFault c id)))
        sig := sig
        tag := id } u now (oldRows o w0))
/-- MMA (R284). -/
def execMma (h : MHdr) (o : Mm) (al : Bool) (s : State) : Out := done (product h o al false) s
/-- MMAG (R284, R291). -/
def execMmag (h : MHdr) (o : Mm) (s : State) : Out := done (product h o true true) s
/-- MMA_BLOCK_FAULT (R290): the tokens return, those due are withdrawn, the ports are freed, and M faults at the instruction, also in a unit that is held; in
supervisor state the fault escalates (R379). In a unit that has stopped to be saved it is queued (DESIGN CHOICE, log entry 61). -/
def execMmaBlockFault (s : State) : Out :=
  match s.ev with
  | .mmaBlockFault c id =>
    let u := s.unit c
    match u.eng.mmas.find? (fun (o : MmaOp) => o.id == id) with
    | none => .next s
    | some o =>
      match o.bad with
      | none => .next s
      | some e =>
        let w0 := o.issue + (o.cost + 4 : Nat)
        let undo := fun (u : UnitSt) =>
          let u := (u.freePort (.tileR o.tile) (w0 - 1) o.m).freePort (.tileW o.tile) w0 o.m
          let u := { u with ctl := { u.ctl with sigs := u.ctl.sigs.filter (fun x => x.1 != id) }
                            eng := { u.eng with mmas := u.eng.mmas.filter (fun (q : MmaOp) => q.id != id) }
                            frm := if !s.issues c && u.frm.fpc[3] == (u.strm .m).pc.truncate 18 then { u.frm with fpc := u.frm.fpc.set 3 (o.pc.truncate 18) } else u.frm }
          (u.mmaTokens o.took id).onStrm .m (fun t => { t with pc := o.pc, st := match t.st with
            | .point _ => .run
            | st => st })
        if !u.ctl.prepped && !u.ctl.dead then done (Act.seq (onUnit c undo) (takeFault c .m e)) s
        else done (Act.seq (onUnit c undo) (deferredFault c .m e)) s
  | _ => .next s

/-! ## The gather -/

/-- The next MMAG of the M section from a program counter, in program order (R291). -/
def nextMmag (st : Memory) (hi : Nat) : Nat → Nat → Option Mm
  | 0, _ => none
  | n + 1, pc =>
    if hi < pc + 12 then none
    else
      match decode .m [st.bytes pc 4, st.bytes (pc + 4) 4, st.bytes (pc + 8) 4] with
      | .ok (.mmag _ o) => some o
      | _ => nextMmag st hi n (pc + 12)
/-- MIDX (R291, R292); rows that exceed the latch's 64 KiB raise RECORD of kind SHAPE, as LTR does (R281, R253; log entry 75). -/
def execMidx (h : MHdr) (v : Fin 64) (s : State) : Out :=
  done (issueAs .m h.sync 3 (fun s c u now =>
    let t := u.strm .m
    let img := u.v v
    let idx := (List.range 64).map (fun i => img.lane 16 i)
    let rd := u.portFree (.tileR 0) now 1
    let load := fun (u : UnitSt) =>
      let u := (u.takePort (.tileR 0) now 1).holdEngine (now + 1)
      { u with eng := { u.eng with gidx := .ofFn (fun i => BitVec.ofNat 16 (idx.getD i.val 0)), gather := none } }
    let busy := now < u.eng.mbusy || !rd || u.rowReadBusy (vRow (u.regs.physV v)) now || s.accessHeld u now
    let go : Attempt := match nextMmag (s.mem c .store) t.hi 21846 (t.pc.toNat + 12) with
    | none => { miss := if busy then some .busy else none, unit := load }
    | some o =>
      let l := u.ly o.ya
      let m := Msz.rows o.msz
      let r := (o.k.val * l.w + 511) / 512
      let at_ := fun i => l.ownRow (idx.getD i 0)
      let bad := if l.fieldBad || 3 ≤ l.wcl then some (recordFault 1)
        else if l.t || idx.any (fun i => l.rows ≤ i) || l.rowBlks < r || 1024 < m * r then some (recordFault 2)
        else l.checkRows m at_ [2]
      match bad with
      | some e => { miss := if busy then some .busy else none, fault := some e }
      | none =>
        let g := m * ((r + 1) / 2)
        let parts := (List.range m).flatMap (fun i => (List.range r).map (fun j => (i, j, at_ i + BitVec.ofNat 64 (64 * j))))
        let half := (r + 1) / 2
        let raw := parts.map (fun x => (blkOf x.2.2, (s.mem c .ab).head (blkOf x.2.2), now + 1 + ((x.1 * half + x.2.1 / 2 : Nat) : Int)))
        let blks := parts.map (fun x => l.clip (idx.getD x.1 0) x.2.1 ((s.mem c .ab).blk (blkOf x.2.2)))
        let hds := (blks.map (·.hd)).zip (parts.map (fun x => x.2.2))
        let h0 := (blks.getD 0 .clear).hd
        let mixed := hds.findSome? (fun x =>
          if classOf x.1.fmt.toNat != classOf h0.fmt.toNat then some (formatFault 2 x.2)
          else if x.1 != h0 then some (formatFault 4 x.2) else none)
        let read := (parts.filter (fun x => !l.blkClipped (idx.getD x.1 0) x.2.1)).map (fun x => x.2.2)
        let fin := now + (g + 4 : Nat)
        { miss := if busy || !u.portFree .abR (now + 1) g then some .busy
            else match u.gate now (some .ab) (read.map blkOf) with
              | .busy => some .busy
              | _ => none
          fault := match u.earlyAt now .ab read with
            | some e => some e
            | none => mixed
          unit := fun u =>
            let u := (load u).takePort .abR (now + 1) g
            { u with eng := { u.eng with gather := some { done := fin, full := false, opa := u.eng.opa } } }
          eff := [{ at_ := now + 1, stream := .m, eff := .capture .ab raw [] (.gather fin m r o.k.val u.regs.ly[o.ya] idx) fin }]
          more := eventAt c fin (.gatherComplete c)
          sig := g + 4 }
    go.reads u now (u.vRows [v]))) s
/-- GATHER_COMPLETE (R291): OPA holds the gathered rows; a gather that another MIDX has abandoned fills nothing (R292). -/
def execGatherComplete (s : State) : Out :=
  match s.ev with
  | .gatherComplete c =>
    match (s.unit c).eng.gather with
    | some g =>
      if g.done ≤ s.now c && !g.full then
        done (onUnit c (fun u => { u with eng := { u.eng with opa := g.opa, gather := some { g with full := true } } })) s
      else .next s
    | none => .next s
  | _ => .next s

/-! ## Latches and rows -/

/-- MLDT (R293). -/
def execMldt (h : MHdr) (lat : OpLat) (y : Fin 256) (s : State) : Out :=
  done (issueAs .m h.sync 3 (fun s c u now =>
    let w := u.regs.ly[y]
    let l := layoutOf w
    let held := now < u.eng.mbusy || (lat == .opa && u.eng.gather.isSome)
    let bad := if l.fieldBad then some (recordFault 1)
      else if 65536 < l.latchBytes then some (recordFault 2)
      else l.checkRows l.rows l.ownRow [1]
    match bad with
    | some e => { miss := if held || s.accessHeld u now then some .busy else none, fault := some e }
    | none =>
      let t := l.tile l.rows l.ownRow
      let go := s.chipLoad u c .m now .wb t (occOf .wb t.spans) 2 (.latch lat w) none
      { go with miss := if held then some .busy else go.miss
                unit := fun u => (go.unit u).holdEngine (now + 1) })) s
/-- MZERO (R294). -/
def execMzero (h : MHdr) (t : Fin 4) (msz : Msz) (roff : Fin 4) (s : State) : Out :=
  done (issueAs .m h.sync 3 (fun _ _ u now =>
    let m := Msz.rows msz
    let first := 16 * roff.val
    { miss := if now < u.eng.mbusy || !u.portFree (.tileW t) (now + 1) m || !u.rowsFree t first m none (some (now + 1)) then some .busy else none
      eff := (List.range m).map (fun (j : Nat) => { at_ := now + 1 + (j : Int), stream := .m, eff := rowWrite (tileRow t (first + j)) .zero })
      unit := fun u => (u.takePort (.tileW t) (now + 1) m).holdEngine (now + 1)
      sig := m })) s
/-- The cycle, counted from issue, on which MMOV reads source row j: j, or the last cycle before the move itself writes that row. -/
def mmovRead (same : Bool) (drow srow n j : Nat) : Nat :=
  if same && drow ≤ srow + j && srow + j < drow + n then Nat.min j (1 + (srow + j - drow)) else j
/-- MMOV (R295). -/
def execMmov (h : MHdr) (dt st : Fin 4) (drow srow : Fin 64) (n : Fin 128) (s : State) : Out :=
  done (issueAs .m h.sync 3 (fun _ _ u now =>
    let k := n.val
    Attempt.readsAt
    { miss := if now < u.eng.mbusy || !u.portFree (.tileR st) now k || !u.portFree (.tileW dt) (now + 2) k ||
          !u.rowsFree st srow.val k (some now) none || !u.rowsFree dt drow.val k none (some (now + 2)) then some .busy else none
      eff := (List.range k).map (fun (j : Nat) =>
        let r := mmovRead (dt == st) drow.val srow.val k j
        let src := tileRow st (srow.val + j)
        let dst := tileRow dt (drow.val + j)
        let due := now + 2 + (j : Int)
        if r == 0 then { at_ := due, stream := .m, eff := rowWrite dst u.regs.tiles[src] }
        else { at_ := now + (r : Int), stream := .m, eff := .copyRow src dst allData allTail none due })
      unit := fun u => ((u.takePort (.tileR st) now k).takePort (.tileW dt) (now + 2) k).holdEngine (now + (k : Int))
      sig := k + 1 } u now ((List.range k).map (fun (j : Nat) => (tileRow st (srow.val + j), now + (j : Int)))))) s

/-- A write of a tile's restart register at issue + 1 (R296). -/
def restartWrite (h : MHdr) (t : Fin 4) (f : Dword → Dword) : Act :=
  issueAs .m h.sync 3 (fun _ _ u now =>
    { miss := if now < u.eng.mbusy then some .busy else none
      eff := [{ at_ := now + 1, stream := .m, eff := .spec (Fin.ofNat 4096 (0x034 + t.val)) (f (u.regs.trs[Fin.ofNat 3 (t.val - 1)])) }]
      unit := fun u => u.holdEngine (now + 1) })
/-- MRST (R296). -/
def execMrst (h : MHdr) (t : Fin 4) (label : Fin 65536) (s : State) : Out :=
  done (restartWrite h t (fun w => (w &&& 0x8000000000000000) ||| BitVec.ofNat 64 label.val)) s
/-- MCLS (R296). -/
def execMcls (h : MHdr) (t : Fin 4) (rc : Bool) (s : State) : Out :=
  done (restartWrite h t (fun w => (w &&& 0xFFFF) ||| (if rc then 0x8000000000000000 else 0))) s

end Sys2Proof.Machine
end

