-- ==== Sys2Proof/Machine/Special.lean ====
section
/-! DEFINITION. The special functions of spec/13_compute_streams_rules.md R317. VRCP, VRSQ and VSQRT are formed exactly.
The transcendental functions are formed to `workBits` fractional bits and marked inexact in the bit below, so that rto() cuts
the exact value wherever it differs from the grid by more than the work's error. DEDUCED; log entry 12. -/
namespace Sys2Proof

/-- Fractional bits of the working precision (log entry 12). -/
def workBits : Nat := 640
def one : Nat := 2 ^ workBits

/-- floor of the square root, bit by bit from bit k. -/
def isqrtFrom : Nat → Nat → Nat → Nat
  | 0, r, n => if (r + 1) * (r + 1) ≤ n then r + 1 else r
  | k + 1, r, n => isqrtFrom k (if (r + 2 ^ (k + 1)) * (r + 2 ^ (k + 1)) ≤ n then r + 2 ^ (k + 1) else r) n
def isqrt (n : Nat) : Nat := isqrtFrom (n.log2 / 2 + 1) 0 n

/-- m·2^e with a further bit set below when something is left: what rto() reads alike (R72). -/
def cutNum (neg : Bool) (m : Nat) (e : Int) (rest : Bool) : XNum := .fin neg (2 * m + (if rest then 1 else 0)) (e - 1)

/-- Sum of a series of positive terms: each next term is made from the last and its index. -/
def seriesSum (next : Nat → Nat → Nat) : Nat → Nat → Nat → Nat → Nat
  | 0, _, _, acc => acc
  | k + 1, i, term, acc => seriesSum next k (i + 1) (next i term) (acc + term)

/-- atanh of num/den in working precision: Σ z^(2i+1) / (2i+1). -/
def atanhFix (num den : Nat) : Nat :=
  let rec go : Nat → Nat → Nat → Nat → Nat
    | 0, _, _, acc => acc
    | k + 1, i, pw, acc => go k (i + 1) (pw * (num * num) / (den * den)) (acc + pw / (2 * i + 1))
  go 420 0 (one * num / den) 0
def ln2Fix : Nat := 2 * atanhFix 1 3
/-- atan(1/d): the alternating series. -/
def atanInvFix (d : Nat) : Nat :=
  let rec go : Nat → Nat → Nat → Int → Int
    | 0, _, _, acc => acc
    | k + 1, i, pw, acc => go k (i + 1) (pw / (d * d)) (if i % 2 == 0 then acc + (pw / (2 * i + 1) : Nat) else acc - (pw / (2 * i + 1) : Nat))
  (go 300 0 (one / d) 0).toNat
/-- π by the arctangents of 1/5 and 1/239. -/
def piFix : Nat := 16 * atanInvFix 5 - 4 * atanInvFix 239

/-- A dyadic value in working precision, cut down. -/
def toFix (m : Nat) (e : Int) : Nat := (floorUnits m e (-(workBits : Int))).1
/-- e^r for 0 ≤ r < 1 in working precision. -/
def expFrac (r : Nat) : Nat := seriesSum (fun i t => t * r / (one * (i + 1))) 160 0 one 0
/-- e^x for x = ±(m·2^e) of magnitude at most 512: significand and exponent. -/
def expParts (neg : Bool) (m : Nat) (e : Int) : Nat × Int :=
  let x := toFix m e
  let k : Int := if neg then -((x / ln2Fix : Nat) : Int) - 1 else ((x / ln2Fix : Nat) : Int)
  let r : Int := (if neg then -(x : Int) else x) - k * ln2Fix
  (expFrac r.toNat, k - workBits)
/-- e^x as a fixed-point number with working precision below the point (x ≥ 0) . -/
def expFix (neg : Bool) (m : Nat) (e : Int) : Nat :=
  let p := expParts neg m e
  (floorUnits p.1 p.2 (-(workBits : Int))).1

/-- Magnitude above an integer. -/
def bigger (m : Nat) (e : Int) (n : Nat) : Bool := magCmp m e n 0 == .gt

def fnExp : XNum → XNum × NumBits
  | .nan => (.nan, 0)
  | .inf s => (if s then XNum.zero else .inf false, 0)
  | .fin s m e =>
    if m == 0 then (.fin false 1 0, 0)
    else if bigger m e 200 then (if s then .fin false 1 (-300) else .fin false 1 300, 0)
    else if magCmp m e 1 (-400) == .lt then (if s then cutNum false (one - 1) (-(workBits : Int)) true else cutNum false one (-(workBits : Int)) true, 0)
    else
      let p := expParts s m e
      (cutNum false p.1 p.2 true, 0)

def fnLog : XNum → XNum × NumBits
  | .nan => (.nan, 0)
  | .inf s => if s then (.nan, nFnan) else (.inf false, 0)
  | .fin s m e =>
    if m == 0 then (.inf true, 0)
    else if s then (.nan, nFnan)
    else
      let k : Int := floorLog2 m e
      let l := m.log2
      -- m / 2^l lies in [1, 2): ln = 2·atanh((m − 2^l) / (m + 2^l))
      let f := 2 * atanhFix (m - 2 ^ l) (m + 2 ^ l)
      let v : Int := k * ln2Fix + f
      if v == 0 then (XNum.zero, 0) else (cutNum (decide (v < 0)) v.natAbs (-(workBits : Int)) true, 0)

def fnRcp : XNum → XNum × NumBits
  | .nan => (.nan, 0)
  | .inf s => (.fin s 0 0, 0)
  | .fin s m e =>
    if m == 0 then (.inf s, 0)
    else
      let k := workBits + m.log2
      (cutNum s (2 ^ k / m) (-e - k) (2 ^ k % m != 0), 0)

def fnSqrt : XNum → XNum × NumBits
  | .nan => (.nan, 0)
  | .inf s => if s then (.nan, nFnan) else (.inf false, 0)
  | .fin s m e =>
    if m == 0 then (.fin s 0 0, 0)
    else if s then (.nan, nFnan)
    else
      let m' := if e % 2 == 0 then m else 2 * m
      let e' := if e % 2 == 0 then e else e - 1
      let n := m' * 2 ^ (2 * workBits)
      let r := isqrt n
      (cutNum false r (e' / 2 - workBits) (r * r != n), 0)

def fnRsq : XNum → XNum × NumBits
  | .nan => (.nan, 0)
  | .inf s => if s then (.nan, nFnan) else (XNum.zero, 0)
  | .fin s m e =>
    if m == 0 then (.inf false, 0)
    else if s then (.nan, nFnan)
    else
      let m' := if e % 2 == 0 then m else 2 * m
      let e' := if e % 2 == 0 then e else e - 1
      let k := workBits + m'.log2
      let n := 2 ^ (2 * k) / m'
      let r := isqrt n
      (cutNum false r (-(e' / 2) - k) (r * r * m' != 2 ^ (2 * k)), 0)

def fnTanh : XNum → XNum × NumBits
  | .nan => (.nan, 0)
  | .inf s => (.fin s 1 0, 0)
  | .fin s m e =>
    if m == 0 then (.fin s 0 0, 0)
    else if bigger m e 100 then (cutNum s (one - 1) (-(workBits : Int)) true, 0)
    else
      let x := expFix false m (e + 1)
      (cutNum s ((x - one) * one / (x + one)) (-(workBits : Int)) true, 0)

def fnSigm : XNum → XNum × NumBits
  | .nan => (.nan, 0)
  | .inf s => (if s then XNum.zero else .fin false 1 0, 0)
  | .fin s m e =>
    if m == 0 then (.fin false 1 (-1), 0)
    else if bigger m e 200 then (if s then .fin false 1 (-300) else cutNum false (one - 1) (-(workBits : Int)) true, 0)
    else
      let x := expFix s m e
      (cutNum false (x * one / (one + x)) (-(workBits : Int)) true, 0)

/-- erf x = 2/√π · e^(−x²) · Σ 2^n x^(2n+1) / (2n+1)!!, whose terms are positive. -/
def fnErf : XNum → XNum × NumBits
  | .nan => (.nan, 0)
  | .inf s => (.fin s 1 0, 0)
  | .fin s m e =>
    if m == 0 then (.fin s 0 0, 0)
    else if bigger m e 6 then (cutNum s (one - 1) (-(workBits : Int)) true, 0)
    else
      let x2 := toFix (m * m) (2 * e)
      let sum := seriesSum (fun i t => t * (2 * x2) / (one * (2 * i + 3))) 460 0 one 0
      let ex := expFix true (m * m) (2 * e)
      let c := 2 * one * one / isqrt (piFix * one)
      -- x stands as m·2^e outside the fixed-point part, so that the relative precision holds for a small x
      let f := sum * ex / one * c / one
      (cutNum s (m * f) (e - workBits) true, 0)

end Sys2Proof
end

