-- ==== Sys2Proof/Machine/Vector.lean ====
section
/-! DEFINITION. V: lane arithmetic (R306 to R309), compares and predicates (R307, R310 to R312), permutes (R313), conversions and tails
(R314, R315), reductions, special functions and noise (R316, R317, R325), moves (R318, R319), and scaling (R320 to R324). -/
namespace Sys2Proof.Machine

/-! ## Conditions and writes (R299, R300, R305) -/

/-- The cycles on which writes of earlier V instructions to a register or a predicate take effect. -/
def UnitSt.vWrites (u : UnitSt) (ix : Fin 256) : List Int :=
  u.pend.filterMap (fun p => if p.stream != .v then none else match p.eff with
    | .row r _ _ _ => if r == ix then some p.at_ else none
    | .copyRow _ d _ _ _ due => if d == ix then some due else none
    | _ => none)
def UnitSt.pWrites (u : UnitSt) (ix : Fin 16) : List Int :=
  u.pend.filterMap (fun p => if p.stream != .v then none else match p.eff with
    | .pred q _ _ => if q == ix then some p.at_ else none
    | _ => none)
/-- Register writes of V that take effect on a cycle (R301). -/
def UnitSt.vPorts (u : UnitSt) (x : Int) : Nat :=
  (u.pend.filter (fun p => p.stream == .v && match p.eff with
    | .row .. => p.at_ == x
    | .copyRow _ _ _ _ _ due => due == x
    | _ => false)).length
/-- BUSY of R299: what the instruction reads and writes, by its names; and of R301: V writes at most two registers on a cycle. -/
def UnitSt.vBusy (u : UnitSt) (now : Int) (n : Nat) (rv wv : List (Fin 64)) (rp wp : List (Fin 16)) : Option Miss :=
  let v := fun (r : Fin 64) => u.vWrites (vRow (u.regs.physV r))
  let p := fun (r : Fin 16) => if r = 0 then [] else u.pWrites (u.regs.physP r)
  let late := fun (x : Int) => now < x
  let clash := fun (x : Int) => now + n ≤ x
  if rv.any (fun r => (v r).any late) || rp.any (fun r => (p r).any late) || wv.any (fun r => (v r).any clash) || wp.any (fun r => (p r).any clash) ||
    (!wv.isEmpty && 2 < u.vPorts (now + n) + wv.length)
  then some .busy else none
/-- The issue of an instruction of V that reads some registers (R240, R299). -/
def issueV (c : VCtl) (rv : List (Fin 64)) (f : State → Col → UnitSt → Int → Attempt) : Act :=
  issueAs .v c.sync 2 (fun s k u now => (f s k u now).readsV u now (u.vRows rv))
/-- Bit k of the governing predicate. -/
def UnitSt.gov (u : UnitSt) (c : VCtl) (k : Nat) : Bool := (u.p c.p).getLsbD k
/-- The write of the lanes of d for which `sel` holds (R300). -/
def laneEff (u : UnitSt) (t : VTy) (d : Fin 64) (sel : Nat → Bool) (lanes : List Pair) : Eff :=
  let w := t.width
  .row (vRow (u.regs.physV d)) (laneMask w t.lanes sel) (tailMask w t.lanes sel) (Row.ofLanes w lanes)
/-- Tail mode (R84). -/
def tailed (c : VCtl) (f : Fmt) (x : Pair) : Pair × NumBits :=
  match c.tm with
  | .keep => (x, 0)
  | .zero => ({ x with t := 0 }, 0)
  | .fin => let r := roundFloat f (image f x) c.mode; ({ v := r.1, t := 0 }, r.2)
/-- One narrowing into a lane, then the tail mode (R73, R302). -/
def narrow (c : VCtl) (f : Fmt) (x : XNum × NumBits) : Pair × NumBits :=
  let r := rto x.1 f
  let t := tailed c f r.1
  (t.1, x.2 ||| r.2 ||| t.2)
def intLane (v : Nat) : Pair × NumBits := ({ v := v, t := 0 }, 0)

/-- A lane-wise instruction: `f` gives lane k from lane k of each source; with PAIR it works on the next registers too (R304). -/
def vlanes (c : VCtl) (n : Nat) (pair : Bool) (d : Fin 64) (srcs : List (Fin 64)) (f : List Pair → Pair × NumBits) : Act :=
  let offs := if pair then [0, 1] else [0]
  let up := fun (r : Fin 64) (o : Nat) => Fin.ofNat 64 (r.val + o)
  let rv := offs.flatMap (fun o => srcs.map (fun r => up r o))
  issueV c rv (fun _ _ u now =>
    let w := c.ty.width
    let one := fun (o : Nat) =>
      let rows := srcs.map (fun r => u.v (up r o))
      let res := (List.range c.ty.lanes).map (fun k => if u.gov c k then f (rows.map (fun r => r.pair w k)) else intLane 0)
      (laneEff u c.ty (up d o) (u.gov c) (res.map (·.1)), res.foldl (fun a x => a ||| x.2) 0)
    let outs := offs.map one
    let at_ := now + (n : Int)
    { miss := u.vBusy now n rv (offs.map (up d)) [c.p] []
      eff := outs.map (fun x => { at_ := at_, stream := .v, eff := x.1 }) ++ numstAt at_ .v (outs.foldl (fun a x => a ||| x.2) 0)
      sig := n })
/-- Write cycle of the forms whose float variant takes four cycles (R305). -/
def vlat (t : VTy) : Nat := if t.isF then 4 else 2

/-! ## Lane results -/

def lane1 (l : List Pair) : Pair := l.getD 0 { v := 0, t := 0 }
def lane2 (l : List Pair) : Pair := l.getD 1 { v := 0, t := 0 }
def lane3 (l : List Pair) : Pair := l.getD 2 { v := 0, t := 0 }
/-- A form with a float variant on images and an integer variant on the type's values modulo 2^w (R306). -/
def arith2 (c : VCtl) (ff : XNum → XNum → XNum × NumBits) (fi : Int → Int → Int) (l : List Pair) : Pair × NumBits :=
  match c.ty.fmt? with
  | some f => narrow c f (ff (image f (lane1 l)) (image f (lane2 l)))
  | none => intLane (wrap c.ty.width (fi (c.ty.intVal (lane1 l).v) (c.ty.intVal (lane2 l).v)))
/-- VMIN and VMAX: as FMIN and FMAX with the tail mode, or by type (R306). -/
def minmax (c : VCtl) (wantMax : Bool) (l : List Pair) : Pair × NumBits :=
  match c.ty.fmt? with
  | some f => tailed c f (fpMinMax f wantMax (lane1 l) (lane2 l))
  | none =>
    let a := c.ty.intVal (lane1 l).v
    let b := c.ty.intVal (lane2 l).v
    intLane (wrap c.ty.width (if wantMax then max a b else min a b))
/-- VABS and VNEG: the sign alone changes, the tail stays, a NaN is canonical (R306). -/
def signForm (c : VCtl) (negate : Bool) (l : List Pair) : Pair × NumBits :=
  let x := lane1 l
  match c.ty.fmt? with
  | some f =>
    if f.isNanCode x.v then (nanPair f, 0)
    else if f.magOf x.v == 0 && x.t == 0 then ({ v := if negate then f.signOf true else 0, t := 0 }, 0)
    else ({ x with v := f.magOf x.v + f.signOf (negate && !f.isNegCode x.v) }, 0)
  | none =>
    let a := c.ty.intVal x.v
    intLane (wrap c.ty.width (if negate then -a else if a < 0 then -a else a))
def saturate (t : VTy) (i : Int) : Nat := wrap t.width (max t.lo (min t.hi i))
/-- The FMA forms (R308). -/
def fmaForm (c : VCtl) (negP negC : Bool) (l : List Pair) : Pair × NumBits :=
  match c.ty.fmt? with
  | some f =>
    let p := (image f (lane1 l)).mul (image f (lane2 l))
    let s := (if negP then p.1.neg else p.1).add (if negC then (image f (lane3 l)).neg else image f (lane3 l))
    narrow c f (s.1, p.2 ||| s.2)
  | none =>
    let p := c.ty.intVal (lane1 l).v * c.ty.intVal (lane2 l).v
    let e := c.ty.intVal (lane3 l).v
    intLane (wrap c.ty.width ((if negP then -p else p) + (if negC then -e else e)))
def bitForm (w : Nat) (f : Nat → Nat → Nat) (l : List Pair) : Pair × NumBits := intLane (f (lane1 l).v (lane2 l).v % 2 ^ w)
/-- The shift count: the low log2(w) bits of lane k of b (R309). -/
def shiftForm (w : Nat) (f : Nat → Nat → Nat) (l : List Pair) : Pair × NumBits := intLane (f (lane1 l).v ((lane2 l).v % w) % 2 ^ w)
/-- Residue addition or subtraction (R88, R323). -/
def residueForm (c : VCtl) (g : Fin 256) (alt sub : Bool) (l : List Pair) : Pair × NumBits :=
  let f := if c.ty == .fx32 then Fmt.fp32 else if alt then .fp16 else .bf16
  let q := residue f (lane2 l) g.val
  let a := c.ty.intVal (lane1 l).v
  ({ v := wrap c.ty.width (if sub then a - q.1 else a + q.1), t := 0 }, q.2)

/-- VADD (R306). -/
def execVadd (c : VCtl) (d a b : Fin 64) (pair : Bool) (s : State) : Out := done (vlanes c (vlat c.ty) pair d [a, b] (arith2 c XNum.add (· + ·))) s
/-- VSUB (R306). -/
def execVsub (c : VCtl) (d a b : Fin 64) (pair : Bool) (s : State) : Out := done (vlanes c (vlat c.ty) pair d [a, b] (arith2 c (fun x y => x.add y.neg) (· - ·))) s
/-- VMUL (R306). -/
def execVmul (c : VCtl) (d a b : Fin 64) (pair : Bool) (s : State) : Out := done (vlanes c (vlat c.ty) pair d [a, b] (arith2 c XNum.mul (· * ·))) s
/-- VMULH (R306): the high half of the product by type. -/
def execVmulh (c : VCtl) (d a b : Fin 64) (s : State) : Out := done (vlanes c 2 false d [a, b] (arith2 c XNum.mul (fun x y => x * y / 2 ^ c.ty.width))) s
/-- VMIN (R306). -/
def execVmin (c : VCtl) (d a b : Fin 64) (pair : Bool) (s : State) : Out := done (vlanes c (vlat c.ty) pair d [a, b] (minmax c false)) s
/-- VMAX (R306). -/
def execVmax (c : VCtl) (d a b : Fin 64) (pair : Bool) (s : State) : Out := done (vlanes c (vlat c.ty) pair d [a, b] (minmax c true)) s
/-- VABS (R306). -/
def execVabs (c : VCtl) (d a : Fin 64) (s : State) : Out := done (vlanes c (vlat c.ty) false d [a] (signForm c false)) s
/-- VNEG (R306). -/
def execVneg (c : VCtl) (d a : Fin 64) (s : State) : Out := done (vlanes c (vlat c.ty) false d [a] (signForm c true)) s
/-- VADDS (R306). -/
def execVadds (c : VCtl) (d a b : Fin 64) (s : State) : Out := done (vlanes c 2 false d [a, b] (fun l => intLane (saturate c.ty (c.ty.intVal (lane1 l).v + c.ty.intVal (lane2 l).v)))) s
/-- VSUBS (R306). -/
def execVsubs (c : VCtl) (d a b : Fin 64) (s : State) : Out := done (vlanes c 2 false d [a, b] (fun l => intLane (saturate c.ty (c.ty.intVal (lane1 l).v - c.ty.intVal (lane2 l).v)))) s
/-- VADDI (R306). -/
def execVaddi (c : VCtl) (d a : Fin 64) (imm : Int) (s : State) : Out := done (vlanes c 2 false d [a] (fun l => intLane (wrap c.ty.width (c.ty.intVal (lane1 l).v + imm)))) s
/-- VMOV (R306): the lane with its tail. -/
def execVmov (c : VCtl) (d a : Fin 64) (s : State) : Out := done (vlanes c 2 false d [a] (fun l => (lane1 l, 0))) s
/-- VLI (R306). -/
def execVli (c : VCtl) (d : Fin 64) (imm : Int) (s : State) : Out := done (vlanes c 2 false d [] (fun _ =>
    match c.ty.fmt? with
    | some f => narrow c f (XNum.ofInt imm, 0)
    | none => intLane (wrap c.ty.width imm))) s
/-- VFMA (R308). -/
def execVfma (c : VCtl) (d a b e : Fin 64) (pair : Bool) (s : State) : Out := done (vlanes c 4 pair d [a, b, e] (fmaForm c false false)) s
/-- VFMS (R308). -/
def execVfms (c : VCtl) (d a b e : Fin 64) (pair : Bool) (s : State) : Out := done (vlanes c 4 pair d [a, b, e] (fmaForm c false true)) s
/-- VFNMA (R308). -/
def execVfnma (c : VCtl) (d a b e : Fin 64) (pair : Bool) (s : State) : Out := done (vlanes c 4 pair d [a, b, e] (fmaForm c true false)) s
/-- VFNMS (R308). -/
def execVfnms (c : VCtl) (d a b e : Fin 64) (pair : Bool) (s : State) : Out := done (vlanes c 4 pair d [a, b, e] (fmaForm c true true)) s
/-- VAND (R309). -/
def execVand (c : VCtl) (d a b : Fin 64) (s : State) : Out := done (vlanes c 2 false d [a, b] (bitForm c.ty.width (· &&& ·))) s
/-- VOR (R309). -/
def execVor (c : VCtl) (d a b : Fin 64) (s : State) : Out := done (vlanes c 2 false d [a, b] (bitForm c.ty.width (· ||| ·))) s
/-- VXOR (R309). -/
def execVxor (c : VCtl) (d a b : Fin 64) (s : State) : Out := done (vlanes c 2 false d [a, b] (bitForm c.ty.width (· ^^^ ·))) s
/-- VANDN (R309). -/
def execVandn (c : VCtl) (d a b : Fin 64) (s : State) : Out := done (vlanes c 2 false d [a, b] (bitForm c.ty.width (fun x y => x &&& (2 ^ c.ty.width - 1 - y)))) s
/-- VSHL (R309). -/
def execVshl (c : VCtl) (d a b : Fin 64) (s : State) : Out := done (vlanes c 2 false d [a, b] (shiftForm c.ty.width (fun x k => x * 2 ^ k))) s
/-- VSHR (R309). -/
def execVshr (c : VCtl) (d a b : Fin 64) (s : State) : Out := done (vlanes c 2 false d [a, b] (shiftForm c.ty.width (fun x k => x / 2 ^ k))) s
/-- VSRA (R309). -/
def execVsra (c : VCtl) (d a b : Fin 64) (s : State) : Out := done (vlanes c 2 false d [a, b] (shiftForm c.ty.width (fun x k => wrap c.ty.width (sInt c.ty.width x / 2 ^ k)))) s
/-- VNOT (R309). -/
def execVnot (c : VCtl) (d a : Fin 64) (s : State) : Out := done (vlanes c 2 false d [a] (bitForm c.ty.width (fun x _ => 2 ^ c.ty.width - 1 - x))) s
/-- VFIN (R315). -/
def execVfin (c : VCtl) (d a : Fin 64) (s : State) : Out := done (vlanes c 4 false d [a] (fun l =>
    match c.ty.fmt? with
    | some f => let r := roundFloat f (image f (lane1 l)) c.mode; ({ v := r.1, t := 0 }, r.2)
    | none => intLane 0)) s
/-- VTAIL (R315). -/
def execVtail (c : VCtl) (d a : Fin 64) (s : State) : Out := done (vlanes c 2 false d [a] (fun l => intLane (lane1 l).t)) s
/-- VTCLR (R315): the encoding stays as it stands, a NaN's too (log entry 60). -/
def execVtclr (c : VCtl) (d a : Fin 64) (s : State) : Out := done (vlanes c 2 false d [a] (fun l => intLane (lane1 l).v)) s
/-- VSCL (R315). -/
def execVscl (c : VCtl) (d a : Fin 64) (imm : Int) (s : State) : Out := done (vlanes c 4 false d [a] (fun l =>
    match c.ty.fmt? with
    | some f => narrow c f ((image f (lane1 l)).scale imm, 0)
    | none => intLane 0)) s
/-- VRADD (R323). -/
def execVradd (c : VCtl) (d a b : Fin 64) (g : Fin 256) (alt : Bool) (s : State) : Out := done (vlanes c 4 false d [a, b] (residueForm c g alt false)) s
/-- VRSUB (R323). -/
def execVrsub (c : VCtl) (d a b : Fin 64) (g : Fin 256) (alt : Bool) (s : State) : Out := done (vlanes c 4 false d [a, b] (residueForm c g alt true)) s
/-- VKMIX (R324). -/
def execVkmix (c : VCtl) (d a b : Fin 64) (s : State) : Out := done (vlanes c 6 false d [a, b] (fun l => intLane (mix64 (BitVec.ofNat 64 (lane1 l).v) (BitVec.ofNat 64 (lane2 l).v)).toNat)) s

/-! ## Predicates (R307, R310 to R312) -/

/-- A predicate from bits of lanes: the first `n` bits, under the governing predicate, at issue + 2. -/
def vpred (c : VCtl) (n : Nat) (d : Fin 16) (rv : List (Fin 64)) (rp : List (Fin 16)) (f : UnitSt → Nat → Bool) : Act :=
  issueV c rv (fun _ _ u now =>
    let bits := fun (g : Nat → Bool) => BitVec.ofNat 1024 (packNat 1 ((List.range n).map (fun k => boolCode (g k))))
    { miss := u.vBusy now 2 rv [] (c.p :: rp) [d]
      eff := [{ at_ := now + 2, stream := .v, eff := .pred (u.regs.physP d) (bits (u.gov c)) (bits (f u)) }]
      sig := 2 })
/-- A compare of lane k of two registers: by image, or by type (R82, R310). -/
def vcmp (c : VCtl) (d : Fin 16) (a b : Fin 64) (f : XNum → XNum → Bool) : Act :=
  vpred c c.ty.lanes d [a, b] [] (fun u k =>
    let w := c.ty.width
    match c.ty.fmt? with
    | some g => f (image g ((u.v a).pair w k)) (image g ((u.v b).pair w k))
    | none => f (XNum.ofInt (c.ty.intVal ((u.v a).lane w k))) (XNum.ofInt (c.ty.intVal ((u.v b).lane w k))))
/-- VCLS (R307). -/
def execVcls (c : VCtl) (d : Fin 16) (a : Fin 64) (imm : Fin 512) (s : State) : Out :=
  done (vpred c c.ty.lanes d [a] [] (fun u k =>
    match c.ty.fmt? with
    | some f => inClass f ((u.v a).pair c.ty.width k) imm.val
    | none => false)) s
/-- VCMP.EQ (R310). -/
def execVcmpEq (c : VCtl) (d : Fin 16) (a b : Fin 64) (s : State) : Out := done (vcmp c d a b XNum.eq) s
/-- VCMP.NE (R310). -/
def execVcmpNe (c : VCtl) (d : Fin 16) (a b : Fin 64) (s : State) : Out := done (vcmp c d a b XNum.ne) s
/-- VCMP.LT (R310). -/
def execVcmpLt (c : VCtl) (d : Fin 16) (a b : Fin 64) (s : State) : Out := done (vcmp c d a b XNum.lt) s
/-- VCMP.LE (R310). -/
def execVcmpLe (c : VCtl) (d : Fin 16) (a b : Fin 64) (s : State) : Out := done (vcmp c d a b XNum.le) s
/-- VCMP.UN (R310). -/
def execVcmpUn (c : VCtl) (d : Fin 16) (a b : Fin 64) (s : State) : Out := done (vcmp c d a b (fun x y => x.isNan || y.isNan)) s
/-- A predicate form on all 1,024 bits (R312). -/
def pform (c : VCtl) (d : Fin 16) (ps : List (Fin 16)) (f : UnitSt → BitVec 1024) : Act :=
  issueAs .v c.sync 2 (fun _ _ u now =>
    { miss := u.vBusy now 2 [] [] (c.p :: ps) [d]
      eff := [{ at_ := now + 2, stream := .v, eff := .pred (u.regs.physP d) (u.p c.p) (f u) }]
      sig := 2 })
/-- PAND (R312). -/
def execPand (c : VCtl) (d a b : Fin 16) (s : State) : Out := done (pform c d [a, b] (fun u => u.p a &&& u.p b)) s
/-- POR (R312). -/
def execPor (c : VCtl) (d a b : Fin 16) (s : State) : Out := done (pform c d [a, b] (fun u => u.p a ||| u.p b)) s
/-- PXOR (R312). -/
def execPxor (c : VCtl) (d a b : Fin 16) (s : State) : Out := done (pform c d [a, b] (fun u => u.p a ^^^ u.p b)) s
/-- PANDN (R312). -/
def execPandn (c : VCtl) (d a b : Fin 16) (s : State) : Out := done (pform c d [a, b] (fun u => u.p a &&& ~~~(u.p b))) s
/-- PNOT (R312). -/
def execPnot (c : VCtl) (d a : Fin 16) (s : State) : Out := done (pform c d [a] (fun u => ~~~(u.p a))) s
/-- PSET (R312). -/
def execPset (c : VCtl) (d : Fin 16) (imm : Fin 512) (s : State) : Out :=
  done (pform c d [] (fun _ => BitVec.ofNat 1024 (2 ^ (if imm.val == 511 then 1024 else imm.val) - 1))) s
/-- PMOV (R312). -/
def execPmov (c : VCtl) (d a : Fin 16) (s : State) : Out := done (pform c d [a] (fun u => u.p a)) s

/-! ## Selects, permutes and conversions (R311, R313, R314) -/

/-- A move of lanes with their tails: lane k of d from what `f` gives, read at issue. -/
def vmove (c : VCtl) (n : Nat) (d : Fin 64) (rv : List (Fin 64)) (rp : List (Fin 16)) (f : UnitSt → Nat → Pair) : Act :=
  issueV c rv (fun _ _ u now =>
    { miss := u.vBusy now n rv [d] (c.p :: rp) []
      eff := [{ at_ := now + (n : Int), stream := .v, eff := laneEff u c.ty d (u.gov c) ((List.range c.ty.lanes).map (f u)) }]
      sig := n })
/-- VSEL (R311). -/
def execVsel (c : VCtl) (d a b : Fin 64) (e : Fin 16) (s : State) : Out :=
  done (vmove c 2 d [a, b] [e] (fun u k => (if (u.p e).getLsbD k then u.v a else u.v b).pair c.ty.width k)) s
/-- VPERM (R313): the index of lane k is lane k mod 256 of register b + k ÷ 256, read as N16. -/
def execVperm (c : VCtl) (d a b : Fin 64) (s : State) : Out :=
  done (vmove c 3 d (a :: (List.range ((c.ty.lanes + 255) / 256)).map (fun i => Fin.ofNat 64 (b.val + i))) [] (fun u k =>
    let i := (u.v (Fin.ofNat 64 (b.val + k / 256))).lane 16 (k % 256)
    (u.v a).pair c.ty.width (i % c.ty.lanes))) s
/-- The source of lane k in VSHUF: register b or a, and the lane (R313). -/
def shuffle (l p k : Nat) : Bool × Nat :=
  let h := l / 2
  match p with
  | 0 => (k % 2 == 1, k / 2)
  | 1 => (k % 2 == 1, h + k / 2)
  | 2 => (h ≤ k, 2 * (k % h))
  | 3 => (h ≤ k, 2 * (k % h) + 1)
  | _ => (false, l - 1 - k)
/-- VSHUF (R313); REV reads a alone. -/
def execVshuf (c : VCtl) (d a b : Fin 64) (imm : Fin 512) (s : State) : Out :=
  done (vmove c 3 d (if imm.val < 4 then [a, b] else [a]) [] (fun u k =>
    let x := shuffle c.ty.lanes imm.val k
    (if x.1 then u.v b else u.v a).pair c.ty.width x.2)) s
/-- VSLD (R313). -/
def execVsld (c : VCtl) (d a b : Fin 64) (imm : Fin 512) (s : State) : Out :=
  done (vmove c 3 d [a, b] [] (fun u k =>
    let i := k + imm.val
    if i < c.ty.lanes then (u.v a).pair c.ty.width i else (u.v b).pair c.ty.width (i - c.ty.lanes))) s
/-- VBCST (R313). -/
def execVbcst (c : VCtl) (d a : Fin 64) (imm : Fin 512) (s : State) : Out :=
  done (vmove c 3 d [a] [] (fun u _ => (u.v a).pair c.ty.width imm.val)) s

/-- One lane of VCVT (R314); a pair of the same type is unchanged, a NaN's encoding too (log entry 60). -/
def cvtLane (c : VCtl) (src : VTy) (x : Pair) : Pair × NumBits :=
  match src.fmt?, c.ty.fmt? with
  | some f, some g =>
    if f == g then tailed c g x
    else narrow c g (image f x, 0)
  | none, some g => narrow c g (XNum.ofInt (src.intVal x.v), 0)
  | some f, none =>
    let r := roundRange c.ty.lo c.ty.hi (image f x) c.mode
    ({ v := wrap c.ty.width r.1, t := 0 }, r.2)
  | none, none => intLane (wrap c.ty.width (src.intVal x.v))
/-- The source lane of a destination lane in part j (R314). -/
def cvtSource (ls ld j k : Nat) : Option Nat :=
  if ld < ls then some (j * ld + k) else if j * ls ≤ k && k < j * ls + ls then some (k - j * ls) else none
/-- VCVT (R314). -/
def execVcvt (c : VCtl) (d a : Fin 64) (src : VTy) (j : Fin 8) (s : State) : Out :=
  done (issueV c [a] (fun _ _ u now =>
    let at_ := fun k => if u.gov c k then cvtSource src.lanes c.ty.lanes j.val k else none
    let res := (List.range c.ty.lanes).map (fun k => match at_ k with
      | some i => cvtLane c src ((u.v a).pair src.width i)
      | none => intLane 0)
    { miss := u.vBusy now 4 [a] [d] [c.p] []
      eff := { at_ := now + 4, stream := .v, eff := laneEff u c.ty d (fun k => (at_ k).isSome) (res.map (·.1)) } ::
        numstAt (now + 4) .v (res.foldl (fun a x => a ||| x.2) 0)
      sig := 4 })) s

/-! ## Latch forms (R316, R317, R325) -/

/-- An instruction that takes the youngest free entry of a latch at issue, its signal cycle issue + 1 (R34, R305). -/
def vlatch (c : VCtl) (x : Latch) (rv : List (Fin 64)) (f : State → UnitSt → Row × NumBits) (ready : UnitSt → Bool) (more : Col → UnitSt → State → Act)
    (also : State → Int → UnitSt → UnitSt := fun _ _ u => u) : Act :=
  issueV c rv (fun s col u now =>
    let r := f s u
    { miss := match u.vBusy now 1 rv [] [c.p] [] with
        | some m => some m
        | none => if u.latchFull x then some .latch else if ready u then none else some .busy
      unit := fun u => also s now (u.pushLatch x r.1)
      eff := numstAt (now + 1) .v r.2
      more := more col u s })
/-- The lanes whose governing bit is 1. -/
def UnitSt.taken (u : UnitSt) (c : VCtl) (a : Fin 64) : List Pair :=
  ((List.range c.ty.lanes).filter (u.gov c)).map (fun k => (u.v a).pair c.ty.width k)
/-- The extreme lane by image: the lowest-numbered of equals, +0 above −0 (R316). -/
def extreme (f : Fmt) (wantMax : Bool) (l : List Pair) : Pair :=
  match l with
  | [] => { v := 0, t := 0 }
  | x :: rest =>
    if l.any (fun p => f.isNanCode p.v) then nanPair f
    else rest.foldl (fun best p =>
      let a := image f best
      let b := image f p
      match b.cmp a with
      | .gt => if wantMax then p else best
      | .lt => if wantMax then best else p
      | .eq => if a.isZero && b.isZero && a.isNeg == wantMax then p else best) x
def absPair (f : Fmt) (p : Pair) : Pair := if f.isNanCode p.v then p else { p with v := f.magOf p.v }
/-- A reduction (R316): a float result by `ff` with its format, an integer one by `fi`. FIN rounds the result in its own format, which is
FP32 for VRSUM (log entry 59). -/
def reduce (c : VCtl) (a : Fin 64) (ff : Fmt → List Pair → Fmt × Pair × NumBits) (fi : List Int → Int) : Act :=
  vlatch c .xr [a] (fun _ u =>
    let l := u.taken c a
    match c.ty.fmt? with
    | some f =>
      let r := ff f l
      let t := tailed c r.1 r.2.1
      (scalarImg (.ofPair t.1), r.2.2 ||| t.2)
    | none => (scalarImg (.ofData (BitVec.ofInt 64 (fi (l.map (fun p => c.ty.intVal p.v))))), 0)) (fun _ => true) (fun _ _ _ => Act.none)
/-- VRSUM (R316). -/
def execVrsum (c : VCtl) (a : Fin 64) (s : State) : Out :=
  done (reduce c a (fun f l =>
    let x := XNum.sum (l.map (image f))
    let r := rto x.1 .fp32
    (.fp32, r.1, x.2 ||| r.2)) (fun l => l.foldl (· + ·) 0)) s
/-- VRMAX (R316). -/
def execVrmax (c : VCtl) (a : Fin 64) (s : State) : Out :=
  done (reduce c a (fun f l => (f, extreme f true l, 0)) (fun l => match l with | [] => 0 | x :: r => r.foldl max x)) s
/-- VRMIN (R316). -/
def execVrmin (c : VCtl) (a : Fin 64) (s : State) : Out :=
  done (reduce c a (fun f l => (f, extreme f false l, 0)) (fun l => match l with | [] => 0 | x :: r => r.foldl min x)) s
/-- VRMAXA (R316). -/
def execVrmaxa (c : VCtl) (a : Fin 64) (s : State) : Out :=
  done (reduce c a (fun f l => (f, extreme f true (l.map (absPair f)), 0)) (fun _ => 0)) s
/-- A special function (R317): the entry holds rto of the exact value on the selected lanes, zero on the others. -/
def special (c : VCtl) (a : Fin 64) (fn : XNum → XNum × NumBits) : Act :=
  vlatch c .xs [a] (fun _ u =>
    let f := (c.ty.fmt?).getD .fp32
    let w := c.ty.width
    let r := (List.range c.ty.lanes).map (fun k => if u.gov c k then narrow c f (fn (image f ((u.v a).pair w k))) else intLane 0)
    (Row.ofLanes w (r.map (·.1)), r.foldl (fun a x => a ||| x.2) 0)) (fun _ => true) (fun _ _ _ => Act.none)
/-- VEXP (R317). -/
def execVexp (c : VCtl) (a : Fin 64) (s : State) : Out := done (special c a fnExp) s
/-- VLOG (R317). -/
def execVlog (c : VCtl) (a : Fin 64) (s : State) : Out := done (special c a fnLog) s
/-- VRCP (R317). -/
def execVrcp (c : VCtl) (a : Fin 64) (s : State) : Out := done (special c a fnRcp) s
/-- VRSQ (R317). -/
def execVrsq (c : VCtl) (a : Fin 64) (s : State) : Out := done (special c a fnRsq) s
/-- VSQRT (R317). -/
def execVsqrt (c : VCtl) (a : Fin 64) (s : State) : Out := done (special c a fnSqrt) s
/-- VTANH (R317). -/
def execVtanh (c : VCtl) (a : Fin 64) (s : State) : Out := done (special c a fnTanh) s
/-- VSIGM (R317). -/
def execVsigm (c : VCtl) (a : Fin 64) (s : State) : Out := done (special c a fnSigm) s
/-- VERF (R317). -/
def execVerf (c : VCtl) (a : Fin 64) (s : State) : Out := done (special c a fnErf) s
/-- VRNDN (R325): 64 words of the noise sequence; those of lanes that are not selected are consumed too. -/
def execVrndn (c : VCtl) (s : State) : Out :=
  done (vlatch c .xn [] (fun s u => (noiseRow (u.p c.p) (s.noiseWords u 64), 0))
    (fun u => u.noiseReady 64) (fun col u s => logNoise col u.regs.noisec u.eng.drawn (s.noiseWords u 64))
    (fun s now u => (u.drawNoise 64).noteDraw { at_ := now, first := u.eng.drawn, words := s.noiseWords u 64, sel := u.p c.p })) s

/-! ## Moves (R318, R319) -/

/-- VXF (R318): the oldest entry at issue + 1, as lanes of the type; the entry is freed whatever lanes are written. An XFER from the latch that still
has its turn on the cycle takes the entry before it (R212). -/
def execVxf (c : VCtl) (d : Fin 64) (x : Latch) (s : State) : Out :=
  done (issueAs .v c.sync 2 (fun s col u now =>
    let l := u.latch x
    { miss := if s.xferWaits col x then some .tokfull else match u.vBusy now 1 [] [d] [c.p] [] with
        | some m => some m
        | none => match l.head? with
          | some e => if e.valid then none else some .latch
          | none => none
      fault := if l.isEmpty then some (flt .latchEmpty) else none
      unit := fun u => u.setLatch x (l.drop 1)
      eff := match l.head? with
        | some e =>
          let w := c.ty.width
          [{ at_ := now + 1, stream := .v,
             eff := .row (vRow (u.regs.physV d)) (laneMask w c.ty.lanes (u.gov c)) (tailMask w c.ty.lanes (u.gov c)) (e.img.asLanes c.ty) }]
        | none => [] })) s
/-- VMOVT (R319): the row is read through the tile's port on issue + 1. -/
def execVmovt (c : VCtl) (d row : Fin 64) (t : Fin 4) (s : State) : Out :=
  done (issueAs .v c.sync 2 (fun _ _ u now =>
    let w := c.ty.width
    let go : Attempt :=
      { miss := match u.vBusy now 2 [] [d] [c.p] [] with
          | some m => some m
          | none => if u.portFree (.tileR t) (now + 1) 1 then none else some .busy
        eff := [{ at_ := now + 1, stream := .v,
                  eff := .copyRow (tileRow t row.val) (vRow (u.regs.physV d)) (laneMask w c.ty.lanes (u.gov c)) (tailMask w c.ty.lanes (u.gov c)) (some c.ty) (now + 2) }]
        unit := fun u => u.takePort (.tileR t) (now + 1) 1
        sig := 2 }
    go.readsV u now [tileRow t row.val] (now + 1))) s

/-! ## The scale bypass (R320 to R322) -/

/-- VMAXA (R320). -/
def execVmaxa (c : VCtl) (a : Fin 64) (s : State) : Out :=
  done (issueV c [a] (fun _ _ u now =>
    let f := (c.ty.fmt?).getD .fp32
    let x := (rto (image f (extreme f true ((u.taken c a).map (absPair f)))) .fp32).1
    { miss := match u.vBusy now 1 [a] [] [c.p] [] with
        | some m => some m
        | none => if 8 ≤ u.eng.sb.length then some .latch else none
      unit := fun u => { u with eng := { u.eng with sb := u.eng.sb ++ [{ v := x.v, t := x.t, rem := 8, issued := now }] } } })) s
/-- Largest magnitude of a Q4 type: QI runs from −8 to 7 (R62, R322). -/
def q4Max (q : Nat) : Int := if q == 0 then 8 else if q == 1 then 6 else if q == 2 then 8 else 12
/-- The scale byte that VQNT derives (R322). -/
def scaleByte (t : VTy) (q : Nat) (a : XNum) : Nat :=
  match t.fmt? with
  | some g =>
    if a.isNan || a.isZero then 0x7F
    else ((List.range 0xFF).find? (fun (s : Nat) => (a.scale (127 - (s : Int))).le (elemVal g g.maxCode))).getD 0xFE
  | none =>
    if a.isNan || a.isZero then q * 64 + 32
    else
      let emx := if q == 3 then 62 else 63
      q * 64 + ((List.range (emx + 1)).find? (fun (e : Nat) => (a.scale (32 - (e : Int))).le (XNum.ofInt (q4Max q)))).getD emx
/-- VQNT (R321, R322). -/
def execVqnt (c : VCtl) (d a : Fin 64) (src : VTy) (qt : Fin 4) (j : Fin 8) (s : State) : Out :=
  done (issueV c [a] (fun _ _ u now =>
    let e := u.eng.sb.head?
    let sb := match e with
      | some e => scaleByte c.ty qt.val (image .fp32 { v := e.v, t := e.t })
      | none => 0
    let f := (src.fmt?).getD .fp32
    let ls := src.lanes
    let in_ := fun k => j.val * ls ≤ k && k < j.val * ls + ls && u.gov c (k - j.val * ls)
    let res := (List.range c.ty.lanes).map (fun k =>
      if in_ k then
        let r := finalRound c.ty sb (image f ((u.v a).pair src.width (k - j.val * ls))) c.mode
        (({ v := r.1, t := 0 } : Pair), r.2)
      else intLane 0)
    { miss := match u.vBusy now 4 [a] [d] [c.p] [] with
        | some m => some m
        | none => match e with
          | some e => if (if u.ctl.timed then e.issued + 8 == now else e.rem == 0) then none else some .latch
          | none => some .latch
      unit := fun u => { u with eng := { u.eng with sb := u.eng.sb.drop 1 } }
      eff := [{ at_ := now + 4, stream := .v, eff := laneEff u c.ty d in_ (res.map (·.1)) },
              { at_ := now + 4, stream := .v, eff := .qsc j (BitVec.ofNat 8 sb) }] ++ numstAt (now + 4) .v (res.foldl (fun a x => a ||| x.2) 0)
      sig := 4 })) s

end Sys2Proof.Machine
end

