-- ==== Sys2Proof/Machine/Store.lean ====
section
/-! DEFINITION. S: vector stores (R265, R266), header stores (R267), weight updates (R268), vault writes (R246) and PUSH (R261). -/
namespace Sys2Proof.Machine

/-! ## Vector stores -/

/-- Which forms of R266 exist between a lane type and the stored type. -/
def storePair (lane ty : VTy) : Bool :=
  lane.isF || (lane.isI && !ty.isX) || (lane.isX && ty == lane) || (lane.isQ && ty.isQ)
/-- The exact value of a lane (R302, R303). -/
def laneX (t : VTy) (x : Pair) : XNum :=
  match t.fmt? with
  | some f => image f x
  | none => XNum.ofInt (t.intVal x.v)
/-- An element from its lane (R266). -/
def storeCode (lane ty : VTy) (s : Nat) (mode : Mode) (x : Pair) : Nat × NumBits :=
  if lane.isF || (lane.isI && !ty.isI) then finalRound ty s (laneX lane x) mode
  else if lane.isI then (wrap ty.width (lane.intVal x.v), 0)
  else (x.v, 0)
/-- Which lane element k receives (R265). -/
inductive LaneOf where
  | own | first | packed
/-- Block, index in the block, and lane of each element that a store writes (R236, R265). -/
def Layout.stored (l : Layout) (sel : LaneOf) (p : BitVec 1024) : List (Nat × Nat × Nat) :=
  let ones := (List.range l.ltype.lanes).filter (fun k => p.getLsbD k)
  (List.range l.elems).filterMap (fun k =>
    let rc := l.elemAt k
    let lane : Option Nat := match sel with
      | .packed => ones[k]?
      | .own => if p.getLsbD k then some k else none
      | .first => if p.getLsbD k then some 0 else none
    if l.clipped rc.1 rc.2 then none
    else lane.map (fun j => (rc.1 * l.rowBlks + rc.2 / l.perBlk, rc.2 % l.perBlk, j)))
/-- The block writes of a store: a block written whole takes the header, another must have it (R66). -/
def storeWrites (w per : Nat) (addrs : List Dword) (els : List (Nat × Nat × Nat)) (hd : Head) : List (Dword × BlkWrite) :=
  ((List.range addrs.length).zip addrs).filterMap (fun x =>
    match elemsOf els x.1 with
    | [] => none
    | es => some (x.2, if es.length == per then elemWrite w es (some hd) none else elemWrite w es none (some hd)))
/-- The read port of T0, through which a store of a register reads it at issue (R93, R240, R283). -/
def Attempt.readsRow (a : Attempt) (u : UnitSt) (now : Int) (v : Fin 64) : Attempt :=
  let a := a.reads u now (u.vRows [v])
  { a with miss := if u.portFree (.tileR 0) now 1 then a.miss else some .busy
           unit := fun u => (a.unit u).takePort (.tileR 0) now 1 }
/-- VST, VSTS and VSTC (R265, R266). -/
def vectorStore (h : Hdr) (m : SMem) (sel : LaneOf) : Act :=
  issueAs .s h.sync 2 (fun s c u now =>
    let l := u.ly m.y
    let addr := u.memAddr true m.ax m.pi m.disp
    let at_ := l.rowAddr addr
    let bad := if l.fieldBad then some (recordFault 1)
      else if l.ltype.lanes < l.elems then some (recordFault 2)
      else match l.checkRows l.rows at_ [0, 2, 3] with
        | some e => some e
        | none => if m.ty.width != l.w then some (formatFault 2 (at_ 0))
          else if !storePair l.ltype m.ty then some (formatFault 3 (at_ 0)) else none
    match bad with
    | some e => { miss := if s.accessHeld u now || !u.portFree (.tileR 0) now 1 then some .busy else none, fault := some e }
    | none =>
      let row := u.v m.v
      let t := l.tile l.rows at_
      let els := (l.stored sel (u.p m.p)).map (fun e => (e.1, e.2.1, storeCode l.ltype m.ty m.s.val m.mode (row.pair l.ltype.width e.2.2)))
      let hd : Head := { fmt := BitVec.ofNat 8 m.ty.blockCode, scl := if m.ty.isI then 0x7F else BitVec.ofNat 8 m.s.val }
      let ws := storeWrites l.w l.perBlk t.addrs (els.map (fun e => (e.1, e.2.1, e.2.2.1))) hd
      let go := s.store u c .s now t.window t.spans ws (els.foldl (fun a e => a ||| e.2.2.2) 0)
      ({ go with eff := go.eff ++ u.postInc .s true m.ax m.pi m.disp now }).readsRow u now m.v)
/-- VST: lane k to element k. -/
def execVst (h : Hdr) (m : SMem) (s : State) : Out := done (vectorStore h m .own) s
/-- VSTS: lane 0 to every element. -/
def execVsts (h : Hdr) (m : SMem) (s : State) : Out := done (vectorStore h m .first) s
/-- VSTC: the k-th selected lane to element k. -/
def execVstc (h : Hdr) (m : SMem) (s : State) : Out := done (vectorStore h m .packed) s

/-- STH (R267): the header of every block of the tile, at most 256; on chip written at issue + 2. -/
def execSth (h : Hdr) (ax : Fin 8) (pi : Bool) (y : Fin 256) (fmt sc : Fin 256) (s : State) : Out :=
  done (issueAs .s h.sync 2 (fun s c u now =>
    let l := u.ly y
    let addr := u.memAddr true ax pi 0
    let at_ := l.rowAddr addr
    let bad := if l.fieldBad then some (recordFault 1)
      else if 256 < l.blks then some (recordFault 2)
      else l.checkRows l.rows at_ [0, 2, 3]
    match bad with
    | some e => { miss := if s.accessHeld u now then some .busy else none, fault := some e }
    | none =>
      let t := l.tile l.rows at_
      let w : BlkWrite := { mask := 0, data := 0, hd := some { fmt := BitVec.ofNat 8 fmt.val, scl := BitVec.ofNat 8 sc.val }, need := none }
      let ws := t.addrs.map (fun a => (a, w))
      let go := match winMem t.window with
        | some m => s.chipStore u c .s now m ws 1 0
        | none => s.farStore u c .s now ws 0
      { go with eff := go.eff ++ u.postInc .s true ax pi 0 now })) s

/-! ## Weights in place (R268) -/

/-- FORMAT of a block that a SUPD form decodes: a float or Q4 block of the record's class. -/
def supdFault (w : Nat) (h : Head) (a : Dword) : Option FaultRec :=
  let k := formatKind h.fmt w (fun t => t.isF || t.isQ)
  if k != 0 then some (formatFault k a) else none
/-- SUPD.SGD and, with the register of the momentum address, SUPD.MOM (R268). Of the cycles for which it holds the port each port cycle of a plain load
counts two, or four in MOM, and a block is read on the first of them (R330; log entry 47). -/
def supdate (h : Hdr) (m : UMem) (b : Option (Fin 64)) : Act :=
  issueAs .s h.sync 2 (fun s c u now =>
    let l := u.ly m.y
    let addr := u.memAddr true m.ax m.pi m.disp
    let madr := match b with
      | some b => if m.pi then u.sd b else lea (u.sd b) (BitVec.ofInt 64 (64 * m.disp))
      | none => addr
    let at_ := l.rowAddr addr
    let mat := l.rowAddr madr
    let bad := if l.fieldBad || !(l.ltype.isF || l.ltype.isI) then some (recordFault 1)
      else if l.ltype.lanes < l.elems then some (recordFault 2)
      else match l.checkRows l.rows at_ [1, 2, 3] with
        | some e => some e
        | none => l.checkRows l.rows mat [1, 2, 3]
    match bad with
    | some e => { miss := if s.accessHeld u now || !u.portFree (.tileR 0) now 1 then some .busy else none, fault := some e }
    | none =>
      let t := l.tile l.rows at_
      let q := l.tile l.rows mat
      let wm := (winMem t.window).getD .wb
      let mm := (winMem q.window).getD .wb
      let f : Nat := if b.isSome then 4 else 2
      let wocc := f * occOf wm t.spans
      let mocc := f * occOf mm q.spans
      let wdue := now + (2 + wocc : Nat)
      let mdue := if b.isSome then now + (2 + mocc : Nat) else wdue
      let tiles := (wm, t, wocc) :: (if b.isSome then [(mm, q, mocc)] else [])
      let heads := fun (m : Mem) (t : Tile) (occ : Nat) => (t.addrs.zip (portCycles m occ t.addrs)).map (fun x =>
        (blkOf x.1, (s.mem c m).head (blkOf x.1), now + 1 + (f * x.2 : Int)))
      let live := fun (m : Mem) (t : Tile) => t.read.findSome? (fun a => supdFault l.w ((s.mem c m).head (blkOf a)) a)
      let row := u.v m.v
      let els := (List.range l.elems).filterMap (fun k =>
        let rc := l.elemAt k
        if l.clipped rc.1 rc.2 then none
        else some (rc.1 * l.rowBlks + rc.2 / l.perBlk, rc.2 % l.perBlk, laneX l.ltype (row.pair l.ltype.width k)))
      let beta := elemVal .fp32 (bits (u.sd m.a).toNat 63 32)
      let o : SupdOp :=
        { mode := m.mode, w := l.w, lr := image .fp32 ((u.s m.a).pair .fp32), beta := b.map (fun _ => beta), els := els,
          wm := wm, wb := heads wm t (wocc / f), wgot := [], wdue := wdue, mm := mm, mb := if b.isSome then heads mm q (mocc / f) else [], mgot := [], mdue := mdue }
      let free := tiles.all (fun x => u.portFree (readPort x.1) (now + 1) x.2.2 && u.portFree (writePort x.1) (now + 1) x.2.2)
      let miss := match tiles.findSome? (fun x => s.readBlocked u now x.1 (x.2.1.read.map blkOf)) with
        | some k => some k
        | none => if free then none else some .busy
      let fault := match tiles.findSome? (fun x => u.earlyAt now x.1 x.2.1.read) with
        | some e => some e
        | none => tiles.findSome? (fun x => live x.1 x.2.1)
      let last := max wdue mdue
      let go : Attempt :=
        { miss := miss, fault := fault, eff := { at_ := now + 1, stream := .s, eff := .supd o } :: u.postInc .s true m.ax m.pi m.disp now
          unit := fun u =>
            let u := tiles.foldl (fun u x => (u.takePort (readPort x.1) (now + 1) x.2.2).takePort (writePort x.1) (now + 1) x.2.2) u
            let u := { u with eng := { u.eng with sbusy := last } }
            (u.track .s now (last - 2) true).track .s now last false
          sig := (last - now).toNat }
      go.readsRow u now m.v)
/-- SUPD.SGD. -/
def execSupdSgd (h : Hdr) (m : UMem) (s : State) : Out := done (supdate h m none) s
/-- SUPD.MOM. -/
def execSupdMom (h : Hdr) (m : UMem) (b : Fin 64) (s : State) : Out := done (supdate h m (some b)) s

/-! ## Vault writes (R246) -/

/-- The race check of one block of a vault write (R343), and the shadow word that the write leaves. -/
def State.vwrRace (s : State) (c : Col) (e : Extent) (pa : Nat) : Except (Nat × Dword) (Option (BitVec 128)) :=
  if e.sh then (s.shadow (s.who c .s (dieOf c)) true (s.now c) ((s.vault c).shadowOf (pa / 64))).map some else .ok none
/-- The blocks of a vault write land on its issue cycle, but for one that races (R109, R343, R344, R412); the beat lands at its second
placement as one (R121). -/
def vwrLand (c : Col) (pa : Nat) (x : Option (Extent × Nat)) (ws : List (Nat × BlkWrite)) : Act := fun s =>
  match x with
  | none => [.mem c .vault (ws.map (fun w => (pa / 64 + w.1, w.2)))]
  | some (e, va) =>
    let ok := ws.filter (fun w => match s.vwrRace c e (pa + 64 * w.1) with | .ok _ => true | .error _ => false)
    let home := fun (i : Nat) => let p := extPlace e s.pkg.dielist (va + 64 * i); (p.hcol, p.hpa)
    let i := ((ok.head?).map (·.1)).getD 0
    Act.all [Act.each ws (fun w => fun s =>
        match s.vwrRace c e (pa + 64 * w.1) with
        | .error k => deferredFault c .s (raceFault (BitVec.ofNat 64 (va + 64 * w.1)) k) s
        | .ok sh => landBlock c (pa + 64 * w.1) (home w.1) e.cow c w.2 sh s),
      Act.when (!ok.isEmpty) (dualFor c c (va + 64 * i) none c (pa + 64 * i) (home i) (home i == (c, pa + 64 * i)) (ok.map (·.2)))] s
/-- VWR (R246): a WR of the open row performed at issue. -/
def execVwr (h : Hdr) (v : Fin 64) (bank : Fin 16) (col : Fin 32) (q : Fin 4) (buf : Bool) (_ax : Fin 8) (s : State) : Out :=
  done (issueAs .s h.sync 2 (fun s c u now =>
    let t := s.vault c
    let open_ := (t.banks[bank]).row
    let pa := paOf bank (open_.getD 0) col
    let x := if open_.isSome then s.mappedAt u c pa else none
    let cow := match x with
      | some y => y.1.cow
      | none => false
    let old := s.mem c .vault
    let row := u.v v
    let write := fun (i : Nat) =>
      let b := old.blk (pa / 64 + i)
      ({ mask := BitVec.allOnes 512, data := row.part (2 * q.val + i), hd := if b.poisoned then some .raw else none, need := none } : BlkWrite)
    let cmd := Cmd.wr cow
    let go : Attempt :=
      { miss := if t.keeperHolds bank now || s.accessHeld u now || !u.portFree (.tileR 0) now 1 then some .busy else none
        fault := if buf then some (windowFault 5 0)
          else match t.guard cmd bank now with
            | some e => some e
            | none => if t.isLive (pa / 64) || t.isLive (pa / 64 + 1) then some (flt .barrier 6 (BitVec.ofNat 64 pa)) else none
        unit := fun u => (u.takePort (.tileR 0) now 1).track .s now now false
        more := onVault c (fun v => v.command cmd bank 0 0 now)
        after := vwrLand c pa x [(0, write 0), (1, write 1)] }
    go.reads u now (u.vRows [v]))) s

end Sys2Proof.Machine
end

