-- ==== Sys2Proof/Machine/Atomics.lean ====
section
/-! DEFINITION. S: signals and atomics (R270, R271), barriers (R272 to R275), collectives (R276, R277, R364, R409) and PUSH (R261), with the
events in which their words are performed and reported. -/
namespace Sys2Proof.Machine

/-! ## Issue -/

/-- The checks of a target word and an address at issue (R264, R271, R417); ILLEGAL_ENCODING of the word, a register's value, is raised with the
instruction's own faults, at check 6 of R143 (DESIGN CHOICE, log entry 37). -/
def State.atomFault (s : State) (c : Col) (u : UnitSt) (tgt addr : Dword) (len : Nat) : Option FaultRec :=
  let pkg := bits tgt.toNat 28 9
  let v : Col := Fin.ofNat 512 tgt.toNat
  if tgt.toNat / 2 ^ 29 != 0 then some (flt .illegalEncoding)
  else if pkg == 0xFFFFF then
    if 6 ≤ tagOf addr then some (windowFault 1 addr)
    else if 2 ^ 52 < offOf addr + len then some (windowFault 3 addr)
    else if addr.toNat % len != 0 then some (windowFault 4 addr)
    else if tagOf addr != 0 then some (windowFault 5 addr) else none
  else
    match checkAccess addr len len [0, 1, 2, 3] with
    | some e => some e
    | none =>
      if pkg != 0 then none
      else if tagOf addr != 0 then (if s.sameLaunch c v then none else some (flt .priv))
      else if v != c then none
      else match translate s.pkg.dielist u.maps u.maps.current (offOf addr) 3 with
        | .error e => some e
        | .ok _ => none
/-- What a word's operation starts: its way to the target, or, to another package, a report that no formula times (R271, R417). -/
def startAtomic (a : Atomic) : Act := fun s =>
  let c := a.who.col
  let now := s.now c
  let add := fun (a : Atomic) => onWork (fun w => { w with atoms := w.atoms ++ [a] })
  if a.pkg != 0 then
    Act.seq (askPeers [a.pkg]) (draw 9 (fun n =>
      let old : Dword := BitVec.ofNat 64 (packNat 8 ((List.range (Size.bytes a.size)).map (fun i => (Config.fabricByte (n + i)).toNat)))
      Act.all [add { a with placed := true, done := true, result := old }, report (.hostAtom a.pkg (a.target.val * 2 ^ 64 + a.addr.toNat) a.op a.size),
        eventAt c (now + 1 + (Config.fabricCycles n : Int)) (.atomicReport a.id)])) s
  else
    match winMem (tagOf a.addr) with
    | some m =>
      Act.seq (add { a with placed := true, owner := a.target, mem := m, off := offOf a.addr, ret := (s.ow a.target c : Int) })
        (eventAt c (now + (s.ow c a.target : Int) + 1) (.atomicPerform a.id)) s
    | none => Act.seq (add a) (eventAt c (now + (s.ow c a.target : Int)) (.atomicPerform a.id)) s
/-- AMO sequences, which the store stage runs under XPCS until their report is there (R14, R271). -/
def AtomOp.isSeq : AtomOp → Bool
  | .amo .. | .cas .. => true
  | _ => false
/-- Operations of the unit whose report is still awaited (R336). -/
def State.liveAcq (s : State) (u : UnitSt) (now : Int) : List Nat := u.ord.acq.filter (s.awaits u now)
/-- The issue of a word's operation (R270, R271, R336): `rel` and `acq` are the orders it has, `sync` whether it is synchronising. -/
def State.atomic (s : State) (c : Col) (u : UnitSt) (now : Int) (bad : Option FaultRec) (tgt addr : Dword) (op : AtomOp) (z : Size)
    (old rel acq sync : Bool) (scope : Scope) (more : UnitSt → UnitSt) : Attempt :=
  let id := s.nextId + 1
  let v : Col := Fin.ofNat 512 tgt.toNat
  let pkg := bits tgt.toNat 28 9
  Attempt.translated
  { miss := if s.accessHeld u now || (old && u.fifoFull .amf) || (rel && !u.writesDone scope now none) then some .busy
      else if sync then s.syncMiss c u now else none
    fault := match (if sync then s.syncFault c u now else none) with
      | some e => some e
      | none => bad
    eff := if sync then [syncEff .s now] else []
    unit := fun u =>
      let u := u.trackFar id .s now false sync (pkg != 0) (pkg == 0xFFFFF)
      let u := if op.isSeq then { u with eng := { u.eng with xcoll := u.eng.xcoll + 1 } } else u
      let u := if old then u.reserve .amf id else u
      let u := if sync then u.synced now else u
      let u := if acq then { u with ord := { u.ord with acq := s.liveAcq u now ++ [id] } } else u
      more u
    more := fresh (fun id => Act.seq (startAtomic
        { id := id, who := s.who c .s (dieOf v), launch := (s.slot c).launch, target := v, pkg := pkg, addr := addr, op := op, size := z, old := old, placed := false,
          owner := v, mem := .vault, off := 0, loan := none, copy := false, home := (v, 0), cow := false, ret := 0, result := 0, bad := none, done := false, job := s.jobOf c })
      (Act.when sync (refreshFrontier c))) } c u (if v == c && pkg == 0 then [addr] else [])
/-- SIG, AMO and CAS (R271). -/
def wordOp (h : Hdr) (o : At) (op : UnitSt → AtomOp) (old : Bool) : Act :=
  issueAs .s h.sync 2 (fun s c u now =>
    let addr := u.regs.as[o.ax]
    let tgt := s.homeWord c (u.sd o.a)
    s.atomic c u now (s.atomFault c u tgt addr (Size.bytes o.size)) tgt addr (op u) o.size old
      (o.ord == .rel || o.ord == .sc) (o.ord == .acq || o.ord == .sc) (o.ord == .sc) o.scope id)
/-- SIG. -/
def execSig (h : Hdr) (o : At) (op : SigOp) (s : State) : Out := done (wordOp h o (fun u => .sig op (u.sd o.b)) false) s
/-- AMO. -/
def execAmo (h : Hdr) (o : At) (op : AmoOp) (old : Bool) (s : State) : Out := done (wordOp h o (fun u => .amo op (u.sd o.b)) old) s
/-- CAS: S[b] and S[b + 1]. -/
def execCas (h : Hdr) (o : At) (old : Bool) (s : State) : Out :=
  done (wordOp h o (fun u => .cas (u.sd o.b) (u.sd (Fin.ofNat 64 (o.b.val + 1)))) old) s

/-! ## Barriers -/

/-- The place of a barrier word, or what an address raises (R272). -/
def State.barPlace (s : State) (u : UnitSt) (a : Dword) : Except FaultRec Place :=
  match checkAccess a 64 64 [0] with
  | some e => .error e
  | none =>
    match translate s.pkg.dielist u.maps u.maps.current (offOf a) 3 with
    | .error e => .error e
    | .ok p => if p.ext.sh then .ok p else .error (flt .barrier 5 a)
def UnitSt.barSlot (u : UnitSt) (a : Dword) : Option BarSlot := u.ord.slots.find? (fun b => b.va == a.toNat)
def UnitSt.onBar (u : UnitSt) (va : Nat) (f : BarSlot → BarSlot) : UnitSt :=
  { u with ord := { u.ord with slots := u.ord.slots.map (fun b => if b.va == va then f b else b) } }
/-- The target word that names a column of the package. -/
def ownTarget (c : Col) : Dword := BitVec.ofNat 64 c.val
/-- BARDEF (R273). One that faults at the owner leaves the unit the slot (DESIGN CHOICE, log entry 48). -/
def execBardef (h : Hdr) (a : Fin 64) (ax : Fin 8) (scope : Scope) (s : State) : Out :=
  done (issueAs .s h.sync 2 (fun s c u now =>
    let addr := u.regs.as[ax]
    let n := (u.sd a).toNat
    let held := (u.barSlot addr).isSome
    match s.barPlace u addr with
    | .error e => { miss := if s.accessHeld u now then some .busy else none, fault := some e }
    | .ok p =>
      let bad := if 65535 < n then some (flt .barrier 2 addr)
        else if n != 0 && !held && 4 ≤ u.ord.slots.length then some (flt .barrier 3 addr) else none
      let slot : BarSlot := { va := addr.toNat, owner := p.col, pa := p.pa, gen := 0, arrived := false, joined := false, released := false }
      s.atomic c u now bad (ownTarget c) addr (.barDef n) .b64 false false false false scope (fun u =>
        { u with ord := { u.ord with slots :=
          if n == 0 then u.ord.slots.filter (fun b => b.va != addr.toNat) else if held then u.ord.slots else u.ord.slots ++ [slot] } }))) s
/-- BARARV (R274, R336). -/
def execBararv (h : Hdr) (ax : Fin 8) (scope : Scope) (s : State) : Out :=
  done (issueAs .s h.sync 2 (fun s c u now =>
    let addr := u.regs.as[ax]
    let bad := match s.barPlace u addr with
      | .error e => some e
      | .ok _ => match u.barSlot addr with
        | none => some (flt .barrier 4 addr)
        | some b => if b.arrived then some (flt .barrier 1 addr) else none
    s.atomic c u now bad (ownTarget c) addr .barArv .b64 false true false true scope
      (fun u => u.onBar addr.toNat (fun b => { b with arrived := true, joined := false, released := false })))) s
/-- BARWT (R274): issues once the release has reached the unit. -/
def execBarwt (h : Hdr) (ax : Fin 8) (_scope : Scope) (s : State) : Out :=
  done (issueAs .s h.sync 2 (fun s c u now =>
    let addr := u.regs.as[ax]
    let slot := u.barSlot addr
    let bad := match s.barPlace u addr with
      | .error e => some e
      | .ok _ => match slot with
        | none => some (flt .barrier 4 addr)
        | some b => if b.arrived then none else some (flt .barrier 1 addr)
    let waits := match slot with
      | some b => b.arrived && !b.released
      | none => false
    Attempt.translated
    { miss := if bad.isNone && waits then some .busy else s.syncMiss c u now
      fault := match s.syncFault c u now with
        | some e => some e
        | none => bad
      eff := [syncEff .s now]
      unit := fun u => (u.synced now).onBar addr.toNat (fun b => { b with arrived := false, joined := false, released := false })
      more := refreshFrontier c } c u [addr])) s
/-- A column's barrier word as BARRIER_RELEASE names it. -/
def barKey (o : Col) (pa : Nat) : Nat := o.val * 2 ^ 29 + pa
/-- A change to the saved units of a column. -/
def onSaved (c : Col) (f : UnitSt → UnitSt) : Act := fun s =>
  if (s.slot c).saved.isEmpty then [] else onSlot c (fun k => { k with saved := k.saved.map (fun x => { x with unit := f x.unit }) }) s
/-- The unit of a column and its saved units. -/
def State.unitsAt (s : State) (c : Col) : List UnitSt := s.unit c :: (s.slot c).saved.map (·.unit)
/-- BARRIER_RELEASE (R274): the release of a generation reaches a unit. -/
def execBarrierRelease (s : State) : Out :=
  match s.ev with
  | .barrierRelease c word gen =>
    let free := fun (u : UnitSt) => { u with ord := { u.ord with slots := u.ord.slots.map (fun b =>
      if barKey b.owner b.pa == word && b.joined && b.gen == gen then { b with released := true } else b) } }
    done (Act.seq (onUnit c free) (onSaved c free)) s
  | _ => .next s

/-! ## At the word -/

def onAtom (id : Nat) (f : Atomic → Atomic) : Act :=
  onWork (fun w => { w with atoms := w.atoms.map (fun (a : Atomic) => if a.id == id then f a else a) })
/-- An operation is over on the present cycle: its word is written or not, and its report is on its way (R239, R271). -/
def closeAtom (a : Atomic) (old : Dword) (bad : Option FaultRec) (at_ ret : Int) : Act :=
  Act.all [onAtom a.id (fun a => { a with done := true, result := old, bad := bad }), dropTxn a.id,
    onUnit a.who.col (fun u => u.onOutst a.id (fun o => { o with written := some at_ })),
    eventDue a.who.col (at_ + ret) (.atomicReport a.id)]
/-- The word's request reaches its target, where it is translated under the map that is current there (R122, R271, R350). -/
def arriveAtomic (a : Atomic) : Act := fun s =>
  let c := a.who.col
  let v := a.target
  let now := s.now c
  let back := (s.ow v c : Int)
  let fail := fun e => closeAtom a 0 (some e) now back
  if a.who.gen != ((s.dies[dieOf v]).gen)[dieOf v] then []
  else
    match s.targetMaps a.job c v with
    | none => fail (flt .xlate 1 (BitVec.ofNat 64 (a.addr.toNat / 64 * 64)) 0 3) s
    | some m => match translate s.pkg.dielist m m.current (offOf a.addr) 3 with
    | .error e => fail e s
    | .ok p =>
      let t := s.pathTerms v p
      let o := offOf a.addr % 64
      let a' : Atomic := { a with placed := true, owner := p.col, mem := .vault, off := p.pa + o, copy := p.isCopy, home := (p.hcol, p.hpa), cow := p.ext.cow }
      let fb : FarBlk := { va := a.addr, place := some p }
      let arrs := s.farArrs c v now 0 true [fb]
      let least := match arrs with
        | x :: _ => x.form.getD now
        | [] => now
      let open_ : Act := Act.seq (countPages v [(a.addr, some p)]) (fun s => [.txns (s.txns ++ [{ id := a.id, who := a.who, kind := .atom a.id, arrs := arrs }])])
      if p.isLoan then
        Act.all [onAtom a.id (fun _ => { a' with loan := some p.extBlk, ret := back + (t.ret : Int) }), askPeers [p.ext.lpkg], open_, drawLoans arrs,
          eventAt c ((arrs.head?.bind (·.at_)).getD least) (.atomicPerform a.id), onUnit c (fun u => u.onOutst a.id (fun o => { o with wide := true }))] s
      else
        let r := s.farReq a.id a.id 0 a.who v v p a.addr now back.toNat least (.atom a.id)
        Act.all [onAtom a.id (fun _ => { a' with ret := r.ret }), open_, sendReq p.col r] s
/-- The units that have registered a barrier word, each by its column and its launch, after BARDEF n of one (R273). -/
def VaultSt.register (v : VaultSt) (pa n : Nat) (x : Col × Nat) : VaultSt :=
  if n == 0 then
    { v with live := (v.live.map (fun l => if l.pa == pa then { l with users := l.users.filter (fun k => k != x) } else l)).filter (fun l => !l.users.isEmpty) }
  else if v.live.any (fun l => l.pa == pa) then
    { v with live := v.live.map (fun l => if l.pa == pa && !l.users.contains x then { l with users := l.users ++ [x] } else l) }
  else { v with live := v.live ++ [{ pa := pa, users := [x] }] }
/-- The unit of a launch is there at its column, running or saved, and nothing has ended it (R273, R380). -/
def State.unitLives (s : State) (c : Col) (launch : Nat) : Bool :=
  ((s.slot c).launch == launch && !(s.unit c).ctl.dead) || (s.slot c).saved.any (fun k => k.launch == launch)
/-- An arrival has been performed: it joins the word's generation, and the last one releases every unit that arrived in it (R274). -/
def arriveBarrier (c o : Col) (pa w : Nat) : Act := fun s =>
  let g := BitVec.ofNat 16 (barGen w)
  let here := fun (b : BarSlot) => b.owner == o && b.pa == pa
  let join := onUnit c (fun u => { u with ord := { u.ord with slots := u.ord.slots.map (fun b =>
    if here b && b.arrived then { b with joined := true, gen := g } else b) } })
  if barArr w + 1 == barCount w then
    Act.seq join (fun s =>
      let ws := allCols.filter (fun k => (s.unitsAt k).any (fun u => u.ord.slots.any (fun b => here b && b.joined && b.gen == g && !b.released)))
      Act.each ws (fun k => fun s => eventAt c (s.now c + (s.ow o k : Int)) (.barrierRelease k (barKey o pa) g) s) s) s
  else join s
/-- The word is performed where it lies (R271, R273 to R275). -/
def performAtomic (a : Atomic) : Act := fun s =>
  let c := a.who.col
  let now := s.now c
  let blk := a.off / 64
  let b := match a.loan with
    | some x => s.ext.blk x
    | none => (s.mem a.owner a.mem).blk blk
  let o := offOf a.addr % 64
  let w := b.pay.toNat / 2 ^ (8 * o) % 2 ^ Size.bitsOf a.size
  let v := s.vault a.owner
  let atVault := a.mem == .vault && a.loan.isNone
  let live := atVault && v.isLive blk
  let addr : Dword := BitVec.ofNat 64 (a.addr.toNat / 64 * 64)
  let countBad := match a.op with
    | .barDef n => n != 0 && live && barCount w != n
    | _ => false
  let bad := if live && !a.op.isBar then some (flt .barrier 6 addr)
    else if b.poisoned then some (poisonFault addr)
    else if countBad then some (flt .barrier 2 addr) else none
  match bad with
  | some e => closeAtom a 0 (some e) now a.ret s
  | none =>
    let wr := bytesWrite o (Size.bytes a.size) (a.op.apply a.size live w)
    Act.all [
      (match a.loan with
        | some x => Act.all [fun _ => [.ext [(x, wr)]], Act.when a.copy (markExt x true),
            dualFor c a.target (offOf a.addr) (some x) a.owner (a.off - o) a.home (!a.copy) [wr]]
        | none => if a.mem == .vault then landWrite a.owner (a.off - o) (offOf a.addr) a.home a.cow c a.target wr none
          else fun _ => [.mem a.owner a.mem [(blk, wr)]]),
      (match a.op with
        | .barDef n => Act.when (atVault && (n == 0 || s.unitLives c a.launch)) (onVault a.owner (fun v => v.register a.off n (c, a.launch)))
        | .barArv => arriveBarrier c a.owner a.off w
        | _ => Act.none),
      closeAtom a (BitVec.ofNat 64 w) none now a.ret] s
/-- ATOMIC_PERFORM (R271): the operation reaches its target, or its word; a buffer that no unit of the issuer's job has any more drops it (R264). -/
def execAtomicPerform (s : State) : Out :=
  match s.ev with
  | .atomicPerform id =>
    match s.work.atoms.find? (fun a => a.id == id) with
    | none => .next s
    | some a =>
      if a.done then .next s
      else if !a.placed then done (arriveAtomic a) s
      else if a.mem != .vault && a.who.gen != ((s.dies[dieOf a.target]).gen)[dieOf a.target] then .next s
      else if a.mem != .vault && !s.jobAt a.job a.who.col a.target then
        done (closeAtom a 0 (some (flt .xlate 1 (BitVec.ofNat 64 (a.addr.toNat / 64 * 64)) 0 3)) (s.now a.who.col) a.ret) s
      else done (performAtomic a) s
  | _ => .next s
/-- ATOMIC_REPORT (R271): the report reaches the unit, with the old value and any deferred fault. -/
def execAtomicReport (s : State) : Out :=
  match s.ev with
  | .atomicReport id =>
    match s.work.atoms.find? (fun a => a.id == id) with
    | none => .next s
    | some a =>
      let c := a.who.col
      let gone := onWork (fun w => { w with atoms := w.atoms.filter (fun a => a.id != id) })
      if !s.ownOk a.who then done (Act.seq gone (dropResponse (dieOf c))) s
      else done (Act.all [gone, hearPeers (a.pkg :: a.loan.toList.map (· / 2 ^ 46)),
        onUnit c (fun u =>
          let u := u.dropOutst id
          let u := if a.op.isSeq then { u with eng := { u.eng with xcoll := u.eng.xcoll - 1 } } else u
          if a.bad.isSome || u.ctl.dead then u.unreserve .amf id else u.post .amf id a.result),
        (match a.bad with
          | some e => deferredFault c a.who.stream e
          | none => Act.none)]) s
  | _ => .next s

/-! ## Collectives -/

/-- Members of group g: entry g of the job's group table as package and column (R364). -/
def State.groupWord (s : State) (j : Job) (a : Nat) : Nat := s.jobBytes j a 4
def State.groupAt (s : State) (j : Job) : Nat → Nat
  | 0 => offOf j.groups
  | g + 1 => let a := State.groupAt s j g; a + 4 * (1 + s.groupWord j a % 2 ^ 16)
def State.group (s : State) (j : Job) (g : Nat) : List (Nat × Col) :=
  let a := s.groupAt j g
  (List.range (s.groupWord j a % 2 ^ 16)).map (fun i =>
    let w := s.groupWord j (a + 4 * (i + 1))
    (bits w 28 9, Fin.ofNat 512 w))
/-- A collective command: operation, tile address, handle, record (R276, R277). -/
structure CollCmd where
  op   : CollOp
  addr : Dword
  hand : Dword
  y    : Fin 256
def Job.ownPkg (j : Job) (p : Nat) : Bool := p == j.pkg || p == 0
/-- The collective of a handle that has not closed. -/
def State.collOf (s : State) (job : Dword) (h : Dword) : Option Coll :=
  s.work.colls.find? (fun k => k.job == job && k.group == bits h.toNat 15 0 && k.round == BitVec.ofNat 32 (bits h.toNat 47 16) && !k.closing)
def onColl (id : Nat) (f : Coll → Coll) : Act :=
  onWork (fun w => { w with colls := w.colls.map (fun (k : Coll) => if k.id == id then f k else k) })
/-- A member has issued: the collective starts to close once all have, or once one has left (R276, R364; log entry 20). -/
def joinColl (c : Col) (j : Job) (members : List (Nat × Col)) (q : CollCmd) (p : CollPart) : Act := fun s =>
  let here := (members.filter (fun m => j.ownPkg m.1)).map (·.2)
  let gone := here.any (fun v => j.gone.contains (v, BitVec.ofNat 32 (bits q.hand.toNat 47 16)))
  let root := match members with
    | m :: _ => if j.ownPkg m.1 then some m.2 else none
    | [] => none
  let k : Coll := (s.collOf j.handle q.hand).getD
    { id := p.id, job := j.handle, above := (match s.launchOf c with | some b => s.roundRec j b.desc | none => 0), group := bits q.hand.toNat 15 0,
      round := BitVec.ofNat 32 (bits q.hand.toNat 47 16), op := q.op, members := here, remote := members.any (fun m => !j.ownPkg m.1),
      root := root, joined := [], stat := 0, closing := false, written := false, due := [] }
  let joined := k.joined ++ [p]
  let full := here.all (fun v => joined.any (fun x => x.who.col == v))
  let k' := { k with joined := joined, stat := if gone && k.stat = 0 then 2 else k.stat, closing := full && k.stat = 0 && !gone }
  Act.seq (onWork (fun w => { w with colls := w.colls.filter (fun x => x.id != k.id) ++ [k'] }))
    (if k'.stat != 0 then eventAt c (s.now c + 1) (.collectiveClose k.id)
     else if k'.closing then draw 1 (fun n => eventAt c (s.now c + 1 + (Config.collCycles n : Int)) (.collectiveClose k.id))
     else Act.none) s
/-- The places of a tile's blocks, from those of the blocks that clipping leaves to be read and written (R236). -/
def spreadPlaces : List Bool → List Place → List (Option Place)
  | [], _ => []
  | true :: l, ps => none :: spreadPlaces l ps
  | false :: l, p :: ps => some p :: spreadPlaces l ps
  | false :: l, [] => none :: spreadPlaces l []
/-- COLL, and PUSH to CLF, which is a push besides (R276, R277, R351, R364). -/
def State.pushColl (s : State) (c : Col) (u : UnitSt) (now : Int) (q : CollCmd) (push : Bool) : Attempt :=
  let l := u.ly q.y
  let at_ := l.rowAddr q.addr
  let j := s.job (s.jobOf c)
  let members := match j with
    | some j => if j.groups == 0 then [] else s.group j (bits q.hand.toNat 15 0)
    | none => []
  let isIn := match j with
    | some j => members.any (fun m => j.ownPkg m.1 && m.2 == c)
    | none => false
  let held := s.accessHeld u now || u.fifoFull .clf || (push && !u.writesDone .pkg now (some .s))
  let bad := if q.hand.toNat / 2 ^ 48 != 0 then some (flt .illegalEncoding)
    else if !isIn then some (flt .priv)
    else if l.fieldBad then some (recordFault 1)
    else l.checkRows l.rows at_ [0, 2, 3]
  let t := l.tile l.rows at_
  let glob := tagOf (at_ 0) == 0
  let places := if bad.isSome || !glob then .ok [] else (match s.xlate u 0 t.read with
    | .error e => Except.error e
    | .ok _ => s.xlate u 1 t.read)
  let m := (winMem t.window).getD .vault
  match bad, places with
  | some e, _ => { miss := if held then some .busy else none, fault := some e }
  | none, .error e => { miss := if held then some .busy else none, fault := some e }
  | none, .ok ps =>
    Attempt.translated
    { miss := if held then some .busy else s.readBlocked u now m (t.read.map blkOf)
      fault := u.earlyAt now m t.read
      unit := fun u =>
        let u := (u.reserve .clf (s.nextId + 1)).trackFar (s.nextId + 1) .s now true false false
        { u with eng := { u.eng with xcoll := u.eng.xcoll + 1 } }
      more := fresh (fun id =>
        match j with
        | some j => Act.seq (countPages c (t.read.zip (ps.map some)))
            (joinColl c j members q { who := s.who c .s (dieOf c), id := id, lay := u.regs.ly[q.y], addr := q.addr, places := spreadPlaces t.skips ps })
        | none => Act.none) } c u t.read
/-- COLL (R276). -/
def execColl (h : Hdr) (op : CollOp) (a : Fin 64) (y : Fin 256) (b : Fin 64) (s : State) : Out :=
  done (issueAs .s h.sync 2 (fun s c u now => s.pushColl c u now { op := op, addr := u.sd b, hand := u.sd a, y := y } false)) s

/-- PUSH (R261, R277). -/
def execPush (h : Hdr) (v : Fin 64) (f : Fifo) (s : State) : Out :=
  done (issueAs .s h.sync 2 (fun s c u now =>
    let n := (u.v v).data.toNat
    let word := fun (lo : Nat) => BitVec.ofNat 64 (n / 2 ^ lo)
    let op := bits n 63 56
    let go : Attempt := match f with
      | .clf =>
        match CollOp.ofCode op with
        | some o =>
          if bits n 127 64 != 0 || bits n 47 0 != 0 then { fault := some (flt .illegalEncoding) }
          else s.pushColl c u now { op := o, addr := word 192, hand := word 128, y := Fin.ofNat 256 (bits n 55 48) } true
        | none => { fault := some (flt .illegalEncoding) }
      | _ =>
        if 5 ≤ op || bits n 39 0 != 0 then { fault := some (flt .illegalEncoding) }
        else s.pushCopy c u .s now { op := Fin.ofNat 5 op, ys := Fin.ofNat 256 (bits n 55 48), yd := Fin.ofNat 256 (bits n 47 40),
                                     src := word 192, dst := word 128, tgt := if op = 3 || op = 4 then s.homeWord c (word 64) else word 64 }
    go.readsRow u now v)) s

/-! ## The close of a collective -/

/-- Blocks of a member's tile as they stand, an element that its record clips being the fill element (R236). -/
def CollPart.tile (p : CollPart) : Tile := let l := layoutOf p.lay; l.tile l.rows (l.rowAddr p.addr)
def State.collBlks (s : State) (p : CollPart) : List Blk :=
  let t := p.tile
  (layoutOf p.lay).clipAll (((List.range t.addrs.length).zip t.addrs).map (fun x =>
    match p.places.getD x.1 none with
    | some q => if q.isLoan then s.ext.blk q.extBlk else (s.mem q.col .vault).blk (q.pa / 64)
    | none => (s.mem p.who.col ((winMem t.window).getD .sp)).blk (blkOf x.2)))
/-- Whether a value takes the place of another in MAX or MIN; +0 is above −0 (R82, R276). -/
def beats (wantMax : Bool) (x y : XNum) : Bool :=
  match x.cmp y with
  | .lt => !wantMax
  | .gt => wantMax
  | .eq => x.isZero && y.isZero && x.isNeg != y.isNeg && x.isNeg == !wantMax
/-- One element of the result from the members' codes, each under its block's header (of a block that clipping leaves unread, the record's), the
root's among them, for blocks of header h (R276; log entry 20). -/
def collElem (op : CollOp) (h : Head) (root : Nat) (xs : List (Head × Nat)) : Nat × NumBits :=
  let ty := headType h
  let codes := xs.map (·.2)
  let vals := xs.map (fun x => if x.1.scl == 0xFF then XNum.nan else decodeElem (headType x.1) x.1.scl.toNat x.2)
  let pf : NumBits := if xs.any (fun x => x.1.scl == 0xFF) then nPois else 0
  match op with
  | .bcast => (root, 0)
  | .sum =>
    if ty.isI then (wrap ty.width ((xs.map (fun x => (headType x.1).intVal x.2)).foldl (· + ·) 0), 0)
    else
      let x := XNum.sum vals
      let r := finalRound ty h.scl.toNat x.1 .rne
      (r.1, pf ||| x.2 ||| r.2)
  | .max | .min =>
    if vals.any XNum.isNan then let r := finalRound ty h.scl.toNat .nan .rne; (r.1, pf ||| r.2)
    else
      let best := (codes.zip vals).foldl (fun (a : Option (Nat × XNum)) x =>
        match a with
        | none => some x
        | some y => some (if beats (op == .max) x.2 y.2 then x else y)) none
      ((best.map (·.1)).getD 0, 0)
/-- The headers of the members' blocks at position i, but for blocks that clipping leaves unread (R236, R276). -/
def collHeads (all : List (List Blk × List Bool)) (i : Nat) : List Head :=
  all.filterMap (fun m => if m.2.getD i false then none else some (m.1.getD i .clear).hd)
/-- What makes the whole collective fault in every member: headers that differ (R276), blocks that it cannot decode (R65, R69), tiles
that do not cover the same blocks. -/
def collFault (op : CollOp) (w : Nat) (all : List (List Blk × List Bool)) : Option (Nat × FaultRec) :=
  match all with
  | [] => none
  | m0 :: rest =>
    if rest.any (fun m => m.1.length != m0.1.length) then some (0, recordFault 2)
    else (List.range m0.1.length).findSome? (fun i =>
      match collHeads all i with
      | [] => none
      | h :: hs =>
        if hs.any (fun g => g != h) then some (i, formatFault 4 0)
        else if op == .bcast then none
        else
          let k := formatKind h.fmt w (fun _ => true)
          if k != 0 then some (i, formatFault k 0)
          else if h.scl == 0xFF && !((headType h).isF || (headType h).isQ) then some (i, poisonFault 0) else none)
/-- The result into one block of a member's tile: its own elements, under the header that the block keeps; a write to an extent of
GLOBAL meets what any write of the unit meets there (R275, R343). -/
def collWrite (p : CollPart) (i : Nat) (w : BlkWrite) : Act := fun s =>
  let c := p.who.col
  let a := p.tile.addrs.getD i 0
  match p.places.getD i none with
  | none => [.mem c ((winMem p.tile.window).getD .sp) [(blkOf a, w)]]
  | some q =>
    if q.isLoan then Act.all [fun _ => [.ext [(q.extBlk, w)]], Act.when q.isCopy (markExt q.extBlk true), dualFor c c (offOf a) (some q.extBlk) q.col q.pa (q.hcol, q.hpa) (!q.isCopy) [w]] s
    else
      let v := s.vault q.col
      let race : Except (Nat × Dword) (Option (BitVec 128)) :=
        if !q.ext.sh then .ok none
        else match s.shadow p.who false (s.now c) (v.shadowOf (q.pa / 64)) with
          | .error e => .error e
          | .ok x => (s.shadow p.who true (s.now c) x).map some
      if v.isLive (q.pa / 64) then deferredFault c .s (flt .barrier 6 a) s
      else
        match race with
        | .error e => deferredFault c .s (raceFault a e) s
        | .ok sh => landWrite q.col q.pa (offOf a) (q.hcol, q.hpa) q.ext.cow c c w sh s
/-- Every member's tile receives the result, but for blocks that clipping leaves unread (R236, R276), and its sticky bits are set now (R89; DESIGN CHOICE, log entry
20). Its blocks take no beats of a link (DESIGN CHOICE, log entry
66). -/
def closeColl (k : Coll) : Act := fun s =>
  let all : List (List Blk) := k.joined.map (fun p => s.collBlks p)
  let tiles := all.zip (k.joined.map (fun (p : CollPart) => p.tile.skips))
  let l0 := layoutOf ((k.joined.head?.map (·.lay)).getD 0)
  match collFault k.op l0.w tiles with
  | some (i, e) => Act.each k.joined (fun (p : CollPart) => deferredFault p.who.col .s { e with addr := p.tile.addrs.getD i 0 }) s
  | none =>
    let rootBlks : Option (List Blk) := match k.root with
      | some r => ((k.joined.zip all).find? (fun x => x.1.who.col == r)).map (·.2)
      | none => none
    let free := k.remote && !(k.op == .bcast && rootBlks.isSome)
    let res := fun (l : Layout) (i : Nat) =>
      let hd := (collHeads tiles i).headD .raw
      let codes := fun (e : Nat) => all.map (fun bs => ((bs.getD i .clear).hd, elemCode l.w (bs.getD i .clear).pay e))
      let root := fun (e : Nat) => elemCode l.w ((rootBlks.getD []).getD i .clear).pay e
      let spare := (freeBlk (s.free + 66 * i)).pay
      (List.range l.perBlk).map (fun e => if free then (elemCode l.w spare e, (0 : NumBits)) else collElem k.op hd (root e) (codes e))
    Act.all [
      Act.each k.joined (fun (p : CollPart) =>
        let l := layoutOf p.lay
        Act.each (List.range p.tile.addrs.length) (fun (i : Nat) =>
          let r := res l i
          let row := i / max 1 l.rowBlks
          let j := i % max 1 l.rowBlks
          let own := (List.range (min l.perBlk (l.cols - j * l.perBlk))).filter (fun e => !l.clipped row (j * l.perBlk + e))
          let w := elemWrite l.w (own.map (fun e => (e, (r.getD e (0, 0)).1))) none none
          let f := own.foldl (fun a e => a ||| (r.getD e (0, 0)).2) 0
          if p.tile.skips.getD i false then Act.none else Act.seq (collWrite p i w) (onUnit p.who.col (fun u => { u with regs := { u.regs with numst := u.regs.numst ||| f } })))),
      fun s => [.free (s.free + 66 * (all.headD []).length)]] s
/-- A member's CLF word (R277). -/
def Coll.word (k : Coll) : Dword :=
  BitVec.ofNat 64 (k.round.toNat * 2 ^ 32 + k.group % 2 ^ 16 * 2 ^ 16 + k.stat.val * 2 ^ 8 + CollOp.code k.op)
/-- A member's word is delivered: its CLF entry, and its engine. -/
def deliverColl (k : Coll) (c : Col) (id : Nat) : Act :=
  let f := fun (u : UnitSt) =>
    if u.eng.clf.any (fun e => e.id == id) then
      let u := if u.ctl.dead then u.unreserve .clf id else u.post .clf id k.word
      let u := u.dropOutst id
      { u with eng := { u.eng with xcoll := u.eng.xcoll - 1 } }
    else u
  Act.seq (onUnit c f) (onSaved c f)
/-- A member that has issued and is saved: its tile is away until it is restored (log entry 20). -/
def State.awayColl (s : State) (k : Coll) : Bool :=
  k.joined.any (fun p => (s.slot p.who.col).saved.any (fun x => x.unit.eng.clf.any (fun e => e.id == p.id)))
/-- COLLECTIVE_CLOSE (R276, R364, R409): the result is written, or the collective is dropped; then each member's word is delivered on a
cycle of its own (log entry 20), and once all are, the collective counts as closed for its round (R53). -/
def execCollectiveClose (s : State) : Out :=
  match s.ev with
  | .collectiveClose id =>
    match s.work.colls.find? (fun k => k.id == id) with
    | none => .next s
    | some k =>
      let ripe := k.due.filter (fun d => d.2.1 ≤ s.now d.1)
      let ready := !k.joined.isEmpty && (k.stat != 0 || k.closing)
      let away := ready && k.stat == 0 && s.awayColl k
      let starts := ready && !away
      let slot := (List.range k.joined.length).zip k.joined |>.map (fun x =>
        (x.2.who.col, s.now x.2.who.col + 1 + (Config.collCycles (s.free + x.1) : Int), x.2.id))
      let k' := { k with joined := if starts then [] else k.joined, written := k.written || (starts && k.stat = 0),
                         due := k.due.filter (fun d => s.now d.1 < d.2.1) ++ (if starts then slot else []) }
      let ended := k'.due.isEmpty && k'.written && k'.stat = 0
      done (Act.all [
        Act.each ripe (fun d => deliverColl k d.1 d.2.2),
        onColl id (fun _ => k'),
        Act.when away (Act.each (k.joined.take 1) (fun (p : CollPart) => eventAt p.who.col (s.now p.who.col + 2048) (.collectiveClose id))),
        Act.when starts (Act.all [fun s => [.free (s.free + k.joined.length)], Act.when (k.stat == 0) (closeColl k),
          Act.each slot (fun d => eventAt d.1 d.2.1 (.collectiveClose id))]),
        Act.when ended (Act.seq (onWork (fun w => { w with colls := w.colls.filter (fun k => k.id != id) }))
          (fun s => match s.job k.job with
            | some j => Act.seq (addJobWord j k.above wCdone 1)
                (fun s => if s.recordDone j k.above then eventNow (.workRecordCompletion j.handle k.above) s else []) s
            | none => []))]) s
  | _ => .next s

end Sys2Proof.Machine
end

