-- ==== Sys2Proof/Machine/Events.lean ====
section
/-! DEFINITION. Events of a unit: tokens and latch entries that arrive (R21, R36, R320), the realignment cycle (R45, R49), stalls (R50),
completion (R53, R54), deferred faults (R239, R376), and the blocks of the far path on their formula cycles (R133, R134). -/
namespace Sys2Proof.Machine

/-! ## Tokens and entries -/

/-- A token whose remaining cycles have run down. -/
def Fly.ripe (f : Fly) : Bool := f.rem == 0 && !f.held
/-- TOKEN_ARRIVAL (R20, R21): a token reaches its counter. -/
def execTokenArrival (s : State) : Out :=
  match s.ev with
  | .tokenArrival c ix =>
    done (onUnit c (fun u =>
      if u.ord.fly.any (fun f => f.ix == ix && f.ripe) then
        { u with ord := { u.ord with tok := tokAdd u.ord.tok ix, fly := dropFirst (fun f => f.ix == ix && f.ripe) u.ord.fly } }
      else u)) s
  | _ => .next s
/-- LATCH_ENTRY_ARRIVAL (R34, R36): an entry's image is there. -/
def execLatchEntryArrival (s : State) : Out :=
  match s.ev with
  | .latchEntryArrival c x =>
    done (onUnit c (fun u => u.setLatch x (mapFirst (fun e => !e.valid && e.rem == 0) (fun e => { e with valid := true }) (u.latch x)))) s
  | _ => .next s
/-- SCALE_BYPASS_ENTRY_AVAILABLE (R320, R321). -/
def execScaleBypassEntryAvailable (s : State) : Out :=
  match s.ev with
  | .scaleBypassEntryAvailable c =>
    done (onUnit c (fun u => { u with eng := { u.eng with sb := mapFirst (fun e => e.rem == 1) (fun e => { e with rem := 0 }) u.eng.sb } })) s
  | _ => .next s

/-- A unit that runs counts down its tokens, latch entries and scale entries; of a token whose signal cycle is not known yet it counts the cycles that are not left
(R21, R36, R320). -/
def UnitSt.countDown (u : UnitSt) : UnitSt :=
  { u with
    ord := { u.ord with fly := u.ord.fly.map (fun f => { f with rem := if f.held then f.rem + 1 else f.rem - 1 }) }
    eng := { u.eng with
      latches := u.eng.latches.map (fun l => l.map (fun e => if e.valid then e else { e with rem := e.rem - 1 }))
      sb := u.eng.sb.map (fun e => if 1 < e.rem then { e with rem := e.rem - 1 } else e) } }
/-- The tokens and entries that arrive on the unit's present running cycle, which has been counted down; `old` is the unit before that
(R21, R36, R320). -/
def UnitSt.ripeEvents (u old : UnitSt) (c : Col) : List Ev :=
  ((u.ord.fly.filter Fly.ripe).map (fun f => Ev.tokenArrival c f.ix)) ++
    (([.xs, .xr, .xd, .xn] : List Latch).flatMap (fun x => ((u.latch x).filter (fun e => !e.valid && e.rem == 0)).map (fun _ => Ev.latchEntryArrival c x))) ++
    ((old.eng.sb.filter (fun e => e.rem == 1)).map (fun _ => Ev.scaleBypassEntryAvailable c))
/-- A cycle on which the unit runs (R36). -/
def countCycle (c : Col) : Act := fun s =>
  if s.issues c then
    let u := (s.unit c).countDown
    [.unit c u, .agenda ((u.ripeEvents (s.unit c) c).map Task.event ++ s.agenda)]
  else []

/-! ## Alignment, stalls, faults -/

def Strm.atPoint (t : Strm) : Bool :=
  match t.st with
  | .point _ => true
  | _ => false
/-- A stream at the realignment cycle x: released from its point and counted from it, or too late for it (R45). -/
def Strm.realign (t : Strm) (x : Int) : Strm :=
  match t.st with
  | .point _ => { t with st := .run, last := x, due := none }
  | .run => { t with st := .late }
  | _ => t
/-- REALIGNMENT_CYCLE (R45, R49): with every stream of a running unit at its point the unit is timed, unless its launch is declared loose. A handler in K
goes on as it is counted (R378). A cycle that a restore finds behind it, since it fell between the halt and the slot boundary from which D is counted, takes
place on the first cycle of the unit, and its streams count from there (DESIGN CHOICE, log entry 30). -/
def execRealignmentCycle (s : State) : Out :=
  match s.ev with
  | .realignmentCycle c =>
    let u := s.unit c
    if u.ctl.prepped || !u.ctl.rpend then .next s
    else
      let all := u.ctl.strms.all Strm.atPoint
      let runs := s.issues c
      done (Act.seq (onUnit c (fun u => { u with ctl := { u.ctl with
            rpend := false, timed := if all && runs then !u.ctl.decl else u.ctl.timed
            strms := (u.ctl.strms.map (fun t => t.realign (s.now c))).set 0 (
              let k := (u.strm .k).realign (s.now c)
              if u.frm.insv then { u.strm .k with st := k.st } else k) } }))
        (Act.when (all && runs) (armVault c false))) s
  | _ => .next s
/-- STALL (R50): the stalled instruction does not execute. -/
def execStall (s : State) : Out :=
  match s.ev with
  | .stall c x =>
    if s.issues c || ((s.unit c).frm.insv && x == .k) then done (takeFault c x (flt .stall)) s else .next s
  | _ => .next s
/-- DEFERRED_FAULT_REPORT (R239, R376). -/
def execDeferredFaultReport (s : State) : Out :=
  match s.ev with
  | .deferredFaultReport c x f => done (deferredFault c x f) s
  | _ => .next s

/-! ## Completion -/

/-- Every condition of R54 but HALT itself, on a cycle. -/
def UnitSt.quiet (u : UnitSt) (now : Int) : Bool :=
  u.pend.isEmpty && u.ctl.sigs.all (fun x => x.2 ≤ now) && !u.gathering && u.eng.mmas.all (fun m => m.sig ≤ now && m.issue + m.cost ≤ now) &&
    u.eng.cmds.isEmpty && u.ord.outst.all (fun o => o.id == 0 && !o.flying now)
/-- The unit completes on this cycle (R54); a held unit, or one that is to be saved, with a deferred fault in its queue does not, since the fault stops it
when it goes on (R376, R377, R388). -/
def State.haltDone (s : State) (c : Col) : Bool :=
  let u := s.unit c
  match u.ctl.haltAt with
  | some h => h ≤ s.now c && (s.issues c || ((s.slot c).st == .held && !u.frm.insv && !u.ctl.prepped && !u.ctl.dead)) && u.frm.queue.isEmpty && u.quiet (s.now c)
  | none => false
/-- A column leaves the launch whose unit it runs. -/
def leaveLaunch (c : Col) : Act := fun s =>
  match s.launchOf c with
  | some b => leave b.id c s
  | none => []
/-- UNIT_COMPLETION (R53, R54, R273, R338): the column is DONE, its barrier slots are freed, its epoch advances at z + 1, and the launch's
record counts it. -/
def execUnitCompletion (s : State) : Out :=
  match s.ev with
  | .unitCompletion c =>
    if !s.haltDone c then .next s
    else
      let z := s.now c
      let count := match s.launchOf c with
        | some b => match s.job b.job with
          | some j => countItem j b.desc false
          | none => Act.none
        | none => Act.none
      let tick : Pend := { at_ := z + 1, stream := .k, eff := .epoch (z + 1) }
      done (Act.all [dropBarriers c,
        onUnit c (fun u => UnitSt.later { u with ctl := { u.ctl with haltAt := none } } [tick]),
        idleFrom c, onSlot c (fun k => { k with st := .done }), leaveLaunch c, count]) s
  | _ => .next s

/-- SUCC0 to SUCC3 of a descriptor (R361). -/
def State.succs (s : State) (j : Job) (desc : Dword) : List Dword := ([10, 11, 12, 13].map (fun i => s.jobWord j desc i)).filter (fun a => a != 0)
/-- WORK_RECORD_COMPLETION (R53, R360 to R363): the parent counts the record; a launch meets a dependence of its successors; a job is
reported to the host with its record. A completion that has been acted on counts no more. -/
def execWorkRecordCompletion (s : State) : Out :=
  match s.ev with
  | .workRecordCompletion job rec =>
    match s.job job with
    | none => .next s
    | some j =>
      if !s.recordDone j rec || j.ended.contains rec then .next s
      else
        let up := s.jobWord j rec wParent
        let note := onJob job (fun j => { j with ended := rec :: j.ended, cut := j.cut.filter (fun a => a != rec) })
        let succ := if j.placed.contains rec then Act.each (s.succs j rec) (fun a => addJobWord j a wDeps (-1)) else Act.none
        let opens := s.work.snaps.any (fun n => n.job == job && !n.opened && n.round == (s.jobWord j rec wHandle).truncate 32) &&
          j.placed.any (fun d => s.roundRec j d == rec)
        if up == 0 then
          done (Act.all [note, report (.jobDone job ((List.range 8).map (s.jobWord j rec))),
            onWork (fun w => { w with colls := w.colls.filter (fun k => k.job != job) })]) s
        else done (Act.all [note, Act.when (!j.cut.contains rec) (countItem j up false), succ, Act.when opens (eventNow (.snapshotOpen job))]) s
  | _ => .next s

/-! ## The far path -/

def State.txn (s : State) (id : Nat) : Option Txn := s.txns.find? (fun t => t.id == id)
/-- A unit takes FAR_LATE only while it runs timed (R134). -/
def State.lateable (s : State) (c : Col) : Bool := s.issues c && (s.unit c).ctl.timed
/-- FAR_LATE (R134): a block that is not there, or not written, on its formula cycle in timed mode; it lands when it arrives. A block on its way to or from a
target's buffer is late if it is still on its way (R263, R264). -/
def execFarLate (s : State) : Out :=
  match s.ev with
  | .farLate tx k =>
    match s.txn tx with
    | some t =>
      (match t.arrs[k]? with
        | none => .next s
        | some a =>
          if a.late || !s.lateable t.who.col then .next s
          else done (Act.seq (onArr tx k (fun a => { a with late := true })) (takeFault t.who.col t.who.stream (flt .farLate 0 a.va))) s)
    | none =>
      match s.arrived tx with
      | none => .next s
      | some (x, q) =>
        if !s.lateable x.from_ then .next s
        else done (Act.seq (onWork (fun w => { w with xfers := w.xfers.map (fun (y : Xfer) => if y.tx == tx then { y with form := none } else y) }))
          (takeFault x.from_ q.who.stream (flt .farLate 0 x.loc.addr))) s
  | _ => .next s

/-- The landing of a load gives the signal cycle, `n` cycles after its issue: what is left of its tokens' cycles are those on which the unit has not run (R19, R21,
R237). -/
def Fly.release (f : Fly) (id n : Nat) : Fly := if f.tag == id && f.held then { f with held := false, rem := n - f.rem, tag := 0 } else f
def releaseTokens (c : Col) (id n : Nat) : Act := fun s =>
  let mine := ((s.unit c).ord.fly.filter (fun f => f.tag == id && f.held)).map (fun f => f.release id n)
  Act.seq (onUnit c (fun u => { u with ord := { u.ord with fly := u.ord.fly.map (fun f => f.release id n) } }))
    (Act.when (s.issues c) (Act.each (mine.filter Fly.ripe) (fun f => eventNow (.tokenArrival c f.ix)))) s
/-- The cycle on which the fault that a block of a read met is reported: its landing and the return terms (R239). -/
def Arr.report (a : Arr) : Option Int := a.bad.map (fun _ => max (a.form.getD 0) (a.at_.getD 0) + a.ret)
/-- The last block of a load has landed: decode faults first, then the destination, the tokens, the pending blocks (R237, R239); a fault is
reported after the return terms, and the access counts as landed then (R335). -/
def finishLoad (t : Txn) (dst : LoadDst) : Act := fun s =>
  let c := t.who.col
  let x := t.who.stream
  let now := s.now c
  let live := t.arrs.filter (fun (a : Arr) => !a.skip)
  let fault := match dst with
    | .code _ => none
    | _ => dst.fault (live.map (fun (a : Arr) => a.blk.hd)) (live.map (fun (a : Arr) => a.va))
  let lag : Nat := match dst with
    | .latch .. => 2
    | _ => 0
  let badAt := fault.bind (fun e => (live.find? (fun (a : Arr) => a.va == e.addr)).map (fun (a : Arr) => now + a.ret))
  let until_ := t.arrs.foldl (fun m (a : Arr) => max m (a.report.getD m)) (max (now + (lag : Int)) (badAt.getD now))
  let write := match dst with
    | .code _ => Act.none
    | .latch .. => onUnit c (fun u => u.later (dst.pend (dst.clip (t.arrs.map (fun (a : Arr) => a.blk))) x (now + 2)))
    | _ => Act.each (dst.pend (dst.clip (t.arrs.map (fun (a : Arr) => a.blk))) x now) (landEff c)
  Act.all [
    (if t.arrs.any (fun a => a.bad.isSome) then Act.none
      else match fault with
        | some e => eventAt c (badAt.getD now) (.deferredFaultReport c x e)
        | none => write),
    onUnit c (fun u =>
      let u := u.onOutst t.id (fun o => { o with id := 0, written := some until_ })
      let u := { u with ord := { u.ord with pblks := u.ord.pblks.filter (fun p => p.id != t.id) } }
      match dst with
      | .code _ => { u with ctl := { u.ctl with iload := false, kfree := until_ + 1 } }
      | _ => u),
    releaseTokens c t.id ((now + (lag : Int) - t.who.issue).toNat), dropTxn t.id] s
/-- A CODE block that the column holds may stand for the block that was read, word by word (R221, R355; log entry 14). -/
def mixWords (held new : BitVec 512) (n : Nat) : BitVec 512 :=
  BitVec.ofNat 512 (packNat 32 ((List.range 16).map (fun i => ((if Config.codeChoice (n + i) then held else new).extractLsb' (32 * i) 32).toNat)))
/-- A block of an ILOAD lands: checked, and written into the instruction store (R222). -/
def landCode (t : Txn) (off k : Nat) (a : Arr) : Act := fun s =>
  let c := t.who.col
  let u := s.unit c
  match LoadDst.fault (.code off) [a.blk.hd] [a.va] with
  | some e => Act.seq (onArr t.id k (fun a => { a with bad := some e })) (eventAt c (s.now c + a.ret) (.deferredFaultReport c .k e)) s
  | none =>
    let key := match translate s.pkg.dielist u.maps u.maps.current (offOf a.va) 2 with
      | .ok p => some p.key
      | .error _ => none
    let held : Option Blk := match key with
      | some n => (u.ord.codeHeld.find? (fun x => x.1 == n)).map (·.2)
      | none => none
    let pay := match held with
      | some b => mixWords b.pay a.blk.pay s.free
      | none => a.blk.pay
    let b : Blk := { a.blk with pay := pay }
    Act.all [draw 16 (fun _ => Act.none), landEff c { at_ := s.now c, stream := .k, eff := .blocks .store [(off / 64 + k, b.whole)] },
      onUnit c (fun u => { u with ord := { u.ord with codeHeld := match key with
        | some n => (n, b) :: u.ord.codeHeld.filter (fun x => x.1 != n)
        | none => u.ord.codeHeld } })] s
/-- FAR_PATH_DELIVERY (R133, R239): a block of a read lands; a fault that it met at its owner is reported after the return terms. A tile none of
whose blocks is read, and none of which has a place, lands as a whole. -/
def execFarPathDelivery (s : State) : Out :=
  match s.ev with
  | .farPathDelivery tx k =>
    match s.txn tx with
    | none => .next s
    | some t =>
      match t.arrs[k]? with
      | none => .next s
      | some a =>
        if a.del then
          (match t.kind with
            | .load dst => if t.arrs.all (fun a => a.del) then done (finishLoad t dst) s else .next s
            | _ => .next s)
        else
          let c := t.who.col
          let blk := match a.loan with
            | some b => s.ext.blk b
            | none => a.blk
          let a := { a with blk := blk, del := true }
          let t' := { t with arrs := t.arrs.set k a }
          let last := t'.arrs.all (fun a => a.del)
          let raise := match a.bad with
            | some e => eventAt c (s.now c + a.ret) (.deferredFaultReport c t.who.stream e)
            | none => Act.none
          let act := match t.kind with
            | .copy cmd => Act.seq raise (copyGot c cmd k blk a.bad a.ret)
            | .load (.code off) => Act.seq (if a.bad.isSome then raise else landCode t off k a)
                (Act.when last (fun s => finishLoad ((s.txn tx).getD t') (.code off) s))
            | .load dst => Act.seq raise (Act.when last (finishLoad t' dst))
            | _ => Act.none
          done (Act.all [onTxn tx (fun _ => t'), hearPeers (a.loan.toList.map (· / 2 ^ 46)), act]) s
  | _ => .next s

end Sys2Proof.Machine
end

