-- ==== Sys2Proof/Machine/Loader.lean ====
section
/-! DEFINITION. Object images (R179 to R182): their header, their directory and their sections, what the loader rejects (R98, R110, R111,
R180 to R182, R384), and what dispatch makes of them (R181, R182, R367 to R369). -/
namespace Sys2Proof.Machine

/-! ## Bytes of an image -/

/-- The bytes of an image by their file offset. -/
abbrev Img := Nat → Nat
/-- n bytes from an offset, least significant first. -/
def Img.num (f : Img) : Nat → Nat → Nat
  | _, 0 => 0
  | o, n + 1 => f o % 256 + 256 * Img.num f (o + 1) n
/-- An object at a GLOBAL address of a job. -/
def State.objImg (s : State) (j : Job) (a : Dword) : Img := fun o => s.jobBytes j (offOf a + o) 1
def listImg (l : List Byte) : Img := fun o => (l.getD o 0).toNat

/-- A directory entry (R179). -/
structure Sec where
  kind  : Nat
  index : Nat
  size  : Nat
  foff  : Nat
  addr  : Nat
/-- The directory of an image. -/
def Img.secs (f : Img) : List Sec :=
  (List.range (f.num 0x0C 2)).map (fun i =>
    let o := 0x20 + 32 * i
    { kind := f.num o 1, index := f.num (o + 1) 1, size := f.num (o + 4) 4, foff := f.num (o + 8) 8, addr := f.num (o + 16) 8 })
def Img.ofKind (f : Img) (k : Nat) : List Sec := f.secs.filter (fun x => x.kind == k)
def Img.loose (f : Img) : Bool := flag (f.num 6 2)
def Img.hot (f : Img) : Bool := flag (f.num 6 2 / 2)
def Img.floor (f : Img) : Nat := f.num 8 2
def Img.drain (f : Img) : Nat := f.num 0x0A 2
def Img.phase (f : Img) : Nat := f.num 0x0E 2
/-- Bytes of the sections, which time the load (R367). -/
def Img.size (f : Img) : Nat := f.secs.foldl (fun a x => a + x.size) 0
/-- LT (R367). -/
def Img.loadTime (f : Img) : Nat := 2048 + (f.size + 127) / 128

/-- Entries of n bytes in the sections of a kind, by their file offsets. -/
def Img.entries (f : Img) (kind n : Nat) : List Nat :=
  (f.ofKind kind).flatMap (fun x => (List.range (x.size / n)).map (fun i => x.foff + n * i))

/-! ## Sections -/

/-- The section of a stream. -/
def Img.stream (f : Img) (x : Stream) : Option Sec := (f.ofKind 1).find? (fun y => y.index == (Stream.ix x).val)
/-- The words of a stream's section; a stream without one has none (log entry 29). -/
def Img.words (f : Img) (x : Stream) : List Nat :=
  match f.stream x with
  | some y => (List.range (y.size / 4)).map (fun i => f.num (y.foff + 4 * i) 4)
  | none => []
/-- Where sections of given sizes start, each at the next multiple of 64 (R181). -/
def starts : List Nat → Nat → List Nat
  | [], _ => []
  | n :: l, o => let a := (o + 63) / 64 * 64; a :: starts l (a + n)
def Img.sizes (f : Img) : List Nat := streams.map (fun x => 4 * (f.words x).length)
def Img.placed (f : Img) : List (Nat × Nat) := ((starts f.sizes 0).zip f.sizes).map (fun x => (x.1, x.1 + x.2))

/-- One extent record (R111); none where a reserved bit is set or it has no page. -/
def extentOf (n : Nat) : Option Extent :=
  if bits n 203 200 != 0 || bits n 178 175 != 0 || bits n 157 128 != 0 || bits n 101 100 != 0 || bits n 63 48 != 0 || bits n 11 0 != 0 ||
      bits n 99 64 == 0 then none
  else some {
    vpn := bits n 47 12, pages := bits n 99 64, hcol := Fin.ofNat 512 (bits n 127 119), hppn := bits n 118 102,
    col := Fin.ofNat 512 (bits n 187 179), ppn := bits n 174 158, tier := Fin.ofNat 4 (bits n 191 190), worst := Fin.ofNat 4 (bits n 189 188),
    rd := flag (bits n 192 192), w := flag (bits n 193 193), x := flag (bits n 194 194), sh := flag (bits n 195 195), fl := flag (bits n 196 196),
    cow := flag (bits n 197 197), pin := flag (bits n 198 198), hash := flag (bits n 199 199), lpkg := bits n 223 204, loanb := bits n 239 224,
    waitb := bits n 255 240 }
def extHome (e : Extent) : Bool := e.hcol == e.col && e.hppn == e.ppn
/-- What the loader rejects of an extent (R110, R111); an extent on loan does not lie at its home, which is a vault of the package (R109; log entry 29). -/
def extBad (works : List Die) (e : Extent) : Bool :=
  (!e.fl && !extHome e) || (e.sh && (!extHome e || e.tier == 3)) || decide (e.worst < e.tier) ||
    (!e.hash && ((e.tier != 3 && !works.contains (dieOf e.col)) || (e.fl && !works.contains (dieOf e.hcol)) ||
      (e.tier != 3 && !works.contains (dieOf e.hcol))))
/-- The bytes of a map without the headers of its blocks (R180). -/
def Img.mapImg (f : Img) (x : Sec) : Img := fun k => f (x.foff + 66 * (k / 64) + 2 + k % 64)
def risingExt : List Extent → Bool
  | a :: b :: l => decide (a.vpn + a.pages ≤ b.vpn) && risingExt (b :: l)
  | _ => true
/-- A map section (R110, R180); none where it is malformed. More blocks than its records need are so, and bytes after the last record are not looked at (DESIGN
CHOICE, log entry 29). -/
def Img.map? (f : Img) (works : List Die) (x : Sec) : Option (Fin 16 × List Extent) :=
  let g := f.mapImg x
  let hd := g.num 0 32
  let n := bits hd 7 0
  let blks := x.size / 66
  let hdrs := (List.range blks).all (fun b => f (x.foff + 66 * b) == 0x21 && f (x.foff + 66 * b + 1) == 0x7F)
  let es := (List.range n).map (fun i => extentOf (g.num (32 + 32 * i) 32))
  if x.size % 66 != 0 || !hdrs || n == 0 || hd / 2 ^ 12 != 0 || blks != (32 + 32 * n + 63) / 64 || bits hd 11 8 != x.index ||
      es.any Option.isNone then none
  else
    let l := es.filterMap id
    if !risingExt l || l.any (extBad works) || 48 < (l.filter (·.pin)).length then none else some (Fin.ofNat 16 x.index, l)
def Img.maps (f : Img) (works : List Die) : List (Fin 16 × List Extent) := (f.ofKind 2).filterMap (f.map? works)
def Img.phaseMap (f : Img) (works : List Die) : List Extent :=
  (((f.maps works).find? (fun m => m.1.val == f.phase)).map (·.2)).getD []

/-- The first words of K's instructions, as indices into its section, with the word there (R140). -/
def kWalk : Nat → Nat → List Nat → List (Nat × List Nat)
  | 0, _, _ => []
  | _, _, [] => []
  | fuel + 1, i, w :: t =>
    let n := wordCount .k (bits w 24 18)
    (i, w :: t.take 1) :: kWalk fuel (i + n) ((w :: t).drop n)
def Img.kStarts (f : Img) : List (Nat × List Nat) := let ws := f.words .k; kWalk ws.length 0 ws
/-- Drain bounds of the LSETs of K. -/
def Img.lsets (f : Img) : List Nat :=
  f.kStarts.filterMap (fun x => if bits (x.2.getD 0 0) 24 18 == 0x5B then some (bits (x.2.getD 1 0) 21 8) else none)

/-! ## What the loader rejects -/

/-- A bad magic, version, or FLAGS with a reserved bit set; the reserved bytes of the header and of an entry are not looked at (R179; log entry 29). -/
def Img.headBad (f : Img) : Bool := f.num 0 4 != 0x424F584B || f.num 4 2 != 1 || f.num 6 2 / 4 != 0
/-- Stream sections (R181): an index above 5, a size that is no whole number of words, or a second section of a stream is rejected too (log entry 29). -/
def Img.streamBad (f : Img) (room : Nat) : Bool :=
  (f.ofKind 1).any (fun x => 6 ≤ x.index || x.size % 4 != 0) ||
    streams.any (fun x => 1 < ((f.ofKind 1).filter (fun y => y.index == (Stream.ix x).val)).length) ||
    f.placed.any (fun x => room < x.2)
/-- Map sections (R110): an index or a PHASE0 above 15, or a second section of one map is rejected too (log entry 29). -/
def Img.mapBad (f : Img) (works : List Die) : Bool :=
  (f.ofKind 2).any (fun x => 16 ≤ x.index || (f.map? works x).isNone) || 15 < f.phase ||
    (List.range 16).any (fun n => 1 < ((f.ofKind 2).filter (fun x => x.index == n)).length)
/-- A section that is no whole number of entries; the spec names no such rejection (log entry 29). -/
def Img.sizeBad (f : Img) (kind n : Nat) : Bool := (f.ofKind kind).any (fun x => x.size % n != 0)
/-- Record entries whose zero bytes are not zero, which the spec names no rejection for (R180; log entry 29). -/
def Img.recordBad (f : Img) : Bool := f.sizeBad 3 72 || (f.entries 3 72).any (fun o => f.num (o + 1) 7 != 0)
/-- Queue entries (R98, R180): a queue above 15 and zero bytes that are not zero are rejected too (log entry 29). -/
def Img.queueBad (f : Img) : Bool :=
  f.sizeBad 4 16 || (f.entries 4 16).any (fun o => 16 ≤ f o || f.num (o + 1) 7 != 0 || (QCtl.ofWord (BitVec.ofNat 64 (f.num (o + 8) 8))).passes)
/-- The blocks of the data sections: address, and file offset. -/
def Img.data (f : Img) : List (Dword × Nat) :=
  (f.ofKind 5).flatMap (fun x => (List.range (x.size / 66)).map (fun i => (BitVec.ofNat 64 (x.addr + 64 * i), x.foff + 66 * i)))
/-- Data sections (R180, R182): an ADDR that is no multiple of 64 is rejected too (log entry 29). -/
def Img.dataBad (f : Img) (works : List Die) : Bool :=
  f.sizeBad 5 66 || (f.ofKind 5).any (fun x => x.addr % 64 != 0) ||
    f.data.any (fun d =>
      match tagOf d.1 with
      | 0 => 2 ^ 48 < offOf d.1 + 64 || (findExtent (f.phaseMap works) (offOf d.1)).isNone
      | 1 => 2 ^ 21 < offOf d.1 + 64
      | 2 | 3 => 2 ^ 20 < offOf d.1 + 64
      | _ => true)
/-- Wheel entries (R269, R180): zero bits that are not zero are rejected too (log entry 29). -/
def Img.wheelBad (f : Img) : Bool := f.sizeBad 6 8 || (f.entries 6 8).any (fun o => f.num (o + 6) 2 != 0)
/-- Restart entries (R180): a tile above 3 and zero bytes that are not zero are rejected too (log entry 29). -/
def Img.restartBad (f : Img) : Bool :=
  f.sizeBad 7 8 || (f.entries 7 8).any (fun o => f o == 0 || 4 ≤ f o || f.num (o + 1) 3 != 0 || !(f.kStarts.any (fun x => x.1 == f.num (o + 4) 4)))
def Img.drainBad (f : Img) : Bool :=
  12000 < f.drain || f.lsets.any (fun d => 12000 < d || (f.drain != 0 && f.drain < d))
/-- The loader rejects an object; `room` is where the handler range begins (R368). -/
def Img.rejected (f : Img) (works : List Die) (room : Nat) : Bool :=
  f.headBad || f.secs.any (fun x => x.kind == 0 || 7 < x.kind) || f.streamBad room || f.mapBad works || f.recordBad || f.queueBad ||
    f.dataBad works || f.wheelBad || f.restartBad || f.drainBad

/-! ## What dispatch makes of it -/

/-- The header of every block of the instruction store (R181). -/
def codeHead : Head := { fmt := 0x20, scl := 0x7F }
/-- Words from a block's offset on, as writes of whole blocks; `fuel` bounds the blocks. -/
def codeWrites : Nat → Nat → List Nat → List (Nat × BlkWrite)
  | 0, _, _ => []
  | _, _, [] => []
  | n + 1, b, w :: ws =>
    (b, ({ hd := codeHead, pay := BitVec.ofNat 512 (packNat 32 ((w :: ws).take 16)) } : Blk).whole) :: codeWrites n (b + 1) ((w :: ws).drop 16)
/-- The stamp fields of the M section moved by an amount modulo 2^20, except those of IDLE.R (R181, R388). -/
def relocate (by_ : Int) (ws : List Nat) : List Nat :=
  (List.range ws.length).zip ws |>.map (fun x =>
    let w0 := ws.getD (x.1 - 2) 0
    if x.1 % 3 != 2 || (bits w0 24 18 == 0 && bits w0 17 0 == 0x3FFFF) then x.2
    else x.2 / 2 ^ 20 * 2 ^ 20 + wrap 20 ((x.2 % 2 ^ 20 : Nat) + by_))
/-- A handler image in the store, padded with zero words to the size of the range, and TRAPV (R368, R369). -/
def Handler.base (h : Handler) : Nat := 2 ^ 18 - h.size
def Handler.writes (h : Handler) : List (Nat × BlkWrite) :=
  codeWrites (h.size / 64) (h.base / 64) ((List.range (h.size / 4)).map (fun i => (listImg h.bytes).num (4 * i) 4))
def handlerBase (h : Option Handler) : Nat := (h.map Handler.base).getD (2 ^ 18)
/-- The store of a column after a load: every block headed 0x20, 0x7F, the sections, the handler (R181, R369). -/
def Img.storeWrites (f : Img) (base : Int) (h : Option Handler) : List (Nat × BlkWrite) :=
  (List.range 4096).map (fun b => (b, ({ hd := codeHead, pay := 0 } : Blk).whole)) ++
    (streams.zip f.placed).flatMap (fun x =>
      let ws := f.words x.1
      codeWrites ws.length (x.2.1 / 64) (if x.1 == .m then relocate base ws else ws)) ++
    (match h with
      | some h => h.writes
      | none => [])
/-- One data block (R182). A block of a COW extent is first saved for a snapshot of the job, as by a write of the unit's round (R412; DESIGN CHOICE, log
entry 74). -/
def loadBlock (c : Col) (es : List Extent) (a : Dword) (b : Blk) : Act := fun s =>
  match winMem (tagOf a) with
  | some m => [.mem c m [(blkOf a, b.whole)]]
  | none =>
    match findExtent es (offOf a) with
    | none => []
    | some e =>
      let p := extPlace e s.pkg.dielist (offOf a)
      let save := if e.cow && !p.isLoan then s.snapWrite p.col (s.snapOf c) (s.roundOf c) (p.pa / 64) b.whole else (s.vault p.col, [])
      let clean := fun (o : Col) (pa : Nat) => onVault o (fun v =>
        let v := v.dropDirty (pa / 64)
        if e.sh then v.setShadow (pa / 64) 0 else v)
      let put := if p.isLoan then Act.seq (fun _ => [.ext [(p.extBlk, b.whole)]]) (markExt p.extBlk false)
        else Act.all [fun _ => [.vault p.col save.1, .mem p.col .vault save.2], clean p.col p.pa, fun _ => [.mem p.col .vault [(p.pa / 64, b.whole)]]]
      Act.seq put (Act.when p.isCopy (Act.seq (clean p.hcol p.hpa) (fun _ => [.mem p.hcol .vault [(p.hpa / 64, b.whole)]]))) s
def Img.blkAt (f : Img) (o : Nat) : Blk :=
  { hd := { fmt := BitVec.ofNat 8 (f o), scl := BitVec.ofNat 8 (f (o + 1)) }, pay := BitVec.ofNat 512 (f.num (o + 2) 64) }
def Img.loadData (f : Img) (works : List Die) (c : Col) : Act :=
  Act.each f.data (fun d => loadBlock c (f.phaseMap works) d.1 (f.blkAt d.2))
def Img.wheel (f : Img) : List (Nat × Nat × Nat) := (f.entries 6 8).map (fun o => (f.num o 2, f.num (o + 2) 2, f.num (o + 4) 2))
/-- The positions of a unit's declarations (R177). -/
def wheelPos (l : List (Nat × Nat × Nat)) : List Nat := l.flatMap (fun w => (List.range w.2.1).map (fun i => (w.1 + i * w.2.2) % 2048))

/-- Registers at dispatch (R367, R180): zero but for S61, S62, the records, queues and restart entries; NOISEC is the partition's mode. Of two
entries for one of them the later one holds (DESIGN CHOICE, log entry 29). -/
def Img.regs (f : Img) (arg : Dword) (index : Nat) (noise : Fin 3) : Regs :=
  let g := Regs.zero
  { g with
    s := (g.s.set 62 { data := arg, tail := 0 }).set 61 { data := BitVec.ofNat 64 index, tail := 0 }
    ly := (f.entries 3 72).foldl (fun l o => l.set (Fin.ofNat 256 (f o)) (BitVec.ofNat 512 (f.num (o + 8) 64))) g.ly
    qc := (f.entries 4 16).foldl (fun l o => l.set (Fin.ofNat 16 (f o)) (QCtl.ofWord (BitVec.ofNat 64 (f.num (o + 8) 8)))) g.qc
    trs := (f.entries 7 8).foldl (fun l o => l.set (Fin.ofNat 3 (f o - 1)) (BitVec.ofNat 64 (2 ^ 63 + f.num (o + 4) 4))) g.trs
    noisec := BitVec.ofNat 2 noise.val }
/-- The frame's registers at dispatch (R369, R374). -/
def Frame.start (h : Option Handler) : Frame :=
  match h with
  | some h => { Frame.reset with en := true, entry := BitVec.ofNat 18 (h.base + 4 * h.entry), hbase := h.base }
  | none => Frame.reset
/-- The unit at dispatch (R42, R43, R136, R367): K starts loose on the next cycle, the other streams are held; EPOCH and the frontier are the
column's (R339, R340), and the port cycles of incoming requests stay taken. -/
def Img.unitAt (f : Img) (works : List Die) (old : UnitSt) (now : Int) (base : Dword) (pos : Int) (arg : Dword) (index : Nat) (p : Part) : UnitSt :=
  let strms : Vector Strm 6 := .ofFn (fun i =>
    let r := f.placed.getD i.val (0, 0)
    { pc := BitVec.ofNat 64 r.1, lo := r.1, hi := r.2, last := now, due := none, st := if i = 0 then .run else .held })
  { ctl := { Ctl.reset with strms := strms, decl := f.loose, base := base, part := p.num, hot := f.hot, floor := f.floor, drain := f.drain }
    regs := f.regs arg index p.noise
    pend := old.pend.filter (fun q => match q.eff with | .epoch _ => true | _ => false)
    eng := { Eng.reset with inc := old.eng.inc, resv := old.eng.resv }
    maps := ({ MapSt.reset with maps := (f.maps works).foldl (fun l m => l.set m.1 (some m.2)) MapSt.reset.maps, cur := Fin.ofNat 16 f.phase } : MapSt).loadPins (f.phaseMap works)
    ord := { Ordr.reset with epoch := old.ord.epoch, fpos := old.ord.fpos, scpos := pos, wheel := f.wheel, synced := now - 1 }
    frm := Frame.start p.handler }

end Sys2Proof.Machine
end

