-- ==== Sys2Proof/Machine/Launch.lean ====
section
/-! DEFINITION. Launches: dispatch (R365 to R369), hold, release and kill (R377, R380), pre-emption, save and restore (R381 to R389), the
fallow pass (R136, R390). -/
namespace Sys2Proof.Machine

/-! ## The slot table (R365, R366) -/

/-- A command in a column's bind record: dispatch takes it in some states, and clears CMD; in the others it is reported to the Reeve. -/
def command (c : Col) (cmd : SlotCmd) (ok : List SlotState) (act : Act) : Act := fun s =>
  if ok.contains (s.slot c).st then Act.seq (onSlot c (fun k => { k with cmd := .none })) act s
  else Act.seq (onSlot c (fun k => { k with cmd := cmd })) (report (.cmdRefused c cmd)) s
def toState (c : Col) (st : SlotState) : Act := onSlot c (fun k => { k with st := st })

/-- Words of a descriptor (R361). -/
def State.unitCount (s : State) (j : Job) (desc : Dword) : Nat := (s.jobWord j desc 8).toNat % 2 ^ 16
def State.objAddr (s : State) (j : Job) (desc : Dword) (i : Nat) : Dword := s.jobWord j desc (16 + 2 * i)
def State.placeWord (s : State) (j : Job) (desc : Dword) (i : Nat) : Nat := (s.jobWord j desc (17 + 2 * i)).toNat
def State.object (s : State) (j : Job) (desc : Dword) (i : Nat) : Img := s.objImg j (s.objAddr j desc i)

/-- BIND (R366, R367): the load takes LT cycles. -/
def execBind (s : State) : Out :=
  match s.ev with
  | .bind c =>
    let k := s.slot c
    let lt := match (s.launchOf c).bind (fun b => s.job b.job) with
      | some j => (s.object j k.desc k.unit.toNat).loadTime
      | none => 2048
    done (command c .bind [.free, .done]
      (Act.all [toState c .loading, onVault c (fun v => { v with idle := none }), eventAt c (s.now c + (lt : Int)) (.objectLoadComplete c)])) s
  | _ => .next s

/-- A launch that dispatch refuses is killed, and the kill reported (R368, R380, R387). -/
def killLaunch (b : Bound) : Act := Act.seq (report (.killed b.qdie b.q [])) (dropBound b)
/-- The wheel positions of the unit that runs on a column, or that is being restored there (R269, R337). -/
def State.wheelsAt (s : State) (d : Col) : List Nat :=
  let k := s.slot d
  if k.st == .loading then
    match k.saved.find? (fun x => x.launch == k.launch) with
    | some x => wheelPos x.unit.ord.wheel
    | none => []
  else if (s.launchOf d).isSome && [.waitBase, .running, .stopped, .held, .stopping].contains k.st then wheelPos (s.unit d).ord.wheel
  else []
/-- The wheel positions of the other units of a column's partition (R269). -/
def State.otherWheels (s : State) (c : Col) (p : Part) : List Nat := (p.cols.filter (fun d => d != c)).flatMap s.wheelsAt
/-- OBJECT_LOAD_COMPLETE (R180 to R182, R340, R367 to R369): the unit starts at WAITBASE with K loose; an object that the loader rejects, or
whose wheel positions overlap, kills the launch. The object is read, and its data blocks are written, in this one step (DESIGN CHOICE, log entry 17). -/
def execObjectLoadComplete (s : State) : Out :=
  match s.ev with
  | .objectLoadComplete c =>
    let k := s.slot c
    match s.launchOf c, s.partOf c with
    | some b, some p =>
      if k.st != .loading || (s.unit c).ctl.dead then .next s
      else
        match s.job b.job with
        | none => done (toState c .done) s
        | some j =>
          let f := s.object j k.desc k.unit.toNat
          let works := s.pkg.dielist
          if f.rejected works (handlerBase p.handler) || (wheelPos f.wheel).any ((s.otherWheels c p).contains ·) then done (killLaunch b) s
          else
            let base : Int := (k.base.toNat : Int) - s.off c
            done (Act.all [fun _ => [.clear c .store, .mem c .store (f.storeWrites (k.base.toNat : Int) p.handler)],
              f.loadData works c,
              onUnit c (fun u => f.unitAt works u (s.now c) k.base base k.arg k.unit.toNat p),
              toState c .waitBase,
              eventAt c (base + s.bdly) (.frontierRefresh c base)]) s
    | _, _ => .next s
  | _ => .next s

/-! ## Hold, release, kill (R377, R380) -/

/-- HOLD (R366, R377): on account of a fault in one unit, every other unit of its launch but those that stand in a fault of their own. -/
def execHold (s : State) : Out :=
  match s.ev with
  | .hold id by_ =>
    match s.work.bound.find? (fun b => b.id == id && !b.saved) with
    | none => .next s
    | some b => done (Act.each (b.cols.filter (fun c => c != by_ && !b.faulted.contains c && !(s.unit c).ctl.dead))
        (fun c => command c .hold [.running, .waitBase] (toState c .held))) s
  | _ => .next s
/-- A held unit may issue again at its stop positions, loose, and takes its oldest queued fault first (R49, R376, R377). -/
def unhold (c : Col) : Act := fun s =>
  Act.all [onUnit c (fun u => { u with ctl := { u.ctl with timed := false, strms := u.ctl.strms.map (fun t => { t with due := none }) } }),
    toState c .running, countCycle c, fun s => if (s.unit c).frm.queue.isEmpty then [] else deliverQueued c s] s
/-- RELEASE (R366, R377). A wait at IDLE.R goes on as from when it began (R45; DESIGN CHOICE, log entry 11). -/
def execRelease (s : State) : Out :=
  match s.ev with
  | .release id =>
    match s.work.bound.find? (fun b => b.id == id && !b.saved) with
    | none => .next s
    | some b => done (Act.each (b.cols.filter (fun c => (s.slot c).st == .held && !(s.unit c).ctl.dead))
        (fun c => command c .release [.held] (unhold c))) s
  | _ => .next s
/-- KILL (R380). -/
def execKill (s : State) : Out :=
  match s.ev with
  | .kill die q by_ => done (killQueue die q by_) s
  | _ => .next s

/-! ## Pre-emption (R381, R382) -/

/-- PREEMPT (R366, R381): the request reaches each unit at most 1,024 cycles after the boundary; a held unit issues nothing more, and where it has issued HALT
with a fault in its queue, which comes before its completion, the HALT is taken back (R54, R376). -/
def execPreempt (s : State) : Out :=
  match s.ev with
  | .preempt id =>
    match s.work.bound.find? (fun b => b.id == id && !b.saved) with
    | none => .next s
    | some b =>
      done (Act.each b.cols (fun c => fun s =>
        let held := (s.slot c).st == .held
        let now := s.now c
        command c .preempt [.running, .stopped, .held] (Act.all [toState c .stopping,
          onUnit c (fun u => if held && (u.ctl.haltAt.isNone || !u.frm.queue.isEmpty) then
            let u := u.backToHalt
            { u with ctl := { u.ctl with haltAt := none, prepped := true, forced := true, hcyc := now } }
          else u),
          draw 1 (fun n => eventAt c (now + ((1 + Config.requestDelay n % 1024 : Nat) : Int)) (.preemptionRequest c))]) s)) s
  | _ => .next s
def Regs.recomputable (g : Regs) (t : Fin 4) : Bool := t != 0 && (g.trs[Fin.ofNat 3 (t.val - 1)]).getLsbD 63
/-- The row that a product writes on a cycle, if it writes one then (R288). -/
def MmaOp.rowAt (o : MmaOp) (x : Int) : Option (Fin 256) :=
  let j := x - (o.issue + o.cost + 4)
  if 0 ≤ j && j < o.m then some (tileRow o.tile (o.row + j.toNat)) else none
/-- The tiles with RC are discarded, and the products that still write into them stop at once: the rows due from this cycle on are not written (R297).
An engine that such a product holds is free, and no other instruction's write is lost. -/
def UnitSt.discard (u : UnitSt) (now : Int) : UnitSt :=
  let lost := ([1, 2, 3] : List (Fin 4)).filter u.regs.recomputable
  let gone := u.eng.mmas.filter (fun m => lost.contains m.tile && decide (now ≤ m.sig))
  { u with
    ctl := { u.ctl with preempt := some now, lost := lost }
    regs := u.regs.clamp
    pend := u.pend.filter (fun p => match p.eff with
      | .mmaRow id _ => !gone.any (fun m => m.id == id)
      | .row ix _ _ _ => !(p.stream == .m && gone.any (fun m => m.rowAt p.at_ == some ix))
      | _ => true)
    eng := { u.eng with mmas := u.eng.mmas.filter (fun m => !gone.contains m)
                        mbusy := if gone.any (fun m => m.issue + m.cost == u.eng.mbusy) then min u.eng.mbusy now else u.eng.mbusy } }
/-- What K and the special registers take on on their cycle, before a pre-emption request of that cycle. -/
def Pend.beforeRequest (p : Pend) : Bool := !p.eff.captures && (p.stream == .k || match p.eff with
  | .spec .. => true
  | _ => false)
/-- PREEMPTION_REQUEST (R210, R297, R381); it comes before everything else of its cycle but for what K and the special registers take on then: it clamps and
discards what stands on the cycle. -/
def execPreemptionRequest (s : State) : Out :=
  match s.ev with
  | .preemptionRequest c =>
    let now := s.now c
    if (s.slot c).st != .stopping || (s.unit c).ctl.dead then .next s
    else
      done (Act.all [landSome c Pend.beforeRequest, onUnit c (fun u => u.discard now), eventAt c (now + 18001) (.forcedStop c)]) s
  | _ => .next s
/-- FORCED_STOP (R382), once the cycle q + 18,000 is over: every stream stops at its next instruction boundary, K even in supervisor state; a unit that has issued HALT is
left to complete, unless a fault takes the HALT back. -/
def execForcedStop (s : State) : Out :=
  match s.ev with
  | .forcedStop c =>
    let u := s.unit c
    let asked := match u.ctl.preempt with
      | some q => decide (q + 18001 ≤ s.now c)
      | none => false
    if (s.slot c).st != .stopping || u.ctl.dead || u.ctl.prepped || !asked then .next s
    else if u.ctl.haltAt.isSome && !u.frm.insv then done (eventAt c (s.now c + 1) (.forcedStop c)) s
    else done (onUnit c (fun u => { u with ctl := { u.ctl with prepped := true, forced := true, hcyc := s.now c - 1 } })) s
  | _ => .next s
/-- Every issued instruction of a stopped unit has completed, a gather that its MMAG has yet to use among them (R292), collectives apart (R186, R279, R298, R327, R382; log entries 20, 21). -/
def UnitSt.settled (u : UnitSt) (now : Int) : Bool :=
  u.pend.isEmpty && !u.gathering && u.eng.mmas.all (fun m => m.sig ≤ now && m.issue + m.cost ≤ now) && u.eng.cmds.isEmpty &&
    u.ord.outst.all (fun o => (o.id == 0 && !o.flying now) || u.eng.clf.any (fun e => e.id == o.id))

/-! ## The save image (R385) -/

/-- Blocks of the image: where each part begins, from SAVEPG. -/
def imgStore : Nat := 0x4000 / 64
def imgWb : Nat := 0x44000 / 64
def imgAb : Nat := 0x244000 / 64
def imgSp : Nat := 0x344000 / 64
def imgAcc : Nat := 0x444000 / 64
def imgOpa : Nat := 0x46C000 / 64
def imgOpb : Nat := 0x47C000 / 64
def imgLat : Nat := 0x48C000 / 64
def imgPages : Nat := 1174
def imgMagic : Nat := 0x4B534156
/-- A part of the image that is a memory, whole. -/
def imgOf (m : Memory) (page at_ n : Nat) : List (Nat × BlkWrite) := (List.range n).map (fun i => (64 * page + at_ + i, (m.blk i).whole))
def rawWrite (b : Nat) (p : BitVec 512) : Nat × BlkWrite := (b, ({ hd := .raw, pay := p } : Blk).whole)
/-- A row image as ten blocks. -/
def imgRow (r : Row) (b : Nat) : List (Nat × BlkWrite) := (List.range 10).map (fun i => rawWrite (b + i) (r.part i))
/-- K resumes at the loop's LABEL with the count that it was clamped from (case 2 of R211). -/
def SavedUnit.again (k : SavedUnit) : Bool := k.unit.regs.regd && k.unit.regs.clamped && k.unit.regs.lsav != 0
/-- K resumes in supervisor state: only at its stop position, not at a label (R386). -/
def SavedUnit.insv (k : SavedUnit) : Bool := k.unit.frm.insv && k.lost.isEmpty && (k.forced || !k.again)
/-- The header of the control region; its FLAGS give the state at the halt, whatever K resumes in. -/
def SavedUnit.header (k : SavedUnit) (x : Slot) (hcyc : Dword) : BitVec 512 :=
  let flags := boolCode k.forced + 2 * boolCode k.unit.frm.insv + (k.lost.foldl (fun a t => a + 2 ^ (t.val + 4)) 0)
  BitVec.ofNat 512 (imgMagic + 1 * 2 ^ 32 + flags * 2 ^ 48 + hcyc.toNat * 2 ^ 64 + k.unit.ctl.base.toNat * 2 ^ 128 + x.desc.toNat * 2 ^ 192 +
    x.unit.toNat * 2 ^ 256)
/-- A row of the accumulator as it is saved: a discarded tile as zero. -/
def SavedUnit.accRow (k : SavedUnit) (ix : Nat) : Row := if k.lost.any (fun t => t.val == ix / 64) then .zero else k.unit.regs.tiles[Fin.ofNat 256 ix]
def latches : List Latch := [.xs, .xr, .xd, .xn]
/-- Blocks before the entries of the latch of an index, with room for the 32, 16, 8 and 8 entries of R32. -/
def latchAt (i : Nat) : Nat := imgLat + 10 * ([0, 32, 48, 56].getD i 0)
/-- A declaration's beats from a cycle on. -/
def Win.from_ (w : Win) (x : Int) : Win := let first := max x w.first; { w with first := first, n := (w.first + w.n - first).toNat }
/-- The blocks of the save image. -/
def State.saveBlks (s : State) (c : Col) (k : SavedUnit) : List (Nat × BlkWrite) :=
  let p := 64 * k.page
  let lat := fun (l : OpLatch) (b : Nat) => (List.range l.blks.length).zip l.blks |>.map (fun x => (p + b + x.1, ({ hd := l.hd, pay := x.2 } : Blk).whole))
  [rawWrite p (k.header (s.slot c) (BitVec.ofInt 64 (k.hcyc + s.off c)))] ++
    (List.range 255).map (fun i => rawWrite (p + i + 1)
      (BitVec.ofNat 512 (packNat 8 ((List.range 64).map (fun y => (Config.saveByte k.launch (64 * (i + 1) + y)).toNat))))) ++
    imgOf (s.mem c .store) k.page imgStore 4096 ++ imgOf (s.mem c .wb) k.page imgWb 32768 ++ imgOf (s.mem c .ab) k.page imgAb 16384 ++
    imgOf (s.mem c .sp) k.page imgSp 16384 ++
    (List.range 256).flatMap (fun r => imgRow (k.accRow r) (p + imgAcc + 10 * r)) ++ lat k.unit.eng.opa imgOpa ++ lat k.unit.eng.opb imgOpb ++
    (List.range 4).flatMap (fun i => let l := k.unit.latch (latches.getD i .xs)
      (List.range l.length).zip l |>.flatMap (fun e => imgRow e.2.img (p + latchAt i + 10 * e.1)))
/-- SAVE_IMAGE (R385), with the window beats that lay after the stop, served meanwhile or not (R245): the image is written, the column is SAVED, and the Reeve has it made ready for the next launch (R383, R390). -/
def execSaveImage (s : State) : Out :=
  match s.ev with
  | .saveImage c =>
    let u := s.unit c
    match s.launchOf c with
    | none => .next s
    | some b =>
      if (s.slot c).st != .stopping || !u.ctl.prepped || u.ctl.dead then .next s
      else
        let v := s.vault c
        let k : SavedUnit := { launch := b.id, page := (s.slot c).savepg.toNat, index := (s.slot c).unit, unit := u, rows := v.banks.toList.map (·.row),
                               wins := (v.wins.filter (fun w => u.ctl.hcyc < w.last)).map (fun w => w.from_ (u.ctl.hcyc + 1)), hcyc := u.ctl.hcyc, at_ := s.now c, forced := u.ctl.forced, lost := u.ctl.lost }
        done (Act.all [fun s => [.mem c .vault (s.saveBlks c k)], onVault c (fun v => { v with wins := [] }),
          onSlot c (fun x => { x with st := .saved, saved := x.saved ++ [k] }),
          fun s => onBound b.id (fun b => s.markSaved b) s, eventNow (.fallow c)]) s
  | _ => .next s

/-! ## Restore (R385 to R388) -/

/-- A save area that holds an image (R387). -/
def State.imageOk (s : State) (c : Col) (page : Nat) : Bool :=
  let w := (s.mem c .vault).bytes (4096 * page) 6
  w % 2 ^ 32 == imgMagic && w / 2 ^ 32 == 1
def SavedUnit.ofLaunch (id : Nat) (x : Slot) : Option SavedUnit := x.saved.find? (fun k => k.launch == id)
/-- Where K resumes, and the loop registers then (R211, R386). -/
def SavedUnit.resumeK (k : SavedUnit) : Dword × Regs :=
  let g := k.unit.regs
  let t := k.unit.strm .k
  let lbl := fun (n : Nat) => BitVec.ofNat 64 (t.lo + 4 * n)
  let again := k.again
  let g' := if !(g.regd && g.clamped) then g
    else if again then { g with lc := g.lc.set g.lci g.lsav, lreg := g.lreg &&& ~~~(1 <<< 62 : Dword), lsav := 0 }
    else { g with lreg := g.lreg &&& ~~~(3 <<< 62 : Dword) }
  match k.lost with
  | x :: l =>
    let low := l.foldl (fun a y => if y < a then y else a) x
    (lbl (bits (g.trs[Fin.ofNat 3 (low.val - 1)]).toNat 15 0), g')
  | [] =>
    if k.forced then (t.pc, g)
    else if again then (lbl g.label, g') else (t.pc, g')
/-- Rows, latches and entries as the image holds them. -/
def Row.ofParts (f : Nat → BitVec 512) : Row :=
  { data := BitVec.ofNat 4096 (packNat 512 ((List.range 8).map (fun i => (f i).toNat)))
    tail := BitVec.ofNat 1024 (packNat 512 [(f 8).toNat, (f 9).toNat]) }
def Memory.rowAt (m : Memory) (b : Nat) : Row := .ofParts (fun i => (m.blk (b + i)).pay)
def OpLatch.fromImage (l : OpLatch) (m : Memory) (b : Nat) : OpLatch :=
  { l with blks := (List.range l.blks.length).map (fun i => (m.blk (b + i)).pay), hd := if l.blks.isEmpty then l.hd else (m.blk b).hd }
/-- The unit as it restarts at b, D cycles later than it stopped: loose; K and M may issue at b, the other streams count from b (R49, R386,
R388; log entry 30). A stream that waits at its IDLE.R goes on waiting as from when it began (R45; DESIGN CHOICE, log entry 11). -/
def SavedUnit.restored (k : SavedUnit) (m : Memory) (b d : Int) (live : UnitSt) (h : Option Handler) (p : Part) : UnitSt :=
  let u := k.unit
  let at_ := 64 * k.page
  let r := k.resumeK
  let strms := u.ctl.strms.map (fun t => { t with last := b, due := none })
  let strms := (strms.set 0 { strms[(0 : Fin 6)] with pc := r.1, last := b - 1 }).set 3 { strms[(3 : Fin 6)] with last := b - 1 }
  { u with
    ctl := { u.ctl with strms := strms, timed := false, base := BitVec.ofInt 64 ((u.ctl.base.toNat : Int) + d), part := p.num, preempt := none,
                        prepped := false, forced := false, lost := [], dead := false }
    regs := { r.2 with tiles := .ofFn (fun i => m.rowAt (at_ + imgAcc + 10 * i.val)) }
    eng := { u.eng with
      opa := u.eng.opa.fromImage m (at_ + imgOpa), opb := u.eng.opb.fromImage m (at_ + imgOpb)
      latches := .ofFn (fun i =>
        let l := u.eng.latches[i]
        (List.range l.length).zip l |>.map (fun e => { e.2 with img := m.rowAt (at_ + latchAt i.val + 10 * e.1) }))
      inc := live.eng.inc, resv := live.eng.resv }
    maps := { u.maps.moved (b - k.at_) with cache := u.maps.current.filter (·.pin), walks := [] }
    ord := { u.ord with epoch := live.ord.epoch, fpos := live.ord.fpos, oldCode := [], codeHeld := [] }
    frm := match h with
      | some h => { u.frm with insv := k.insv, en := true, entry := BitVec.ofNat 18 (h.base + 4 * h.entry), hbase := h.base }
      | none => { u.frm with insv := k.insv, en := false, hbase := 2 ^ 18 } }
/-- The keeper opens a row in a bank, or leaves it closed, from a cycle on: PRE and ACT at the earliest cycles within the timers of R102; the bank is
held until they are over if that is after cycle b (R106). -/
def VaultSt.setRow (v : VaultSt) (i : Fin 16) (want : Option (Fin 8192)) (from_ b : Int) : VaultSt :=
  let k := v.banks[i]
  if k.row == want then v
  else
    let start := match k.keeper with
      | some y => max y from_
      | none => from_
    let p := after k.act Config.tRAS (after k.wr Config.tWR (after k.rd Config.tRTP start))
    let pre := if k.row.isSome then some p else k.pre
    let hold := fun (x : Int) => if b < x then some x else k.keeper
    match want with
    | none => v.onBank i (fun k => { k with row := none, pre := pre, keeper := hold (p + 1) })
    | some r =>
      let a := v.freeAct 64 (after pre Config.tRP (after k.act Config.tRC (after k.ref Config.tRFCb start)))
      (v.addAct a).onBank i (fun k => { k with row := some r, pre := pre, act := some a, keeper := hold (a + 1) })
/-- The keeper puts the banks back before b, in their order, and the windows come back D cycles later but for beats before b (R106, R245). -/
def VaultSt.putBack (v : VaultSt) (k : SavedUnit) (b d : Int) : VaultSt :=
  let win := fun (w : Win) => ({ w with first := w.first + d } : Win).from_ b
  allBanks.foldl (fun v i => v.setRow i (k.rows.getD i.val none) (b - 1024) b) { v with wins := (k.wins.map win).filter (fun w => 0 < w.n) }
/-- The M section as it stands in the store moves its stamps by D (R388). -/
def State.moveStamps (s : State) (c : Col) (u : UnitSt) (d : Int) : List (Nat × BlkWrite) :=
  let t := u.strm .m
  let m := s.mem c .store
  codeWrites (t.hi - t.lo) (t.lo / 64) (relocate d ((List.range ((t.hi - t.lo) / 4)).map (fun i => m.bytes (t.lo + 4 * i) 4)))
/-- The unit of a saved launch at one of its columns restarts. -/
def restore (id : Nat) (d : Int) (c : Col) : Act := fun s =>
  match SavedUnit.ofLaunch id (s.slot c), s.partOf c with
  | some k, some p =>
    let m := s.mem c .vault
    let b := s.now c
    let back := fun (x : Mem) (at_ n : Nat) => ([.clear c x, .mem c x ((List.range n).map (fun i => (i, (m.blk (64 * k.page + at_ + i)).whole)))] : List Upd)
    let st := if k.insv then SlotState.stopped else .running
    Act.all [fun _ => back .store imgStore 4096, fun _ => back .wb imgWb 32768, fun _ => back .ab imgAb 16384, fun _ => back .sp imgSp 16384,
      fun s => [.mem c .store (s.moveStamps c k.unit d)],
      fun _ => [.mem c .store (match p.handler with | some h => h.writes | none => [])],
      onUnit c (fun u => k.restored m b d u p.handler p),
      onVault c (fun v => v.putBack k b d),
      onSlot c (fun x => { x with st := st, savepg := BitVec.ofNat 17 k.page, unit := k.index, part := p.num, saved := x.saved.filter (fun y => y.launch != id) }),
      Act.when (!k.insv) (onBound id (fun x => { x with faulted := x.faulted.filter (fun d => d != c) })),
      countCycle c] s
  | _, _ => []
/-- The exit latencies (R424). -/
def IdleState.exitNs : IdleState → Nat
  | .c1 => 50 | .c2 => 20000 | .c3 => 200000
/-- The exit latency of the state that a vault's column is in. -/
def VaultSt.exitNs (v : VaultSt) : Nat :=
  match v.idle with
  | none => 0
  | some x => IdleState.exitNs x
/-- The ticks that leaving it takes, at 1.2 GHz (R424). -/
def VaultSt.exitTicks (v : VaultSt) : Nat := v.exitNs * 6 / 5
/-- RESUME (R366, R387, R388): first the load towards the slot boundary b, then, on b, the restart of every unit, which takes its oldest queued fault first
(R376). -/
def execResume (s : State) : Out :=
  match s.ev with
  | .resume id =>
    match s.work.bound.find? (fun b => b.id == id && b.saved) with
    | none => .next s
    | some x =>
      let now := s.partNow x.part
      let ks := x.cols.filterMap (fun c => SavedUnit.ofLaunch id (s.slot c))
      if x.cols.all (fun c => (s.slot c).st == .loading) then
        let d := now - slotAfter (ks.foldl (fun a k => max a k.hcyc) (ks.headD { launch := 0, page := 0, index := 0, unit := .reset, rows := [], wins := [], hcyc := 0, at_ := 0, forced := false, lost := [] }).hcyc)
        done (Act.all [Act.each x.cols (restore id d), onBound id (fun b => { b with saved := false }),
          Act.each x.cols (fun c => fun s => if (s.slot c).st == .running && !(s.unit c).frm.insv then deliverQueued c s else []),
          eventTick (s.tick + 1200000) (.sliceEnd id)]) s
      else if x.cols.any (fun c => match SavedUnit.ofLaunch id (s.slot c) with | some k => !s.imageOk c k.page | none => true) then
        done (killLaunch x) s
      else
        done (draw 1 (fun n =>
          let wake := x.cols.foldl (fun a c => max a (s.vault c).exitTicks) 0
          let b := slotAfter (now + 37600 + 64 + (wake : Int)) + 2048 * ((Config.baseSlack n % 7 : Nat) : Int)
          Act.seq (Act.each x.cols (fun c => command c .resume [.free, .done] (Act.all [
              onSlot c (fun k => { k with st := .loading, launch := id, base := BitVec.ofInt 64 (b + s.off c), desc := x.desc, qdie := x.qdie, qnum := x.q }),
              onVault c (fun v => { v with idle := none })])))
            (eventAtPart x.part b (.resume id)))) s
  | _ => .next s

/-! ## The fallow pass (R136, R366, R390) -/

/-- FALLOW. -/
def execFallow (s : State) : Out :=
  match s.ev with
  | .fallow c =>
    done (command c .fallow [.done, .saved] (Act.seq (toState c .fallow)
      (draw 1 (fun n => eventAt c (s.now c + ((Config.fallowCycles n % 8401 : Nat) : Int)) (.fallowPassComplete c))))) s
  | _ => .next s
/-- A unit that the fallow pass has cleared, every register zero; the column keeps its epoch and its frontier (R339, R340). -/
def UnitSt.cleared (u : UnitSt) : UnitSt :=
  { UnitSt.reset with
    ctl := { Ctl.reset with limit := 0 }
    regs := .zero
    pend := u.pend.filter (fun p => match p.eff with | .epoch _ => true | _ => false)
    eng := { Eng.reset with inc := u.eng.inc, resv := u.eng.resv }
    ord := { Ordr.reset with epoch := u.ord.epoch, fpos := u.ord.fpos } }
/-- FALLOW_PASS_COMPLETE. -/
def execFallowPassComplete (s : State) : Out :=
  match s.ev with
  | .fallowPassComplete c =>
    if (s.slot c).st != .fallow then .next s
    else done (Act.all [onUnit c UnitSt.cleared, fun _ => [.clear c .wb, .clear c .ab, .clear c .sp],
      onVault c (fun v => { v with budget := { v.budget with rewrites := [] } }), toState c .free, idleFrom c]) s
  | _ => .next s

end Sys2Proof.Machine
end

