-- ==== Sys2Proof/Machine/Schedule.lean ====
section
/-! DEFINITION. Launch queues and the shipped policy (R359 to R362, R370, R371), leaders and their handover (R372, R373), partitions
(R357, R358, R390), and jobs as the host places them (R362, R408). -/
namespace Sys2Proof.Machine

/-! ## Queues -/

def State.queue (s : State) (d : Die) (q : Fin 64) : Option Queue := s.work.queues.find? (fun k => k.die == d && k.q == q)
def onQueue (d : Die) (q : Fin 64) (f : Queue → Queue) : Act :=
  onWork (fun w => { w with queues := w.queues.map (fun k => if k.die == d && k.q == q then f k else k) })
/-- A die is throttled while any partition on it runs below 1.2 GHz (R372). -/
def State.throttled (s : State) (d : Die) : Bool := s.parts.any (fun p => p.mhz < Config.clockMHz && p.cols.any (fun c => dieOf c == d))
/-- The leader of a queue: the first die from its home that works, is not throttled and does not drain (R372). -/
def State.leader (s : State) (home : Die) : Option Die :=
  ((List.range 4).map (fun i => Fin.ofNat 4 (home.val + i))).find? (fun d => (s.dies[d]).works && !s.throttled d && !(s.dies[d]).drains)

/-- What a placement refuses of a descriptor (R361). -/
def State.descBad (s : State) (j : Job) (p : Part) (desc : Dword) : Bool :=
  let n := s.unitCount j desc
  let ps := (List.range n).map (s.placeWord j desc)
  let fixed := (ps.filter (fun w => bits w 15 15 == 0)).map (fun w => bits w 8 0)
  let reserved := (s.jobWord j desc 8).toNat / 2 ^ 16 != 0 || (s.jobWord j desc 9).toNat / 16 != 0 || s.jobWord j desc 14 != 0 ||
    s.jobWord j desc 15 != 0 || ps.any (fun w => w / 2 ^ 16 != 0)
  reserved || n == 0 || 512 < n || fixed.any (fun c => !p.cols.any (fun k => k.val == c)) ||
    (List.range fixed.length).any (fun i => (fixed.drop (i + 1)).contains (fixed.getD i 0))
/-- The records of a descriptor's work that stand complete before the job has placed any launch under them: nothing has completed there (log entry 67). -/
def State.standing (s : State) (j : Job) (desc : Dword) : List Dword :=
  (distinct [desc, s.graphOf j desc, s.roundRec j desc, s.jobWord j (s.roundRec j desc) wParent]).filter (fun a => a != 0 && !(s.watched j).contains a && s.recordDone j a)
/-- LAUNCH_PLACEMENT (R224, R359, R361, R362, R372): the leader queues the launch and adds to its DEPS; a request waits for a leader and for
room; a descriptor that is refused counts in its parent. -/
def execLaunchPlacement (s : State) : Out :=
  match s.ev with
  | .launchPlacement id =>
    match s.work.reqs.find? (fun r => r.id == id) with
    | none => .next s
    | some r =>
      let gone := onWork (fun w => { w with reqs := w.reqs.filter (fun r => r.id != id) })
      match s.queue r.die r.q, s.job r.job, s.part r.part with
      | some k, some j, some p =>
        if k.owner != r.part then done gone s
        else if k.leader.isNone || 1024 ≤ k.items.length then
          done (onQueue r.die r.q (fun k => { k with held := if k.held.contains id then k.held else k.held ++ [id] })) s
        else if s.descBad j p r.desc then done (Act.seq gone (dropLaunch r.job r.desc)) s
        else
          let x : Placed := { id := id, desc := r.desc, arg := r.arg, job := r.job, pri := r.pri, placed := s.tick, elig := none }
          done (Act.all [gone, addJobWord j r.desc wDeps (r.deps.zeroExtend 64),
            onQueue r.die r.q (fun k => { k with items := k.items ++ [x] }),
            onWork (fun w => { w with jobs := w.jobs.map (fun (y : Job) =>
              if y.handle == r.job && !y.placed.contains r.desc then { y with placed := y.placed ++ [r.desc], ended := y.ended ++ s.standing j r.desc } else y) })]) s
      | _, _, _ => done gone s
  | _ => .next s

/-! ## The shipped policy (R370) -/

/-- Ticks of the reference clock in 2 ms, and in a slice. -/
def ageTicks : Nat := 2400000
def sliceTicks : Nat := 1200000
/-- A launch that a pass may bind, or resume where it is saved: its queue, its effective priority, since when it is eligible, and the Reeve's choice
within a priority (log entry 29). -/
structure Cand where
  id    : Nat
  qdie  : Die
  q     : Fin 64
  desc  : Dword
  arg   : Dword
  job   : Dword
  pri   : Fin 8
  eff   : Nat
  elig  : Nat
  rnd   : Nat
  turns : Nat
  saved : Bool
/-- WEIGHT of a launch (R361, R370). -/
def State.weight (s : State) (job desc : Dword) : Nat :=
  match s.job job with
  | some j => max 1 (bits (s.jobWord j desc 9).toNat 3 0)
  | none => 1
/-- The turns that a launch has left in its round (R370). -/
def State.turnsOf (s : State) (k : Queue) (job desc : Dword) : Nat :=
  match k.turns.find? (fun t => t.1 == job && t.2.1 == desc) with
  | some t => t.2.2
  | none => s.weight job desc
def effPri (pri waited : Nat) : Nat := min 8 (pri + waited / ageTicks)
/-- The eligible launches of a queue. -/
def State.cands (s : State) (k : Queue) : List Cand :=
  let new := k.items.filterMap (fun x => x.elig.map (fun e =>
    let since := max x.placed e
    ({ id := x.id, qdie := k.die, q := k.q, desc := x.desc, arg := x.arg, job := x.job, pri := x.pri, eff := effPri x.pri.val (s.tick - since), elig := since, rnd := 0, turns := s.turnsOf k x.job x.desc, saved := false } : Cand)))
  let old := (s.work.bound.filter (fun b => b.saved && b.qdie == k.die && b.q == k.q)).map (fun b =>
    ({ id := b.id, qdie := k.die, q := k.q, desc := b.desc, arg := b.arg, job := b.job, pri := b.pri, eff := effPri b.pri.val (s.tick - b.since), elig := b.since, rnd := 0, turns := s.turnsOf k b.job b.desc, saved := true } : Cand))
  new ++ old
/-- The launches that a pass of a queue looks at (R370, R371): the eligible launches in the leader's queues of the partition, and, from the partition's
other queues, those at effective priority 8, whose bound the columns kept for them serve (log entry 29). -/
def State.rivals (s : State) (k : Queue) : List Cand :=
  let all := (s.work.queues.filter (fun q => q.owner == k.owner && q.leader.isSome)).flatMap (fun q =>
    (s.cands q).filter (fun x => q.leader == k.leader || x.eff == 8))
  ((List.range all.length).zip all).map (fun x => { x.2 with rnd := Config.pick (s.free + x.1) })
/-- a goes before b: the higher effective priority; at 8 the older; below, one that has a turn left in the round before one that has none, and else as
the Reeve chooses (R370; log entry 29). -/
def Cand.before (a b : Cand) : Bool :=
  decide (b.eff < a.eff) || (a.eff == b.eff &&
    (if a.eff == 8 then decide (a.elig < b.elig) || (a.elig == b.elig && decide (a.rnd ≤ b.rnd))
     else if (a.turns == 0) != (b.turns == 0) then b.turns == 0 else decide (a.rnd ≤ b.rnd)))
def Cand.of (x : Cand) (k : Queue) : Bool := x.qdie == k.die && x.q == k.q
/-- A launch takes a turn in the round of its priority; where none has one left, a new round begins (R370). -/
def takeTurn (all : List Cand) (x : Cand) : Act :=
  let left := fun (y : Cand) => if y.id == x.id then y.turns - 1 else y.turns
  let round := all.filter (fun y => y.eff == x.eff)
  let anew := round.all (fun y => left y == 0)
  onWork (fun w => { w with queues := w.queues.map (fun (k : Queue) =>
    let mine := round.filter (fun y => y.of k)
    let rest := k.turns.filter (fun t => !mine.any (fun y => y.job == t.1 && y.desc == t.2.1))
    { k with turns := if anew then rest else rest ++ mine.map (fun y => (y.job, y.desc, left y)) }) })
def insertCand (a : Cand) : List Cand → List Cand
  | [] => [a]
  | b :: l => if a.before b then a :: b :: l else b :: insertCand a l
def sortCands (l : List Cand) : List Cand := l.foldl (fun l a => insertCand a l) []

/-- Columns of a partition that no unit occupies. -/
def State.freeCols (s : State) (p : Part) : List Col :=
  p.cols.filter (fun c => ((s.slot c).st == .free || (s.slot c).st == .done) && (s.launchOf c).isNone && (s.dies[dieOf c]).works)
/-- Columns for units, in order: each fixed one as given, each other one freely chosen. -/
def chooseCols : List (Option Col) → List Col → Nat → Option (List Col)
  | [], _, _ => some []
  | some c :: l, fr, n => (chooseCols l fr n).map (fun r => c :: r)
  | none :: l, fr, n =>
    if fr.isEmpty then none
    else
      let c := fr.getD (Config.pick n % fr.length) 0
      (chooseCols l (fr.filter (fun k => k != c)) (n + 1)).map (fun r => c :: r)
/-- The columns that a launch's units need: each fixed one, and `none` for each that may lie anywhere (R361); those of a saved launch are fixed. -/
def State.wants (s : State) (x : Cand) : List (Option Col) :=
  if x.saved then ((s.work.bound.filter (fun b => b.id == x.id)).flatMap (·.cols)).map some
  else
    match s.job x.job with
    | none => []
    | some j => (List.range (s.unitCount j x.desc)).map (fun i =>
        let w := s.placeWord j x.desc i
        if bits w 15 15 == 1 then none else some (Fin.ofNat 512 w))
/-- The columns that a launch would take from some free ones; none where it does not fit (R370). -/
def State.fit (s : State) (x : Cand) (free : List Col) (n : Nat) : Option (List Col) :=
  if x.saved then
    match s.work.bound.find? (fun b => b.id == x.id) with
    | some b => if b.cols.all free.contains then some b.cols else none
    | none => none
  else
    match s.job x.job with
    | none => none
    | some _ =>
      let want := s.wants x
      let fixed := want.filterMap id
      if fixed.all free.contains then chooseCols want (free.filter (fun c => !fixed.contains c)) n else none
/-- The wheel positions of a saved launch that units of the partition have taken meanwhile (R269). -/
def State.wheelTaken (s : State) (id : Nat) (p : Part) : Bool :=
  let mine := s.work.bound.flatMap (fun b => if b.id == id then b.cols.flatMap (fun c =>
    match SavedUnit.ofLaunch id (s.slot c) with
    | some k => wheelPos k.unit.ord.wheel
    | none => []) else [])
  mine.any ((p.cols.flatMap s.wheelsAt).contains ·)

/-- Bind a launch on columns: the bind records of one slot boundary (R365, R367, R424). -/
def bindLaunch (k : Queue) (p : Part) (j : Job) (x : Cand) (cols : List Col) : Act := fun s =>
  let now := p.cyc
  let objs := (List.range cols.length).map (s.object j x.desc)
  let lt := objs.foldl (fun a f => max a f.loadTime) 0
  let wake := cols.foldl (fun a c => max a (s.vault c).exitTicks) 0
  fresh (fun id => draw 1 (fun n =>
    let base := slotAfter (now + (lt + 64 + wake : Nat)) + 2048 * ((Config.baseSlack n % 7 : Nat) : Int)
    let b : Bound := { id := id, desc := x.desc, arg := x.arg, job := x.job, part := p.num, qdie := k.die, q := k.q, cols := cols, faulted := [],
                       since := s.tick, pri := x.pri, saved := false }
    Act.all [onQueue k.die k.q (fun k => { k with items := k.items.filter (fun y => y.id != x.id) }),
      onWork (fun w => { w with bound := w.bound ++ [b],
                                jobs := w.jobs.map (fun (y : Job) => if y.handle == x.job then { y with cols := y.cols ++ cols.filter (fun c => !y.cols.contains c),
                                                                                                         gone := y.gone.filter (fun g => !cols.contains g.1) } else y) }),
      Act.each ((List.range cols.length).zip cols) (fun y =>
        let c := y.2
        let page := Config.savePage id c % (2 ^ 17 - imgPages)
        Act.seq (onSlot c (fun r => { r with base := BitVec.ofInt 64 (base + s.off c), desc := x.desc, savepg := BitVec.ofNat 17 page, part := p.num,
                                             qdie := k.die, qnum := k.q, unit := BitVec.ofNat 9 y.1, cmd := .bind, arg := x.arg, launch := id }))
          (eventNow (.bind c))),
      eventTick (s.tick + sliceTicks) (.sliceEnd id)])) s
/-- A launch whose object asks for a higher floor than the partition's is not bound (R105). -/
def State.floorBad (s : State) (p : Part) (j : Job) (x : Cand) : Bool :=
  (List.range (s.unitCount j x.desc)).any (fun i => p.floor < (s.object j x.desc i).floor)
/-- The columns that a launch at effective priority 8 keeps from those behind it while it waits for more of them (R371; log entry 29). -/
def State.claim (s : State) (x : Cand) (free : List Col) : List Col :=
  if x.eff < 8 then []
  else
    let w := s.wants x
    if w.any Option.isNone then free else free.filter (w.filterMap id).contains
/-- What a pass makes of a launch that fits: nothing, where its wheel positions are taken or its job is gone; it is refused for its floor; or it is bound, or
resumed. -/
inductive Verdict where
  | wait | refuse | go
  deriving DecidableEq, Repr
def State.verdict (s : State) (p : Part) (x : Cand) : Verdict :=
  if x.saved then (if s.wheelTaken x.id p then .wait else .go)
  else
    match s.job x.job with
    | none => .wait
    | some j => if s.floorBad p j x then .refuse else .go
/-- A queue's pass of this slot boundary is still to come. -/
def State.passComes (s : State) (x : Cand) : Bool := s.agenda.contains (.event (.schedulingPass x.qdie x.q))
/-- The launch is bound on columns, resumed, or refused for its floor. -/
def grant (k : Queue) (p : Part) (all : List Cand) (x : Cand) (cols : List Col) : Act := fun s =>
  match s.verdict p x with
  | .wait => []
  | .refuse => Act.seq (onQueue k.die k.q (fun k => { k with items := k.items.filter (fun y => y.id != x.id) })) (dropLaunch x.job x.desc) s
  | .go =>
    if x.saved then Act.seq (takeTurn all x) (eventNow (.resume x.id)) s
    else
      match s.job x.job with
      | none => []
      | some j => Act.all [fun s => [.free (s.free + 2000)], takeTurn all x, bindLaunch k p j x cols] s
/-- A queue's pass over the launches in their order (R370, R371): the first of its own that fits into the columns left free is granted them. A launch of
another queue keeps the columns that it takes, one launch a queue, where that queue's pass is still to come, and always at effective priority 8; `given` are
the queues that have theirs. -/
def tryBind (k : Queue) (p : Part) (all : List Cand) : List Cand → List Col → List (Die × Fin 64) → Act
  | [], _, _ => Act.none
  | x :: l, free, given => fun s =>
    match s.fit x free (s.free + 1000) with
    | none => tryBind k p all l (free.filter (fun c => !(s.claim x free).contains c)) given s
    | some cols =>
      let q := (x.qdie, x.q)
      match s.verdict p x with
      | .wait => tryBind k p all l free given s
      | .refuse => if x.of k then grant k p all x cols s else tryBind k p all l free (q :: given) s
      | .go =>
        if x.of k then grant k p all x cols s
        else if x.eff == 8 || (s.passComes x && !given.contains q) then tryBind k p all l (free.filter (fun c => !cols.contains c)) (q :: given) s
        else tryBind k p all l free given s
/-- SCHEDULING_PASS (R362, R370, R372): one pass per slot boundary per queue, which binds at most one launch. -/
def execSchedulingPass (s : State) : Out :=
  match s.ev with
  | .schedulingPass die q =>
    match s.queue die q with
    | none => .next s
    | some k =>
      match s.part k.owner with
      | none => .next s
      | some p =>
        if k.leader.isNone || p.closing || p.paused || p.cyc % 2048 != 0 then .next s
        else
          let mark := fun (x : Placed) =>
            match s.job x.job with
            | some j => if x.elig.isNone && s.jobWord j x.desc wDeps == 0 then { x with elig := some s.tick } else x
            | none => x
          let led := fun (y : Queue) => if y.leader == k.leader && y.owner == k.owner then { y with items := y.items.map mark } else y
          done (Act.all [onWork (fun w => { w with queues := w.queues.map led }), onQueue die q (fun k => { k with held := [] }),
            Act.each k.held (fun id => eventNow (.launchPlacement id)),
            fun s => let all := sortCands (s.rivals k); tryBind k p all all (s.freeCols p) [] s]) s
  | _ => .next s

/-- Columns that some state of the slot table is about to give free. -/
def State.coming (s : State) (p : Part) : List Col := p.cols.filter (fun c => [.stopping, .saved, .fallow].contains (s.slot c).st)
/-- The launches that wait for the columns of a partition, in the policy's order (R370). -/
def State.waiters (s : State) (p : Part) : List Cand :=
  sortCands ((s.work.queues.filter (fun k => k.owner == p.num && k.leader.isSome)).flatMap s.cands)
/-- What the waiters before one leave it of some columns: each that fits and may go takes its own, and one at effective priority 8 that does not fit keeps
its claim, as in a pass (R370, R371). -/
def State.leftFor (s : State) (p : Part) (x : Cand) : List Cand → List Col → List Col
  | [], free => free
  | y :: l, free =>
    if y.id == x.id then free
    else
      match s.fit y free 0 with
      | some cols => s.leftFor p x l (if s.verdict p y = .go then free.filter (fun c => !cols.contains c) else free)
      | none => s.leftFor p x l (free.filter (fun c => !(s.claim y free).contains c))
/-- An eligible launch needs columns of a bound one: it does not fit into what is free or becomes so and the waiters before it leave, it would fit if the
launches that run at no higher priority made way, and the bound one holds a column that it asks for by its number, or it may lie anywhere (R370). -/
def State.needs (s : State) (p : Part) (b : Bound) (x : Cand) : Bool :=
  let free := s.leftFor p x (s.waiters p) (s.freeCols p ++ s.coming p)
  let made := (s.work.bound.filter (fun y => y.part == b.part && !y.saved && decide (y.pri.val ≤ x.eff))).flatMap (·.cols)
  let w := s.wants x
  decide (b.pri.val ≤ x.eff) && (s.fit x free 0).isNone && (s.fit x (free ++ made.filter (fun c => !free.contains c)) 0).isSome &&
    (w.any Option.isNone || b.cols.any (fun c => w.contains (some c)))
/-- SLICE_END (R370): the launch is pre-empted where an eligible launch of equal or higher effective priority needs its columns. -/
def execSliceEnd (s : State) : Out :=
  match s.ev with
  | .sliceEnd id =>
    match s.work.bound.find? (fun b => b.id == id && !b.saved) with
    | none => .next s
    | some b =>
      match s.part b.part with
      | none => .next s
      | some p =>
        let wanted := (s.work.queues.filter (fun k => k.owner == b.part && k.leader.isSome)).any (fun k => (s.cands k).any (s.needs p b))
        let can := b.cols.all (fun c => [.running, .stopped, .held].contains (s.slot c).st && !(s.unit c).ctl.dead)
        if wanted && can then
          done (eventAtPart b.part (slotAfter p.cyc) (.preempt id)) s
        else done (eventTick (s.tick + (if wanted then 2048 else sliceTicks)) (.sliceEnd id)) s
  | _ => .next s

/-- LEADER_HANDOVER (R372, R373). -/
def execLeaderHandover (s : State) : Out :=
  match s.ev with
  | .leaderHandover die q => done (onQueue die q (fun k => { k with leader := s.leader die })) s
  | _ => .next s

/-! ## The host's commands on partitions and jobs (R357, R390, R418) -/

/-- The Reeves take commands only within an authenticated session (R418). -/
def managed (a : Act) : Act := fun s => if s.pkg.session then a s else []
def distinctCols (l : List Col) : Bool := (List.range l.length).all (fun i => !(l.drop (i + 1)).contains (l.getD i 0))
/-- A vault as a new partition finds it: its banks idle, and no timer that the new count of cycles could break (R106, R357). -/
def VaultSt.rebase (v : VaultSt) (now : Int) : VaultSt :=
  { v with banks := .replicate 16 { Bank.reset with deadline := now + 2340 }, acts := [], lastRd := none, lastWr := none, port := [], wins := [] }
/-- PARTITION_FORMATION (R37, R38, R337, R339, R340, R357, R415). -/
def execPartitionFormation (s : State) : Out :=
  match s.ev with
  | .partitionFormation r =>
    let ref : Die := Fin.ofNat 4 (r.cols.foldl (fun a c => min a (dieOf c).val) 3)
    let zero := r.offs.getD ref.val 0
    let p : Part := { num := r.num, tenant := r.tenant, cols := r.cols, ref := ref, floor := r.floor, mhz := Config.clockMHz, cyc := r.start, acc := 0,
                      paused := false, offs := .ofFn (fun i => r.offs.getD i.val 0 - zero), queues := r.queues, handler := none, board := [], pubs := [],
                      heated := [], pausedAt := 0, pausedBy := [], atFloor := none, stepped := 0, noise := 0, closing := false }
    let ok := s.pkg.ready && !r.cols.isEmpty && distinctCols r.cols && (s.part r.num).isNone && 600 ≤ r.floor && r.floor ≤ Config.clockMHz &&
      r.cols.all (fun c => s.pkg.dielist.contains (dieOf c) && (s.partOf c).isNone && (s.slot c).st == .free && !s.work.loans.any (fun l => l.col == c)) &&
      r.queues.all (fun y => (s.queue y.1 y.2).isNone && r.cols.any (fun c => dieOf c == y.1))
    done (managed (if !ok then report (.partitionRefused r.num)
      else Act.all [fun s => [.parts (s.parts ++ [p])],
        onWork (fun w => { w with queues := w.queues ++ r.queues.map (fun y =>
          { die := y.1, q := y.2, owner := r.num, leader := s.leader y.1, items := [], held := [], turns := [] }) }),
        Act.each r.cols (fun c => Act.seq (onUnit c (fun u => { u with ord := { u.ord with epoch := 0, scpos := 0, fpos := r.start }, pend := [] }))
          (onVault c (fun v => v.rebase r.start)))])) s
  | _ => .next s
/-- PARTITION_RELEASE (R137, R390): with no work left, its columns pass through the fallow pass and its vaults through the vault pass. -/
def execPartitionRelease (s : State) : Out :=
  match s.ev with
  | .partitionRelease num =>
    match s.part num with
    | none => done (managed (report (.partitionRefused num))) s
    | some p =>
      let busy := s.work.bound.any (fun b => b.part == num) || s.work.reqs.any (fun r => r.part == num) ||
        s.work.queues.any (fun k => k.owner == num && !k.items.isEmpty) || p.closing
      done (managed (if busy then report (.partitionRefused num)
        else Act.all [onPart num (fun p => { p with closing := true }),
          Act.each (p.cols.filter (fun c => (s.slot c).st == .done)) (fun c => eventNow (.fallow c)),
          eventAtPart num (p.cyc + 2 ^ 22) (.vaultPassComplete num)])) s
  | _ => .next s
/-- A vault that the fallow pass or boot has cleared: no shadow, no dirty block, no barrier word (R137, R342, R420). -/
def VaultSt.wiped (v : VaultSt) : VaultSt := { v with shadow := [], dirty := [], saved := [], drain := [], live := [], budget := { v.budget with fallow := [] } }
/-- VAULT_PASS_COMPLETE (R137, R390): the pages of the partition's vaults are cleared with the last cycle of the pass (log entry 21). -/
def execVaultPassComplete (s : State) : Out :=
  match s.ev with
  | .vaultPassComplete num =>
    match s.part num with
    | none => .next s
    | some p =>
      if !p.closing then .next s
      else done (Act.all [Act.each p.cols (fun c => Act.seq (fun _ => [.clear c .vault]) (onVault c VaultSt.wiped)),
        fun s => [.parts (s.parts.filter (fun q => q.num != num)), .timers (s.timers.filter (fun t => t.part != some num))],
        onWork (fun w => { w with queues := w.queues.filter (fun k => k.owner != num) }),
        Act.each p.cols idleFrom, report (.partitionReady num)]) s
  | _ => .next s
/-- ROOT_LAUNCH_PLACEMENT (R362, R364, R408): the job is recorded, and its root launch placed with deps 0. -/
def execRootLaunchPlacement (s : State) : Out :=
  match s.ev with
  | .rootLaunchPlacement r =>
    let j : Job := { handle := r.handle, part := r.part, root := r.desc, groups := r.groups, pkg := r.pkg, map := r.map, placed := [], cols := [],
                     ended := [], cut := [], gone := [], log := [], storage := none, reserves := [] }
    let ended := match s.job r.handle with
      | some j => s.recordDone j (s.jobRec j)
      | none => true
    let owns := match s.queue r.die r.q with
      | some k => k.owner == r.part
      | none => false
    done (managed (Act.when (ended && owns) (Act.seq
      (onWork (fun w => { w with jobs := w.jobs.filter (fun k => k.handle != r.handle) ++ [j] }))
      (fresh (fun id => Act.seq
        (onWork (fun w => { w with reqs := w.reqs ++ [{ id := id, die := r.die, q := r.q, part := r.part, desc := r.desc, arg := r.arg, job := r.handle, pri := r.pri, deps := 0 }] }))
        (eventNow (.launchPlacement id))))))) s
  | _ => .next s
/-- HANDLER_INSTALL (R369). -/
def execHandlerInstall (s : State) : Out :=
  match s.ev with
  | .handlerInstall num object entry =>
    let f := listImg object
    let ok := match f.secs with
      | [x] => !f.headBad && x.kind == 1 && x.index == 0 && x.size % 4 == 0 && x.size ≤ 2 ^ 14 && entry < x.size / 4
      | _ => false
    let sec := f.secs.headD { kind := 0, index := 0, size := 0, foff := 0, addr := 0 }
    let h : Handler := { bytes := (List.range sec.size).map (fun i => BitVec.ofNat 8 (f (sec.foff + i))), size := (sec.size + 4095) / 4096 * 4096, entry := entry }
    done (managed (if ok && (s.part num).isSome then onPart num (fun p => { p with handler := some h }) else report (.handlerRefused num))) s
  | _ => .next s
/-- NOISE_MODE (R418, R422): the mode that dispatch gives the units bound from now on. -/
def execNoiseMode (s : State) : Out :=
  match s.ev with
  | .noiseMode num mode => done (managed (onPart num (fun p => { p with noise := mode }))) s
  | _ => .next s
/-- LOGGED_WORDS_SUPPLY (R422): in replay mode the Reeve supplies the next words of the log. -/
def execLoggedWordsSupply (s : State) : Out :=
  match s.ev with
  | .loggedWordsSupply c words => done (onUnit c (fun u => { u with eng := { u.eng with supply := u.eng.supply ++ words } })) s
  | _ => .next s

end Sys2Proof.Machine
end

