-- ==== Sys2Proof/Machine/Management.lean ====
section
/-! DEFINITION. The host and the management channel (R416 to R421), loans (R415), snapshots (R410 to R414), LATTOL and PLIM (R424, R425). -/
namespace Sys2Proof.Machine

/-- MANAGEMENT_SESSION (R418). -/
def execManagementSession (s : State) : Out :=
  match s.ev with
  | .managementSession authentic => done (onPkg (fun p => { p with session := authentic && p.ready })) s
  | _ => .next s
/-- PLIM (R418, R425): clamped to 1,000 to 3,200 W; a command of the session (log entry 69). -/
def execPlim (s : State) : Out :=
  match s.ev with
  | .plim watts => done (managed (onPkg (fun p => { p with plim := min 3200 (max 1000 watts) }))) s
  | _ => .next s
/-- LATTOL (R424): a column leaves a state that the new tolerance forbids; the state that it allows is entered again at once, since the idle time counts on. -/
def execLattol (s : State) : Out :=
  match s.ev with
  | .lattol ns => done (Act.seq (onPkg (fun p => { p with lattol := ns }))
      (Act.each (allCols.filter (fun c => ns.toNat < (s.vault c).exitNs)) (fun c => onVault c (fun v => { v with idle := none })))) s
  | _ => .next s
/-- DIE_DRAIN (R372). -/
def execDieDrain (s : State) : Out :=
  match s.ev with
  | .dieDrain d on => done (managed (onDie d (fun x => { x with drains := on }))) s
  | _ => .next s
/-- ATTESTATION_REPORT (R421): identity, image hash, dielist, partition and tenant, and nonce, with the die's signature over them (log entry 23). -/
def execAttestationReport (s : State) : Out :=
  match s.ev with
  | .attestationReport d num nonce =>
    let tenant := ((s.part num).map (·.tenant)).getD 0
    let sig := Config.sign d ([Config.identity, Config.imageHash, s.pkg.dielist.length] ++ s.pkg.dielist.map (·.val) ++ [num.toNat, tenant, nonce])
    done (managed (report (.attestation { identity := Config.identity, image := Config.imageHash, dielist := s.pkg.dielist, part := num,
                                          tenant := tenant, nonce := nonce, sig := sig }))) s
  | _ => .next s

/-! ## BAR2 and the host release (R416, R419) -/

/-- The vault byte that an offset of the window names. -/
def barCol (off : Nat) : Col := Fin.ofNat 512 (off / 2 ^ 29)
def byteWrite (pa : Nat) (v : Byte) : Nat × BlkWrite := (pa / 64, bytesWrite (pa % 64) 1 v.toNat)
/-- A column whose vault the keeper serves to the host. -/
def State.barServed (s : State) (c : Col) : Bool := [.free, .done, .saved].contains (s.slot c).st && s.pkg.dielist.contains (dieOf c)
/-- HOST_BAR2_ACCESS (R416, R424): served, and waking the column, or completed with Completer Abort and no effect. -/
def execHostBar2Access (s : State) : Out :=
  match s.ev with
  | .hostBar2Access write off bytes =>
    if 2 ^ 38 < off + bytes.length then .fault .outsideBar2
    else
      let at_ := (List.range bytes.length).map (fun i => off + i)
      if !at_.all (fun o => s.barServed (barCol o)) then done (report .bar2Abort) s
      else
        let wake := Act.each ((at_.map barCol).foldl (fun l c => if l.contains c then l else l ++ [c]) []) idleFrom
        if write then done (Act.seq wake (fun _ => (at_.zip bytes).map (fun x => Upd.mem (barCol x.1) .vault [byteWrite (x.1 % 2 ^ 29) x.2]))) s
        else done (Act.seq wake (report (.bar2Read (at_.map (fun o => (s.mem (barCol o) .vault).byte (o % 2 ^ 29)))))) s
  | _ => .next s
/-- The word of a host release may be written: eight bytes of a GLOBAL block that holds no live barrier (R275) and is not poisoned (R271). -/
def State.releasable (s : State) (p : Place) (addr : Dword) : Bool :=
  addr.toNat % 8 == 0 && tagOf addr == 0 && (p.isLoan || !(s.vault p.col).isLive (p.pa / 64)) && !(s.placeBlk p).poisoned
/-- HOST_RELEASE (R419, R271): a SIG.SET of a GLOBAL word that the job's map lets be written (R112); a live barrier block and a poisoned one are left as
they are (R271, R275; log entry 69). -/
def execHostRelease (s : State) : Out :=
  match s.ev with
  | .hostRelease job addr value =>
    let act := match s.job job with
      | none => Act.none
      | some j =>
        match s.jobPlace j (offOf addr) with
        | none => Act.none
        | some p => Act.when (p.ext.w && s.releasable p addr) (setJobWord j addr 0 value)
    done (managed act) s
  | _ => .next s

/-! ## Loans (R415) -/

/-- LOAN_GRANT: pages of a column that belongs to no partition. -/
def execLoanGrant (s : State) : Out :=
  match s.ev with
  | .loanGrant c page pages pkg =>
    let ok := (s.partOf c).isNone && s.pkg.dielist.contains (dieOf c) && 0 < pages && page + pages ≤ 2 ^ 17 &&
      !s.work.loans.any (fun l => l.col == c && l.page < page + pages && page < l.page + l.pages)
    done (managed (Act.when ok (onWork (fun w => { w with loans := w.loans ++ [{ col := c, page := page, pages := pages, pkg := pkg, recalled := none }] })))) s
  | _ => .next s
/-- The blocks of some pages cleared (R137). -/
def clearPages (c : Col) (page pages : Nat) : Act := fun s =>
  let bs := (List.range (64 * pages)).map (fun i => 64 * page + i)
  [.mem c .vault (bs.map (fun b => (b, Blk.clear.whole))), .vault c (bs.foldl (fun v b => (v.setShadow b 0).dropDirty b) (s.vault c))]
/-- LOAN_RECALL: the keeper clears the pages at a beat of 128 bytes a cycle; the loan is over when the last one is written. -/
def execLoanRecall (s : State) : Out :=
  match s.ev with
  | .loanRecall c page =>
    match s.work.loans.find? (fun l => l.col == c && l.page == page) with
    | none => .next s
    | some l =>
      match l.recalled with
      | none =>
        let t := s.tick + 32 * l.pages
        done (managed (Act.seq (onWork (fun w => { w with loans := w.loans.map (fun (x : Loan) => if x.col == c && x.page == page then { x with recalled := some t } else x) }))
          (eventTick t (.loanRecall c page)))) s
      | some t =>
        if s.tick < t then .next s
        else done (Act.all [clearPages c page l.pages, onWork (fun w => { w with loans := w.loans.filter (fun x => !(x.col == c && x.page == page)) }), idleFrom c]) s
  | _ => .next s

/-! ## Snapshots (R410 to R414) -/

/-- SNAPSHOT_RESERVE (R411). -/
def execSnapshotReserve (s : State) : Out :=
  match s.ev with
  | .snapshotReserve job e rppn => done (managed (onJob job (fun j => { j with reserves := j.reserves ++ [(e, rppn)] }))) s
  | _ => .next s
/-- SNAPSHOT_STORAGE_PATH (R414). -/
def execSnapshotStoragePath (s : State) : Out :=
  match s.ev with
  | .snapshotStoragePath job path => done (managed (onJob job (fun j => { j with storage := some path }))) s
  | _ => .next s
/-- The COW extents in the present maps of a job's bound units (R411). -/
def State.cowExtents (s : State) (job : Dword) : List Extent :=
  (s.work.bound.filter (fun b => b.job == job && !b.saved)).flatMap (fun b => b.cols.flatMap (fun c =>
    ((s.unit c).maps.maps.toList.filterMap id).flatten.filter (·.cow)))
/-- A reserve covers an extent: it was given for the same pages at the same placement (R411). -/
def reserveFor (e x : Extent) : Bool := e.vpn == x.vpn && e.pages == x.pages && e.col == x.col && e.ppn == x.ppn && e.hash == x.hash
/-- A round of a job, named by its number, has completed (R410, R411). -/
def State.roundOver (s : State) (j : Job) (n : BitVec 32) : Bool :=
  j.placed.any (fun d => let r := s.roundRec j d; (s.jobWord j r wHandle).truncate 32 == n && s.recordDone j r)
/-- A SNAP is no longer held: the unit that issued it, which runs on the column or is saved there, may issue another (R227). -/
def freeSnap (h : HeldSnap) : Act := fun s =>
  let f := fun (u : UnitSt) => { u with ctl := { u.ctl with snapHeld := false } }
  let saved := (s.slot h.col).saved
  Act.seq (onWork (fun w => { w with held := w.held.filter (fun x => x != h) }))
    (if saved.any (fun k => k.launch == h.launch) then
      onSlot h.col (fun x => { x with saved := x.saved.map (fun k => if k.launch == h.launch then { k with unit := f k.unit } else k) })
    else Act.when ((s.slot h.col).launch == h.launch) (onUnit h.col f)) s
/-- A block of a job's reserves still waits to be cleared since an earlier snapshot (R414). -/
def State.reserveWaits (s : State) (j : Job) : Bool :=
  j.reserves.any (fun x => x.2.any (fun y => (s.vault y.1).budget.fallow.any (fun b =>
    decide (64 * y.2 ≤ b) && decide (b < 64 * (y.2 + x.1.pages)))))
/-- A held SNAP is accepted where the engine holds no snapshot of the job and the reserves are clear (R414; log entry 74), or where it holds the same one; it is
discarded where its round is over or a COW extent has no reserve (R411). -/
def acceptSnap (h : HeldSnap) : Act := fun s =>
  match s.job h.job with
  | none => freeSnap h s
  | some j =>
    match s.work.snaps.find? (fun n => n.job == h.job) with
    | some n => Act.when (n.round == h.round) (freeSnap h) s
    | none =>
      if s.roundOver j h.round || (s.cowExtents h.job).any (fun e => !j.reserves.any (fun x => reserveFor x.1 e)) then
        Act.seq (freeSnap h) (report (.snapDiscarded h.job h.round)) s
      else if s.reserveWaits j then []
      else Act.seq (freeSnap h) (onWork (fun w => { w with snaps := w.snaps ++ [{ job := h.job, round := h.round, opened := false }] })) s
/-- SNAP_ACCEPT (R411): the SNAPs that are held for a column's units, the oldest first. -/
def execSnapAccept (s : State) : Out :=
  match s.ev with
  | .snapAccept c => done (Act.each (s.work.held.filter (fun x => x.col == c)) acceptSnap) s
  | _ => .next s
/-- Every block of an extent waits to be drained, in the vault that holds it (R414). -/
def drainExtent (job : Dword) (e : Extent) : Act := fun s =>
  Act.each (List.range e.pages) (fun g => fun s =>
    let p := extPlace e s.pkg.dielist ((e.vpn + g) * 4096)
    onVault p.col (fun v => { v with drain := v.drain ++ (List.range 64).map (fun i => (job, p.pa / 64 + i)) }) s) s
/-- SNAPSHOT_OPEN (R412, R414). -/
def execSnapshotOpen (s : State) : Out :=
  match s.ev with
  | .snapshotOpen job =>
    match s.work.snaps.find? (fun n => n.job == job), s.job job with
    | some n, some j =>
      if n.opened then .next s
      else done (Act.all [onWork (fun w => { w with snaps := w.snaps.map (fun (k : Snap) => if k.job == job then { k with opened := true } else k) }),
        Act.each (j.reserves.map (·.1)) (drainExtent job),
        Act.when (j.reserves.all (fun x => x.1.pages == 0)) (eventNow (.snapshotDrained job))]) s
    | _, _ => .next s
  | _ => .next s
/-- What the vault still holds saved for a drained snapshot is left to the fallow activity (R414). -/
def VaultSt.endSnap (job : Dword) (v : VaultSt) : VaultSt :=
  { v with saved := v.saved.filter (fun x => x.1 != job)
           budget := { v.budget with fallow := v.budget.fallow ++ (v.saved.filter (fun x => x.1 == job)).map (fun x => x.2.2) } }
/-- SNAPSHOT_DRAINED (R414): the round is reported, and the next SNAP of the job may be accepted. -/
def execSnapshotDrained (s : State) : Out :=
  match s.ev with
  | .snapshotDrained job =>
    match s.work.snaps.find? (fun n => n.job == job) with
    | none => .next s
    | some n =>
      if !n.opened || allCols.any (fun c => (s.vault c).drain.any (fun x => x.1 == job)) then .next s
      else done (Act.all [onWork (fun w => { w with snaps := w.snaps.filter (fun k => k.job != job) }), report (.snapDone job n.round),
        Act.each (allCols.filter (fun c => (s.vault c).saved.any (fun x => x.1 == job))) (fun c => onVault c (VaultSt.endSnap job)),
        Act.each (s.work.held.filter (fun x => x.job == job)) (fun x => eventNow (.snapAccept x.col))]) s
  | _ => .next s

end Sys2Proof.Machine
end

