-- ==== Sys2Proof/Machine/Power.lean ====
section
/-! DEFINITION. The Gleaner, the scrubber and the activity budgets (R99, R126, R423), boot (R420), die resets and their generations (R350,
R403 to R405, R408), temperature, throttling, pause and power (R391 to R395, R424, R425). -/
namespace Sys2Proof.Machine

/-! ## Background activities -/

/-- GLEANER_REWRITE (R126): the rewrite of an extent's placement waits for a SHARED beat of the column's vault (R423; log entry 19). -/
def execGleanerRewrite (s : State) : Out :=
  match s.ev with
  | .gleanerRewrite c map ix tier col ppn =>
    done (onVault c (fun v => { v with budget := { v.budget with rewrites := v.budget.rewrites ++ [.gleanerRewrite c map ix tier col ppn] } })) s
  | _ => .next s
/-- The channel of a column's vault in its die's stack (R399). -/
def State.channel (s : State) (c : Col) : Nat := 16 * yOf c + (if (s.die (dieOf c)).orient.getLsbD 13 then 15 - xOf c else xOf c)
/-- A block of a map has failed in one of its mirrors (R125). -/
def MapSt.fail (m : MapSt) (n : Fin 16) (second : Bool) (blk : Nat) : MapSt :=
  let x := m.mirrors[n]
  { m with mirrors := m.mirrors.set n (if second then (x.1, blk :: x.2.filter (fun b => b != blk)) else (blk :: x.1.filter (fun b => b != blk), x.2)) }
/-- SCRUB (R99, R125, R399): a soft error of a block. One that ECC corrects leaves the block as it is and is counted, and in a vault its repair is reported; of any
other the poison is in memory, and of a vault block it is reported. The event stands for the moment from which every reader is given the poison (log entry 69). -/
def execScrub (s : State) : Out :=
  match s.ev with
  | .scrub c m block e =>
    let put := fun (h : Head) => Act.seq (fun _ => [.mem c m [(block, { mask := 0, data := 0, hd := some h, need := none })]])
      (Act.when (m == .vault) (report (.stackError (dieOf c) (s.channel c) block)))
    match e with
    | .mirror map second => done (onUnit c (fun u => { u with maps := u.maps.fail map second block })) s
    | _ =>
      if Mem.size m ≤ 64 * block then .next s
      else match e with
        | .corrected => done (Act.seq (onVault c (fun v => { v with corrected := v.corrected + 1 }))
            (Act.when (m == .vault) (report (.repair (dieOf c) (s.channel c) block)))) s
        | .header => done (put { fmt := 0x00, scl := 0xFF }) s
        | _ => done (put { (s.mem c m).head block with scl := 0xFF }) s
  | _ => .next s
/-- Ticks of a budget's period of 100 µs (R423). -/
def periodTicks : Nat := 120000
/-- BUDGET_PERIOD (R423): the Reeve sets the budgets of the four activities, and the Gleaner and telemetry ask for beats; with no list a period is over. The
budgets start anew once a period has passed, and unused ones are gone. -/
def execBudgetPeriod (s : State) : Out :=
  match s.ev with
  | .budgetPeriod c l =>
    let b := (s.vault c).budget
    let set := if l.isEmpty then b.set else [l.getD 0 0, l.getD 1 0, l.getD 2 0, l.getD 3 0]
    let starts := match b.since with
      | some t => decide (t + periodTicks ≤ s.tick)
      | none => true
    let runs := set.any (fun n => 0 < n)
    done (Act.seq (onVault c (fun v => { v with budget := { b with
        set := set, left := if starts then set else b.left, since := if starts then (if runs then some s.tick else none) else b.since
        glean := b.glean + l.getD 4 0, tele := b.tele + l.getD 5 0 } }))
      (Act.when (starts && runs) (eventTick (s.tick + periodTicks : Nat) (.budgetPeriod c [])))) s
  | _ => .next s

/-! ## Boot (R420, R421) -/

def allDies : List Die := [0, 1, 2, 3]
/-- Failed links of a die among some dies. -/
def failedOf (bad : List (Die × Die)) (ds : List Die) (d : Die) : Nat :=
  (ds.filter (fun e => bad.contains (d, e) || bad.contains (e, d))).length
/-- The die with the most failed links goes, ties to the higher number, until every pair is linked; `fuel` bounds the dies. -/
def exclude (bad : List (Die × Die)) : Nat → List Die → List Die
  | 0, ds => ds
  | n + 1, ds =>
    let worst := ds.foldl (fun a d => max a (failedOf bad ds d)) 0
    if worst == 0 then ds
    else
      let out := (ds.filter (fun d => failedOf bad ds d == worst)).foldl (fun a d => if a < d then d else a) 0
      exclude bad n (ds.filter (fun d => d != out))
def dieCols (d : Die) : List Col := (List.range 128).map (fun i => Fin.ofNat 512 (d.val * 128 + i))
/-- POWER_GOOD (R403, R420, R421): the dies that pass steps 1 and 2 train their links, those that are left and pass steps 5 and 6 form the dielist; the image is
fetched again up to three times. -/
def execPowerGood (s : State) : Out :=
  match s.ev with
  | .powerGood r =>
    if s.pkg.ready || s.pkg.failed then .next s
    else
      let ok := fun (l : List Bool) (d : Die) => l.getD d.val false
      let ds := (exclude r.links 4 (allDies.filter (fun d => ok r.trim d && ok r.clock d))).filter (fun d => ok r.timing d && ok r.init d)
      let good := !ds.isEmpty && (r.fwOk.take 4).any id
      done (Act.all [
        Act.each allDies (fun d => onDie d (fun x => { x with works := ds.contains d, gen := .replicate 4 0 })),
        Act.each (ds.flatMap dieCols) (fun c => Act.seq (fun _ => [.clear c .vault]) (onVault c VaultSt.wiped)),
        onPkg (fun p => { p with dielist := ds, ready := good, failed := !good }),
        report (if good then .ready else .bootFail)]) s
  | _ => .next s

/-! ## Requests to what has reset (R350) -/

def staleFault (addr : Dword) (d : Nat) : FaultRec := flt .stale 1 addr (BitVec.ofNat 64 (d % 4))
/-- A request of a transaction still travels to, or waits at, a vault of another die. -/
def State.requestAt (s : State) (o : Col) (tx k : Nat) : Bool :=
  (s.vault o).reqs.any (fun r => r.tx == tx && r.k == k) || (s.vault o).served.any (fun r => r.req.tx == tx && r.req.k == k)
/-- A beat of a transaction is on its way to a link, or waits for it. -/
def LinkBeat.serves (b : LinkBeat) (tx k : Nat) : Bool :=
  match b.go with
  | .req _ r => r.tx == tx && r.k == k
  | .back t j _ => t == tx && j == k
  | .events _ => false
def State.requested (s : State) (d : Die) (tx k : Nat) : Bool :=
  allCols.any (fun o => dieOf o != d && s.requestAt o tx k) || s.links.any (fun b => b.serves tx k)
/-- Blocks of a load or store that the die will never answer. -/
def lostArrs (t : Txn) (gone : Nat → Arr → Bool) : List Nat :=
  (List.range t.arrs.length).filter (fun k => match t.arrs[k]? with
    | some a => !a.del && gone k a
    | none => false)
/-- The poison that stands for a block that will not come: its scale byte (R260). -/
def poisonWrite (h : Head) : BlkWrite := { mask := 0, data := 0, hd := some { h with scl := 0xFF }, need := none }
/-- A copy whose target has reset: what it has not written is written poisoned, on loan and at a second placement too (R121, R260), and it retires with STAT 3;
the blocks of a multicast that are on their way to other dies arrive. -/
def settleCopy (c : Col) (q : CopyCmd) (d : Option Die) : Act := fun s =>
  let now := s.now c
  let wt := s.txn q.wtx
  let chip := (s.unit c).ord.pblks.filter (fun p => p.id == q.id && p.mem.isSome && p.mem != some .vault && p.due.isNone)
  let outs : List (Place × Dword) := match wt with
    | none => []
    | some t => (List.range t.arrs.length).filterMap (fun k =>
        match t.arrs[k]?, q.dsts.getD k none with
        | some a, some p => if a.at_.isNone && (p.isLoan || (d != some (dieOf p.col) && !s.requestAt p.col q.wtx k)) then some (p, a.va) else none
        | _, _ => none)
  let n := match wt with
    | some t => (t.arrs.filter (fun a => a.at_.isSome && a.bad.isNone)).length
    | none => q.written
  Act.all [
    Act.each chip (fun p => fun s =>
      let m := p.mem.getD .sp
      landEff c { at_ := now, stream := q.who.stream, eff := .blocks m [(p.blk, poisonWrite ((s.mem c m).head p.blk))] } s),
    Act.each outs (fun (p, va) => fun s =>
      let home := (p.hcol, p.hpa)
      if p.isLoan then
        let w := poisonWrite (s.ext.head p.extBlk)
        Act.all [fun _ => [.ext [(p.extBlk, w)]], Act.when p.isCopy (markExt p.extBlk true), dualFor c c (offOf va) (some p.extBlk) p.col p.pa home (!p.isCopy) [w]] s
      else landWrite p.col p.pa (offOf va) home p.ext.cow c c (poisonWrite ((s.mem p.col .vault).head (p.pa / 64))) none s),
    onWork (fun w => { w with xfers := w.xfers.filter (fun x => !(x.from_ == c && x.cmd == q.id && (q.op != 2 || d == some (dieOf x.dest)))) }), dropTxn q.rtx, dropTxn q.wtx,
    onUnit c (fun u => u.onCmd q.id (fun q => { q with stat := 3, left := 0, written := n, x := none })),
    eventAt c (now + 1) (.copyRetirement c q.id)] s
/-- The blocks of a transaction that will not be answered: a load raises STALE and leaves its destination; a store counts as acknowledged. -/
def settleTxn (t : Txn) (ks : List Nat) (d : Nat) : Act := fun s =>
  let now := s.now t.who.col
  match t.kind with
  | .load _ =>
    let first := ks.headD 0
    Act.seq (onTxn t.id (fun t => { t with arrs := (List.range t.arrs.length).zip t.arrs |>.map (fun x =>
        if !ks.contains x.1 then x.2
        else { x.2 with form := some now, at_ := some now, loan := none, ret := 0, bad := if x.1 == first then some (staleFault x.2.va d) else x.2.bad }) }))
      (Act.each ks (fun k => eventNow (.farPathDelivery t.id k))) s
  | .store =>
    Act.seq (onTxn t.id (fun t => { t with arrs := (List.range t.arrs.length).zip t.arrs |>.map (fun x =>
        if ks.contains x.1 then { x.2 with at_ := some now, term := now, del := true } else x.2) })) (closeWrite t.id) s
  | _ => []
/-- Collectives that a member can no longer join, since its die or package has reset, are stale in those that have issued (R277). -/
def staleColls (f : Coll → Bool) : Act := fun s =>
  let hit := s.work.colls.filter (fun k => f k && !k.closing && k.stat == 0)
  Act.seq (onWork (fun w => { w with colls := w.colls.map (fun (k : Coll) => if hit.any (fun x => x.id == k.id) then { k with stat := 3 } else k) }))
    (Act.each hit (fun k => eventNow (.collectiveClose k.id))) s
/-- Everything that the units of die e still await of die d is settled (R350). -/
def settleDie (d e : Die) : Act := fun s =>
  let mine := fun (c : Col) => dieOf c == e
  let copies := (dieCols e).flatMap (fun c => ((s.unit c).eng.cmds.filter (fun q =>
    (q.pkg == 0 && 0 < q.left && q.targets.any (fun v => dieOf v == d)) ||
      (match s.txn q.rtx with
        | some t => (List.range t.arrs.length).any (fun k => match t.arrs[k]?, q.srcs.getD k (.none, none) with
            | some a, (_, some p) => !a.del && !p.isLoan && dieOf p.col == d
            | _, _ => false)
        | none => false) ||
      (match s.txn q.wtx with
        | some t => (List.range t.arrs.length).any (fun k => match t.arrs[k]?, q.dsts.getD k none with
            | some a, some p => !a.del && !p.isLoan && dieOf p.col == d
            | _, _ => false)
        | none => false))).map (fun q => (c, q)))
  let gone := fun (t : Txn) (k : Nat) (a : Arr) => a.at_.isNone && a.loan.isNone && !s.requested d t.id k
  let txns := (s.txns.filter (fun t => mine t.who.col)).map (fun t => (t, lostArrs t (gone t)))
  let atoms := s.work.atoms.filter (fun a => mine a.who.col && !a.done && a.pkg == 0 && (dieOf a.target == d || (a.placed && dieOf a.owner == d)))
  Act.all [
    Act.each copies (fun x => settleCopy x.1 x.2 (some d)),
    Act.each (txns.filter (fun x => !x.2.isEmpty)) (fun x => settleTxn x.1 x.2 d.val),
    Act.each atoms (fun a => fun s => closeAtom a 0 (some (staleFault a.addr d.val)) (s.now a.who.col) 0 s),
    staleColls (fun k => k.members.any (fun v => dieOf v == d) && k.joined.any (fun p => dieOf p.who.col == e))] s
/-- Die e learns that die d has reset (R350, R403, R404). -/
def learnReset (d e : Die) (gen : BitVec 16) : Act :=
  Act.seq (onDie e (fun x => { x with gen := x.gen.set d gen, downAt := x.downAt.set d none })) (settleDie d e)

/-- Responses to a die's units that are on their way: reads served and writes acknowledged, those of targets' buffers too (R350). -/
def State.coming_ (s : State) (d : Die) : Nat :=
  (s.txns.filter (fun t => dieOf t.who.col == d)).foldl (fun n t => n + (t.arrs.filter (fun a => !a.skip && (match a.at_ with
    | some x => decide (s.now t.who.col < (match t.kind with
      | .store | .copyOut _ => max x a.term
      | _ => x))
    | none => false))).length) 0 +
  (dieCols d).foldl (fun n c => (s.unit c).eng.cmds.foldl (fun n q => n + (q.acks.filter (fun a => decide (s.now c < a))).length) n) 0
/-- A beat that its link takes on cycle `now`, some cycles after it was ready for it (R401). -/
def LinkBeat.go_ (b : LinkBeat) (now : Int) : Act := fun s =>
  match b.go with
  | .req o r => sendReq o { r with arrive := r.arrive + (now - b.ready) } s
  | .back tx k rest => onArr tx k (fun a => { a with at_ := some (now + rest) }) s
  | .events l =>
    let at_ := fun (x : Xfer) => (l.find? (fun y => match y.2 with
      | .incomingPut tx _ | .getResponse tx _ => tx == x.tx
      | _ => false)).map (fun y => now + y.1)
    Act.seq (onWork (fun w => { w with xfers := w.xfers.map (fun x => { x with arrive := (at_ x).getD x.arrive }) }))
      (Act.each l (fun y => eventAt b.col (now + y.1) y.2)) s
/-- Responses that a beat carries back (R350). -/
def LinkBeat.backs (b : LinkBeat) : List Nat :=
  match b.go with
  | .req .. => []
  | .back tx _ _ => [tx]
  | .events l => l.filterMap (fun y => match y.2 with
    | .getResponse tx _ => some tx
    | _ => none)
/-- The answer to a get's request is on its way from its target: it reaches an issuer whose die has not reset (R350). -/
def State.sentBack (s : State) (tx : Nat) : Bool :=
  let is := fun (e : Ev) => match e with
    | .getResponse t _ => t == tx
    | _ => false
  s.timers.any (fun t => is t.ev) || s.agenda.any (fun t => match t with
    | .event e => is e
    | _ => false)
/-- DIE_RESET (R337, R350, R403, R405, R420): the generation advances, every queue with a bound unit on the die is killed, its vaults are
initialised, and its columns leave their partitions. What its units have sent to other dies arrives there, what waits for a link too, and what comes back is
dropped and counted.
The times of R404 count ticks of the 1.2 GHz reference clock, whatever the partitions' clocks are (log entry 2). -/
def execDieReset (s : State) : Out :=
  match s.ev with
  | .dieReset d =>
    let cs := dieCols d
    let on := fun (c : Col) => dieOf c == d
    let hit := (s.work.bound.filter (fun b => b.cols.any on)).map (fun b => (b.qdie, b.q))
    let qs := hit.foldl (fun l x => if l.contains x then l else l ++ [x]) []
    let backs := (s.links.filter (fun b => b.dst = d)).flatMap LinkBeat.backs
    done (Act.all [
      onDie d (fun x => { x with gen := x.gen.set d (x.gen[d] + 1), works := false, links := .replicate 4 false }),
      Act.each (allDies.filter (fun e => e != d)) (fun e => Act.seq
        (onDie e (fun x => { x with links := x.links.set d false, downAt := x.downAt.set d (some s.tick) }))
        (eventTick (s.tick + 1200000) (.linkDownTimeout d e))),
      Act.each qs (fun x => killQueue x.1 x.2 none),
      onDie d (fun x => { x with dropped := x.dropped + s.coming_ d + backs.length }),
      Act.each (s.links.filter (fun b => b.src = d)) (fun b => fun s => b.go_ (max (s.now b.col) b.ready) s),
      Act.each cs (fun c => fun s => Act.each ((s.unit c).pend.filter (fun p => match p.eff with | .loan .. => true | _ => false)) (landEff c) s),
      fun s => Act.each (s.work.bound.flatMap (fun b => (b.cols.filter on).map (fun c => (b.id, c)))) (fun x => leave x.1 x.2) s,
      Act.each cs (fun c => Act.all [onUnit c (fun _ => .reset), onSlot c (fun _ => .reset),
        onVault c (fun v => { VaultSt.reset with temp := v.temp, idleAt := s.tick }),
        fun _ => [.clear c .wb, .clear c .ab, .clear c .sp, .clear c .store, .clear c .vault]]),
      fun s => [.parts (s.parts.map (fun p => { p with cols := p.cols.filter (fun c => !on c), heated := p.heated.filter (fun c => !on c), pausedBy := p.pausedBy.filter (fun c => !on c) })),
        .txns (s.txns.filter (fun t => !on t.who.col)), .links (s.links.filter (fun b => b.src != d && b.dst != d))],
      fun s => onWork (fun w => { w with
                                xfers := w.xfers.filter (fun x => (!on x.dest || s.sentBack x.tx) && !backs.contains x.tx)
                                atoms := w.atoms.filter (fun a => !on a.who.col || a.done || !(on a.target || (a.placed && on a.owner)))
                                loans := w.loans.filter (fun l => !on l.col), held := w.held.filter (fun x => !on x.col) }) s,
      onPkg (fun p => { p with dielist := p.dielist.filter (fun e => e != d) })]) s
  | _ => .next s
/-- LINK_RETRAIN (R404): the reset notice goes out first. -/
def execLinkRetrain (s : State) : Out :=
  match s.ev with
  | .linkRetrain d e =>
    let notice := fun (a b : Die) =>
      let g := ((s.dies[a]).gen)[a]
      Act.when (((s.dies[b]).gen)[a] != g) (eventTick (s.tick + (max 1 (s.latt a b) : Nat)) (.resetNotice a b g))
    done (Act.all [onDie d (fun x => { x with links := x.links.set e true }), onDie e (fun x => { x with links := x.links.set d true }), notice d e, notice e d]) s
  | _ => .next s
/-- RESET_NOTICE (R350, R404). -/
def execResetNotice (s : State) : Out :=
  match s.ev with
  | .resetNotice d e gen => if ((s.dies[e]).gen)[d] == gen then .next s else done (learnReset d e gen) s
  | _ => .next s
/-- LINK_DOWN_TIMEOUT (R404). -/
def execLinkDownTimeout (s : State) : Out :=
  match s.ev with
  | .linkDownTimeout d e =>
    match ((s.dies[e]).downAt)[d] with
    | some t => if s.tick < t + 1200000 then .next s else done (learnReset d e ((s.dies[d]).gen)[d]) s
    | none => .next s
  | _ => .next s
/-- A command waits for a package: for its target, or for a block of its source or destination that is on loan there. -/
def State.copyOwes (s : State) (pkg : Nat) (q : CopyCmd) : Bool :=
  let side := fun (tx : Nat) (ps : List (Option Place)) => (List.range ps.length).any (fun k => match ps.getD k none with
    | some p => p.isLoan && p.ext.lpkg == pkg && (match s.txn tx with
      | some t => ((t.arrs.map (·.del)).getD k true) == false
      | none => false)
    | none => false)
  q.pkg == pkg || side q.rtx (q.srcs.map (·.2)) || side q.wtx q.dsts
/-- PEER_PACKAGE_TIMEOUT (R408): a package that has acknowledged nothing for 10 ms counts as reset, and every request outstanding to it is settled; one that
has acknowledged something since is given 10 ms from then. -/
def execPeerPackageTimeout (s : State) : Out :=
  match s.ev with
  | .peerPackageTimeout pkg =>
    match s.pkg.peers.find? (fun x => x.1 == pkg) with
    | none => .next s
    | some x =>
    let copies := allCols.flatMap (fun c => ((s.unit c).eng.cmds.filter (s.copyOwes pkg)).map (fun q => (c, q)))
    let gone := fun (_ : Nat) (a : Arr) => match a.loan with
      | some b => b / 2 ^ 46 == pkg
      | none => false
    let txns := s.txns.map (fun t => (t, lostArrs t gone))
    let atoms := s.work.atoms.filter (fun a => a.pkg == pkg || (!a.done && a.loan.any (fun b => b / 2 ^ 46 == pkg)))
    let off := onPkg (fun k => { k with peers := k.peers.filter (fun x => x.1 != pkg) })
    if copies.isEmpty && txns.all (fun x => x.2.isEmpty) && atoms.isEmpty then done off s
    else if s.tick < x.2 + peerTicks then done (eventTick (x.2 + peerTicks : Nat) (.peerPackageTimeout pkg)) s
    else done (Act.all [off,
      Act.each copies (fun x => settleCopy x.1 x.2 none),
      Act.each (txns.filter (fun x => !x.2.isEmpty)) (fun x => settleTxn x.1 x.2 0),
      Act.each atoms (fun a => Act.seq (onAtom a.id (fun a => { a with done := true, bad := some (staleFault a.addr 0) })) (eventNow (.atomicReport a.id))),
      staleColls (fun k => k.remote && (match s.job k.job with
        | some j => (s.group j k.group).any (fun m => m.1 == pkg)
        | none => false))]) s
  | _ => .next s

/-! ## Temperature and clocks (R391 to R395, R425) -/

/-- The neighbourhood of two hops in the package frame (R392, R395). -/
def near (c d : Col) : Bool := absDiff (site c).1 (site d).1 + absDiff (site c).2 (site d).2 ≤ 2
/-- The launch that a column runs, or that is loaded or restored there, declares hot (R391). -/
def State.hotAt (s : State) (c : Col) : Bool :=
  let k := s.slot c
  if k.st == .loading then
    match k.saved.find? (fun x => x.launch == k.launch) with
    | some x => x.unit.ctl.hot
    | none =>
      match (s.launchOf c).bind (fun b => s.job b.job) with
      | some j => (s.object j k.desc k.unit.toNat).hot
      | none => false
  else (s.launchOf c).isSome && (s.unit c).ctl.hot
/-- The limit L of a vault in degrees (R391). -/
def State.limitC (s : State) (c : Col) : Int := if s.hotAt c then 95 else 85
def State.coolVault (s : State) (c : Col) : Bool := decide ((s.vault c).temp < (s.limitC c - 6) * 1000)
/-- Every vault that a partition has been throttled for, or that it is paused for, reads below L − 6 °C (R392, R393). -/
def State.coolPart (s : State) (p : Part) : Bool := p.heated.all s.coolVault
def State.coolPause (s : State) (p : Part) : Bool := p.pausedBy.all s.coolVault
/-- Power has exceeded its limit for a further millisecond with a partition at its floor (R425). -/
def State.powerHolds (s : State) (p : Part) : Bool :=
  match p.atFloor with
  | some t => decide (t + 1200000 ≤ s.tick)
  | none => false
/-- A rise of the clock is due a millisecond on, if none is (R392). -/
def armRise (num : BitVec 16) : Act := fun s =>
  if s.timers.any (fun t => t.ev == .throttleRise num) then [] else eventTick (s.tick + 1200000) (.throttleRise num) s
/-- The partition whose vaults or power have come down: the pause ends, or the clock may rise (R392, R393). -/
def coolDown (p : Part) : Act := fun s =>
  Act.seq (Act.when (p.paused && s.coolPause p) (eventNow (.pauseEnd p.num)))
    (Act.when (s.coolPart p) (if p.mhz < Config.clockMHz then armRise p.num else onPart p.num (fun p => { p with heated := [] }))) s
/-- A clock step at the partition's next slot boundary, and a pause (R358, R392, R393). -/
def nextSlot (p : Part) : Int := slotAfter (p.cyc + 1)
/-- VAULT_TEMPERATURE_READ (R391 to R393, R425). -/
def execVaultTemperatureRead (s : State) : Out :=
  match s.ev with
  | .vaultTemperatureRead c milli =>
    let l := s.limitC c * 1000
    let around := s.parts.filter (fun p => p.cols.any (near c))
    let hot := decide (l - 3000 ≤ milli)
    let due := match (s.vault c).stepAt with
      | some t => decide (t + 120000 ≤ s.tick)
      | none => true
    let act : Act :=
      if 100000 ≤ milli then Act.seq (report (.heat (dieOf c) (s.channel c) milli)) (eventNow .thermalTrip)
      else if hot then
        match around[Config.heatSource s.free % around.length]? with
        | none => Act.none
        | some p =>
          let marked := onPart p.num (fun p => { p with heated := if p.heated.contains c then p.heated else p.heated ++ [c] })
          if p.floor < p.mhz then Act.when due (Act.all [marked, onVault c (fun v => { v with stepAt := some s.tick }), eventAtPart p.num (nextSlot p) (.throttleStep p.num)])
          else Act.when (decide (l - 1000 ≤ milli)) (Act.seq
            (onPart p.num (fun p => { p with pausedBy := if p.pausedBy.contains c then p.pausedBy else p.pausedBy ++ [c] }))
            (Act.when (!p.paused) (eventAtPart p.num (nextSlot p) (.pause p.num))))
      else fun s => Act.seq (onVault c (fun v => { v with stepAt := none }))
        (Act.each (s.parts.filter (fun p => p.heated.contains c || p.pausedBy.contains c)) coolDown) s
    done (Act.all [onVault c (fun v => { v with temp := milli }), act, draw 1 (fun _ => Act.none)]) s
  | _ => .next s
/-- THROTTLE_STEP (R392): 50 MHz down, never below the floor. -/
def execThrottleStep (s : State) : Out :=
  match s.ev with
  | .throttleStep num =>
    match s.part num with
    | none => .next s
    | some p =>
      if p.cyc % 2048 != 0 then done (eventAtPart num (slotAfter p.cyc) (.throttleStep num)) s
      else done (onPart num (fun p => { p with mhz := max p.floor (p.mhz - Config.stepMHz), stepped := s.tick })) s
  | _ => .next s
/-- THROTTLE_RISE (R392): 50 MHz up per millisecond, once every vault that the partition was throttled for is cool. -/
def execThrottleRise (s : State) : Out :=
  match s.ev with
  | .throttleRise num =>
    match s.part num with
    | none => .next s
    | some p =>
      if !s.coolPart p || p.atFloor.isSome || Config.clockMHz ≤ p.mhz then .next s
      else if s.tick < p.stepped + 1200000 then done (eventTick (p.stepped + 1200000) (.throttleRise num)) s
      else if p.cyc % 2048 != 0 then done (eventAtPart num (slotAfter p.cyc) (.throttleRise num)) s
      else
        let f := min Config.clockMHz (p.mhz + Config.stepMHz)
        done (Act.seq (onPart num (fun p => { p with mhz := f, stepped := s.tick, heated := if f == Config.clockMHz then [] else p.heated }))
          (Act.when (decide (f < Config.clockMHz)) (eventTick (s.tick + 1200000) (.throttleRise num)))) s
  | _ => .next s
/-- PAUSE (R37, R393): at a slot boundary, of a partition at its floor. -/
def execPause (s : State) : Out :=
  match s.ev with
  | .pause num =>
    match s.part num with
    | none => .next s
    | some p =>
      if p.cyc % 2048 != 0 then done (eventAtPart num (slotAfter p.cyc) (.pause num)) s
      else if p.floor < p.mhz || p.paused then .next s else done (onPart num (fun p => { p with paused := true, pausedAt := s.tick })) s
  | _ => .next s
/-- What the keeper has done for a vault's banks while the counters stood for a time of `e` cycles from cycle x on (R106, R393): a bank whose deadline came in
that time has been refreshed then, and each span after (DESIGN CHOICE, log entry 16). -/
def VaultSt.keptPause (v : VaultSt) (x e span : Int) : VaultSt :=
  { v with banks := v.banks.map (fun k =>
      let left := max 0 (k.deadline - x)
      if e < left || span ≤ 0 then k
      else let ago := (e - left) % span; { k with ref := some (x - ago), deadline := x + span - ago }) }
/-- PAUSE_END (R393): the counters of the partition restart together, once every vault that it is paused for reads below L − 6 °C and power allows it. -/
def execPauseEnd (s : State) : Out :=
  match s.ev with
  | .pauseEnd num =>
    match s.part num with
    | none => .next s
    | some p =>
      if !s.coolPause p || s.powerHolds p || !p.paused then .next s
      else
        let e : Int := ((s.tick - p.pausedAt) * p.mhz / Config.clockMHz : Nat)
        done (Act.all [onPart num (fun p => { p with paused := false, pausedBy := [] }),
          Act.each p.cols (fun c => onVault c (fun v => v.keptPause p.cyc e (s.unit c).span)), armRise num]) s
  | _ => .next s
/-- POWER_LIMIT_CHECK (R425): the average of a millisecond, and the partition that drew the most in the last 100 µs, which is paused where power has exceeded the
limit for a further millisecond with it at its floor. -/
def execPowerLimitCheck (s : State) : Out :=
  match s.ev with
  | .powerLimitCheck watts num =>
    if watts ≤ s.pkg.plim then
      done (Act.seq (fun s => [.parts (s.parts.map (fun p => { p with atFloor := none }))])
        (Act.each (s.parts.filter (fun p => p.paused || p.mhz < Config.clockMHz)) coolDown)) s
    else
      match s.part num with
      | none => .next s
      | some p =>
        if p.floor < p.mhz then done (Act.seq (onPart num (fun p => { p with atFloor := none })) (eventAtPart num (nextSlot p) (.throttleStep num))) s
        else if p.atFloor.isSome then done (Act.when (s.powerHolds p && !p.paused) (eventAtPart num (nextSlot p) (.pause num))) s
        else done (onPart num (fun p => { p with atFloor := some s.tick })) s
  | _ => .next s
/-- THERMAL_TRIP (R425): every die resets, and the host is told. -/
def execThermalTrip (s : State) : Out :=
  match s.ev with
  | .thermalTrip => done (Act.seq (Act.each allDies (fun d => eventNow (.dieReset d))) (report .trip)) s
  | _ => .next s

/-! ## Idle states (R424) -/

def IdleState.after : IdleState → Nat
  | .c1 => 1200 | .c2 => 120000 | .c3 => 12000000
def IdleState.depth : IdleState → Nat
  | .c1 => 1 | .c2 => 2 | .c3 => 3
/-- No bound unit, no save or fallow pass, no snapshot block awaiting drain. A fallow pass is also that of a partition which is released (R137), and the
keeper's clearing of freed or recalled pages (R415, R423). -/
def State.idleCol (s : State) (c : Col) : Bool :=
  (s.launchOf c).isNone && !(s.partOf c).any (·.closing) && (s.vault c).budget.fallow.isEmpty && !s.work.loans.any (fun l => l.col == c && l.recalled.isSome) && [.free, .done, .saved].contains (s.slot c).st && (s.vault c).drain.isEmpty
/-- A present map of a unit names a page of a vault. -/
def State.namesVault (s : State) (c : Col) : Bool :=
  let hits := fun (u : UnitSt) => u.maps.maps.toList.any (fun m => match m with
    | some es => es.any (fun e => (e.tier != 3 && (e.col == c || (e.hash && s.pkg.dielist.contains (dieOf c)))) || (e.fl && e.hcol == c))
    | none => false)
  allCols.any (fun k => (s.unitsAt k).any hits)
/-- What a state requires beside the time (R424). -/
def State.mayIdle (s : State) (c : Col) (st : IdleState) : Bool :=
  s.idleCol c && IdleState.exitNs st ≤ s.pkg.lattol.toNat && s.pkg.dielist.contains (dieOf c) &&
    (st != .c3 || (!s.namesVault c && (s.slot c).saved.isEmpty && !s.work.loans.any (fun l => l.col == c)))
/-- A state is deeper than the one that a column is in (R424). -/
def VaultSt.deeper (v : VaultSt) (st : IdleState) : Bool :=
  match v.idle with
  | some x => decide (IdleState.depth x < IdleState.depth st)
  | none => true
/-- IDLE_STATE_ENTRY (R424): the column enters a deeper state. -/
def execIdleStateEntry (s : State) : Out :=
  match s.ev with
  | .idleStateEntry c st =>
    let v := s.vault c
    if s.mayIdle c st && v.deeper st && v.idleAt + IdleState.after st ≤ s.tick then done (onVault c (fun v => { v with idle := some st })) s else .next s
  | _ => .next s

end Sys2Proof.Machine
end

