-- ==== Sys2Proof/Machine/Dispatch.lean ====
section
/-! DEFINITION. The meaning of every constructor of `Instr`, one arm each. -/
namespace Sys2Proof.Machine

/-- One instruction, or one machine event, at a state. -/
def exec (i : Instr) (s : State) : Host.Outcome State Fault Refusal :=
  match i with
  | .add h d a b => Sys2Proof.Machine.execAdd h d a b s
  | .sub h d a b => Sys2Proof.Machine.execSub h d a b s
  | .mul h d a b => Sys2Proof.Machine.execMul h d a b s
  | .mulh h d a b => Sys2Proof.Machine.execMulh h d a b s
  | .mulhn h d a b => Sys2Proof.Machine.execMulhn h d a b s
  | .div h a b => Sys2Proof.Machine.execDiv h a b s
  | .divn h a b => Sys2Proof.Machine.execDivn h a b s
  | .rem h a b => Sys2Proof.Machine.execRem h a b s
  | .remn h a b => Sys2Proof.Machine.execRemn h a b s
  | .and h d a b => Sys2Proof.Machine.execAnd h d a b s
  | .or h d a b => Sys2Proof.Machine.execOr h d a b s
  | .xor h d a b => Sys2Proof.Machine.execXor h d a b s
  | .andn h d a b => Sys2Proof.Machine.execAndn h d a b s
  | .shl h d a b => Sys2Proof.Machine.execShl h d a b s
  | .shr h d a b => Sys2Proof.Machine.execShr h d a b s
  | .sra h d a b => Sys2Proof.Machine.execSra h d a b s
  | .min h d a b => Sys2Proof.Machine.execMin h d a b s
  | .max h d a b => Sys2Proof.Machine.execMax h d a b s
  | .minn h d a b => Sys2Proof.Machine.execMinn h d a b s
  | .maxn h d a b => Sys2Proof.Machine.execMaxn h d a b s
  | .clz h d a => Sys2Proof.Machine.execClz h d a s
  | .ctz h d a => Sys2Proof.Machine.execCtz h d a s
  | .popc h d a => Sys2Proof.Machine.execPopc h d a s
  | .sext h d a imm => Sys2Proof.Machine.execSext h d a imm s
  | .csel h d a b => Sys2Proof.Machine.execCsel h d a b s
  | .lea h d a b => Sys2Proof.Machine.execLea h d a b s
  | .wtag h d a imm => Sys2Proof.Machine.execWtag h d a imm s
  | .wchk h d a b => Sys2Proof.Machine.execWchk h d a b s
  | .addi h d a imm => Sys2Proof.Machine.execAddi h d a imm s
  | .andi h d a imm => Sys2Proof.Machine.execAndi h d a imm s
  | .ori h d a imm => Sys2Proof.Machine.execOri h d a imm s
  | .xori h d a imm => Sys2Proof.Machine.execXori h d a imm s
  | .shli h d a imm => Sys2Proof.Machine.execShli h d a imm s
  | .shri h d a imm => Sys2Proof.Machine.execShri h d a imm s
  | .srai h d a imm => Sys2Proof.Machine.execSrai h d a imm s
  | .li h d imm => Sys2Proof.Machine.execLi h d imm s
  | .lih h d imm => Sys2Proof.Machine.execLih h d imm s
  | .cmpEq h d a b => Sys2Proof.Machine.execCmpEq h d a b s
  | .cmpNe h d a b => Sys2Proof.Machine.execCmpNe h d a b s
  | .cmpLt h d a b => Sys2Proof.Machine.execCmpLt h d a b s
  | .cmpLe h d a b => Sys2Proof.Machine.execCmpLe h d a b s
  | .cmpLtn h d a b => Sys2Proof.Machine.execCmpLtn h d a b s
  | .cmpLen h d a b => Sys2Proof.Machine.execCmpLen h d a b s
  | .fcmpEq h d a b => Sys2Proof.Machine.execFcmpEq h d a b s
  | .fcmpNe h d a b => Sys2Proof.Machine.execFcmpNe h d a b s
  | .fcmpLt h d a b => Sys2Proof.Machine.execFcmpLt h d a b s
  | .fcmpLe h d a b => Sys2Proof.Machine.execFcmpLe h d a b s
  | .fcmpUn h d a b => Sys2Proof.Machine.execFcmpUn h d a b s
  | .fadd h d a b => Sys2Proof.Machine.execFadd h d a b s
  | .fsub h d a b => Sys2Proof.Machine.execFsub h d a b s
  | .fmul h d a b => Sys2Proof.Machine.execFmul h d a b s
  | .ffma h d a b => Sys2Proof.Machine.execFfma h d a b s
  | .fmin h d a b => Sys2Proof.Machine.execFmin h d a b s
  | .fmax h d a b => Sys2Proof.Machine.execFmax h d a b s
  | .fcvt h d a f g => Sys2Proof.Machine.execFcvt h d a f g s
  | .ffin h d a f mode => Sys2Proof.Machine.execFfin h d a f mode s
  | .fcvti h d a mode t => Sys2Proof.Machine.execFcvti h d a mode t s
  | .icvtf h d a t => Sys2Proof.Machine.execIcvtf h d a t s
  | .fcls h d a f => Sys2Proof.Machine.execFcls h d a f s
  | .ftail h d a => Sys2Proof.Machine.execFtail h d a s
  | .ldsF h d a f => Sys2Proof.Machine.execLdsF h d a f s
  | .ldsI h d a t => Sys2Proof.Machine.execLdsI h d a t s
  | .stsF h d a f mode => Sys2Proof.Machine.execStsF h d a f mode s
  | .stsI h d a t => Sys2Proof.Machine.execStsI h d a t s
  | .brEq h a off => Sys2Proof.Machine.execBrEq h a off s
  | .brNe h a off => Sys2Proof.Machine.execBrNe h a off s
  | .brLt h a off => Sys2Proof.Machine.execBrLt h a off s
  | .brGe h a off => Sys2Proof.Machine.execBrGe h a off s
  | .brLe h a off => Sys2Proof.Machine.execBrLe h a off s
  | .brGt h a off => Sys2Proof.Machine.execBrGt h a off s
  | .jmp h off => Sys2Proof.Machine.execJmp h off s
  | .jmpi h a => Sys2Proof.Machine.execJmpi h a s
  | .call h off => Sys2Proof.Machine.execCall h off s
  | .ret h => Sys2Proof.Machine.execRet h s
  | .loop h lc off => Sys2Proof.Machine.execLoop h lc off s
  | .lset h lc label a drain => Sys2Proof.Machine.execLset h lc label a drain s
  | .prep h => Sys2Proof.Machine.execPrep h s
  | .xfer h d x => Sys2Proof.Machine.execXfer h d x s
  | .srd h d sel => Sys2Proof.Machine.execSrd h d sel s
  | .swr h d sel => Sys2Proof.Machine.execSwr h d sel s
  | .phpre h n due => Sys2Proof.Machine.execPhpre h n due s
  | .phadv h n => Sys2Proof.Machine.execPhadv h n s
  | .phq h d n => Sys2Proof.Machine.execPhq h d n s
  | .align h => Sys2Proof.Machine.execAlign h s
  | .realign h a => Sys2Proof.Machine.execRealign h a s
  | .halt h => Sys2Proof.Machine.execHalt h s
  | .trap h code => Sys2Proof.Machine.execTrap h code s
  | .eret h => Sys2Proof.Machine.execEret h s
  | .fence h kind scope => Sys2Proof.Machine.execFence h kind scope s
  | .lfence h => Sys2Proof.Machine.execLfence h s
  | .isync h => Sys2Proof.Machine.execIsync h s
  | .cpub h a b => Sys2Proof.Machine.execCpub h a b s
  | .iload h a b => Sys2Proof.Machine.execIload h a b s
  | .launch h a b q pri deps => Sys2Proof.Machine.execLaunch h a b q pri deps s
  | .waitg h a b => Sys2Proof.Machine.execWaitg h a b s
  | .cancel h level a => Sys2Proof.Machine.execCancel h level a s
  | .snap h a => Sys2Proof.Machine.execSnap h a s
  | .rndn h d => Sys2Proof.Machine.execRndn h d s
  | .kmix h d a b => Sys2Proof.Machine.execKmix h d a b s
  | .bkpt h code => Sys2Proof.Machine.execBkpt h code s
  | .undef h o => Sys2Proof.Machine.execUndef h o s
  | .idleK h n => Sys2Proof.Machine.execIdleK h n s
  | .idleD h n => Sys2Proof.Machine.execIdleD h n s
  | .act h bank row => Sys2Proof.Machine.execAct h bank row s
  | .actRegister h bank a => Sys2Proof.Machine.execActRegister h bank a s
  | .pre h bank => Sys2Proof.Machine.execPre h bank s
  | .prea h => Sys2Proof.Machine.execPrea h s
  | .refb h bank => Sys2Proof.Machine.execRefb h bank s
  | .win h kind bank beats delay => Sys2Proof.Machine.execWin h kind bank beats delay s
  | .wcls h kind bank all => Sys2Proof.Machine.execWcls h kind bank all s
  | .idleL h n => Sys2Proof.Machine.execIdleL h n s
  | .vld h v m => Sys2Proof.Machine.execVld h v m s
  | .vlds h v m => Sys2Proof.Machine.execVlds h v m s
  | .vldg h v m x => Sys2Proof.Machine.execVldg h v m x s
  | .vrd h v bank col q => Sys2Proof.Machine.execVrd h v bank col q s
  | .vrdBuf h bank col ax => Sys2Proof.Machine.execVrdBuf h bank col ax s
  | .qld h n m => Sys2Proof.Machine.execQld h n m s
  | .qcw h n a => Sys2Proof.Machine.execQcw h n a s
  | .ldh h v m => Sys2Proof.Machine.execLdh h v m s
  | .lrec h m => Sys2Proof.Machine.execLrec h m s
  | .ltr h lat m => Sys2Proof.Machine.execLtr h lat m s
  | .pop h v f => Sys2Proof.Machine.execPop h v f s
  | .cpyL h c => Sys2Proof.Machine.execCpyL h c s
  | .cpyx h c tg => Sys2Proof.Machine.execCpyx h c tg s
  | .cpymL h c tg => Sys2Proof.Machine.execCpymL h c tg s
  | .get h c tg => Sys2Proof.Machine.execGet h c tg s
  | .idleM h n => Sys2Proof.Machine.execIdleM h n s
  | .mma h o al => Sys2Proof.Machine.execMma h o al s
  | .mmag h o => Sys2Proof.Machine.execMmag h o s
  | .midx h v => Sys2Proof.Machine.execMidx h v s
  | .mldt h lat y => Sys2Proof.Machine.execMldt h lat y s
  | .mzero h t msz roff => Sys2Proof.Machine.execMzero h t msz roff s
  | .mmov h dt st drow srow n => Sys2Proof.Machine.execMmov h dt st drow srow n s
  | .mrst h t label => Sys2Proof.Machine.execMrst h t label s
  | .mcls h t rc => Sys2Proof.Machine.execMcls h t rc s
  | .idleV h n => Sys2Proof.Machine.execIdleV h n s
  | .vadd c d a b pair => Sys2Proof.Machine.execVadd c d a b pair s
  | .vsub c d a b pair => Sys2Proof.Machine.execVsub c d a b pair s
  | .vmul c d a b pair => Sys2Proof.Machine.execVmul c d a b pair s
  | .vmulh c d a b => Sys2Proof.Machine.execVmulh c d a b s
  | .vmin c d a b pair => Sys2Proof.Machine.execVmin c d a b pair s
  | .vmax c d a b pair => Sys2Proof.Machine.execVmax c d a b pair s
  | .vabs c d a => Sys2Proof.Machine.execVabs c d a s
  | .vneg c d a => Sys2Proof.Machine.execVneg c d a s
  | .vadds c d a b => Sys2Proof.Machine.execVadds c d a b s
  | .vsubs c d a b => Sys2Proof.Machine.execVsubs c d a b s
  | .vaddi c d a imm => Sys2Proof.Machine.execVaddi c d a imm s
  | .vmov c d a => Sys2Proof.Machine.execVmov c d a s
  | .vli c d imm => Sys2Proof.Machine.execVli c d imm s
  | .vcls c d a imm => Sys2Proof.Machine.execVcls c d a imm s
  | .vfma c d a b e pair => Sys2Proof.Machine.execVfma c d a b e pair s
  | .vfms c d a b e pair => Sys2Proof.Machine.execVfms c d a b e pair s
  | .vfnma c d a b e pair => Sys2Proof.Machine.execVfnma c d a b e pair s
  | .vfnms c d a b e pair => Sys2Proof.Machine.execVfnms c d a b e pair s
  | .vand c d a b => Sys2Proof.Machine.execVand c d a b s
  | .vor c d a b => Sys2Proof.Machine.execVor c d a b s
  | .vxor c d a b => Sys2Proof.Machine.execVxor c d a b s
  | .vandn c d a b => Sys2Proof.Machine.execVandn c d a b s
  | .vshl c d a b => Sys2Proof.Machine.execVshl c d a b s
  | .vshr c d a b => Sys2Proof.Machine.execVshr c d a b s
  | .vsra c d a b => Sys2Proof.Machine.execVsra c d a b s
  | .vnot c d a => Sys2Proof.Machine.execVnot c d a s
  | .vcmpEq c d a b => Sys2Proof.Machine.execVcmpEq c d a b s
  | .vcmpNe c d a b => Sys2Proof.Machine.execVcmpNe c d a b s
  | .vcmpLt c d a b => Sys2Proof.Machine.execVcmpLt c d a b s
  | .vcmpLe c d a b => Sys2Proof.Machine.execVcmpLe c d a b s
  | .vcmpUn c d a b => Sys2Proof.Machine.execVcmpUn c d a b s
  | .vsel c d a b e => Sys2Proof.Machine.execVsel c d a b e s
  | .pand c d a b => Sys2Proof.Machine.execPand c d a b s
  | .por c d a b => Sys2Proof.Machine.execPor c d a b s
  | .pxor c d a b => Sys2Proof.Machine.execPxor c d a b s
  | .pandn c d a b => Sys2Proof.Machine.execPandn c d a b s
  | .pnot c d a => Sys2Proof.Machine.execPnot c d a s
  | .pset c d imm => Sys2Proof.Machine.execPset c d imm s
  | .pmov c d a => Sys2Proof.Machine.execPmov c d a s
  | .vperm c d a b => Sys2Proof.Machine.execVperm c d a b s
  | .vshuf c d a b imm => Sys2Proof.Machine.execVshuf c d a b imm s
  | .vsld c d a b imm => Sys2Proof.Machine.execVsld c d a b imm s
  | .vbcst c d a imm => Sys2Proof.Machine.execVbcst c d a imm s
  | .vrsum c a => Sys2Proof.Machine.execVrsum c a s
  | .vrmax c a => Sys2Proof.Machine.execVrmax c a s
  | .vrmin c a => Sys2Proof.Machine.execVrmin c a s
  | .vrmaxa c a => Sys2Proof.Machine.execVrmaxa c a s
  | .vcvt c d a src j => Sys2Proof.Machine.execVcvt c d a src j s
  | .vfin c d a => Sys2Proof.Machine.execVfin c d a s
  | .vtail c d a => Sys2Proof.Machine.execVtail c d a s
  | .vtclr c d a => Sys2Proof.Machine.execVtclr c d a s
  | .vscl c d a imm => Sys2Proof.Machine.execVscl c d a imm s
  | .vmaxa c a => Sys2Proof.Machine.execVmaxa c a s
  | .vqnt c d a src qt j => Sys2Proof.Machine.execVqnt c d a src qt j s
  | .vradd c d a b g alt => Sys2Proof.Machine.execVradd c d a b g alt s
  | .vrsub c d a b g alt => Sys2Proof.Machine.execVrsub c d a b g alt s
  | .vexp c a => Sys2Proof.Machine.execVexp c a s
  | .vlog c a => Sys2Proof.Machine.execVlog c a s
  | .vrcp c a => Sys2Proof.Machine.execVrcp c a s
  | .vrsq c a => Sys2Proof.Machine.execVrsq c a s
  | .vsqrt c a => Sys2Proof.Machine.execVsqrt c a s
  | .vtanh c a => Sys2Proof.Machine.execVtanh c a s
  | .vsigm c a => Sys2Proof.Machine.execVsigm c a s
  | .verf c a => Sys2Proof.Machine.execVerf c a s
  | .vkmix c d a b => Sys2Proof.Machine.execVkmix c d a b s
  | .vrndn c => Sys2Proof.Machine.execVrndn c s
  | .vxf c d x => Sys2Proof.Machine.execVxf c d x s
  | .vmovt c d row t => Sys2Proof.Machine.execVmovt c d row t s
  | .idleS h n => Sys2Proof.Machine.execIdleS h n s
  | .vst h m => Sys2Proof.Machine.execVst h m s
  | .vsts h m => Sys2Proof.Machine.execVsts h m s
  | .vstc h m => Sys2Proof.Machine.execVstc h m s
  | .vwr h v bank col q buf ax => Sys2Proof.Machine.execVwr h v bank col q buf ax s
  | .sth h ax pi y fmt s_ => Sys2Proof.Machine.execSth h ax pi y fmt s_ s
  | .push h v f => Sys2Proof.Machine.execPush h v f s
  | .put h c tg => Sys2Proof.Machine.execPut h c tg s
  | .sig h o op => Sys2Proof.Machine.execSig h o op s
  | .amo h o op old => Sys2Proof.Machine.execAmo h o op old s
  | .cas h o old => Sys2Proof.Machine.execCas h o old s
  | .bardef h a ax scope => Sys2Proof.Machine.execBardef h a ax scope s
  | .bararv h ax scope => Sys2Proof.Machine.execBararv h ax scope s
  | .barwt h ax scope => Sys2Proof.Machine.execBarwt h ax scope s
  | .supdSgd h m => Sys2Proof.Machine.execSupdSgd h m s
  | .supdMom h m b => Sys2Proof.Machine.execSupdMom h m b s
  | .coll h op a y b => Sys2Proof.Machine.execColl h op a y b s
  | .cpyS h c => Sys2Proof.Machine.execCpyS h c s
  | .cpymS h c tg => Sys2Proof.Machine.execCpymS h c tg s
  | .tokenArrival => Sys2Proof.Machine.execTokenArrival s
  | .latchEntryArrival => Sys2Proof.Machine.execLatchEntryArrival s
  | .scaleBypassEntryAvailable => Sys2Proof.Machine.execScaleBypassEntryAvailable s
  | .realignmentCycle => Sys2Proof.Machine.execRealignmentCycle s
  | .stall => Sys2Proof.Machine.execStall s
  | .unitCompletion => Sys2Proof.Machine.execUnitCompletion s
  | .workRecordCompletion => Sys2Proof.Machine.execWorkRecordCompletion s
  | .deferredFaultReport => Sys2Proof.Machine.execDeferredFaultReport s
  | .refresh => Sys2Proof.Machine.execRefresh s
  | .keeperRefresh => Sys2Proof.Machine.execKeeperRefresh s
  | .farLate => Sys2Proof.Machine.execFarLate s
  | .phpreDueDeadline => Sys2Proof.Machine.execPhpreDueDeadline s
  | .wainBeat => Sys2Proof.Machine.execWainBeat s
  | .wainReady => Sys2Proof.Machine.execWainReady s
  | .dualWrite => Sys2Proof.Machine.execDualWrite s
  | .windowBeat => Sys2Proof.Machine.execWindowBeat s
  | .farPathDelivery => Sys2Proof.Machine.execFarPathDelivery s
  | .writeAcknowledgement => Sys2Proof.Machine.execWriteAcknowledgement s
  | .copyBlock => Sys2Proof.Machine.execCopyBlock s
  | .copyRetirement => Sys2Proof.Machine.execCopyRetirement s
  | .incomingPut => Sys2Proof.Machine.execIncomingPut s
  | .incomingGet => Sys2Proof.Machine.execIncomingGet s
  | .getResponse => Sys2Proof.Machine.execGetResponse s
  | .atomicPerform => Sys2Proof.Machine.execAtomicPerform s
  | .atomicReport => Sys2Proof.Machine.execAtomicReport s
  | .barrierRelease => Sys2Proof.Machine.execBarrierRelease s
  | .collectiveClose => Sys2Proof.Machine.execCollectiveClose s
  | .gatherComplete => Sys2Proof.Machine.execGatherComplete s
  | .mmaBlockFault => Sys2Proof.Machine.execMmaBlockFault s
  | .frontierRefresh => Sys2Proof.Machine.execFrontierRefresh s
  | .codeRangeDiscard => Sys2Proof.Machine.execCodeRangeDiscard s
  | .bind => Sys2Proof.Machine.execBind s
  | .objectLoadComplete => Sys2Proof.Machine.execObjectLoadComplete s
  | .preempt => Sys2Proof.Machine.execPreempt s
  | .preemptionRequest => Sys2Proof.Machine.execPreemptionRequest s
  | .forcedStop => Sys2Proof.Machine.execForcedStop s
  | .saveImage => Sys2Proof.Machine.execSaveImage s
  | .resume => Sys2Proof.Machine.execResume s
  | .hold => Sys2Proof.Machine.execHold s
  | .release => Sys2Proof.Machine.execRelease s
  | .kill => Sys2Proof.Machine.execKill s
  | .fallow => Sys2Proof.Machine.execFallow s
  | .fallowPassComplete => Sys2Proof.Machine.execFallowPassComplete s
  | .launchPlacement => Sys2Proof.Machine.execLaunchPlacement s
  | .schedulingPass => Sys2Proof.Machine.execSchedulingPass s
  | .sliceEnd => Sys2Proof.Machine.execSliceEnd s
  | .leaderHandover => Sys2Proof.Machine.execLeaderHandover s
  | .partitionFormation => Sys2Proof.Machine.execPartitionFormation s
  | .partitionRelease => Sys2Proof.Machine.execPartitionRelease s
  | .vaultPassComplete => Sys2Proof.Machine.execVaultPassComplete s
  | .rootLaunchPlacement => Sys2Proof.Machine.execRootLaunchPlacement s
  | .handlerInstall => Sys2Proof.Machine.execHandlerInstall s
  | .loanGrant => Sys2Proof.Machine.execLoanGrant s
  | .loanRecall => Sys2Proof.Machine.execLoanRecall s
  | .snapshotReserve => Sys2Proof.Machine.execSnapshotReserve s
  | .snapshotStoragePath => Sys2Proof.Machine.execSnapshotStoragePath s
  | .noiseMode => Sys2Proof.Machine.execNoiseMode s
  | .hostRelease => Sys2Proof.Machine.execHostRelease s
  | .dieDrain => Sys2Proof.Machine.execDieDrain s
  | .attestationReport => Sys2Proof.Machine.execAttestationReport s
  | .plim => Sys2Proof.Machine.execPlim s
  | .lattol => Sys2Proof.Machine.execLattol s
  | .hostBar2Access => Sys2Proof.Machine.execHostBar2Access s
  | .snapAccept => Sys2Proof.Machine.execSnapAccept s
  | .snapshotOpen => Sys2Proof.Machine.execSnapshotOpen s
  | .snapshotDrained => Sys2Proof.Machine.execSnapshotDrained s
  | .gleanerRewrite => Sys2Proof.Machine.execGleanerRewrite s
  | .scrub => Sys2Proof.Machine.execScrub s
  | .budgetPeriod => Sys2Proof.Machine.execBudgetPeriod s
  | .powerGood => Sys2Proof.Machine.execPowerGood s
  | .dieReset => Sys2Proof.Machine.execDieReset s
  | .linkRetrain => Sys2Proof.Machine.execLinkRetrain s
  | .resetNotice => Sys2Proof.Machine.execResetNotice s
  | .linkDownTimeout => Sys2Proof.Machine.execLinkDownTimeout s
  | .peerPackageTimeout => Sys2Proof.Machine.execPeerPackageTimeout s
  | .vaultTemperatureRead => Sys2Proof.Machine.execVaultTemperatureRead s
  | .throttleStep => Sys2Proof.Machine.execThrottleStep s
  | .throttleRise => Sys2Proof.Machine.execThrottleRise s
  | .pause => Sys2Proof.Machine.execPause s
  | .pauseEnd => Sys2Proof.Machine.execPauseEnd s
  | .powerLimitCheck => Sys2Proof.Machine.execPowerLimitCheck s
  | .thermalTrip => Sys2Proof.Machine.execThermalTrip s
  | .idleStateEntry => Sys2Proof.Machine.execIdleStateEntry s
  | .loggedWordsSupply => Sys2Proof.Machine.execLoggedWordsSupply s
  | .managementSession => Sys2Proof.Machine.execManagementSession s

end Sys2Proof.Machine
end

