-- ==== Sys2Proof/Machine/Cycle.lean ====
section
/-! DEFINITION. What fills a cycle (log entries 1, 2): the reference tick and the partitions' cycles, what happens at the beginning and at
the end of a cycle, and the turn of a stream to issue: fetch, computed cycle, decoding, stalls (R23, R24, R27, R48, R50, R140 to R143). -/
namespace Sys2Proof.Machine

/-! ## A stream's turn -/

/-- Whether a stream may issue on the present cycle (R42, R45, R51, R54, R374, R377, R378, R382). -/
def State.active (s : State) (c : Col) (x : Stream) : Bool :=
  let u := s.unit c
  let k := (s.slot c).st
  if u.ctl.prepped || u.ctl.dead then false
  else if u.frm.insv then x == .k && (k == .stopped || k == .stopping)
  else (k == .waitBase || k == .running || k == .stopping) && (match u.ctl.haltAt with | some h => decide (s.now c ≤ h) | none => true) &&
    (x == .k || !u.ctl.closed) && ((u.strm x).st == .run || (u.strm x).st == .late)
/-- The computed issue cycle of the instruction whose words these are (R23, R24, R48); with no word, or for M without its stamp, the next
cycle (R143). -/
def State.computed (s : State) (c : Col) (x : Stream) (ws : List Nat) : Int :=
  let u := s.unit c
  let t := u.strm x
  let w := ws.getD 0 0
  let isIdle := bits w 24 18 == 0
  let n := bits w 17 0
  match ws with
  | [] => t.last + 1
  | _ =>
    if x == .m then
      if u.ctl.timed && 3 ≤ ws.length && !(isIdle && n == 0x3FFFF) then
        t.last + 1 + ((bits (ws.getD 2 0) 19 0 : Int) - (t.last + 1 + s.off c)) % 2 ^ 20
      else t.last + 1
    else t.last + 1 + (bits w 27 25 : Int) + (if isIdle && n != 0x3FFFF then (n : Int) else 0)

/-- What a step does with the head of its agenda: work of the machine itself, or an instruction or event to execute. -/
inductive Turn where
  | rest (s : State)
  | run (i : Instr) (s : State)

/-- The wait at a realignment point has lasted longer than STALLMAX.LIMIT (R45); K at its REALIGN waits without limit. -/
def State.pointStall (s : State) (c : Col) (x : Stream) : Bool :=
  let u := s.unit c
  match (u.strm x).st with
  | .point since => s.issues c && !(x == .k && u.ctl.rpend) && decide (since + u.ctl.limit.toNat < s.now c)
  | _ => false
/-- The words are an ALIGN's or a REALIGN's, which the unit's state makes an ILLEGAL_INSTRUCTION whatever their fields (R43, R44, R143). -/
def UnitSt.secondAlign (u : UnitSt) (ws : List Nat) : Bool :=
  let op := bits (ws.getD 0 0) 24 18
  (op == 0x65 && u.alignBad) || (op == 0x66 && u.realignBad)
/-- The turn of a stream, K's wait at ALIGN for BASE being a stall as any other (R50; DESIGN CHOICE, log entry 11): it waits for its computed cycle, faults (FADDR is the
place of the word in the instruction store, log entry 31), stalls for too long, or executes the instruction it decodes. -/
def State.turn (s : State) (c : Col) (x : Stream) : Turn :=
  let now := s.now c
  let u := s.unit c
  let fault := fun (e : FaultRec) => Turn.rest (perform (takeFault c x { e with addr := (u.strm x).pc }) s)
  if !s.active c x then (if s.pointStall c x then .rest (perform (eventNow (.stall c x)) s) else .rest s)
  else
    let ws := s.fetch c x
    let due := (u.strm x).due.getD (max now (s.computed c x (ws.getD (s.firstWord c x).toList)))
    if now < due then .rest s
    else
      let s1 := perform (onUnit c (fun u => u.onStrm x (fun t => { t with due := some due }))) s
      match ws with
      | none => fault (flt .fetchRange)
      | some l =>
        match decode x l with
        | .illegalInstruction => fault (flt .illegalInstruction)
        | .illegalEncoding => fault (flt (if x == .k && u.secondAlign l then .illegalInstruction else .illegalEncoding))
        | .ok i =>
          if !u.ctl.timed && due + u.ctl.limit.toNat < now then .rest (perform (eventNow (.stall c x)) s1) else .run i s1

/-! ## Streams that wait for each other -/

/-- The next task of a column, an instruction or an event of it executed. -/
def State.ahead (s : State) : State :=
  let go := fun (i : Instr) (t : State) => match exec i t with
    | .next t' => t'
    | _ => t
  match s.agenda with
  | .issue c x n :: r =>
    (match (run [.agenda r, .cur { col := c, stream := x, turn := n }] s).turn c x with
      | .rest t => t
      | .run i t => go i t)
  | .event e :: r => go e.instr (run [.agenda r, .ev e] s)
  | _ => s
/-- The turns of streams that are to issue together, and then those of the others. -/
def ringTasks (c : Col) (together others : List Stream) : List Task :=
  together.map (fun x => Task.issue c x ringTurn) ++ others.map (fun x => Task.issue c x loneTurn)
/-- The streams of a list that do issue on the cycle where their turns come so. -/
def State.ringIssues (s : State) (c : Col) (xs others : List Stream) : List Stream :=
  let t := Nat.repeat State.ahead 64 { s with agenda := ringTasks c xs others }
  xs.filter (fun x => ((t.unit c).strm x).last == s.now c && !(x == .k && (t.unit c).frm.insv && !(s.unit c).frm.insv))
/-- The streams, of those that wait for each other's consumptions, that all issue on the cycle if their consumptions are applied first: the largest set of
which each one does (R20; log entry 70). -/
def State.ringSet (s : State) (c : Col) : Nat → List Stream → List Stream → List Stream
  | 0, _, _ => []
  | n + 1, xs, others =>
    let ys := s.ringIssues c xs others
    if ys.length == xs.length then xs else State.ringSet s c n ys (others ++ xs.filter (fun x => !ys.contains x))
/-- It is decided which of the streams that are left issue together. -/
def ringDecide (c : Col) : Act := fun s =>
  let l := s.turnsLeft c
  let xs := streams.filter (fun x => l.any (fun t => match t with
    | .issue _ y _ => y == x
    | _ => false))
  let ys := s.ringSet c 7 xs []
  [.agenda (ringTasks c ys (xs.filter (fun x => !ys.contains x)) ++ s.agenda.drop l.length)]

/-! ## The beginning of a cycle -/

/-- What is over is forgotten: dual writes performed, pending blocks that are there, port cycles that are past. -/
def UnitSt.tidy (u : UnitSt) (now : Int) : UnitSt :=
  { u with
    eng := { u.eng with resv := u.eng.resv.filter (fun r => decide (now < r.2.1 + r.2.2)) }
    maps := { u.maps with duals := u.maps.duals.filter (fun d => !d.done) }
    ord := { u.ord with pblks := u.ord.pblks.filter (fun p => match p.due with | some d => decide (now < d) | none => true) } }
def insertEv {α : Type} (f : α → Nat) (e : α) : List α → List α
  | [] => [e]
  | b :: l => if f e < f b then e :: b :: l else b :: insertEv f e l
/-- A list in the order of a rank, equal ranks as they stand. -/
def sortEvs {α : Type} (f : α → Nat) (l : List α) : List α := l.foldl (fun l e => insertEv f e l) []
/-- The wheel position of an operation's issue (R269). -/
def State.position (s : State) (w : Who) : Nat := ((w.issue - s.baseAt w.col) % 2048).toNat
/-- The served requests that are due at a vault (R131, R271): writes, then the operations, arrivals of one cycle in the order of their wheel
positions (R274). -/
def serveAll (o : Col) (xs : List Served) : Act := fun s =>
  let ops := (sortEvs (fun (x : Served) => s.position x.req.who) xs).filterMap (fun x => match x.req.kind with
    | .atom id => some (Task.event (.atomicPerform id))
    | _ => none)
  Act.seq (Act.each xs (fun x => match x.req.kind with
    | .write w => serveWrite o x.req w
    | _ => Act.none)) (fun s => [.agenda (ops ++ s.agenda)]) s
/-- What the walks of a column's translations have brought comes into its cache (R116). -/
def fillCache (c : Col) : Act := fun s =>
  let ripe := (s.unit c).maps.walks.filter (fun w => decide (w.2 ≤ s.now c))
  if ripe.isEmpty then []
  else Act.seq (onUnit c (fun u => { u with maps := { u.maps with walks := u.maps.walks.filter (fun w => decide (s.now c < w.2)) } }))
    (Act.each ripe (fun w => draw 1 (fun n => onUnit c (fun u => { u with maps := u.maps.cacheIn w.1 u.ctl.timed (Config.evict n) })))) s
/-- A running Wain waits with its unit (R124). -/
def holdWain (c : Col) : Act := fun s =>
  if (s.unit c).maps.active && !s.issues c then onUnit c (fun u => { u with maps := u.maps.delayed 1 }) s else []
/-- Everything of a column that happens of itself at the beginning of a cycle. -/
def beginCol (c : Col) : Act := fun s =>
  let ripe := fun (s : State) => (s.vault c).served.filter (fun x => decide (x.at_ ≤ s.now x.req.who.col))
  Act.all [landFirst c,
    onUnit c (fun u => u.tidy (s.now c)), fillCache c, holdWain c,
    fun s => if (ripe s).isEmpty then [] else
      Act.seq (onVault c (fun v => { v with served := v.served.filter (fun x => decide (s.now x.req.who.col < x.at_)) })) (serveAll c (ripe s)) s,
    countCycle c] s

/-- The loan beats of a running Wain, which take no cycle of the package's vaults, and its end (R118). -/
def MapSt.loanBeats (m : MapSt) (c : Col) (now : Int) : List Ev :=
  (if m.carried.any (fun k => k.mv.dext.isSome && decide (k.from_ ≤ now)) then [Ev.wainBeat c true] else []) ++
    (match m.moves with
      | mv :: _ => if mv.sext.isSome && decide (m.t0 ≤ now) && decide (m.lastRd < now) then [Ev.wainBeat c false] else []
      | [] => if m.active && m.carried.isEmpty && decide (m.readyAt ≤ now) then [Ev.wainReady c] else [])
/-- What a block of a read makes of a cycle: it lands, or it is late (R133, R134). -/
def Arr.readEvent (a : Arr) (id k : Nat) (now : Int) (timed : Bool) : List Ev :=
  match a.form with
  | none => []
  | some f =>
    let here := match a.at_ with
      | some x => decide (x ≤ now)
      | none => false
    if a.del || decide (now < f) then []
    else if here then [Ev.farPathDelivery id k]
    else if timed && f == now && !a.late then [Ev.farLate id k] else []
/-- A block of a write is late when its formula cycle comes before it is written (R134). -/
def Arr.writeLate (a : Arr) (now : Int) : Bool :=
  match a.form with
  | none => false
  | some f => !a.late && f == now && (match a.at_ with
    | some x => decide (f < x)
    | none => true)
/-- The blocks of a transaction that land on the cycle, or are late for it (R133, R134); those of one copy command land in block order, one on a
cycle (R353; log entry 65). -/
def Txn.events (t : Txn) (now : Int) (timed : Bool) : List Ev :=
  let ix := (List.range t.arrs.length).zip t.arrs
  match t.kind with
  | .load _ => ix.flatMap (fun x => x.2.readEvent t.id x.1 now timed)
  | .copy _ =>
    let next := (ix.find? (fun x => !x.2.del)).map (·.1)
    (ix.flatMap (fun x => x.2.readEvent t.id x.1 now timed)).filter (fun e => match e with
      | .farPathDelivery _ k => some k == next
      | _ => true)
  | .store | .copyOut _ | .atom _ => if timed then (ix.filter (fun x => x.2.writeLate now)).map (fun x => Ev.farLate t.id x.1) else []
/-- The blocks of a column's transactions that land on the cycle, or are late for it (R133, R134). -/
def State.deliveries (s : State) (c : Col) : List Ev :=
  (s.txns.filter (fun t => t.who.col == c)).flatMap (fun t => t.events (s.now c) (s.unit c).ctl.timed)
/-- The events of a column at the beginning of a cycle, after what happens of itself: a window's beat, unless a COW write of the beat before holds the port (R115),
and what the Wain does outside the package. -/
def State.colEvents (s : State) (c : Col) : List Ev :=
  let u := s.unit c
  let now := s.now c
  let v := s.vault c
  let runs := s.issues c
  (if v.wins.any (fun w => w.covers now) && !v.port.contains now then [Ev.windowBeat c] else []) ++
    (if runs then u.maps.loanBeats c now else [])
/-- The rank of a due event: requests that come in from other columns go by arrival, ties by the lower column (R238). -/
def State.fromCol (s : State) (e : Ev) : Nat :=
  match e with
  | .incomingPut tx _ | .incomingGet tx _ => ((s.work.xfers.find? (fun x => x.tx == tx)).map (fun x => x.arrive.toNat * 512 + x.from_.val + 1)).getD 0
  | _ => 0
def evLast : Ev → Bool
  | .phpreDueDeadline _ => true
  | _ => false
/-- Blocks on their way to or from a target's buffer that their formula has there now; they are late unless they arrive on the cycle (R134, R263, R264). -/
def State.lateXfers (s : State) (cols : List Col) : List Ev :=
  let free := fun (x : Xfer) => ((s.unit x.from_).cmd? x.cmd).any (fun q => q.op == 3 && q.pkg != 0)
  (s.work.xfers.filter (fun x => cols.contains x.from_ && (!x.loc.isGlob || free x) && (match x.form with
    | some f => f == s.now x.from_
    | none => false))).map (fun x => Ev.farLate x.tx x.k)
/-- Timers of a partition, or of no partition, that are due. -/
def State.dueTimers (s : State) (p : Option (BitVec 16)) (now : Int) : List Ev :=
  (s.timers.filter (fun t => t.part == p && decide (t.at_ ≤ now))).map (·.ev)
/-- The passes or handovers of the partition's queues at a slot boundary (R358, R370, R373). -/
def State.slotEvents (s : State) (p : Part) : List Ev :=
  if p.cyc % 2048 != 0 then []
  else (s.work.queues.filter (fun k => k.owner == p.num)).map (fun k =>
    if s.leader k.die != k.leader then Ev.leaderHandover k.die k.q else Ev.schedulingPass k.die k.q)
/-- Events that write on-chip memory on their cycle, which the reads of that cycle see (R29, R331), and a pre-emption request, which stops row writes of its
cycle (R297), and a forced stop, from whose cycle on the unit does not run (R36, R382). -/
def evFirst : Ev → Bool
  | .incomingPut .. => true
  | .atomicPerform _ => true
  | .preemptionRequest _ => true
  | .forcedStop _ => true
  | _ => false
/-- Due events of a partition that come before everything else of its cycle. -/
def State.early (s : State) (num : BitVec 16) : List Ev := (sortEvs s.fromCol (s.dueTimers (some num) (s.partNow num))).filter evFirst
/-- The beginning of a partition's cycle: what is over, the blocks that land, the row writes that prevail over theirs (R30), and the other
events. -/
def beginCycle (num : BitVec 16) : Act := fun s =>
  match s.part num with
  | none => []
  | some p =>
    let due := sortEvs s.fromCol (s.dueTimers (some num) p.cyc)
    Act.all [Act.each p.cols beginCol,
      fun s =>
        let evs := p.cols.flatMap s.colEvents ++ due.filter (fun e => !evLast e) ++ s.lateXfers p.cols ++ s.slotEvents p ++ due.filter evLast
        [.timers (s.timers.filter (fun t => !(t.part == some num && decide (t.at_ ≤ p.cyc)))),
         .agenda (s.agenda ++ (p.cols.flatMap s.deliveries).map Task.event ++ Task.land num :: evs.map Task.event)]] s
/-- The second part of the landings of a partition's cycle (R30, R331). -/
def landCycle (num : BitVec 16) : Act := fun s =>
  match s.part num with
  | none => []
  | some p => Act.each p.cols landLast s

/-! ## The end of a cycle -/

/-- Nothing of a removed unit is under way any more (R380). -/
def State.retired (s : State) (c : Col) : Bool :=
  let u := s.unit c
  u.eng.cmds.isEmpty && u.pend.isEmpty && u.ord.outst.all (fun o => (o.id == 0 && !o.flying (s.now c)) || u.eng.clf.any (fun e => e.id == o.id)) &&
    !s.work.atoms.any (fun a => a.who.col == c) && !s.txns.any (fun t => t.who.col == c)
/-- The alignment or realignment cycle that a column's unit comes to, once it stands: BASE of a unit that is loaded or waits for it, or the declared point (R43,
R44). -/
def State.nextAlign (s : State) (c : Col) : Option Int :=
  let u := s.unit c
  let k := s.slot c
  if u.ctl.rpend && !u.ctl.prepped then some (s.baseAt c + (u.ctl.t.toNat : Int))
  else if k.st == .waitBase then some (s.baseAt c)
  else if k.st == .loading && !k.saved.any (fun y => y.launch == k.launch) then some ((k.base.toNat : Int) - s.off c)
  else none
/-- The last command of a refresh by the keeper would fall in the 128 cycles before an alignment or realignment cycle that stands, or on it, so the keeper does
not begin it: what it owes a bank by then it has done before (R107; log entry 16). -/
def VaultSt.keepBarred (v : VaultSt) (b : Fin 16) (next : Option Int) (now : Int) : Bool :=
  match next with
  | some x =>
    let k := v.banks[b]
    decide (now ≤ x ∧ x - 128 ≤ max (k.ref.getD now) (k.act.getD now))
  | none => false
/-- The banks whose refreshes the keeper begins on a cycle, one after the other, as far as it may (R106, R107). -/
def VaultSt.keeps (v : VaultSt) (span now : Int) (next : Option Int) : List (Fin 16) → List (Fin 16)
  | [] => []
  | b :: l =>
    let w := v.keep b span now
    if w.keepBarred b next now then v.keeps span now next l else b :: w.keeps span now next l
/-- Banks whose refresh deadline has come and that the keeper does not hold (R105, R106). -/
def State.refreshEvents (s : State) (c : Col) : List Ev :=
  let v := s.vault c
  let now := s.now c
  let due := allBanks.filter (fun b => decide ((v.banks[b]).deadline ≤ now) && !v.keeperHolds b now)
  if s.issues c && (s.unit c).ctl.timed then (due.filter (fun b => (v.banks[b]).deadline == now)).map (fun b => Ev.refresh c b)
  else (v.keeps (s.unit c).span now (s.nextAlign c) due).map (fun b => Ev.keeperRefresh c b)
/-- The events of a column at the end of a cycle (R45, R54, R105, R385). -/
def State.endEvents (s : State) (c : Col) : List Ev :=
  let u := s.unit c
  s.refreshEvents c ++
    (if u.ctl.rpend && !u.ctl.prepped && decide (s.baseAt c + (u.ctl.t.toNat : Int) ≤ s.now c) then [Ev.realignmentCycle c] else []) ++
    (if s.haltDone c then [Ev.unitCompletion c] else [])
/-- The keeper clears the freed pages of a vault whose column runs no unit, 128 bytes a cycle (R137, R423; log entry 74). -/
def keeperClear (c : Col) : Act := fun s =>
  let g := (s.vault c).budget
  if g.fallow.isEmpty then []
  else Act.seq (fun _ => [.vault c { s.vault c with budget := { g with fallow := g.fallow.drop 2 } },
    .mem c .vault ((g.fallow.take 2).map (fun b => (b, Blk.clear.whole)))]) (Act.seq retrySnaps (idleFrom c)) s
/-- The end of a cycle at a column: a unit that has stopped for a pre-emption is saved once all that it issued has completed (R382,
R385), and a removed unit's column is DONE (R380). -/
def endCol (c : Col) : Act := fun s =>
  let u := s.unit c
  let k := (s.slot c).st
  if u.ctl.dead then
    Act.when ([.loading, .waitBase, .running, .stopped, .held, .stopping].contains k && s.retired c)
      (Act.all [toState c .done, onUnit c (fun u => { u with ctl := { u.ctl with dead := false } }), leaveLaunch c, idleFrom c]) s
  else if u.ctl.prepped && u.ctl.preempt.isSome && k == .stopping && u.settled (s.now c) then
    Act.seq (onUnit c (fun u => { u with ctl := { u.ctl with preempt := none } }))
      (draw 1 (fun n => eventAt c (s.now c + ((Config.saveCycles n % 37601 : Nat) : Int)) (.saveImage c))) s
  else if [.free, .done, .saved].contains k then keeperClear c s
  else []
def endCycle (num : BitVec 16) : Act := fun s =>
  match s.part num with
  | none => []
  | some p => Act.all [Act.each p.cols endCol, fun s => [.agenda ((p.cols.flatMap s.endEvents).map Task.event ++ s.agenda)], sweepRecords num] s

/-! ## Time -/

/-- A partition whose cycle ends on this reference tick advances; a paused one does not (R8, R37, R393; log entry 2). -/
def Part.tick (p : Part) : Part × Bool :=
  if p.paused then (p, false)
  else if Config.clockMHz ≤ p.acc + p.mhz then ({ p with cyc := p.cyc + 1, acc := p.acc + p.mhz - Config.clockMHz }, true)
  else ({ p with acc := p.acc + p.mhz }, false)
/-- The tasks of a partition's cycle. -/
def Part.tasks (p : Part) : List Task :=
  [Task.begin p.num] ++ p.cols.flatMap (fun c => streams.map (fun x => Task.issue c x 0)) ++ [Task.settle p.num]
/-- Columns that may enter a deeper idle state on this tick (R424). -/
def State.idleEvents (s : State) : List Ev :=
  if s.pkg.lattol == 0 then []
  else allCols.flatMap (fun c => ([.c1, .c2, .c3] : List IdleState).filterMap (fun st =>
    if (s.vault c).idleAt + IdleState.after st ≤ s.tick && (s.vault c).deeper st && s.mayIdle c st then some (Ev.idleStateEntry c st) else none))
/-- Each direction of each link takes up to 16 of the beats that are ready for it, by their issue cycles and columns (R401; log entry 66). -/
def serveLinks : Act := fun s =>
  if s.links.isEmpty then []
  else
    let ready := s.links.filter (fun b => decide (b.ready ≤ s.now b.col))
    let rank := fun (b : LinkBeat) => (b.issue.toNat) * 512 + b.col.val
    let takes := ([0, 1, 2, 3] : List Die).flatMap (fun d => ([0, 1, 2, 3] : List Die).flatMap (fun e =>
      (sortEvs rank (ready.filter (fun b => b.src = d && b.dst = e))).take 16))
    Act.seq (fun s => [.links (s.links.filter (fun b => !takes.contains b))]) (Act.each takes (fun b => fun s => b.go_ (s.now b.col) s)) s
/-- A reference tick: what comes from outside, what is due, and the cycles that the partitions begin. -/
def nextTick : Act := fun s =>
  let ps := s.parts.map Part.tick
  let go := (ps.filter (·.2)).map (·.1)
  let evs := s.inbox ++ s.dueTimers none (s.tick + 1) ++ s.idleEvents
  [.tick (s.tick + 1), .parts (ps.map (·.1)), .inbox [],
   .timers (s.timers.filter (fun t => !(t.part == none && decide (t.at_ ≤ ((s.tick + 1 : Nat) : Int))))),
   .agenda (evs.map Task.event ++ go.flatMap Part.tasks)]

/-- The end of a reference tick at the links, and the next one. -/
def tickOver : Act := Act.seq serveLinks nextTick

/-- What the head of the agenda makes of the state. -/
def turn (s : State) : Turn :=
  match s.agenda with
  | [] => .rest (perform tickOver s)
  | .event e :: r => .run e.instr (run [.agenda r, .ev e] s)
  | .begin n :: r =>
    let early := s.early n
    if early.isEmpty then
      .rest (perform (Act.seq (fun _ => [.agenda []]) (Act.seq (beginCycle n) (fun s => [.agenda (s.agenda ++ r)]))) s)
    else
      .rest (run [.timers (s.timers.filter (fun t => !(t.part == some n && decide (t.at_ ≤ s.partNow n) && evFirst t.ev))),
                  .agenda (early.map Task.event ++ s.agenda)] s)
  | .issue c x n :: r => (run [.agenda r, .cur { col := c, stream := x, turn := n }] s).turn c x
  | .ring c :: r => .rest (perform (ringDecide c) (run [.agenda r] s))
  | .land n :: r => .rest (perform (landCycle n) (run [.agenda r] s))
  | .settle n :: r => .rest (perform (Act.seq (fun _ => [.agenda r]) (endCycle n)) s)

/-! ## A program's first instruction (log entry 5) -/

/-- The partition that `withFetchWord` gives to column 0 where it is in none. -/
def soloPart : Part :=
  { num := 0, tenant := 0, cols := [0], ref := 0, floor := 600, mhz := 1200, cyc := 0, acc := 0, paused := false, offs := .replicate 4 0, queues := [],
    handler := none, board := [], pubs := [], heated := [], pausedAt := 0, pausedBy := [], atFloor := none, stepped := 0, noise := 0, closing := false }
/-- Column 0 with three words at the start of its instruction store, its unit running loose with K there, its last issue so far back that K's
instruction is due now, and K's turn next: what a load and a start leave, without their time. -/
def fetchWordState (s : State) (_nbits w : Nat) : State :=
  let s := if (s.partOf 0).isSome then s else run [.parts (soloPart :: s.parts)] s
  let ws := tableWords w
  let u := s.unit 0
  let t : Strm := { pc := 0, lo := 0, hi := 64, last := s.now 0 - 2 ^ 20, due := none, st := .run }
  let u : UnitSt := { u with ctl := { u.ctl with strms := u.ctl.strms.set 0 t, timed := false, haltAt := none, closed := false, prepped := false, dead := false, iload := false, kfree := s.now 0, limit := 0x04000000 },
                             ord := { u.ord with oldCode := [] }, frm := { u.frm with insv := false } }
  run [.unit 0 u, .slot 0 { s.slot 0 with st := .running }, .mem 0 .store [(0, ({ mask := BitVec.ofNat 512 (2 ^ 96 - 1), data := BitVec.ofNat 512 (packNat 32 ws), hd := none, need := none } : BlkWrite))],
       .agenda [.issue 0 .k 0]] s

end Sys2Proof.Machine
end

