-- ==== Sys2Proof/Machine/Step.lean ====
section
/-! DEFINITION. The step (log entry 1), and the state in which a given instruction comes next (log entry 5). -/
namespace Sys2Proof.Machine

/-- One step: work of the machine itself, or an instruction or event executed. -/
def step (s : State) : Host.Outcome State Fault Refusal :=
  match turn s with
  | .rest t => .next t
  | .run i t => exec i t

/-- `s` with the instruction whose words are `w` (bit 0 the least significant bit of the first word, `nbits` of them, the rest zero) at the
start of K's section of column 0, whose unit runs loose in a partition of its own, and K's turn to come next. -/
def State.withFetchWord (s : State) (nbits w : Nat) : State :=
  fetchWordState s nbits w

end Sys2Proof.Machine
end

