-- ==== Sys2Proof/Safety.lean ====
section
/-! DEFINITION. What counts as a safe run, in the terms that claims use: a state whose memories are in canonical form, a step that answers
a next state; and the words in which claims speak of the instruction whose turn it is. -/
namespace Sys2Proof.Machine

/-- Every memory of the machine is in canonical form: the five of each column, and the memory outside the package. -/
def State.memWf (s : State) : Prop := (∀ c : Col, (s.mems[c]).wf = true) ∧ s.ext.wf = true
/-- A step that neither faults nor is refused. -/
def steps (s : State) : Prop := ∃ t, step s = .next t

/-! ## The turn -/

/-- The column of the turn, its unit, and the cycle. -/
def State.me (s : State) : Col := s.cur.col
def State.my (s : State) : UnitSt := s.unit s.me
def State.t (s : State) : Int := s.now s.me

/-- The conditions that every instruction of a stream shares: no sync bits in supervisor state (R374), its tokens (R20), and for K no
ILOAD that still holds it (R222). -/
def State.clear (s : State) (x : Stream) (sync : Fin 16) : Prop :=
  (x = .k → s.my.frm.insv = true → sync = 0) ∧ s.my.tokenMiss x sync s.t = none ∧ (x = .k → s.my.ctl.iload = false ∧ s.my.ctl.kfree ≤ s.t)
/-- The state after an instruction has issued whose whole effect is on its unit: its effects, its tokens, and its stream (R15, R18, R23). -/
def State.issued (s : State) (x : Stream) (sync : Fin 16) (len : Nat) (a : Attempt) : State :=
  perform (onUnit s.me (fun u => u.complete x sync len s.t a)) s
/-- The same with what the instruction does outside its unit. -/
def State.issuedWith (s : State) (x : Stream) (sync : Fin 16) (len : Nat) (a : Attempt) : State :=
  perform a.after (perform a.more (s.issued x sync len a))
/-- An instruction that could issue now: none of its own conditions and faults stands in the way (R26, R143). -/
def Attempt.free (a : Attempt) : Prop := a.illegal = none ∧ a.priv = false ∧ a.miss = none ∧ a.fault = none
/-- K reads and writes scalar registers without meeting a pending write (R185). -/
def State.ready (s : State) (reads : List (Fin 64)) (write : Option (Fin 64)) (n : Nat) : Prop := kBusy s s.me s.my s.t reads write n = none
/-- V reads and writes its registers and predicates without meeting BUSY (R299, R301), and no copy, get or queue load is pending on the
rows that it reads (R48, R240). -/
def UnitSt.vReady (u : UnitSt) (now : Int) (n : Nat) (rv wv : List (Fin 64)) (rp wp : List (Fin 16)) : Prop :=
  u.vBusy now n rv wv rp wp = none ∧ u.rowsStand now (u.vRows rv) = true
/-- The effect that writes a scalar register n cycles on. -/
def State.writes (s : State) (d : Fin 64) (v : SVal) (n : Nat) : Pend := { at_ := s.t + n, stream := .k, eff := .sreg d v }
/-- An effect of a stream n cycles on. -/
def State.lands (s : State) (x : Stream) (e : Eff) (n : Nat) : Pend := { at_ := s.t + n, stream := x, eff := e }

end Sys2Proof.Machine
end

