-- ==== Sys2Proof/Laws/Memory.lean ====
section
/-! SUPPORT. The basic laws of memories: a byte written is the byte read, a write leaves the other bytes alone, and every memory operation
keeps the canonical form. -/
namespace Sys2Proof.Machine

/-- Every entry of a list lies at or above an address. -/
def cellsAbove (a : Nat) (l : List Host.Cell) : Prop := ∀ c ∈ l, a < c.1

theorem cellsWf_tail {d : Nat → Byte} {x : Host.Cell} {l : List Host.Cell} (h : cellsWf d (x :: l) = true) : cellsWf d l = true := by
  obtain ⟨a, v⟩ := x
  cases l with
  | nil => rfl
  | cons y t => obtain ⟨b, w⟩ := y; simp only [cellsWf, Bool.and_eq_true] at h; exact h.2

theorem cellsWf_head {d : Nat → Byte} {a : Nat} {v : Byte} {l : List Host.Cell} (h : cellsWf d ((a, v) :: l) = true) : v ≠ d a := by
  cases l with
  | nil => simpa [cellsWf] using h
  | cons y t => obtain ⟨b, w⟩ := y; simp only [cellsWf, Bool.and_eq_true, bne_iff_ne] at h; exact h.1.1

theorem cellsWf_above {d : Nat → Byte} {a : Nat} {v : Byte} {l : List Host.Cell} (h : cellsWf d ((a, v) :: l) = true) : cellsAbove a l := by
  induction l generalizing a v with
  | nil => intro c hc; cases hc
  | cons y t ih =>
    obtain ⟨b, w⟩ := y
    have hb : a < b := by simp only [cellsWf, Bool.and_eq_true, decide_eq_true_eq] at h; exact h.1.2
    intro c hc
    cases hc with
    | head => exact hb
    | tail _ hc => exact Nat.lt_trans hb (ih (cellsWf_tail h) c hc)

theorem cellsWf_cons {d : Nat → Byte} {a : Nat} {v : Byte} {l : List Host.Cell} (hv : v ≠ d a) (ha : cellsAbove a l) (hl : cellsWf d l = true) :
    cellsWf d ((a, v) :: l) = true := by
  cases l with
  | nil => simpa [cellsWf] using hv
  | cons y t =>
    obtain ⟨b, w⟩ := y
    have hb : a < b := ha (b, w) (by simp)
    simp [cellsWf, hv, hb, hl]

theorem cellSet_above {d : Nat → Byte} {l : List Host.Cell} {a b : Nat} {v : Byte} (hl : cellsAbove b l) (h : b < a) : cellsAbove b (cellSet d l a v) := by
  induction l with
  | nil =>
    intro c hc
    simp only [cellSet] at hc
    split at hc
    · cases hc
    · simp at hc; subst hc; exact h
  | cons x t ih =>
    obtain ⟨e, w⟩ := x
    have ht : cellsAbove b t := fun c hc => hl c (by simp [hc])
    have he : b < e := hl (e, w) (by simp)
    simp only [cellSet]
    split
    · split
      · exact ht
      · intro c hc; simp at hc; rcases hc with rfl | hc
        · exact h
        · exact ht c hc
    · split
      · split
        · exact hl
        · intro c hc; simp at hc; rcases hc with rfl | rfl | hc
          · exact h
          · exact he
          · exact ht c hc
      · intro c hc; simp at hc; rcases hc with rfl | hc
        · exact he
        · exact ih ht c hc

/-- Setting a byte keeps the canonical form. -/
theorem cellSet_wf {d : Nat → Byte} {l : List Host.Cell} (a : Nat) (v : Byte) (h : cellsWf d l = true) : cellsWf d (cellSet d l a v) = true := by
  induction l with
  | nil =>
    simp only [cellSet]
    split
    · rfl
    · rename_i hv; simpa [cellsWf] using hv
  | cons x t ih =>
    obtain ⟨b, w⟩ := x
    have ht := cellsWf_tail h
    have hw := cellsWf_head h
    have hb := cellsWf_above h
    simp only [cellSet]
    split
    · rename_i e
      have e : a = b := by simpa using e
      split
      · exact ht
      · rename_i hv; subst e; exact cellsWf_cons (by simpa using hv) hb ht
    · split
      · rename_i lt
        split
        · exact h
        · rename_i hv
          refine cellsWf_cons (by simpa using hv) ?_ h
          intro c hc; simp at hc; rcases hc with rfl | hc
          · exact lt
          · exact Nat.lt_trans lt (hb c hc)
      · rename_i e lt
        have e : a ≠ b := by simpa using e
        exact cellsWf_cons hw (cellSet_above hb (by omega)) (ih ht)

theorem cellGet_above {d : Nat → Byte} {l : List Host.Cell} {a : Nat} (h : cellsAbove a l) : cellGet d l a = d a := by
  cases l with
  | nil => rfl
  | cons x t =>
    obtain ⟨b, w⟩ := x
    have hb : a < b := h (b, w) (by simp)
    have hn : a ≠ b := by omega
    simp [cellGet, hb, hn]

/-- A byte written is the byte read. -/
theorem cellGet_cellSet_same {d : Nat → Byte} {l : List Host.Cell} (a : Nat) (v : Byte) (h : cellsWf d l = true) : cellGet d (cellSet d l a v) a = v := by
  induction l with
  | nil =>
    simp only [cellSet]
    split
    · rename_i hv; simp at hv; simp [cellGet, hv]
    · simp [cellGet]
  | cons x t ih =>
    obtain ⟨b, w⟩ := x
    have ht := cellsWf_tail h
    have hb := cellsWf_above h
    simp only [cellSet]
    split
    · rename_i e
      have e : a = b := by simpa using e
      subst e
      split
      · rename_i hv; simp at hv; subst hv; exact cellGet_above hb
      · simp [cellGet]
    · rename_i e
      have e : a ≠ b := by simpa using e
      split
      · rename_i lt
        split
        · rename_i hv; simp at hv; simp [cellGet, e, lt, hv]
        · simp [cellGet]
      · rename_i lt
        simp [cellGet, e, lt, ih ht]

/-- A write leaves the other bytes alone. -/
theorem cellGet_cellSet_other {d : Nat → Byte} {l : List Host.Cell} {a c : Nat} (v : Byte) (h : cellsWf d l = true) (hn : c ≠ a) :
    cellGet d (cellSet d l a v) c = cellGet d l c := by
  induction l with
  | nil =>
    simp only [cellSet]
    split
    · rfl
    · simp [cellGet, hn]
  | cons x t ih =>
    obtain ⟨b, w⟩ := x
    have ht := cellsWf_tail h
    have hb := cellsWf_above h
    simp only [cellSet]
    split
    · rename_i e
      have e : a = b := by simpa using e
      subst e
      split
      · by_cases lt : c < a
        · have : cellsAbove c t := fun y hy => Nat.lt_trans lt (hb y hy)
          simp [cellGet, hn, lt, cellGet_above this]
        · simp [cellGet, hn, lt]
      · simp [cellGet, hn]
    · rename_i e
      have e : a ≠ b := by simpa using e
      split
      · rename_i lt
        split
        · rfl
        · by_cases lc : c < a
          · have h1 : c ≠ b := by omega
            have h2 : c < b := by omega
            simp [cellGet, hn, lc, h1, h2]
          · simp [cellGet, hn, lc]
      · simp only [cellGet]
        split
        · rfl
        · split
          · rfl
          · exact ih ht

/-! ## Memories -/

theorem Memory.wf_iff (m : Memory) : m.wf = true ↔ cellsWf payDefault m.cells = true ∧ cellsWf headDefault m.heads = true := by
  simp [Memory.wf]

theorem Memory.setByte_wf {m : Memory} (a : Nat) (v : Byte) (h : m.wf = true) : (m.setByte a v).wf = true := by
  rw [Memory.wf_iff] at *; exact ⟨cellSet_wf a v h.1, h.2⟩

theorem Memory.setHead_wf {m : Memory} (b : Nat) (x : Head) (h : m.wf = true) : (m.setHead b x).wf = true := by
  rw [Memory.wf_iff] at *; exact ⟨h.1, cellSet_wf _ _ (cellSet_wf _ _ h.2)⟩

theorem Memory.byte_setByte_same {m : Memory} (a : Nat) (v : Byte) (h : m.wf = true) : (m.setByte a v).byte a = v :=
  cellGet_cellSet_same a v ((Memory.wf_iff m).1 h).1

theorem Memory.byte_setByte_other {m : Memory} {a c : Nat} (v : Byte) (h : m.wf = true) (hn : c ≠ a) : (m.setByte a v).byte c = m.byte c :=
  cellGet_cellSet_other v ((Memory.wf_iff m).1 h).1 hn

theorem Memory.writeBytes_wf {m : Memory} (b : Nat) (k x : BitVec 512) (n i : Nat) (h : m.wf = true) : (m.writeBytes b k x i n).wf = true := by
  induction n generalizing m i with
  | zero => exact h
  | succ n ih =>
    simp only [Memory.writeBytes]
    split
    · exact ih _ h
    · exact ih _ (Memory.setByte_wf _ _ h)

/-- A block write keeps the canonical form. -/
theorem Memory.write_wf {m : Memory} (b : Nat) (w : BlkWrite) (h : m.wf = true) : (m.write b w).wf = true := by
  simp only [Memory.write]
  split
  · exact Memory.setHead_wf _ _ (Memory.writeBytes_wf _ _ _ _ _ h)
  · exact Memory.writeBytes_wf _ _ _ _ _ h

theorem Memory.writes_wf {m : Memory} (ws : List (Nat × BlkWrite)) (h : m.wf = true) : (m.writes ws).wf = true := by
  induction ws generalizing m with
  | nil => exact h
  | cons x t ih => exact ih (Memory.write_wf _ _ h)

theorem Memory.empty_wf : Memory.empty.wf = true := rfl

theorem Mems.set_wf {x : Mems} (k : Mem) (v : Memory) (h : x.wf = true) (hv : v.wf = true) : (x.set k v).wf = true := by
  simp only [Mems.wf, Bool.and_eq_true] at *
  cases k <;> simp [Mems.set, *]

theorem Mems.get_wf {x : Mems} (k : Mem) (h : x.wf = true) : (x.get k).wf = true := by
  simp only [Mems.wf, Bool.and_eq_true] at h
  cases k <;> simp [Mems.get, h]

end Sys2Proof.Machine
end

