-- ==== Sys2Proof/Laws/State.lean ====
section
/-! SUPPORT. What each primitive update leaves in each field of the state, so that no proof unfolds a record update. -/
namespace Sys2Proof.Machine

@[simp] theorem Upd.unit_units (c : Col) (u : UnitSt) (s : State) : (Upd.apply (.unit c u) s).units = s.units.set c u := rfl
@[simp] theorem Upd.unit_mems (c : Col) (u : UnitSt) (s : State) : (Upd.apply (.unit c u) s).mems = s.mems := rfl
@[simp] theorem Upd.unit_ext (c : Col) (u : UnitSt) (s : State) : (Upd.apply (.unit c u) s).ext = s.ext := rfl
@[simp] theorem Upd.unit_extDirty (c : Col) (u : UnitSt) (s : State) : (Upd.apply (.unit c u) s).extDirty = s.extDirty := rfl
@[simp] theorem Upd.unit_links (c : Col) (u : UnitSt) (s : State) : (Upd.apply (.unit c u) s).links = s.links := rfl
@[simp] theorem Upd.unit_vaults (c : Col) (u : UnitSt) (s : State) : (Upd.apply (.unit c u) s).vaults = s.vaults := rfl
@[simp] theorem Upd.unit_slots (c : Col) (u : UnitSt) (s : State) : (Upd.apply (.unit c u) s).slots = s.slots := rfl
@[simp] theorem Upd.unit_dies (c : Col) (u : UnitSt) (s : State) : (Upd.apply (.unit c u) s).dies = s.dies := rfl
@[simp] theorem Upd.unit_parts (c : Col) (u : UnitSt) (s : State) : (Upd.apply (.unit c u) s).parts = s.parts := rfl
@[simp] theorem Upd.unit_work (c : Col) (u : UnitSt) (s : State) : (Upd.apply (.unit c u) s).work = s.work := rfl
@[simp] theorem Upd.unit_txns (c : Col) (u : UnitSt) (s : State) : (Upd.apply (.unit c u) s).txns = s.txns := rfl
@[simp] theorem Upd.unit_pkg (c : Col) (u : UnitSt) (s : State) : (Upd.apply (.unit c u) s).pkg = s.pkg := rfl
@[simp] theorem Upd.unit_tick (c : Col) (u : UnitSt) (s : State) : (Upd.apply (.unit c u) s).tick = s.tick := rfl
@[simp] theorem Upd.unit_cur (c : Col) (u : UnitSt) (s : State) : (Upd.apply (.unit c u) s).cur = s.cur := rfl
@[simp] theorem Upd.unit_ev (c : Col) (u : UnitSt) (s : State) : (Upd.apply (.unit c u) s).ev = s.ev := rfl
@[simp] theorem Upd.unit_agenda (c : Col) (u : UnitSt) (s : State) : (Upd.apply (.unit c u) s).agenda = s.agenda := rfl
@[simp] theorem Upd.unit_timers (c : Col) (u : UnitSt) (s : State) : (Upd.apply (.unit c u) s).timers = s.timers := rfl
@[simp] theorem Upd.unit_inbox (c : Col) (u : UnitSt) (s : State) : (Upd.apply (.unit c u) s).inbox = s.inbox := rfl
@[simp] theorem Upd.unit_outbox (c : Col) (u : UnitSt) (s : State) : (Upd.apply (.unit c u) s).outbox = s.outbox := rfl
@[simp] theorem Upd.unit_nextId (c : Col) (u : UnitSt) (s : State) : (Upd.apply (.unit c u) s).nextId = s.nextId := rfl
@[simp] theorem Upd.unit_free (c : Col) (u : UnitSt) (s : State) : (Upd.apply (.unit c u) s).free = s.free := rfl
@[simp] theorem Upd.mem_units (c : Col) (m : Mem) (ws : List (Nat × BlkWrite)) (s : State) : (Upd.apply (.mem c m ws) s).units = s.units := rfl
@[simp] theorem Upd.mem_mems (c : Col) (m : Mem) (ws : List (Nat × BlkWrite)) (s : State) : (Upd.apply (.mem c m ws) s).mems = s.mems.set c ((s.mems[c]).set m (((s.mems[c]).get m).writes ws)) := rfl
@[simp] theorem Upd.mem_ext (c : Col) (m : Mem) (ws : List (Nat × BlkWrite)) (s : State) : (Upd.apply (.mem c m ws) s).ext = s.ext := rfl
@[simp] theorem Upd.mem_extDirty (c : Col) (m : Mem) (ws : List (Nat × BlkWrite)) (s : State) : (Upd.apply (.mem c m ws) s).extDirty = s.extDirty := rfl
@[simp] theorem Upd.mem_links (c : Col) (m : Mem) (ws : List (Nat × BlkWrite)) (s : State) : (Upd.apply (.mem c m ws) s).links = s.links := rfl
@[simp] theorem Upd.mem_vaults (c : Col) (m : Mem) (ws : List (Nat × BlkWrite)) (s : State) : (Upd.apply (.mem c m ws) s).vaults = s.vaults := rfl
@[simp] theorem Upd.mem_slots (c : Col) (m : Mem) (ws : List (Nat × BlkWrite)) (s : State) : (Upd.apply (.mem c m ws) s).slots = s.slots := rfl
@[simp] theorem Upd.mem_dies (c : Col) (m : Mem) (ws : List (Nat × BlkWrite)) (s : State) : (Upd.apply (.mem c m ws) s).dies = s.dies := rfl
@[simp] theorem Upd.mem_parts (c : Col) (m : Mem) (ws : List (Nat × BlkWrite)) (s : State) : (Upd.apply (.mem c m ws) s).parts = s.parts := rfl
@[simp] theorem Upd.mem_work (c : Col) (m : Mem) (ws : List (Nat × BlkWrite)) (s : State) : (Upd.apply (.mem c m ws) s).work = s.work := rfl
@[simp] theorem Upd.mem_txns (c : Col) (m : Mem) (ws : List (Nat × BlkWrite)) (s : State) : (Upd.apply (.mem c m ws) s).txns = s.txns := rfl
@[simp] theorem Upd.mem_pkg (c : Col) (m : Mem) (ws : List (Nat × BlkWrite)) (s : State) : (Upd.apply (.mem c m ws) s).pkg = s.pkg := rfl
@[simp] theorem Upd.mem_tick (c : Col) (m : Mem) (ws : List (Nat × BlkWrite)) (s : State) : (Upd.apply (.mem c m ws) s).tick = s.tick := rfl
@[simp] theorem Upd.mem_cur (c : Col) (m : Mem) (ws : List (Nat × BlkWrite)) (s : State) : (Upd.apply (.mem c m ws) s).cur = s.cur := rfl
@[simp] theorem Upd.mem_ev (c : Col) (m : Mem) (ws : List (Nat × BlkWrite)) (s : State) : (Upd.apply (.mem c m ws) s).ev = s.ev := rfl
@[simp] theorem Upd.mem_agenda (c : Col) (m : Mem) (ws : List (Nat × BlkWrite)) (s : State) : (Upd.apply (.mem c m ws) s).agenda = s.agenda := rfl
@[simp] theorem Upd.mem_timers (c : Col) (m : Mem) (ws : List (Nat × BlkWrite)) (s : State) : (Upd.apply (.mem c m ws) s).timers = s.timers := rfl
@[simp] theorem Upd.mem_inbox (c : Col) (m : Mem) (ws : List (Nat × BlkWrite)) (s : State) : (Upd.apply (.mem c m ws) s).inbox = s.inbox := rfl
@[simp] theorem Upd.mem_outbox (c : Col) (m : Mem) (ws : List (Nat × BlkWrite)) (s : State) : (Upd.apply (.mem c m ws) s).outbox = s.outbox := rfl
@[simp] theorem Upd.mem_nextId (c : Col) (m : Mem) (ws : List (Nat × BlkWrite)) (s : State) : (Upd.apply (.mem c m ws) s).nextId = s.nextId := rfl
@[simp] theorem Upd.mem_free (c : Col) (m : Mem) (ws : List (Nat × BlkWrite)) (s : State) : (Upd.apply (.mem c m ws) s).free = s.free := rfl
@[simp] theorem Upd.clear_units (c : Col) (m : Mem) (s : State) : (Upd.apply (.clear c m) s).units = s.units := rfl
@[simp] theorem Upd.clear_mems (c : Col) (m : Mem) (s : State) : (Upd.apply (.clear c m) s).mems = s.mems.set c ((s.mems[c]).set m .empty) := rfl
@[simp] theorem Upd.clear_ext (c : Col) (m : Mem) (s : State) : (Upd.apply (.clear c m) s).ext = s.ext := rfl
@[simp] theorem Upd.clear_extDirty (c : Col) (m : Mem) (s : State) : (Upd.apply (.clear c m) s).extDirty = s.extDirty := rfl
@[simp] theorem Upd.clear_links (c : Col) (m : Mem) (s : State) : (Upd.apply (.clear c m) s).links = s.links := rfl
@[simp] theorem Upd.clear_vaults (c : Col) (m : Mem) (s : State) : (Upd.apply (.clear c m) s).vaults = s.vaults := rfl
@[simp] theorem Upd.clear_slots (c : Col) (m : Mem) (s : State) : (Upd.apply (.clear c m) s).slots = s.slots := rfl
@[simp] theorem Upd.clear_dies (c : Col) (m : Mem) (s : State) : (Upd.apply (.clear c m) s).dies = s.dies := rfl
@[simp] theorem Upd.clear_parts (c : Col) (m : Mem) (s : State) : (Upd.apply (.clear c m) s).parts = s.parts := rfl
@[simp] theorem Upd.clear_work (c : Col) (m : Mem) (s : State) : (Upd.apply (.clear c m) s).work = s.work := rfl
@[simp] theorem Upd.clear_txns (c : Col) (m : Mem) (s : State) : (Upd.apply (.clear c m) s).txns = s.txns := rfl
@[simp] theorem Upd.clear_pkg (c : Col) (m : Mem) (s : State) : (Upd.apply (.clear c m) s).pkg = s.pkg := rfl
@[simp] theorem Upd.clear_tick (c : Col) (m : Mem) (s : State) : (Upd.apply (.clear c m) s).tick = s.tick := rfl
@[simp] theorem Upd.clear_cur (c : Col) (m : Mem) (s : State) : (Upd.apply (.clear c m) s).cur = s.cur := rfl
@[simp] theorem Upd.clear_ev (c : Col) (m : Mem) (s : State) : (Upd.apply (.clear c m) s).ev = s.ev := rfl
@[simp] theorem Upd.clear_agenda (c : Col) (m : Mem) (s : State) : (Upd.apply (.clear c m) s).agenda = s.agenda := rfl
@[simp] theorem Upd.clear_timers (c : Col) (m : Mem) (s : State) : (Upd.apply (.clear c m) s).timers = s.timers := rfl
@[simp] theorem Upd.clear_inbox (c : Col) (m : Mem) (s : State) : (Upd.apply (.clear c m) s).inbox = s.inbox := rfl
@[simp] theorem Upd.clear_outbox (c : Col) (m : Mem) (s : State) : (Upd.apply (.clear c m) s).outbox = s.outbox := rfl
@[simp] theorem Upd.clear_nextId (c : Col) (m : Mem) (s : State) : (Upd.apply (.clear c m) s).nextId = s.nextId := rfl
@[simp] theorem Upd.clear_free (c : Col) (m : Mem) (s : State) : (Upd.apply (.clear c m) s).free = s.free := rfl
@[simp] theorem Upd.ext_units (ws : List (Nat × BlkWrite)) (s : State) : (Upd.apply (.ext ws) s).units = s.units := rfl
@[simp] theorem Upd.ext_mems (ws : List (Nat × BlkWrite)) (s : State) : (Upd.apply (.ext ws) s).mems = s.mems := rfl
@[simp] theorem Upd.ext_ext (ws : List (Nat × BlkWrite)) (s : State) : (Upd.apply (.ext ws) s).ext = s.ext.writes ws := rfl
@[simp] theorem Upd.ext_extDirty (ws : List (Nat × BlkWrite)) (s : State) : (Upd.apply (.ext ws) s).extDirty = s.extDirty := rfl
@[simp] theorem Upd.ext_links (ws : List (Nat × BlkWrite)) (s : State) : (Upd.apply (.ext ws) s).links = s.links := rfl
@[simp] theorem Upd.ext_vaults (ws : List (Nat × BlkWrite)) (s : State) : (Upd.apply (.ext ws) s).vaults = s.vaults := rfl
@[simp] theorem Upd.ext_slots (ws : List (Nat × BlkWrite)) (s : State) : (Upd.apply (.ext ws) s).slots = s.slots := rfl
@[simp] theorem Upd.ext_dies (ws : List (Nat × BlkWrite)) (s : State) : (Upd.apply (.ext ws) s).dies = s.dies := rfl
@[simp] theorem Upd.ext_parts (ws : List (Nat × BlkWrite)) (s : State) : (Upd.apply (.ext ws) s).parts = s.parts := rfl
@[simp] theorem Upd.ext_work (ws : List (Nat × BlkWrite)) (s : State) : (Upd.apply (.ext ws) s).work = s.work := rfl
@[simp] theorem Upd.ext_txns (ws : List (Nat × BlkWrite)) (s : State) : (Upd.apply (.ext ws) s).txns = s.txns := rfl
@[simp] theorem Upd.ext_pkg (ws : List (Nat × BlkWrite)) (s : State) : (Upd.apply (.ext ws) s).pkg = s.pkg := rfl
@[simp] theorem Upd.ext_tick (ws : List (Nat × BlkWrite)) (s : State) : (Upd.apply (.ext ws) s).tick = s.tick := rfl
@[simp] theorem Upd.ext_cur (ws : List (Nat × BlkWrite)) (s : State) : (Upd.apply (.ext ws) s).cur = s.cur := rfl
@[simp] theorem Upd.ext_ev (ws : List (Nat × BlkWrite)) (s : State) : (Upd.apply (.ext ws) s).ev = s.ev := rfl
@[simp] theorem Upd.ext_agenda (ws : List (Nat × BlkWrite)) (s : State) : (Upd.apply (.ext ws) s).agenda = s.agenda := rfl
@[simp] theorem Upd.ext_timers (ws : List (Nat × BlkWrite)) (s : State) : (Upd.apply (.ext ws) s).timers = s.timers := rfl
@[simp] theorem Upd.ext_inbox (ws : List (Nat × BlkWrite)) (s : State) : (Upd.apply (.ext ws) s).inbox = s.inbox := rfl
@[simp] theorem Upd.ext_outbox (ws : List (Nat × BlkWrite)) (s : State) : (Upd.apply (.ext ws) s).outbox = s.outbox := rfl
@[simp] theorem Upd.ext_nextId (ws : List (Nat × BlkWrite)) (s : State) : (Upd.apply (.ext ws) s).nextId = s.nextId := rfl
@[simp] theorem Upd.ext_free (ws : List (Nat × BlkWrite)) (s : State) : (Upd.apply (.ext ws) s).free = s.free := rfl
@[simp] theorem Upd.extDirty_units (l : List Nat) (s : State) : (Upd.apply (.extDirty l) s).units = s.units := rfl
@[simp] theorem Upd.extDirty_mems (l : List Nat) (s : State) : (Upd.apply (.extDirty l) s).mems = s.mems := rfl
@[simp] theorem Upd.extDirty_ext (l : List Nat) (s : State) : (Upd.apply (.extDirty l) s).ext = s.ext := rfl
@[simp] theorem Upd.extDirty_extDirty (l : List Nat) (s : State) : (Upd.apply (.extDirty l) s).extDirty = l := rfl
@[simp] theorem Upd.extDirty_links (l : List Nat) (s : State) : (Upd.apply (.extDirty l) s).links = s.links := rfl
@[simp] theorem Upd.extDirty_vaults (l : List Nat) (s : State) : (Upd.apply (.extDirty l) s).vaults = s.vaults := rfl
@[simp] theorem Upd.extDirty_slots (l : List Nat) (s : State) : (Upd.apply (.extDirty l) s).slots = s.slots := rfl
@[simp] theorem Upd.extDirty_dies (l : List Nat) (s : State) : (Upd.apply (.extDirty l) s).dies = s.dies := rfl
@[simp] theorem Upd.extDirty_parts (l : List Nat) (s : State) : (Upd.apply (.extDirty l) s).parts = s.parts := rfl
@[simp] theorem Upd.extDirty_work (l : List Nat) (s : State) : (Upd.apply (.extDirty l) s).work = s.work := rfl
@[simp] theorem Upd.extDirty_txns (l : List Nat) (s : State) : (Upd.apply (.extDirty l) s).txns = s.txns := rfl
@[simp] theorem Upd.extDirty_pkg (l : List Nat) (s : State) : (Upd.apply (.extDirty l) s).pkg = s.pkg := rfl
@[simp] theorem Upd.extDirty_tick (l : List Nat) (s : State) : (Upd.apply (.extDirty l) s).tick = s.tick := rfl
@[simp] theorem Upd.extDirty_cur (l : List Nat) (s : State) : (Upd.apply (.extDirty l) s).cur = s.cur := rfl
@[simp] theorem Upd.extDirty_ev (l : List Nat) (s : State) : (Upd.apply (.extDirty l) s).ev = s.ev := rfl
@[simp] theorem Upd.extDirty_agenda (l : List Nat) (s : State) : (Upd.apply (.extDirty l) s).agenda = s.agenda := rfl
@[simp] theorem Upd.extDirty_timers (l : List Nat) (s : State) : (Upd.apply (.extDirty l) s).timers = s.timers := rfl
@[simp] theorem Upd.extDirty_inbox (l : List Nat) (s : State) : (Upd.apply (.extDirty l) s).inbox = s.inbox := rfl
@[simp] theorem Upd.extDirty_outbox (l : List Nat) (s : State) : (Upd.apply (.extDirty l) s).outbox = s.outbox := rfl
@[simp] theorem Upd.extDirty_nextId (l : List Nat) (s : State) : (Upd.apply (.extDirty l) s).nextId = s.nextId := rfl
@[simp] theorem Upd.extDirty_free (l : List Nat) (s : State) : (Upd.apply (.extDirty l) s).free = s.free := rfl
@[simp] theorem Upd.links_units (l : List LinkBeat) (s : State) : (Upd.apply (.links l) s).units = s.units := rfl
@[simp] theorem Upd.links_mems (l : List LinkBeat) (s : State) : (Upd.apply (.links l) s).mems = s.mems := rfl
@[simp] theorem Upd.links_ext (l : List LinkBeat) (s : State) : (Upd.apply (.links l) s).ext = s.ext := rfl
@[simp] theorem Upd.links_extDirty (l : List LinkBeat) (s : State) : (Upd.apply (.links l) s).extDirty = s.extDirty := rfl
@[simp] theorem Upd.links_links (l : List LinkBeat) (s : State) : (Upd.apply (.links l) s).links = l := rfl
@[simp] theorem Upd.links_vaults (l : List LinkBeat) (s : State) : (Upd.apply (.links l) s).vaults = s.vaults := rfl
@[simp] theorem Upd.links_slots (l : List LinkBeat) (s : State) : (Upd.apply (.links l) s).slots = s.slots := rfl
@[simp] theorem Upd.links_dies (l : List LinkBeat) (s : State) : (Upd.apply (.links l) s).dies = s.dies := rfl
@[simp] theorem Upd.links_parts (l : List LinkBeat) (s : State) : (Upd.apply (.links l) s).parts = s.parts := rfl
@[simp] theorem Upd.links_work (l : List LinkBeat) (s : State) : (Upd.apply (.links l) s).work = s.work := rfl
@[simp] theorem Upd.links_txns (l : List LinkBeat) (s : State) : (Upd.apply (.links l) s).txns = s.txns := rfl
@[simp] theorem Upd.links_pkg (l : List LinkBeat) (s : State) : (Upd.apply (.links l) s).pkg = s.pkg := rfl
@[simp] theorem Upd.links_tick (l : List LinkBeat) (s : State) : (Upd.apply (.links l) s).tick = s.tick := rfl
@[simp] theorem Upd.links_cur (l : List LinkBeat) (s : State) : (Upd.apply (.links l) s).cur = s.cur := rfl
@[simp] theorem Upd.links_ev (l : List LinkBeat) (s : State) : (Upd.apply (.links l) s).ev = s.ev := rfl
@[simp] theorem Upd.links_agenda (l : List LinkBeat) (s : State) : (Upd.apply (.links l) s).agenda = s.agenda := rfl
@[simp] theorem Upd.links_timers (l : List LinkBeat) (s : State) : (Upd.apply (.links l) s).timers = s.timers := rfl
@[simp] theorem Upd.links_inbox (l : List LinkBeat) (s : State) : (Upd.apply (.links l) s).inbox = s.inbox := rfl
@[simp] theorem Upd.links_outbox (l : List LinkBeat) (s : State) : (Upd.apply (.links l) s).outbox = s.outbox := rfl
@[simp] theorem Upd.links_nextId (l : List LinkBeat) (s : State) : (Upd.apply (.links l) s).nextId = s.nextId := rfl
@[simp] theorem Upd.links_free (l : List LinkBeat) (s : State) : (Upd.apply (.links l) s).free = s.free := rfl
@[simp] theorem Upd.vault_units (c : Col) (v : VaultSt) (s : State) : (Upd.apply (.vault c v) s).units = s.units := rfl
@[simp] theorem Upd.vault_mems (c : Col) (v : VaultSt) (s : State) : (Upd.apply (.vault c v) s).mems = s.mems := rfl
@[simp] theorem Upd.vault_ext (c : Col) (v : VaultSt) (s : State) : (Upd.apply (.vault c v) s).ext = s.ext := rfl
@[simp] theorem Upd.vault_extDirty (c : Col) (v : VaultSt) (s : State) : (Upd.apply (.vault c v) s).extDirty = s.extDirty := rfl
@[simp] theorem Upd.vault_links (c : Col) (v : VaultSt) (s : State) : (Upd.apply (.vault c v) s).links = s.links := rfl
@[simp] theorem Upd.vault_vaults (c : Col) (v : VaultSt) (s : State) : (Upd.apply (.vault c v) s).vaults = s.vaults.set c v := rfl
@[simp] theorem Upd.vault_slots (c : Col) (v : VaultSt) (s : State) : (Upd.apply (.vault c v) s).slots = s.slots := rfl
@[simp] theorem Upd.vault_dies (c : Col) (v : VaultSt) (s : State) : (Upd.apply (.vault c v) s).dies = s.dies := rfl
@[simp] theorem Upd.vault_parts (c : Col) (v : VaultSt) (s : State) : (Upd.apply (.vault c v) s).parts = s.parts := rfl
@[simp] theorem Upd.vault_work (c : Col) (v : VaultSt) (s : State) : (Upd.apply (.vault c v) s).work = s.work := rfl
@[simp] theorem Upd.vault_txns (c : Col) (v : VaultSt) (s : State) : (Upd.apply (.vault c v) s).txns = s.txns := rfl
@[simp] theorem Upd.vault_pkg (c : Col) (v : VaultSt) (s : State) : (Upd.apply (.vault c v) s).pkg = s.pkg := rfl
@[simp] theorem Upd.vault_tick (c : Col) (v : VaultSt) (s : State) : (Upd.apply (.vault c v) s).tick = s.tick := rfl
@[simp] theorem Upd.vault_cur (c : Col) (v : VaultSt) (s : State) : (Upd.apply (.vault c v) s).cur = s.cur := rfl
@[simp] theorem Upd.vault_ev (c : Col) (v : VaultSt) (s : State) : (Upd.apply (.vault c v) s).ev = s.ev := rfl
@[simp] theorem Upd.vault_agenda (c : Col) (v : VaultSt) (s : State) : (Upd.apply (.vault c v) s).agenda = s.agenda := rfl
@[simp] theorem Upd.vault_timers (c : Col) (v : VaultSt) (s : State) : (Upd.apply (.vault c v) s).timers = s.timers := rfl
@[simp] theorem Upd.vault_inbox (c : Col) (v : VaultSt) (s : State) : (Upd.apply (.vault c v) s).inbox = s.inbox := rfl
@[simp] theorem Upd.vault_outbox (c : Col) (v : VaultSt) (s : State) : (Upd.apply (.vault c v) s).outbox = s.outbox := rfl
@[simp] theorem Upd.vault_nextId (c : Col) (v : VaultSt) (s : State) : (Upd.apply (.vault c v) s).nextId = s.nextId := rfl
@[simp] theorem Upd.vault_free (c : Col) (v : VaultSt) (s : State) : (Upd.apply (.vault c v) s).free = s.free := rfl
@[simp] theorem Upd.slot_units (c : Col) (x : Slot) (s : State) : (Upd.apply (.slot c x) s).units = s.units := rfl
@[simp] theorem Upd.slot_mems (c : Col) (x : Slot) (s : State) : (Upd.apply (.slot c x) s).mems = s.mems := rfl
@[simp] theorem Upd.slot_ext (c : Col) (x : Slot) (s : State) : (Upd.apply (.slot c x) s).ext = s.ext := rfl
@[simp] theorem Upd.slot_extDirty (c : Col) (x : Slot) (s : State) : (Upd.apply (.slot c x) s).extDirty = s.extDirty := rfl
@[simp] theorem Upd.slot_links (c : Col) (x : Slot) (s : State) : (Upd.apply (.slot c x) s).links = s.links := rfl
@[simp] theorem Upd.slot_vaults (c : Col) (x : Slot) (s : State) : (Upd.apply (.slot c x) s).vaults = s.vaults := rfl
@[simp] theorem Upd.slot_slots (c : Col) (x : Slot) (s : State) : (Upd.apply (.slot c x) s).slots = s.slots.set c x := rfl
@[simp] theorem Upd.slot_dies (c : Col) (x : Slot) (s : State) : (Upd.apply (.slot c x) s).dies = s.dies := rfl
@[simp] theorem Upd.slot_parts (c : Col) (x : Slot) (s : State) : (Upd.apply (.slot c x) s).parts = s.parts := rfl
@[simp] theorem Upd.slot_work (c : Col) (x : Slot) (s : State) : (Upd.apply (.slot c x) s).work = s.work := rfl
@[simp] theorem Upd.slot_txns (c : Col) (x : Slot) (s : State) : (Upd.apply (.slot c x) s).txns = s.txns := rfl
@[simp] theorem Upd.slot_pkg (c : Col) (x : Slot) (s : State) : (Upd.apply (.slot c x) s).pkg = s.pkg := rfl
@[simp] theorem Upd.slot_tick (c : Col) (x : Slot) (s : State) : (Upd.apply (.slot c x) s).tick = s.tick := rfl
@[simp] theorem Upd.slot_cur (c : Col) (x : Slot) (s : State) : (Upd.apply (.slot c x) s).cur = s.cur := rfl
@[simp] theorem Upd.slot_ev (c : Col) (x : Slot) (s : State) : (Upd.apply (.slot c x) s).ev = s.ev := rfl
@[simp] theorem Upd.slot_agenda (c : Col) (x : Slot) (s : State) : (Upd.apply (.slot c x) s).agenda = s.agenda := rfl
@[simp] theorem Upd.slot_timers (c : Col) (x : Slot) (s : State) : (Upd.apply (.slot c x) s).timers = s.timers := rfl
@[simp] theorem Upd.slot_inbox (c : Col) (x : Slot) (s : State) : (Upd.apply (.slot c x) s).inbox = s.inbox := rfl
@[simp] theorem Upd.slot_outbox (c : Col) (x : Slot) (s : State) : (Upd.apply (.slot c x) s).outbox = s.outbox := rfl
@[simp] theorem Upd.slot_nextId (c : Col) (x : Slot) (s : State) : (Upd.apply (.slot c x) s).nextId = s.nextId := rfl
@[simp] theorem Upd.slot_free (c : Col) (x : Slot) (s : State) : (Upd.apply (.slot c x) s).free = s.free := rfl
@[simp] theorem Upd.die_units (d : Die) (x : DieSt) (s : State) : (Upd.apply (.die d x) s).units = s.units := rfl
@[simp] theorem Upd.die_mems (d : Die) (x : DieSt) (s : State) : (Upd.apply (.die d x) s).mems = s.mems := rfl
@[simp] theorem Upd.die_ext (d : Die) (x : DieSt) (s : State) : (Upd.apply (.die d x) s).ext = s.ext := rfl
@[simp] theorem Upd.die_extDirty (d : Die) (x : DieSt) (s : State) : (Upd.apply (.die d x) s).extDirty = s.extDirty := rfl
@[simp] theorem Upd.die_links (d : Die) (x : DieSt) (s : State) : (Upd.apply (.die d x) s).links = s.links := rfl
@[simp] theorem Upd.die_vaults (d : Die) (x : DieSt) (s : State) : (Upd.apply (.die d x) s).vaults = s.vaults := rfl
@[simp] theorem Upd.die_slots (d : Die) (x : DieSt) (s : State) : (Upd.apply (.die d x) s).slots = s.slots := rfl
@[simp] theorem Upd.die_dies (d : Die) (x : DieSt) (s : State) : (Upd.apply (.die d x) s).dies = s.dies.set d x := rfl
@[simp] theorem Upd.die_parts (d : Die) (x : DieSt) (s : State) : (Upd.apply (.die d x) s).parts = s.parts := rfl
@[simp] theorem Upd.die_work (d : Die) (x : DieSt) (s : State) : (Upd.apply (.die d x) s).work = s.work := rfl
@[simp] theorem Upd.die_txns (d : Die) (x : DieSt) (s : State) : (Upd.apply (.die d x) s).txns = s.txns := rfl
@[simp] theorem Upd.die_pkg (d : Die) (x : DieSt) (s : State) : (Upd.apply (.die d x) s).pkg = s.pkg := rfl
@[simp] theorem Upd.die_tick (d : Die) (x : DieSt) (s : State) : (Upd.apply (.die d x) s).tick = s.tick := rfl
@[simp] theorem Upd.die_cur (d : Die) (x : DieSt) (s : State) : (Upd.apply (.die d x) s).cur = s.cur := rfl
@[simp] theorem Upd.die_ev (d : Die) (x : DieSt) (s : State) : (Upd.apply (.die d x) s).ev = s.ev := rfl
@[simp] theorem Upd.die_agenda (d : Die) (x : DieSt) (s : State) : (Upd.apply (.die d x) s).agenda = s.agenda := rfl
@[simp] theorem Upd.die_timers (d : Die) (x : DieSt) (s : State) : (Upd.apply (.die d x) s).timers = s.timers := rfl
@[simp] theorem Upd.die_inbox (d : Die) (x : DieSt) (s : State) : (Upd.apply (.die d x) s).inbox = s.inbox := rfl
@[simp] theorem Upd.die_outbox (d : Die) (x : DieSt) (s : State) : (Upd.apply (.die d x) s).outbox = s.outbox := rfl
@[simp] theorem Upd.die_nextId (d : Die) (x : DieSt) (s : State) : (Upd.apply (.die d x) s).nextId = s.nextId := rfl
@[simp] theorem Upd.die_free (d : Die) (x : DieSt) (s : State) : (Upd.apply (.die d x) s).free = s.free := rfl
@[simp] theorem Upd.parts_units (p : List Part) (s : State) : (Upd.apply (.parts p) s).units = s.units := rfl
@[simp] theorem Upd.parts_mems (p : List Part) (s : State) : (Upd.apply (.parts p) s).mems = s.mems := rfl
@[simp] theorem Upd.parts_ext (p : List Part) (s : State) : (Upd.apply (.parts p) s).ext = s.ext := rfl
@[simp] theorem Upd.parts_extDirty (p : List Part) (s : State) : (Upd.apply (.parts p) s).extDirty = s.extDirty := rfl
@[simp] theorem Upd.parts_links (p : List Part) (s : State) : (Upd.apply (.parts p) s).links = s.links := rfl
@[simp] theorem Upd.parts_vaults (p : List Part) (s : State) : (Upd.apply (.parts p) s).vaults = s.vaults := rfl
@[simp] theorem Upd.parts_slots (p : List Part) (s : State) : (Upd.apply (.parts p) s).slots = s.slots := rfl
@[simp] theorem Upd.parts_dies (p : List Part) (s : State) : (Upd.apply (.parts p) s).dies = s.dies := rfl
@[simp] theorem Upd.parts_parts (p : List Part) (s : State) : (Upd.apply (.parts p) s).parts = p := rfl
@[simp] theorem Upd.parts_work (p : List Part) (s : State) : (Upd.apply (.parts p) s).work = s.work := rfl
@[simp] theorem Upd.parts_txns (p : List Part) (s : State) : (Upd.apply (.parts p) s).txns = s.txns := rfl
@[simp] theorem Upd.parts_pkg (p : List Part) (s : State) : (Upd.apply (.parts p) s).pkg = s.pkg := rfl
@[simp] theorem Upd.parts_tick (p : List Part) (s : State) : (Upd.apply (.parts p) s).tick = s.tick := rfl
@[simp] theorem Upd.parts_cur (p : List Part) (s : State) : (Upd.apply (.parts p) s).cur = s.cur := rfl
@[simp] theorem Upd.parts_ev (p : List Part) (s : State) : (Upd.apply (.parts p) s).ev = s.ev := rfl
@[simp] theorem Upd.parts_agenda (p : List Part) (s : State) : (Upd.apply (.parts p) s).agenda = s.agenda := rfl
@[simp] theorem Upd.parts_timers (p : List Part) (s : State) : (Upd.apply (.parts p) s).timers = s.timers := rfl
@[simp] theorem Upd.parts_inbox (p : List Part) (s : State) : (Upd.apply (.parts p) s).inbox = s.inbox := rfl
@[simp] theorem Upd.parts_outbox (p : List Part) (s : State) : (Upd.apply (.parts p) s).outbox = s.outbox := rfl
@[simp] theorem Upd.parts_nextId (p : List Part) (s : State) : (Upd.apply (.parts p) s).nextId = s.nextId := rfl
@[simp] theorem Upd.parts_free (p : List Part) (s : State) : (Upd.apply (.parts p) s).free = s.free := rfl
@[simp] theorem Upd.work_units (w : Work) (s : State) : (Upd.apply (.work w) s).units = s.units := rfl
@[simp] theorem Upd.work_mems (w : Work) (s : State) : (Upd.apply (.work w) s).mems = s.mems := rfl
@[simp] theorem Upd.work_ext (w : Work) (s : State) : (Upd.apply (.work w) s).ext = s.ext := rfl
@[simp] theorem Upd.work_extDirty (w : Work) (s : State) : (Upd.apply (.work w) s).extDirty = s.extDirty := rfl
@[simp] theorem Upd.work_links (w : Work) (s : State) : (Upd.apply (.work w) s).links = s.links := rfl
@[simp] theorem Upd.work_vaults (w : Work) (s : State) : (Upd.apply (.work w) s).vaults = s.vaults := rfl
@[simp] theorem Upd.work_slots (w : Work) (s : State) : (Upd.apply (.work w) s).slots = s.slots := rfl
@[simp] theorem Upd.work_dies (w : Work) (s : State) : (Upd.apply (.work w) s).dies = s.dies := rfl
@[simp] theorem Upd.work_parts (w : Work) (s : State) : (Upd.apply (.work w) s).parts = s.parts := rfl
@[simp] theorem Upd.work_work (w : Work) (s : State) : (Upd.apply (.work w) s).work = w := rfl
@[simp] theorem Upd.work_txns (w : Work) (s : State) : (Upd.apply (.work w) s).txns = s.txns := rfl
@[simp] theorem Upd.work_pkg (w : Work) (s : State) : (Upd.apply (.work w) s).pkg = s.pkg := rfl
@[simp] theorem Upd.work_tick (w : Work) (s : State) : (Upd.apply (.work w) s).tick = s.tick := rfl
@[simp] theorem Upd.work_cur (w : Work) (s : State) : (Upd.apply (.work w) s).cur = s.cur := rfl
@[simp] theorem Upd.work_ev (w : Work) (s : State) : (Upd.apply (.work w) s).ev = s.ev := rfl
@[simp] theorem Upd.work_agenda (w : Work) (s : State) : (Upd.apply (.work w) s).agenda = s.agenda := rfl
@[simp] theorem Upd.work_timers (w : Work) (s : State) : (Upd.apply (.work w) s).timers = s.timers := rfl
@[simp] theorem Upd.work_inbox (w : Work) (s : State) : (Upd.apply (.work w) s).inbox = s.inbox := rfl
@[simp] theorem Upd.work_outbox (w : Work) (s : State) : (Upd.apply (.work w) s).outbox = s.outbox := rfl
@[simp] theorem Upd.work_nextId (w : Work) (s : State) : (Upd.apply (.work w) s).nextId = s.nextId := rfl
@[simp] theorem Upd.work_free (w : Work) (s : State) : (Upd.apply (.work w) s).free = s.free := rfl
@[simp] theorem Upd.txns_units (t : List Txn) (s : State) : (Upd.apply (.txns t) s).units = s.units := rfl
@[simp] theorem Upd.txns_mems (t : List Txn) (s : State) : (Upd.apply (.txns t) s).mems = s.mems := rfl
@[simp] theorem Upd.txns_ext (t : List Txn) (s : State) : (Upd.apply (.txns t) s).ext = s.ext := rfl
@[simp] theorem Upd.txns_extDirty (t : List Txn) (s : State) : (Upd.apply (.txns t) s).extDirty = s.extDirty := rfl
@[simp] theorem Upd.txns_links (t : List Txn) (s : State) : (Upd.apply (.txns t) s).links = s.links := rfl
@[simp] theorem Upd.txns_vaults (t : List Txn) (s : State) : (Upd.apply (.txns t) s).vaults = s.vaults := rfl
@[simp] theorem Upd.txns_slots (t : List Txn) (s : State) : (Upd.apply (.txns t) s).slots = s.slots := rfl
@[simp] theorem Upd.txns_dies (t : List Txn) (s : State) : (Upd.apply (.txns t) s).dies = s.dies := rfl
@[simp] theorem Upd.txns_parts (t : List Txn) (s : State) : (Upd.apply (.txns t) s).parts = s.parts := rfl
@[simp] theorem Upd.txns_work (t : List Txn) (s : State) : (Upd.apply (.txns t) s).work = s.work := rfl
@[simp] theorem Upd.txns_txns (t : List Txn) (s : State) : (Upd.apply (.txns t) s).txns = t := rfl
@[simp] theorem Upd.txns_pkg (t : List Txn) (s : State) : (Upd.apply (.txns t) s).pkg = s.pkg := rfl
@[simp] theorem Upd.txns_tick (t : List Txn) (s : State) : (Upd.apply (.txns t) s).tick = s.tick := rfl
@[simp] theorem Upd.txns_cur (t : List Txn) (s : State) : (Upd.apply (.txns t) s).cur = s.cur := rfl
@[simp] theorem Upd.txns_ev (t : List Txn) (s : State) : (Upd.apply (.txns t) s).ev = s.ev := rfl
@[simp] theorem Upd.txns_agenda (t : List Txn) (s : State) : (Upd.apply (.txns t) s).agenda = s.agenda := rfl
@[simp] theorem Upd.txns_timers (t : List Txn) (s : State) : (Upd.apply (.txns t) s).timers = s.timers := rfl
@[simp] theorem Upd.txns_inbox (t : List Txn) (s : State) : (Upd.apply (.txns t) s).inbox = s.inbox := rfl
@[simp] theorem Upd.txns_outbox (t : List Txn) (s : State) : (Upd.apply (.txns t) s).outbox = s.outbox := rfl
@[simp] theorem Upd.txns_nextId (t : List Txn) (s : State) : (Upd.apply (.txns t) s).nextId = s.nextId := rfl
@[simp] theorem Upd.txns_free (t : List Txn) (s : State) : (Upd.apply (.txns t) s).free = s.free := rfl
@[simp] theorem Upd.pkg_units (p : Pkg) (s : State) : (Upd.apply (.pkg p) s).units = s.units := rfl
@[simp] theorem Upd.pkg_mems (p : Pkg) (s : State) : (Upd.apply (.pkg p) s).mems = s.mems := rfl
@[simp] theorem Upd.pkg_ext (p : Pkg) (s : State) : (Upd.apply (.pkg p) s).ext = s.ext := rfl
@[simp] theorem Upd.pkg_extDirty (p : Pkg) (s : State) : (Upd.apply (.pkg p) s).extDirty = s.extDirty := rfl
@[simp] theorem Upd.pkg_links (p : Pkg) (s : State) : (Upd.apply (.pkg p) s).links = s.links := rfl
@[simp] theorem Upd.pkg_vaults (p : Pkg) (s : State) : (Upd.apply (.pkg p) s).vaults = s.vaults := rfl
@[simp] theorem Upd.pkg_slots (p : Pkg) (s : State) : (Upd.apply (.pkg p) s).slots = s.slots := rfl
@[simp] theorem Upd.pkg_dies (p : Pkg) (s : State) : (Upd.apply (.pkg p) s).dies = s.dies := rfl
@[simp] theorem Upd.pkg_parts (p : Pkg) (s : State) : (Upd.apply (.pkg p) s).parts = s.parts := rfl
@[simp] theorem Upd.pkg_work (p : Pkg) (s : State) : (Upd.apply (.pkg p) s).work = s.work := rfl
@[simp] theorem Upd.pkg_txns (p : Pkg) (s : State) : (Upd.apply (.pkg p) s).txns = s.txns := rfl
@[simp] theorem Upd.pkg_pkg (p : Pkg) (s : State) : (Upd.apply (.pkg p) s).pkg = p := rfl
@[simp] theorem Upd.pkg_tick (p : Pkg) (s : State) : (Upd.apply (.pkg p) s).tick = s.tick := rfl
@[simp] theorem Upd.pkg_cur (p : Pkg) (s : State) : (Upd.apply (.pkg p) s).cur = s.cur := rfl
@[simp] theorem Upd.pkg_ev (p : Pkg) (s : State) : (Upd.apply (.pkg p) s).ev = s.ev := rfl
@[simp] theorem Upd.pkg_agenda (p : Pkg) (s : State) : (Upd.apply (.pkg p) s).agenda = s.agenda := rfl
@[simp] theorem Upd.pkg_timers (p : Pkg) (s : State) : (Upd.apply (.pkg p) s).timers = s.timers := rfl
@[simp] theorem Upd.pkg_inbox (p : Pkg) (s : State) : (Upd.apply (.pkg p) s).inbox = s.inbox := rfl
@[simp] theorem Upd.pkg_outbox (p : Pkg) (s : State) : (Upd.apply (.pkg p) s).outbox = s.outbox := rfl
@[simp] theorem Upd.pkg_nextId (p : Pkg) (s : State) : (Upd.apply (.pkg p) s).nextId = s.nextId := rfl
@[simp] theorem Upd.pkg_free (p : Pkg) (s : State) : (Upd.apply (.pkg p) s).free = s.free := rfl
@[simp] theorem Upd.tick_units (n : Nat) (s : State) : (Upd.apply (.tick n) s).units = s.units := rfl
@[simp] theorem Upd.tick_mems (n : Nat) (s : State) : (Upd.apply (.tick n) s).mems = s.mems := rfl
@[simp] theorem Upd.tick_ext (n : Nat) (s : State) : (Upd.apply (.tick n) s).ext = s.ext := rfl
@[simp] theorem Upd.tick_extDirty (n : Nat) (s : State) : (Upd.apply (.tick n) s).extDirty = s.extDirty := rfl
@[simp] theorem Upd.tick_links (n : Nat) (s : State) : (Upd.apply (.tick n) s).links = s.links := rfl
@[simp] theorem Upd.tick_vaults (n : Nat) (s : State) : (Upd.apply (.tick n) s).vaults = s.vaults := rfl
@[simp] theorem Upd.tick_slots (n : Nat) (s : State) : (Upd.apply (.tick n) s).slots = s.slots := rfl
@[simp] theorem Upd.tick_dies (n : Nat) (s : State) : (Upd.apply (.tick n) s).dies = s.dies := rfl
@[simp] theorem Upd.tick_parts (n : Nat) (s : State) : (Upd.apply (.tick n) s).parts = s.parts := rfl
@[simp] theorem Upd.tick_work (n : Nat) (s : State) : (Upd.apply (.tick n) s).work = s.work := rfl
@[simp] theorem Upd.tick_txns (n : Nat) (s : State) : (Upd.apply (.tick n) s).txns = s.txns := rfl
@[simp] theorem Upd.tick_pkg (n : Nat) (s : State) : (Upd.apply (.tick n) s).pkg = s.pkg := rfl
@[simp] theorem Upd.tick_tick (n : Nat) (s : State) : (Upd.apply (.tick n) s).tick = n := rfl
@[simp] theorem Upd.tick_cur (n : Nat) (s : State) : (Upd.apply (.tick n) s).cur = s.cur := rfl
@[simp] theorem Upd.tick_ev (n : Nat) (s : State) : (Upd.apply (.tick n) s).ev = s.ev := rfl
@[simp] theorem Upd.tick_agenda (n : Nat) (s : State) : (Upd.apply (.tick n) s).agenda = s.agenda := rfl
@[simp] theorem Upd.tick_timers (n : Nat) (s : State) : (Upd.apply (.tick n) s).timers = s.timers := rfl
@[simp] theorem Upd.tick_inbox (n : Nat) (s : State) : (Upd.apply (.tick n) s).inbox = s.inbox := rfl
@[simp] theorem Upd.tick_outbox (n : Nat) (s : State) : (Upd.apply (.tick n) s).outbox = s.outbox := rfl
@[simp] theorem Upd.tick_nextId (n : Nat) (s : State) : (Upd.apply (.tick n) s).nextId = s.nextId := rfl
@[simp] theorem Upd.tick_free (n : Nat) (s : State) : (Upd.apply (.tick n) s).free = s.free := rfl
@[simp] theorem Upd.cur_units (c : Cursor) (s : State) : (Upd.apply (.cur c) s).units = s.units := rfl
@[simp] theorem Upd.cur_mems (c : Cursor) (s : State) : (Upd.apply (.cur c) s).mems = s.mems := rfl
@[simp] theorem Upd.cur_ext (c : Cursor) (s : State) : (Upd.apply (.cur c) s).ext = s.ext := rfl
@[simp] theorem Upd.cur_extDirty (c : Cursor) (s : State) : (Upd.apply (.cur c) s).extDirty = s.extDirty := rfl
@[simp] theorem Upd.cur_links (c : Cursor) (s : State) : (Upd.apply (.cur c) s).links = s.links := rfl
@[simp] theorem Upd.cur_vaults (c : Cursor) (s : State) : (Upd.apply (.cur c) s).vaults = s.vaults := rfl
@[simp] theorem Upd.cur_slots (c : Cursor) (s : State) : (Upd.apply (.cur c) s).slots = s.slots := rfl
@[simp] theorem Upd.cur_dies (c : Cursor) (s : State) : (Upd.apply (.cur c) s).dies = s.dies := rfl
@[simp] theorem Upd.cur_parts (c : Cursor) (s : State) : (Upd.apply (.cur c) s).parts = s.parts := rfl
@[simp] theorem Upd.cur_work (c : Cursor) (s : State) : (Upd.apply (.cur c) s).work = s.work := rfl
@[simp] theorem Upd.cur_txns (c : Cursor) (s : State) : (Upd.apply (.cur c) s).txns = s.txns := rfl
@[simp] theorem Upd.cur_pkg (c : Cursor) (s : State) : (Upd.apply (.cur c) s).pkg = s.pkg := rfl
@[simp] theorem Upd.cur_tick (c : Cursor) (s : State) : (Upd.apply (.cur c) s).tick = s.tick := rfl
@[simp] theorem Upd.cur_cur (c : Cursor) (s : State) : (Upd.apply (.cur c) s).cur = c := rfl
@[simp] theorem Upd.cur_ev (c : Cursor) (s : State) : (Upd.apply (.cur c) s).ev = s.ev := rfl
@[simp] theorem Upd.cur_agenda (c : Cursor) (s : State) : (Upd.apply (.cur c) s).agenda = s.agenda := rfl
@[simp] theorem Upd.cur_timers (c : Cursor) (s : State) : (Upd.apply (.cur c) s).timers = s.timers := rfl
@[simp] theorem Upd.cur_inbox (c : Cursor) (s : State) : (Upd.apply (.cur c) s).inbox = s.inbox := rfl
@[simp] theorem Upd.cur_outbox (c : Cursor) (s : State) : (Upd.apply (.cur c) s).outbox = s.outbox := rfl
@[simp] theorem Upd.cur_nextId (c : Cursor) (s : State) : (Upd.apply (.cur c) s).nextId = s.nextId := rfl
@[simp] theorem Upd.cur_free (c : Cursor) (s : State) : (Upd.apply (.cur c) s).free = s.free := rfl
@[simp] theorem Upd.ev_units (e : Ev) (s : State) : (Upd.apply (.ev e) s).units = s.units := rfl
@[simp] theorem Upd.ev_mems (e : Ev) (s : State) : (Upd.apply (.ev e) s).mems = s.mems := rfl
@[simp] theorem Upd.ev_ext (e : Ev) (s : State) : (Upd.apply (.ev e) s).ext = s.ext := rfl
@[simp] theorem Upd.ev_extDirty (e : Ev) (s : State) : (Upd.apply (.ev e) s).extDirty = s.extDirty := rfl
@[simp] theorem Upd.ev_links (e : Ev) (s : State) : (Upd.apply (.ev e) s).links = s.links := rfl
@[simp] theorem Upd.ev_vaults (e : Ev) (s : State) : (Upd.apply (.ev e) s).vaults = s.vaults := rfl
@[simp] theorem Upd.ev_slots (e : Ev) (s : State) : (Upd.apply (.ev e) s).slots = s.slots := rfl
@[simp] theorem Upd.ev_dies (e : Ev) (s : State) : (Upd.apply (.ev e) s).dies = s.dies := rfl
@[simp] theorem Upd.ev_parts (e : Ev) (s : State) : (Upd.apply (.ev e) s).parts = s.parts := rfl
@[simp] theorem Upd.ev_work (e : Ev) (s : State) : (Upd.apply (.ev e) s).work = s.work := rfl
@[simp] theorem Upd.ev_txns (e : Ev) (s : State) : (Upd.apply (.ev e) s).txns = s.txns := rfl
@[simp] theorem Upd.ev_pkg (e : Ev) (s : State) : (Upd.apply (.ev e) s).pkg = s.pkg := rfl
@[simp] theorem Upd.ev_tick (e : Ev) (s : State) : (Upd.apply (.ev e) s).tick = s.tick := rfl
@[simp] theorem Upd.ev_cur (e : Ev) (s : State) : (Upd.apply (.ev e) s).cur = s.cur := rfl
@[simp] theorem Upd.ev_ev (e : Ev) (s : State) : (Upd.apply (.ev e) s).ev = e := rfl
@[simp] theorem Upd.ev_agenda (e : Ev) (s : State) : (Upd.apply (.ev e) s).agenda = s.agenda := rfl
@[simp] theorem Upd.ev_timers (e : Ev) (s : State) : (Upd.apply (.ev e) s).timers = s.timers := rfl
@[simp] theorem Upd.ev_inbox (e : Ev) (s : State) : (Upd.apply (.ev e) s).inbox = s.inbox := rfl
@[simp] theorem Upd.ev_outbox (e : Ev) (s : State) : (Upd.apply (.ev e) s).outbox = s.outbox := rfl
@[simp] theorem Upd.ev_nextId (e : Ev) (s : State) : (Upd.apply (.ev e) s).nextId = s.nextId := rfl
@[simp] theorem Upd.ev_free (e : Ev) (s : State) : (Upd.apply (.ev e) s).free = s.free := rfl
@[simp] theorem Upd.agenda_units (a : List Task) (s : State) : (Upd.apply (.agenda a) s).units = s.units := rfl
@[simp] theorem Upd.agenda_mems (a : List Task) (s : State) : (Upd.apply (.agenda a) s).mems = s.mems := rfl
@[simp] theorem Upd.agenda_ext (a : List Task) (s : State) : (Upd.apply (.agenda a) s).ext = s.ext := rfl
@[simp] theorem Upd.agenda_extDirty (a : List Task) (s : State) : (Upd.apply (.agenda a) s).extDirty = s.extDirty := rfl
@[simp] theorem Upd.agenda_links (a : List Task) (s : State) : (Upd.apply (.agenda a) s).links = s.links := rfl
@[simp] theorem Upd.agenda_vaults (a : List Task) (s : State) : (Upd.apply (.agenda a) s).vaults = s.vaults := rfl
@[simp] theorem Upd.agenda_slots (a : List Task) (s : State) : (Upd.apply (.agenda a) s).slots = s.slots := rfl
@[simp] theorem Upd.agenda_dies (a : List Task) (s : State) : (Upd.apply (.agenda a) s).dies = s.dies := rfl
@[simp] theorem Upd.agenda_parts (a : List Task) (s : State) : (Upd.apply (.agenda a) s).parts = s.parts := rfl
@[simp] theorem Upd.agenda_work (a : List Task) (s : State) : (Upd.apply (.agenda a) s).work = s.work := rfl
@[simp] theorem Upd.agenda_txns (a : List Task) (s : State) : (Upd.apply (.agenda a) s).txns = s.txns := rfl
@[simp] theorem Upd.agenda_pkg (a : List Task) (s : State) : (Upd.apply (.agenda a) s).pkg = s.pkg := rfl
@[simp] theorem Upd.agenda_tick (a : List Task) (s : State) : (Upd.apply (.agenda a) s).tick = s.tick := rfl
@[simp] theorem Upd.agenda_cur (a : List Task) (s : State) : (Upd.apply (.agenda a) s).cur = s.cur := rfl
@[simp] theorem Upd.agenda_ev (a : List Task) (s : State) : (Upd.apply (.agenda a) s).ev = s.ev := rfl
@[simp] theorem Upd.agenda_agenda (a : List Task) (s : State) : (Upd.apply (.agenda a) s).agenda = a := rfl
@[simp] theorem Upd.agenda_timers (a : List Task) (s : State) : (Upd.apply (.agenda a) s).timers = s.timers := rfl
@[simp] theorem Upd.agenda_inbox (a : List Task) (s : State) : (Upd.apply (.agenda a) s).inbox = s.inbox := rfl
@[simp] theorem Upd.agenda_outbox (a : List Task) (s : State) : (Upd.apply (.agenda a) s).outbox = s.outbox := rfl
@[simp] theorem Upd.agenda_nextId (a : List Task) (s : State) : (Upd.apply (.agenda a) s).nextId = s.nextId := rfl
@[simp] theorem Upd.agenda_free (a : List Task) (s : State) : (Upd.apply (.agenda a) s).free = s.free := rfl
@[simp] theorem Upd.timers_units (t : List Timer) (s : State) : (Upd.apply (.timers t) s).units = s.units := rfl
@[simp] theorem Upd.timers_mems (t : List Timer) (s : State) : (Upd.apply (.timers t) s).mems = s.mems := rfl
@[simp] theorem Upd.timers_ext (t : List Timer) (s : State) : (Upd.apply (.timers t) s).ext = s.ext := rfl
@[simp] theorem Upd.timers_extDirty (t : List Timer) (s : State) : (Upd.apply (.timers t) s).extDirty = s.extDirty := rfl
@[simp] theorem Upd.timers_links (t : List Timer) (s : State) : (Upd.apply (.timers t) s).links = s.links := rfl
@[simp] theorem Upd.timers_vaults (t : List Timer) (s : State) : (Upd.apply (.timers t) s).vaults = s.vaults := rfl
@[simp] theorem Upd.timers_slots (t : List Timer) (s : State) : (Upd.apply (.timers t) s).slots = s.slots := rfl
@[simp] theorem Upd.timers_dies (t : List Timer) (s : State) : (Upd.apply (.timers t) s).dies = s.dies := rfl
@[simp] theorem Upd.timers_parts (t : List Timer) (s : State) : (Upd.apply (.timers t) s).parts = s.parts := rfl
@[simp] theorem Upd.timers_work (t : List Timer) (s : State) : (Upd.apply (.timers t) s).work = s.work := rfl
@[simp] theorem Upd.timers_txns (t : List Timer) (s : State) : (Upd.apply (.timers t) s).txns = s.txns := rfl
@[simp] theorem Upd.timers_pkg (t : List Timer) (s : State) : (Upd.apply (.timers t) s).pkg = s.pkg := rfl
@[simp] theorem Upd.timers_tick (t : List Timer) (s : State) : (Upd.apply (.timers t) s).tick = s.tick := rfl
@[simp] theorem Upd.timers_cur (t : List Timer) (s : State) : (Upd.apply (.timers t) s).cur = s.cur := rfl
@[simp] theorem Upd.timers_ev (t : List Timer) (s : State) : (Upd.apply (.timers t) s).ev = s.ev := rfl
@[simp] theorem Upd.timers_agenda (t : List Timer) (s : State) : (Upd.apply (.timers t) s).agenda = s.agenda := rfl
@[simp] theorem Upd.timers_timers (t : List Timer) (s : State) : (Upd.apply (.timers t) s).timers = t := rfl
@[simp] theorem Upd.timers_inbox (t : List Timer) (s : State) : (Upd.apply (.timers t) s).inbox = s.inbox := rfl
@[simp] theorem Upd.timers_outbox (t : List Timer) (s : State) : (Upd.apply (.timers t) s).outbox = s.outbox := rfl
@[simp] theorem Upd.timers_nextId (t : List Timer) (s : State) : (Upd.apply (.timers t) s).nextId = s.nextId := rfl
@[simp] theorem Upd.timers_free (t : List Timer) (s : State) : (Upd.apply (.timers t) s).free = s.free := rfl
@[simp] theorem Upd.inbox_units (i : List Ev) (s : State) : (Upd.apply (.inbox i) s).units = s.units := rfl
@[simp] theorem Upd.inbox_mems (i : List Ev) (s : State) : (Upd.apply (.inbox i) s).mems = s.mems := rfl
@[simp] theorem Upd.inbox_ext (i : List Ev) (s : State) : (Upd.apply (.inbox i) s).ext = s.ext := rfl
@[simp] theorem Upd.inbox_extDirty (i : List Ev) (s : State) : (Upd.apply (.inbox i) s).extDirty = s.extDirty := rfl
@[simp] theorem Upd.inbox_links (i : List Ev) (s : State) : (Upd.apply (.inbox i) s).links = s.links := rfl
@[simp] theorem Upd.inbox_vaults (i : List Ev) (s : State) : (Upd.apply (.inbox i) s).vaults = s.vaults := rfl
@[simp] theorem Upd.inbox_slots (i : List Ev) (s : State) : (Upd.apply (.inbox i) s).slots = s.slots := rfl
@[simp] theorem Upd.inbox_dies (i : List Ev) (s : State) : (Upd.apply (.inbox i) s).dies = s.dies := rfl
@[simp] theorem Upd.inbox_parts (i : List Ev) (s : State) : (Upd.apply (.inbox i) s).parts = s.parts := rfl
@[simp] theorem Upd.inbox_work (i : List Ev) (s : State) : (Upd.apply (.inbox i) s).work = s.work := rfl
@[simp] theorem Upd.inbox_txns (i : List Ev) (s : State) : (Upd.apply (.inbox i) s).txns = s.txns := rfl
@[simp] theorem Upd.inbox_pkg (i : List Ev) (s : State) : (Upd.apply (.inbox i) s).pkg = s.pkg := rfl
@[simp] theorem Upd.inbox_tick (i : List Ev) (s : State) : (Upd.apply (.inbox i) s).tick = s.tick := rfl
@[simp] theorem Upd.inbox_cur (i : List Ev) (s : State) : (Upd.apply (.inbox i) s).cur = s.cur := rfl
@[simp] theorem Upd.inbox_ev (i : List Ev) (s : State) : (Upd.apply (.inbox i) s).ev = s.ev := rfl
@[simp] theorem Upd.inbox_agenda (i : List Ev) (s : State) : (Upd.apply (.inbox i) s).agenda = s.agenda := rfl
@[simp] theorem Upd.inbox_timers (i : List Ev) (s : State) : (Upd.apply (.inbox i) s).timers = s.timers := rfl
@[simp] theorem Upd.inbox_inbox (i : List Ev) (s : State) : (Upd.apply (.inbox i) s).inbox = i := rfl
@[simp] theorem Upd.inbox_outbox (i : List Ev) (s : State) : (Upd.apply (.inbox i) s).outbox = s.outbox := rfl
@[simp] theorem Upd.inbox_nextId (i : List Ev) (s : State) : (Upd.apply (.inbox i) s).nextId = s.nextId := rfl
@[simp] theorem Upd.inbox_free (i : List Ev) (s : State) : (Upd.apply (.inbox i) s).free = s.free := rfl
@[simp] theorem Upd.outbox_units (o : List Report) (s : State) : (Upd.apply (.outbox o) s).units = s.units := rfl
@[simp] theorem Upd.outbox_mems (o : List Report) (s : State) : (Upd.apply (.outbox o) s).mems = s.mems := rfl
@[simp] theorem Upd.outbox_ext (o : List Report) (s : State) : (Upd.apply (.outbox o) s).ext = s.ext := rfl
@[simp] theorem Upd.outbox_extDirty (o : List Report) (s : State) : (Upd.apply (.outbox o) s).extDirty = s.extDirty := rfl
@[simp] theorem Upd.outbox_links (o : List Report) (s : State) : (Upd.apply (.outbox o) s).links = s.links := rfl
@[simp] theorem Upd.outbox_vaults (o : List Report) (s : State) : (Upd.apply (.outbox o) s).vaults = s.vaults := rfl
@[simp] theorem Upd.outbox_slots (o : List Report) (s : State) : (Upd.apply (.outbox o) s).slots = s.slots := rfl
@[simp] theorem Upd.outbox_dies (o : List Report) (s : State) : (Upd.apply (.outbox o) s).dies = s.dies := rfl
@[simp] theorem Upd.outbox_parts (o : List Report) (s : State) : (Upd.apply (.outbox o) s).parts = s.parts := rfl
@[simp] theorem Upd.outbox_work (o : List Report) (s : State) : (Upd.apply (.outbox o) s).work = s.work := rfl
@[simp] theorem Upd.outbox_txns (o : List Report) (s : State) : (Upd.apply (.outbox o) s).txns = s.txns := rfl
@[simp] theorem Upd.outbox_pkg (o : List Report) (s : State) : (Upd.apply (.outbox o) s).pkg = s.pkg := rfl
@[simp] theorem Upd.outbox_tick (o : List Report) (s : State) : (Upd.apply (.outbox o) s).tick = s.tick := rfl
@[simp] theorem Upd.outbox_cur (o : List Report) (s : State) : (Upd.apply (.outbox o) s).cur = s.cur := rfl
@[simp] theorem Upd.outbox_ev (o : List Report) (s : State) : (Upd.apply (.outbox o) s).ev = s.ev := rfl
@[simp] theorem Upd.outbox_agenda (o : List Report) (s : State) : (Upd.apply (.outbox o) s).agenda = s.agenda := rfl
@[simp] theorem Upd.outbox_timers (o : List Report) (s : State) : (Upd.apply (.outbox o) s).timers = s.timers := rfl
@[simp] theorem Upd.outbox_inbox (o : List Report) (s : State) : (Upd.apply (.outbox o) s).inbox = s.inbox := rfl
@[simp] theorem Upd.outbox_outbox (o : List Report) (s : State) : (Upd.apply (.outbox o) s).outbox = o := rfl
@[simp] theorem Upd.outbox_nextId (o : List Report) (s : State) : (Upd.apply (.outbox o) s).nextId = s.nextId := rfl
@[simp] theorem Upd.outbox_free (o : List Report) (s : State) : (Upd.apply (.outbox o) s).free = s.free := rfl
@[simp] theorem Upd.nextId_units (n : Nat) (s : State) : (Upd.apply (.nextId n) s).units = s.units := rfl
@[simp] theorem Upd.nextId_mems (n : Nat) (s : State) : (Upd.apply (.nextId n) s).mems = s.mems := rfl
@[simp] theorem Upd.nextId_ext (n : Nat) (s : State) : (Upd.apply (.nextId n) s).ext = s.ext := rfl
@[simp] theorem Upd.nextId_extDirty (n : Nat) (s : State) : (Upd.apply (.nextId n) s).extDirty = s.extDirty := rfl
@[simp] theorem Upd.nextId_links (n : Nat) (s : State) : (Upd.apply (.nextId n) s).links = s.links := rfl
@[simp] theorem Upd.nextId_vaults (n : Nat) (s : State) : (Upd.apply (.nextId n) s).vaults = s.vaults := rfl
@[simp] theorem Upd.nextId_slots (n : Nat) (s : State) : (Upd.apply (.nextId n) s).slots = s.slots := rfl
@[simp] theorem Upd.nextId_dies (n : Nat) (s : State) : (Upd.apply (.nextId n) s).dies = s.dies := rfl
@[simp] theorem Upd.nextId_parts (n : Nat) (s : State) : (Upd.apply (.nextId n) s).parts = s.parts := rfl
@[simp] theorem Upd.nextId_work (n : Nat) (s : State) : (Upd.apply (.nextId n) s).work = s.work := rfl
@[simp] theorem Upd.nextId_txns (n : Nat) (s : State) : (Upd.apply (.nextId n) s).txns = s.txns := rfl
@[simp] theorem Upd.nextId_pkg (n : Nat) (s : State) : (Upd.apply (.nextId n) s).pkg = s.pkg := rfl
@[simp] theorem Upd.nextId_tick (n : Nat) (s : State) : (Upd.apply (.nextId n) s).tick = s.tick := rfl
@[simp] theorem Upd.nextId_cur (n : Nat) (s : State) : (Upd.apply (.nextId n) s).cur = s.cur := rfl
@[simp] theorem Upd.nextId_ev (n : Nat) (s : State) : (Upd.apply (.nextId n) s).ev = s.ev := rfl
@[simp] theorem Upd.nextId_agenda (n : Nat) (s : State) : (Upd.apply (.nextId n) s).agenda = s.agenda := rfl
@[simp] theorem Upd.nextId_timers (n : Nat) (s : State) : (Upd.apply (.nextId n) s).timers = s.timers := rfl
@[simp] theorem Upd.nextId_inbox (n : Nat) (s : State) : (Upd.apply (.nextId n) s).inbox = s.inbox := rfl
@[simp] theorem Upd.nextId_outbox (n : Nat) (s : State) : (Upd.apply (.nextId n) s).outbox = s.outbox := rfl
@[simp] theorem Upd.nextId_nextId (n : Nat) (s : State) : (Upd.apply (.nextId n) s).nextId = n := rfl
@[simp] theorem Upd.nextId_free (n : Nat) (s : State) : (Upd.apply (.nextId n) s).free = s.free := rfl
@[simp] theorem Upd.free_units (n : Nat) (s : State) : (Upd.apply (.free n) s).units = s.units := rfl
@[simp] theorem Upd.free_mems (n : Nat) (s : State) : (Upd.apply (.free n) s).mems = s.mems := rfl
@[simp] theorem Upd.free_ext (n : Nat) (s : State) : (Upd.apply (.free n) s).ext = s.ext := rfl
@[simp] theorem Upd.free_extDirty (n : Nat) (s : State) : (Upd.apply (.free n) s).extDirty = s.extDirty := rfl
@[simp] theorem Upd.free_links (n : Nat) (s : State) : (Upd.apply (.free n) s).links = s.links := rfl
@[simp] theorem Upd.free_vaults (n : Nat) (s : State) : (Upd.apply (.free n) s).vaults = s.vaults := rfl
@[simp] theorem Upd.free_slots (n : Nat) (s : State) : (Upd.apply (.free n) s).slots = s.slots := rfl
@[simp] theorem Upd.free_dies (n : Nat) (s : State) : (Upd.apply (.free n) s).dies = s.dies := rfl
@[simp] theorem Upd.free_parts (n : Nat) (s : State) : (Upd.apply (.free n) s).parts = s.parts := rfl
@[simp] theorem Upd.free_work (n : Nat) (s : State) : (Upd.apply (.free n) s).work = s.work := rfl
@[simp] theorem Upd.free_txns (n : Nat) (s : State) : (Upd.apply (.free n) s).txns = s.txns := rfl
@[simp] theorem Upd.free_pkg (n : Nat) (s : State) : (Upd.apply (.free n) s).pkg = s.pkg := rfl
@[simp] theorem Upd.free_tick (n : Nat) (s : State) : (Upd.apply (.free n) s).tick = s.tick := rfl
@[simp] theorem Upd.free_cur (n : Nat) (s : State) : (Upd.apply (.free n) s).cur = s.cur := rfl
@[simp] theorem Upd.free_ev (n : Nat) (s : State) : (Upd.apply (.free n) s).ev = s.ev := rfl
@[simp] theorem Upd.free_agenda (n : Nat) (s : State) : (Upd.apply (.free n) s).agenda = s.agenda := rfl
@[simp] theorem Upd.free_timers (n : Nat) (s : State) : (Upd.apply (.free n) s).timers = s.timers := rfl
@[simp] theorem Upd.free_inbox (n : Nat) (s : State) : (Upd.apply (.free n) s).inbox = s.inbox := rfl
@[simp] theorem Upd.free_outbox (n : Nat) (s : State) : (Upd.apply (.free n) s).outbox = s.outbox := rfl
@[simp] theorem Upd.free_nextId (n : Nat) (s : State) : (Upd.apply (.free n) s).nextId = s.nextId := rfl
@[simp] theorem Upd.free_free (n : Nat) (s : State) : (Upd.apply (.free n) s).free = n := rfl

end Sys2Proof.Machine
end

