-- ==== Sys2Proof/Laws/Run.lean ====
section
/-! SUPPORT. Updates in order, actions, and the one property that every list of updates keeps: the canonical form of the memories. -/
namespace Sys2Proof.Machine

@[simp] theorem run_nil (s : State) : run [] s = s := rfl
@[simp] theorem run_cons (u : Upd) (l : List Upd) (s : State) : run (u :: l) s = run l (u.apply s) := rfl
theorem run_append (l k : List Upd) (s : State) : run (l ++ k) s = run k (run l s) := by simp [run, List.foldl_append]

@[simp] theorem perform_none (s : State) : perform Act.none s = s := rfl
theorem perform_seq (a b : Act) (s : State) : perform (Act.seq a b) s = perform b (perform a s) := by
  simp [perform, Act.seq, run_append]
@[simp] theorem perform_all_nil (s : State) : perform (Act.all []) s = s := rfl
theorem perform_all_cons (a : Act) (l : List Act) (s : State) : perform (Act.all (a :: l)) s = perform (Act.all l) (perform a s) := by
  simp [Act.all, perform_seq]
theorem perform_each_cons {α : Type} (x : α) (l : List α) (f : α → Act) (s : State) :
    perform (Act.each (x :: l) f) s = perform (Act.each l f) (perform (f x) s) := by
  simp [Act.each, perform_all_cons]
@[simp] theorem perform_each_nil {α : Type} (f : α → Act) (s : State) : perform (Act.each [] f) s = s := rfl
@[simp] theorem perform_when_true (a : Act) (s : State) : perform (Act.when true a) s = perform a s := rfl
@[simp] theorem perform_when_false (a : Act) (s : State) : perform (Act.when false a) s = s := rfl

/-- What the named updates of one part do. -/
theorem perform_onUnit (c : Col) (f : UnitSt → UnitSt) (s : State) : perform (onUnit c f) s = { s with units := s.units.set c (f (s.unit c)) } := rfl
theorem perform_onVault (c : Col) (f : VaultSt → VaultSt) (s : State) : perform (onVault c f) s = { s with vaults := s.vaults.set c (f (s.vault c)) } := rfl
theorem perform_onSlot (c : Col) (f : Slot → Slot) (s : State) : perform (onSlot c f) s = { s with slots := s.slots.set c (f (s.slot c)) } := rfl
theorem perform_onDie (d : Die) (f : DieSt → DieSt) (s : State) : perform (onDie d f) s = { s with dies := s.dies.set d (f (s.die d)) } := rfl
theorem perform_onWork (f : Work → Work) (s : State) : perform (onWork f) s = { s with work := f s.work } := rfl
theorem perform_onPkg (f : Pkg → Pkg) (s : State) : perform (onPkg f) s = { s with pkg := f s.pkg } := rfl
theorem perform_report (r : Report) (s : State) : perform (report r) s = { s with outbox := s.outbox ++ [r] } := rfl

theorem vget_set_same {α : Type} {n : Nat} (v : Vector α n) (i : Fin n) (x : α) : (v.set i x)[i] = x := by
  simp
theorem vget_set_other {α : Type} {n : Nat} (v : Vector α n) (i j : Fin n) (x : α) (h : j ≠ i) : (v.set i x)[j] = v[j] := by
  have h' : (i : Nat) ≠ (j : Nat) := fun e => h (Fin.ext e.symm)
  simp [h']

@[simp] theorem unit_set_same (s : State) (c : Col) (u : UnitSt) : State.unit { s with units := s.units.set c u } c = u := vget_set_same _ _ _
theorem unit_set_other (s : State) {c d : Col} (u : UnitSt) (h : d ≠ c) : State.unit { s with units := s.units.set c u } d = s.unit d :=
  vget_set_other _ _ _ _ h
@[simp] theorem vault_set_same (s : State) (c : Col) (v : VaultSt) : State.vault { s with vaults := s.vaults.set c v } c = v := vget_set_same _ _ _
theorem vault_set_other (s : State) {c d : Col} (v : VaultSt) (h : d ≠ c) : State.vault { s with vaults := s.vaults.set c v } d = s.vault d :=
  vget_set_other _ _ _ _ h
@[simp] theorem slot_set_same (s : State) (c : Col) (x : Slot) : State.slot { s with slots := s.slots.set c x } c = x := vget_set_same _ _ _
theorem slot_set_other (s : State) {c d : Col} (x : Slot) (h : d ≠ c) : State.slot { s with slots := s.slots.set c x } d = s.slot d :=
  vget_set_other _ _ _ _ h

/-! ## The canonical form -/

/-- Every update keeps every memory in canonical form. -/
theorem Upd.apply_memWf (u : Upd) {s : State} (h : s.memWf) : (u.apply s).memWf := by
  have setOk : ∀ (c : Col) (x : Mems), x.wf = true → State.memWf { s with mems := s.mems.set c x } := by
    intro c x hx
    refine ⟨fun d => ?_, h.2⟩
    by_cases e : d = c
    · subst e; simpa [vget_set_same] using hx
    · have := h.1 d; rw [← vget_set_other s.mems c d x e] at this; exact this
  cases u with
  | mem c m ws => exact setOk c _ (Mems.set_wf m _ (h.1 c) (Memory.writes_wf _ (Mems.get_wf m (h.1 c))))
  | clear c m => exact setOk c _ (Mems.set_wf m _ (h.1 c) rfl)
  | ext ws => exact ⟨h.1, Memory.writes_wf ws h.2⟩
  | _ => exact h

theorem run_memWf (l : List Upd) {s : State} (h : s.memWf) : (run l s).memWf := by
  induction l generalizing s with
  | nil => exact h
  | cons u l ih => exact ih (u.apply_memWf h)

theorem perform_memWf (a : Act) {s : State} (h : s.memWf) : (perform a s).memWf := run_memWf _ h

/-- A meaning that is one action keeps the canonical form. -/
theorem done_memWf {a : Act} {s t : State} (h : s.memWf) (e : done a s = .next t) : t.memWf := by
  simp only [done, Host.Outcome.next.injEq] at e
  exact e ▸ perform_memWf a h

end Sys2Proof.Machine
end

