-- ==== Sys2Proof/Laws/Issue.lean ====
section
/-! SUPPORT. Everything that the issue of an instruction can do: it completes, it takes a fault, or it waits. -/
namespace Sys2Proof.Machine

theorem perform_issue_three (u a b : Act) (s : State) : perform (Act.all [u, a, b]) s = perform b (perform a (perform u s)) := by
  simp [perform_all_cons]

/-- Where the tokens are there and K is not held, the only condition left is the instruction's own. -/
theorem missOf_clear {s : State} {x : Stream} {sync : Fin 16} (a : Attempt) (h2 : s.my.tokenMiss x sync s.t = none)
    (h3 : x = .k → s.my.ctl.iload = false ∧ s.my.ctl.kfree ≤ s.t) : s.missOf s.cur.col (s.unit s.cur.col) x sync (s.now s.cur.col) a = a.miss := by
  have h2' : (s.unit s.cur.col).tokenMiss x sync (s.now s.cur.col) = none := h2
  simp only [State.missOf, h2']
  by_cases hk : x = .k
  · obtain ⟨a, b⟩ := h3 hk
    have a' : (s.unit s.cur.col).ctl.iload = false := a
    have b' : ¬ s.now s.cur.col < (s.unit s.cur.col).ctl.kfree := Int.not_lt.mpr b
    simp [a', b']
  · simp [hk]
/-- Nothing bars an instruction of K in supervisor state that has no SYNC field (R54). -/
theorem sync_clear {s : State} {x : Stream} {sync : Fin 16} (h1 : x = .k → s.my.frm.insv = true → sync = 0) :
    (x == .k && (s.unit s.cur.col).frm.insv && sync != 0) = false := by
  cases hx : (x == Stream.k) with
  | false => simp
  | true =>
    have := h1 (by simpa using hx)
    cases hv : (s.unit s.cur.col).frm.insv with
    | false => simp
    | true => simp [this hv]

/-- An instruction that meets no condition and no fault completes. -/
theorem issueAs_completes {s : State} {x : Stream} {sync : Fin 16} {len : Nat} {f : State → Col → UnitSt → Int → Attempt}
    (h : s.clear x sync) (g : (f s s.me s.my s.t).free) :
    done (issueAs x sync len f) s = .next (s.issuedWith x sync len (f s s.me s.my s.t)) := by
  obtain ⟨h1, h2, h3⟩ := h
  obtain ⟨g1, g2, g3, g4⟩ := g
  have hs := sync_clear h1
  have hm : s.missOf s.cur.col (s.unit s.cur.col) x sync (s.now s.cur.col) (f s s.me s.my s.t) = none := (missOf_clear _ h2 h3).trans g3
  have e : issueAs x sync len f s = Act.all [onUnit s.me (fun u => u.complete x sync len s.t (f s s.me s.my s.t)),
      (f s s.me s.my s.t).more, (f s s.me s.my s.t).after] s := by
    simp only [issueAs]
    have g1' : (f s s.cur.col (s.unit s.cur.col) (s.now s.cur.col)).illegal = none := g1
    have g2' : (f s s.cur.col (s.unit s.cur.col) (s.now s.cur.col)).priv = false := g2
    have g4' : (f s s.cur.col (s.unit s.cur.col) (s.now s.cur.col)).fault = none := g4
    have hm' : s.missOf s.cur.col (s.unit s.cur.col) x sync (s.now s.cur.col) (f s s.cur.col (s.unit s.cur.col) (s.now s.cur.col)) = none := hm
    simp only [g1', g2', g4', hm', hs]
    rfl
  simp only [done, perform, e]
  rw [← perform, perform_issue_three]; rfl

/-- An instruction whose own effect lies in its unit. -/
theorem issuedWith_quiet {s : State} {x : Stream} {sync : Fin 16} {len : Nat} {a : Attempt} (hm : a.more = Act.none) (ha : a.after = Act.none) :
    s.issuedWith x sync len a = s.issued x sync len a := by
  simp [State.issuedWith, hm, ha]

/-- An instruction that meets no condition and no fault, and whose own effect lies in its unit, completes with what `a` says. -/
theorem issueAs_issues {s : State} {x : Stream} {sync : Fin 16} {len : Nat} {f : State → Col → UnitSt → Int → Attempt} {a : Attempt}
    (h : s.clear x sync) (g : (f s s.me s.my s.t).free) (e : s.issuedWith x sync len (f s s.me s.my s.t) = s.issued x sync len a) :
    done (issueAs x sync len f) s = .next (s.issued x sync len a) := by
  rw [issueAs_completes h g, e]

/-- A fault of check 2 or 3. -/
theorem issueAs_illegal {s : State} {x : Stream} {sync : Fin 16} {len : Nat} {f : State → Col → UnitSt → Int → Attempt} {e : FaultRec}
    (h : (f s s.me s.my s.t).illegal = some e) :
    done (issueAs x sync len f) s = .next (perform (takeFault s.me x { e with addr := (s.my.strm x).pc }) s) := by
  have h' : (f s s.cur.col (s.unit s.cur.col) (s.now s.cur.col)).illegal = some e := h
  simp only [done, perform, issueAs, h']
  rfl

/-- A privileged instruction where it is barred. -/
theorem issueAs_priv {s : State} {x : Stream} {sync : Fin 16} {len : Nat} {f : State → Col → UnitSt → Int → Attempt}
    (hi : (f s s.me s.my s.t).illegal = none) (hs : (x == .k && s.my.frm.insv && sync != 0) = false) (h : (f s s.me s.my s.t).priv = true) :
    done (issueAs x sync len f) s = .next (perform (takeFault s.me x (flt .priv)) s) := by
  have hi' : (f s s.cur.col (s.unit s.cur.col) (s.now s.cur.col)).illegal = none := hi
  have hs' : (x == .k && (s.unit s.cur.col).frm.insv && sync != 0) = false := hs
  have h' : (f s s.cur.col (s.unit s.cur.col) (s.now s.cur.col)).priv = true := h
  simp only [done, perform, issueAs, hi', hs', h']
  rfl

/-- The instruction's own fault, once its conditions hold. -/
theorem issueAs_fault {s : State} {x : Stream} {sync : Fin 16} {len : Nat} {f : State → Col → UnitSt → Int → Attempt} {e : FaultRec}
    (h : s.clear x sync) (g1 : (f s s.me s.my s.t).illegal = none) (g2 : (f s s.me s.my s.t).priv = false) (g3 : (f s s.me s.my s.t).miss = none)
    (g : (f s s.me s.my s.t).fault = some e) :
    done (issueAs x sync len f) s = .next (perform (takeFault s.me x e) s) := by
  obtain ⟨h1, h2, h3⟩ := h
  have hs := sync_clear h1
  have hm : s.missOf s.cur.col (s.unit s.cur.col) x sync (s.now s.cur.col) (f s s.me s.my s.t) = none := (missOf_clear _ h2 h3).trans g3
  have g1' : (f s s.cur.col (s.unit s.cur.col) (s.now s.cur.col)).illegal = none := g1
  have g2' : (f s s.cur.col (s.unit s.cur.col) (s.now s.cur.col)).priv = false := g2
  have g4' : (f s s.cur.col (s.unit s.cur.col) (s.now s.cur.col)).fault = some e := g
  have hm' : s.missOf s.cur.col (s.unit s.cur.col) x sync (s.now s.cur.col) (f s s.cur.col (s.unit s.cur.col) (s.now s.cur.col)) = none := hm
  simp only [done, perform, issueAs, g1', g2', g4', hm', hs]
  rfl

/-- The instruction's own condition, where its tokens are there: a miss in timed mode, and in loose mode what the stall does. -/
theorem issueAs_miss {s : State} {x : Stream} {sync : Fin 16} {len : Nat} {f : State → Col → UnitSt → Int → Attempt} {m : Miss}
    (h : s.clear x sync) (g1 : (f s s.me s.my s.t).illegal = none) (g2 : (f s s.me s.my s.t).priv = false)
    (g3 : (f s s.me s.my s.t).miss = some m) (hm : m ≠ .tokfull) :
    done (issueAs x sync len f) s =
      .next (if s.my.ctl.timed then perform (takeFault s.me x (schedMiss m)) s else perform (f s s.me s.my s.t).stall s) := by
  obtain ⟨h1, h2, h3⟩ := h
  have hs := sync_clear h1
  have h2' : (s.unit s.cur.col).tokenMiss x sync (s.now s.cur.col) = none := h2
  have hmiss : s.missOf s.cur.col (s.unit s.cur.col) x sync (s.now s.cur.col) (f s s.me s.my s.t) = some m := (missOf_clear _ h2 h3).trans g3
  have g1' : (f s s.cur.col (s.unit s.cur.col) (s.now s.cur.col)).illegal = none := g1
  have g2' : (f s s.cur.col (s.unit s.cur.col) (s.now s.cur.col)).priv = false := g2
  have hm' : s.missOf s.cur.col (s.unit s.cur.col) x sync (s.now s.cur.col) (f s s.cur.col (s.unit s.cur.col) (s.now s.cur.col)) = some m := hmiss
  have hne : (m == Miss.tokfull) = false := by simpa using hm
  simp only [done, perform, issueAs, g1', g2', hm', hs, hne, h2']
  cases ht : (s.unit s.cur.col).ctl.timed with
  | true => have ht' : s.my.ctl.timed = true := ht
            simp [ht']; rfl
  | false => have ht' : s.my.ctl.timed = false := ht
             simp [ht']; rfl

end Sys2Proof.Machine
end

