-- ==== Sys2Proof/Certificates/Slice0/Obligations.lean ====
section
/-! DEFINITION. The statements: what the rules of the spec say that each instruction, each event, the step and the memories do. -/
open Sys2Proof Sys2Proof.Machine

/-! ## K: scalar results

`s.issued .k sync len a` is the state after the issue alone: the effects of `a` pending, the tokens moved, the program counter past the
instruction, and everything else as it was (Obligations.IssueChangesOnlyItsUnit says so). `s.writes d v n` is the write of v to S[d] on
the cycle n after the issue. -/

/-- R187, R192, R193: the register-register integer forms, LEA, WCHK and the compares complete, and the one thing they leave pending is the write
of their result, modulo 2^64 and with tail 0b00, to d at issue + 1; CSEL moves a or b, with its tail, by the data of d. -/
def Obligations.IntegerForms : Prop :=
  (∀ (s : State) (h : Hdr) (d a b : Fin 64), s.clear .k h.sync → s.ready [a, b] (some d) 1 →
     let x := s.my.sd a
     let y := s.my.sd b
     let out := fun (v : Dword) => (.next (s.issued .k h.sync 1 { eff := [s.writes d { data := v, tail := 0 } 1] }) : Out)
     exec (.add h d a b) s = out (x + y) ∧
     exec (.sub h d a b) s = out (x - y) ∧
     exec (.mul h d a b) s = out (x * y) ∧
     exec (.mulh h d a b) s = out (BitVec.ofInt 64 (x.toInt * y.toInt / 2 ^ 64)) ∧
     exec (.mulhn h d a b) s = out (BitVec.ofNat 64 (x.toNat * y.toNat / 2 ^ 64)) ∧
     exec (.and h d a b) s = out (x &&& y) ∧
     exec (.or h d a b) s = out (x ||| y) ∧
     exec (.xor h d a b) s = out (x ^^^ y) ∧
     exec (.andn h d a b) s = out (x &&& ~~~y) ∧
     exec (.shl h d a b) s = out (x <<< (y.toNat % 64)) ∧
     exec (.shr h d a b) s = out (x >>> (y.toNat % 64)) ∧
     exec (.sra h d a b) s = out (x.sshiftRight (y.toNat % 64)) ∧
     exec (.min h d a b) s = out (if x.toInt < y.toInt then x else y) ∧
     exec (.max h d a b) s = out (if x.toInt < y.toInt then y else x) ∧
     exec (.minn h d a b) s = out (if x.toNat < y.toNat then x else y) ∧
     exec (.maxn h d a b) s = out (if x.toNat < y.toNat then y else x) ∧
     exec (.lea h d a b) s = out (BitVec.ofNat 64 (x.toNat / 2 ^ 60 * 2 ^ 60 + (x.toNat % 2 ^ 60 + y.toNat % 2 ^ 60) % 2 ^ 60)) ∧
     exec (.wchk h d a b) s = out (BitVec.ofNat 64 (windowKind x y.toNat))) ∧
  (∀ (s : State) (h : Hdr) (d a b : Fin 64), s.clear .k h.sync →
     let x := s.my.sd a
     let y := s.my.sd b
     let out := fun (v : SVal) => (.next (s.issued .k h.sync 1 { eff := [s.writes d v 1] }) : Out)
     let bit := fun (r : Bool) => ({ data := if r then 1 else 0, tail := 0 } : SVal)
     (s.ready [a, b] (some d) 1 →
       exec (.cmpEq h d a b) s = out (bit (x == y)) ∧
       exec (.cmpNe h d a b) s = out (bit (x != y)) ∧
       exec (.cmpLt h d a b) s = out (bit (decide (x.toInt < y.toInt))) ∧
       exec (.cmpLe h d a b) s = out (bit (decide (x.toInt ≤ y.toInt))) ∧
       exec (.cmpLtn h d a b) s = out (bit (decide (x.toNat < y.toNat))) ∧
       exec (.cmpLen h d a b) s = out (bit (decide (x.toNat ≤ y.toNat)))) ∧
     (s.ready [d, a, b] (some d) 1 → exec (.csel h d a b) s = out (if s.my.sd d ≠ 0 then s.my.s a else s.my.s b)))

/-- R189, R190, R191, R193: the forms on one register and the immediate forms; k is an immediate of 0 to 63, i one of −32 to 31, w one of 40
bits; and what the counts of CLZ, CTZ and POPC count. -/
def Obligations.ImmediateForms : Prop :=
  (∀ (s : State) (h : Hdr) (d a : Fin 64) (k : Fin 64) (i w : Int) (u : Fin 16777216), s.clear .k h.sync →
     let x := s.my.sd a
     let out := fun (n : Nat) (v : Dword) => (.next (s.issued .k h.sync n { eff := [s.writes d { data := v, tail := 0 } 1] }) : Out)
     let imm := BitVec.ofNat 64 k.val
     (s.ready [a] (some d) 1 →
       exec (.addi h d a i) s = out 1 (x + BitVec.ofInt 64 i) ∧
       exec (.andi h d a k.val) s = out 1 (x &&& imm) ∧
       exec (.ori h d a k.val) s = out 1 (x ||| imm) ∧
       exec (.xori h d a k.val) s = out 1 (x ^^^ imm) ∧
       exec (.shli h d a k.val) s = out 1 (x <<< k.val) ∧
       exec (.shri h d a k.val) s = out 1 (x >>> k.val) ∧
       exec (.srai h d a k.val) s = out 1 (x.sshiftRight k.val) ∧
       exec (.sext h d a k.val) s = out 1 (BitVec.ofInt 64 (signed (k.val + 1) (x.toNat % 2 ^ (k.val + 1)))) ∧
       exec (.wtag h d a k.val) s = out 1 (BitVec.ofNat 64 (k.val % 16 * 2 ^ 60 + x.toNat % 2 ^ 60)) ∧
       exec (.clz h d a) s = out 1 (BitVec.ofNat 64 (leadingZeros x)) ∧
       exec (.ctz h d a) s = out 1 (BitVec.ofNat 64 (trailingZeros x)) ∧
       exec (.popc h d a) s = out 1 (BitVec.ofNat 64 (onesCount x))) ∧
     (s.ready [] (some d) 1 → exec (.li h d w) s = out 2 (BitVec.ofInt 64 w)) ∧
     (s.ready [d] (some d) 1 → exec (.lih h d u) s = out 2 (BitVec.ofNat 64 (u.val * 2 ^ 40 + (s.my.sd d).toNat % 2 ^ 40)))) ∧
  (∀ (x : Dword), leadingZeros 0 = 64 ∧ trailingZeros 0 = 64 ∧ leadingZeros x ≤ 64 ∧ trailingZeros x ≤ 64 ∧ onesCount x = ((List.range 64).map (fun i => x.toNat / 2 ^ i % 2)).foldl (· + ·) 0 ∧
     (x ≠ 0 → x.getLsbD (63 - leadingZeros x) = true ∧ x.getLsbD (trailingZeros x) = true) ∧
     (∀ i, 63 - leadingZeros x < i → i < 64 → x ≠ 0 → x.getLsbD i = false) ∧ (∀ i, i < trailingZeros x → x.getLsbD i = false))

/-! ## K: floating point, latches, control -/

/-- R196: the scalar float compares write 1 or 0 by the FP32 images of a and b, with tail 0b00, at issue + 1; FCMP.UN writes 1 when either
operand is NaN; none sets NUMST. -/
def Obligations.FloatCompares : Prop :=
  ∀ (s : State) (h : Hdr) (d a b : Fin 64), s.clear .k h.sync → s.ready [a, b] (some d) 1 →
    let x := image .fp32 ((s.my.s a).pair .fp32)
    let y := image .fp32 ((s.my.s b).pair .fp32)
    let out := fun (r : Bool) => (.next (s.issued .k h.sync 1 { eff := [s.writes d { data := if r then 1 else 0, tail := 0 } 1] }) : Out)
    exec (.fcmpEq h d a b) s = out (x.eq y) ∧
    exec (.fcmpNe h d a b) s = out (x.ne y) ∧
    exec (.fcmpLt h d a b) s = out (x.lt y) ∧
    exec (.fcmpLe h d a b) s = out (x.le y) ∧
    exec (.fcmpUn h d a b) s = out (x.isNan || y.isNan)

/-- R72, R73, R195, R197, R198: the scalar float forms form their result exactly from the images of their operands, narrow it once, and write it n cycles on, and set their sticky bits of NUMST on that cycle, which is also
the signal cycle. -/
def Obligations.FloatForms : Prop :=
  ∀ (s : State) (h : Hdr) (d a b : Fin 64) (f g : Fmt) (mode : Mode) (t : ITy), s.clear .k h.sync →
    let x := (s.my.s a).pair .fp32
    let y := (s.my.s b).pair .fp32
    let out := fun (n : Nat) (v : SVal) (m : NumBits) =>
      (.next (s.issued .k h.sync 1 { eff := s.writes d v n :: numstAt (s.t + n) .k m, sig := n }) : Out)
    let pair := fun (n : Nat) (r : Pair × NumBits) => out n (.ofPair r.1) r.2
    let i := image .fp32
    let once := fun (e : XNum × NumBits) => ((rto e.1 .fp32).1, e.2 ||| (rto e.1 .fp32).2)
    (s.ready [a, b] (some d) 4 →
      exec (.fadd h d a b) s = pair 4 (once ((i x).add (i y))) ∧
      exec (.fsub h d a b) s = pair 4 (once ((i x).add (i y).neg)) ∧
      exec (.fmul h d a b) s = pair 4 (once ((i x).mul (i y)))) ∧
    (s.ready [a, b, d] (some d) 4 → exec (.ffma h d a b) s = pair 4 (
      let p := (i x).mul (i y)
      let e := p.1.add (i ((s.my.s d).pair .fp32))
      ((rto e.1 .fp32).1, p.2 ||| e.2 ||| (rto e.1 .fp32).2))) ∧
    (s.ready [a, b] (some d) 1 →
      exec (.fmin h d a b) s = pair 1 (fpMinMax .fp32 false x y, 0) ∧
      exec (.fmax h d a b) s = pair 1 (fpMinMax .fp32 true x y, 0)) ∧
    (s.ready [a] (some d) 2 →
      exec (.fcvt h d a f g) s = pair 2 (convert f g ((s.my.s a).pair f)) ∧
      exec (.ffin h d a f mode) s = (let r := roundFloat f (image f ((s.my.s a).pair f)) mode
        out 2 { data := BitVec.ofNat 64 r.1, tail := 0 } r.2) ∧
      exec (.fcvti h d a mode t) s = (let r := roundRange t.toVTy.lo t.toVTy.hi (image .fp32 x) mode
        out 2 { data := BitVec.ofInt 64 r.1, tail := 0 } r.2) ∧
      exec (.icvtf h d a t) s = pair 2 (rto (XNum.ofInt (t.toVTy.intVal (s.my.sd a).toNat)) .fp32)) ∧
    (s.ready [a] (some d) 1 →
      exec (.fcls h d a f) s = out 1 { data := BitVec.ofNat 64 (classMask f ((s.my.s a).pair f)), tail := 0 } 0 ∧
      exec (.ftail h d a) s = out 1 { data := (s.my.s a).tail.zeroExtend 64, tail := 0 } 0)

/-- R188, R374: outside supervisor state a division takes the youngest entry of XD, 34 cycles off, with its quotient or remainder in data bits
[63:0] and everything else of the entry zero, and writes no register; in supervisor state it takes the privilege fault. -/
def Obligations.Divisions : Prop :=
  ∀ (s : State) (h : Hdr) (a b : Fin 64), s.clear .k h.sync →
    let x := s.my.sd a
    let y := s.my.sd b
    let entry := fun (v : Dword) => ({ img := { data := v.zeroExtend 4096, tail := 0 }, valid := false, rem := 34 } : LEntry)
    let out := fun (v : Dword) => (.next (s.issued .k h.sync 1 { unit := fun u => u.setLatch .xd (u.latch .xd ++ [entry v]) }) : Out)
    (s.my.frm.insv = false → s.ready [a, b] none 0 → (s.my.latch .xd).length < 8 →
      exec (.div h a b) s = out (if y = 0 then BitVec.allOnes 64 else BitVec.ofInt 64 (x.toInt.tdiv y.toInt)) ∧
      exec (.divn h a b) s = out (if y = 0 then BitVec.allOnes 64 else BitVec.ofNat 64 (x.toNat / y.toNat)) ∧
      exec (.rem h a b) s = out (if y = 0 then x else BitVec.ofInt 64 (x.toInt.tmod y.toInt)) ∧
      exec (.remn h a b) s = out (if y = 0 then x else BitVec.ofNat 64 (x.toNat % y.toNat))) ∧
    (s.my.frm.insv = true → ∀ i ∈ [Instr.div h a b, .divn h a b, .rem h a b, .remn h a b],
      exec i s = .next (perform (takeFault s.me .k (flt .priv)) s))

/-- R212 to R214, R218: XFER moves the oldest entry of a latch, which has arrived, into d; KMIX mixes at issue + 3; PHQ writes the word that
tells of map n; RNDN takes the next noise word, a value that nothing fixes, into XN and its sequence number into d; it is stated for a turn before V's: no
VRNDN has issued on the cycle. -/
def Obligations.TransportsAndMixing : Prop :=
  ∀ (s : State) (h : Hdr) (d a b : Fin 64) (x : Latch) (e : LEntry) (l : List LEntry) (n : Fin 16), s.clear .k h.sync →
    (s.my.frm.insv = false → s.ready [] (some d) 1 → s.my.latch x = e :: l → e.valid = true →
      exec (.xfer h d x) s = .next (s.issued .k h.sync 1
        { eff := [s.writes d { data := e.img.data.truncate 64, tail := e.img.tail.truncate 2 } 1], unit := fun u => u.setLatch x l })) ∧
    (s.ready [a, b] (some d) 3 →
      exec (.kmix h d a b) s = .next (s.issued .k h.sync 1 { eff := [s.writes d { data := mix64 (s.my.sd a) (s.my.sd b), tail := 0 } 3], sig := 3 })) ∧
    (s.ready [] (some d) 1 →
      let m := s.my.maps
      let named := m.valid && m.tgt == n
      let word := boolCode (m.maps[n]).isSome * 2 ^ 63 + boolCode named * 2 ^ 62 + boolCode (named && m.ready) * 2 ^ 61 +
        (if named && m.ready then wrap 48 (m.readyAt + s.off s.me) else 0)
      exec (.phq h d n) s = .next (s.issued .k h.sync 1 { eff := [s.writes d { data := BitVec.ofNat 64 word, tail := 0 } 1] })) ∧
    (s.my.frm.insv = false → s.ready [] (some d) 1 → (s.my.latch .xn).length < 8 → s.my.noiseReady 1 = true → (∀ t, s.my.eng.vdrew = some t → t.at_ ≠ s.t) →
      ∃ t, exec (.rndn h d) s = .next t ∧ t.units = (s.issued .k h.sync 1
        { eff := [s.writes d { data := BitVec.ofNat 64 s.my.eng.drawn, tail := 0 } 1]
          unit := fun u => (u.setLatch .xn (u.latch .xn ++
            [{ img := { data := ((s.noiseWords s.my 1).getD 0 0).zeroExtend 4096, tail := 0 }, valid := false, rem := 40 }])).drawNoise 1 }).units)

/-- R204, R205: a branch whose condition holds on the signed data of S[a], and a jump, continue at the place of their own word plus 4 × off; a
branch whose condition fails goes on with the next word; JMPI and RET continue at the data of a register, and CALL leaves the address of
the next word in S63. Nothing else is written. -/
def Obligations.BranchesAndJumps : Prop :=
  ∀ (s : State) (h : Hdr) (a : Fin 64) (off : Int), s.clear .k h.sync →
    let x := (s.my.sd a).toInt
    let pc := (s.my.strm .k).pc
    let target := pc + BitVec.ofInt 64 (4 * off)
    let go := fun (q : Dword) (l : List Pend) => (.next (s.issued .k h.sync 1 { eff := l, pc := some q }) : Out)
    let br := fun (c : Bool) => if c then go target [] else (.next (s.issued .k h.sync 1 {}) : Out)
    (s.ready [a] none 0 →
      exec (.brEq h a off) s = br (decide (x = 0)) ∧ exec (.brNe h a off) s = br (decide (x ≠ 0)) ∧
      exec (.brLt h a off) s = br (decide (x < 0)) ∧ exec (.brGe h a off) s = br (decide (0 ≤ x)) ∧
      exec (.brLe h a off) s = br (decide (x ≤ 0)) ∧ exec (.brGt h a off) s = br (decide (0 < x)) ∧
      exec (.jmpi h a) s = go (s.my.sd a) []) ∧
    exec (.jmp h off) s = go target [] ∧
    (s.ready [] (some 63) 1 → exec (.call h off) s = go target [s.writes 63 { data := pc + 4, tail := 0 } 1]) ∧
    (s.ready [63] none 0 → exec (.ret h) s = go (s.my.sd 63) [])

/-- R208, R209, R211: LOOP takes one from its counter at issue + 1 and goes back while the counter then is not zero; on the counter of the
registered loop it also takes one from both rotation bases, and clears LREG.REG when a loop that is not clamped ends. LSET registers a
loop, and under a pre-emption request clamps it; PREP stops a unit whose pre-emption is pending and whose registered loop has drained, and
otherwise does nothing. -/
def Obligations.LoopsAndPreemptionPoints : Prop :=
  ∀ (s : State) (h : Hdr) (lc : Fin 4) (off : Int) (label : Fin 65536) (a : Fin 64) (drain : Fin 16384), s.clear .k h.sync →
    let g := s.my.regs
    let n := (g.lc[lc]).toNat
    let at1 := fun (sel : Fin 4096) (v : Dword) => s.lands .k (.spec sel v) 1
    let mine := g.regd && g.lci == lc
    let count := if n = 0 then [] else [at1 (selLC lc) (BitVec.ofNat 64 (n - 1))]
    let bases := if mine then [at1 selVRB ((g.vrb - 1).zeroExtend 64), at1 selPRB ((g.prb - 1).zeroExtend 64)] else []
    let ends := if mine && decide (n ≤ 1) && !g.clamped then [at1 selLREG (g.lreg &&& 0x7FFFFFFFFFFFFFFF)] else []
    (2 ≤ n → exec (.loop h lc off) s = .next (s.issued .k h.sync 1
      { eff := count ++ bases, pc := some ((s.my.strm .k).pc + BitVec.ofInt 64 (4 * off)) })) ∧
    (n ≤ 1 → exec (.loop h lc off) s = .next (s.issued .k h.sync 1 { eff := count ++ bases ++ ends })) ∧
    (s.ready [a] none 0 → s.my.ctl.preempt = none → exec (.lset h lc label a drain) s = .next (s.issued .k h.sync 2
      { eff := [at1 selLREG (BitVec.ofNat 64 (2 ^ 63 + lc.val * 2 ^ 60 + drain.val * 2 ^ 46 + label.val)), at1 selLSAV 0,
                at1 (selLC lc) (BitVec.ofNat 64 (min (s.my.sd a).toNat 0xFFFFFFFF))] })) ∧
    (s.ready [a] none 0 → s.my.ctl.preempt.isSome = true →
      let c := min (s.my.sd a).toNat 0xFFFFFFFF
      exec (.lset h lc label a drain) s = .next (s.issued .k h.sync 2
        { eff := [at1 selLREG (BitVec.ofNat 64 (2 ^ 63 + 2 ^ 62 + lc.val * 2 ^ 60 + drain.val * 2 ^ 46 + label.val)),
                  at1 selLSAV (BitVec.ofNat 64 (c - 1)), at1 (selLC lc) (BitVec.ofNat 64 (min c 1))] })) ∧
    exec (.prep h) s = .next (if s.my.ctl.preempt.isSome && (!g.regd || g.lc[g.lci] == 0)
      then perform (onUnit s.me (fun u => { u with ctl := { u.ctl with prepped := true, hcyc := s.t } })) (s.issued .k h.sync 1 {})
      else s.issued .k h.sync 1 {})

/-! ## K: memory, special registers, execution control, faults -/

/-- R200, R201, R202: a scalar load or store of one element whose registers, address and access meet no condition and no fault issues with the
effects of that access. In a buffer window a load takes its element on the port cycle issue + 1 and writes d at issue + 5, which is its
signal cycle; from GLOBAL its own write is reckoned to come where its formula has it land, after an earlier load that is served before it (log entry 26). A store writes at issue + 2, the bytes of its element and no
others, under the header of its type, and sets its sticky bits there. -/
def Obligations.ScalarMemory : Prop :=
  ∀ (s : State) (h : Hdr) (d a : Fin 64) (f : Fmt) (t : ITy) (mode : Mode), s.clear .k h.sync →
    let addr := s.my.sd a
    let tile := fun (n : Nat) => elemTile addr n
    let load := fun (n : Nat) (dst : Nat → LoadDst) => s.load s.my s.me .k s.t (tile n) 0 (dst (addr.toNat % 64 / n)) none
    let block := BitVec.ofNat 64 (addr.toNat / 64 * 64)
    let store := fun (n code v : Nat) (m : NumBits) => s.store s.my s.me .k s.t (tagOf addr) [(offOf addr, n)]
      [(block, { bytesWrite (addr.toNat % 64) n v with need := some { fmt := BitVec.ofNat 8 code, scl := 0x7F } })] m
    let loads := fun (i : Instr) (n : Nat) (dst : Nat → LoadDst) =>
      checkAccess addr n n [0, 1, 2, 3] = none → kBusy s s.me s.my s.t [a] (some d) (s.ownLand s.me s.my s.t (tile n)) (s.landsFirst s.me s.my s.t (tile n)) = none →
        (load n dst).free →
        exec i s = .next (s.issuedWith .k h.sync 1 (load n dst)) ∧
        (∀ m, winMem (tagOf addr) = some m → (load n dst).sig = 5 ∧
          (load n dst).eff = [s.lands .k (.capture m [(offOf addr / 64, (s.mem s.me m).head (offOf addr / 64), s.t + 1)] [] (dst (addr.toNat % 64 / n)) (s.t + 5)) 1])
    let stores := fun (i : Instr) (n code v : Nat) (b : NumBits) =>
      checkAccess addr n n [0, 1, 2, 3] = none → s.ready [a, d] none 0 → (store n code v b).free →
        exec i s = .next (s.issuedWith .k h.sync 1 (store n code v b)) ∧
        (∀ m, winMem (tagOf addr) = some m → (store n code v b).sig = 2 ∧
          (store n code v b).eff = s.lands .k (.blocks m [(offOf addr / 64,
            { mask := BitVec.ofNat 512 ((2 ^ (8 * n) - 1) * 2 ^ (8 * (addr.toNat % 64))), data := BitVec.ofNat 512 (v % 2 ^ (8 * n) * 2 ^ (8 * (addr.toNat % 64)))
              hd := none, need := some { fmt := BitVec.ofNat 8 code, scl := 0x7F } })]) 2 :: numstAt (s.t + 2) .k b)
    loads (.ldsF h d a f) (f.width / 8) (fun ix => .sF d f ix) ∧
    loads (.ldsI h d a t) (t.toVTy.width / 8) (fun ix => .sI d t ix) ∧
    (let r := roundFloat f (image f ((s.my.s d).pair f)) mode
     stores (.stsF h d a f mode) (f.width / 8) f.toVTy.blockCode r.1 r.2) ∧
    stores (.stsI h d a t) (t.toVTy.width / 8) t.toVTy.blockCode (s.my.sd d).toNat 0

/-- R9, R22, R89, R97, R98, R206, R209, R215, R281, R374, R422: SRD writes what a special register reads at the start of the cycle, which it has kept where its turn was put off, into d at issue + 1, and SWR writes the data of d into it, also at
issue + 1, where a write to NUMST clears the bits that are 1. Outside supervisor state both take the privilege fault on a register of
supervisor access. SWR raises WINDOW for a queue that would pass the end of SP, and ILLEGAL_ENCODING for mode 3 of NOISEC; that these come at issue, the first with FADDR 0
and the second with the unit's conditions met, is the model's reading (log entries 37 and 44). Once such a write has taken effect the register reads its written fields, the others
as they are fixed: an address register or scratch register the whole word, a queue HEAD 0 and FREE its depth, and so on by its field map; every other special register reads
as before, and a write to one without a writable field changes nothing. -/
def Obligations.SpecialRegisters : Prop :=
  (∀ (s : State) (c : Col) (sel : Fin 4096) (v : Dword),
    let u := s.unit c
    let t : State := { s with units := s.units.set c (u.applyEff (.spec sel v)) }
    let n := sel.val
    let x := v.toNat
    let reads := fun (w : Nat) => t.readSpec c sel = BitVec.ofNat 64 w
    let among := fun (a b : Nat) => a ≤ n ∧ n ≤ b
    (among 0x020 0x02F ∨ among 0x05A 0x05D → t.readSpec c sel = v) ∧
    (among 0x014 0x017 ∨ n = 0x007 ∨ n = 0x019 → reads (x % 2 ^ 32)) ∧
    (among 0x040 0x04F → reads (x / 2 ^ 12 % 2 ^ 28 * 2 ^ 12 + x / 2 ^ 28 % 2 ^ 12 * 2 ^ 40)) ∧
    (among 0x035 0x037 → t.readSpec c sel = v &&& 0x800000000000FFFF) ∧ (n = 0x018 → t.readSpec c sel = v &&& 0xFFFFC0000000FFFF) ∧
    (among 0x052 0x057 → reads (x % 2 ^ 18)) ∧ (n = 0x008 → reads (x % 2 ^ 48)) ∧
    (n = 0x00F → reads (x / 2 ^ 63 * 2 ^ 63 + boolCode u.frm.insv * 2 ^ 62 + x % 2 ^ 18)) ∧
    (n = 0x010 → reads (x % 2 ^ 5)) ∧ (n = 0x011 → reads (x % 2 ^ 3)) ∧ (n = 0x012 → reads (x % 2 ^ 2)) ∧ (n = 0x030 → reads (x % 2)) ∧ (n = 0x031 → reads (x % 2 ^ 16)) ∧
    (n ∈ [0x000, 0x001, 0x002, 0x003, 0x004, 0x005, 0x006, 0x00A, 0x00B, 0x00C, 0x00D, 0x00E, 0x013, 0x038, 0x03A, 0x050, 0x051, 0x058, 0x05E] ∨ among 0x200 0x3FF → t = s) ∧
    (∀ r, r ≠ sel → t.readSpec c r = s.readSpec c r) ∧ (t.unit c).pend = u.pend ∧ (t.unit c).regs.s = u.regs.s ∧ (t.unit c).regs.tiles = u.regs.tiles ∧ (t.unit c).regs.p = u.regs.p) ∧
  ∀ (s : State) (h : Hdr) (d : Fin 64) (sel : Fin 4096), s.clear .k h.sync →
    let v := s.my.sd d
    (selSV sel = false ∨ s.my.frm.insv = true →
      (s.ready [] (some d) 1 →
        exec (.srd h d sel) s = .next (s.issued .k h.sync 1 { eff := [s.writes d { data := s.srdWord s.me sel, tail := 0 } 1] }) ∧
        (s.cur.turn = 0 ∨ s.my.eng.srd = none → s.srdWord s.me sel = s.readSpec s.me sel) ∧
        (∀ w, 0 < s.cur.turn → s.my.eng.srd = some (s.t, w) → s.srdWord s.me sel = w)) ∧
      (s.ready [d] none 0 →
        exec (.swr h d sel) s =
          (if 0x040 ≤ sel.val ∧ sel.val ≤ 0x04F ∧ 2 ^ 20 < 64 * (QCtl.ofWord v).base + (QCtl.ofWord v).depth * (QCtl.ofWord v).slotBytes then
            .next (perform (takeFault s.me .k (windowFault 3 0)) s)
          else if sel = 0x012 ∧ v.toNat % 4 = 3 then .next (perform (takeFault s.me .k (flt .illegalEncoding)) s)
          else .next (s.issued .k h.sync 1
            { eff := [s.lands .k (if sel = 0x009 then .numstClear (v.truncate 7 &&& 0x7D) else .spec sel v) 1] })))) ∧
    (selSV sel = true → s.my.frm.insv = false → ∀ i ∈ [Instr.srd h d sel, .swr h d sel],
      exec i s = .next (perform (takeFault s.me .k (flt .priv)) s))

/-- R41: a write by SWR to CYC, BASE, ZONE, LATT or XMODE has no effect: the instruction completes, and what it leaves pending changes nothing of the unit
when it takes place. -/
def Obligations.ReadOnlyClockRegisters : Prop :=
  ∀ (s : State) (h : Hdr) (d : Fin 64) (sel : Fin 4096), sel ∈ [0x000, 0x001, 0x002, 0x003, 0x006] → s.clear .k h.sync → s.ready [d] none 0 →
    exec (.swr h d sel) s = .next (s.issued .k h.sync 1 { eff := [s.lands .k (.spec sel (s.my.sd d)) 1] }) ∧
    ∀ u : UnitSt, u.applyEff (.spec sel (s.my.sd d)) = u

/-- R43, R45, R54, R216: ALIGN at the cycle BASE starts the held streams from that cycle, in the mode that the launch declares, and the column
runs; REALIGN opens a realignment point at BASE plus the data of S[a], at which K waits; HALT ends the unit's issue, and in supervisor state
escalates. -/
def Obligations.AlignmentAndHalt : Prop :=
  ∀ (s : State) (h : Hdr) (a : Fin 64), s.clear .k h.sync →
    (s.my.ctl.aligned = false → s.t = s.baseAt s.me → (s.my.strm .k).due.getD s.t ≤ s.t - 1 →
      ∃ t, exec (.align h) s = .next t ∧ (t.unit s.me).ctl.aligned = true ∧ (t.unit s.me).ctl.timed = !s.my.ctl.decl ∧
        (∀ x, x ≠ .k → (s.my.strm x).st = .held → (t.unit s.me).strm x = { s.my.strm x with st := .run, last := s.t }) ∧
        (t.slot s.me).st = (if (s.slot s.me).st = .waitBase then .running else (s.slot s.me).st)) ∧
    (s.my.ctl.aligned = true → s.my.ctl.rpend = false → s.ready [a] none 0 → s.t < s.baseAt s.me + ((s.my.sd a).toNat : Int) →
      exec (.realign h a) s = .next (s.issued .k h.sync 1
        { unit := fun u => { u with ctl := { u.ctl with rpend := true, t := s.my.sd a } }.onStrm .k (fun t => { t with st := .point s.t }) })) ∧
    (s.my.frm.insv = false → exec (.halt h) s = .next (s.issued .k h.sync 1 { unit := fun u => { u with ctl := { u.ctl with haltAt := some s.t } } })) ∧
    (s.my.frm.insv = true → exec (.halt h) s = .next (perform (escalate s.me) (s.issued .k h.sync 1 {})))

/-- R44, R45, R144: an IDLE of any stream completes with no effect but its time, its tokens and its place; with count 0x3_FFFF, in a stream that the
realignment cycle has not passed by, the stream stands at its realignment point from then on. The tokens of an IDLE of M behind
an MMA that a block is to fault count with the MMA's (R143, R290; log entry 76). -/
def Obligations.Idles : Prop :=
  ∀ (s : State) (h : Hdr) (m : MHdr) (n : Fin 262144),
    let out := fun (x : Stream) (sync : Fin 16) (len : Nat) => (.next (s.issued x sync len
      (if n.val = 0x3FFFF then { unit := fun u => u.onStrm x (fun t => { t with st := .point s.t }) } else {})) : Out)
    let point := fun (u : UnitSt) => if n.val = 0x3FFFF then u.onStrm .m (fun t => { t with st := .point s.t }) else u
    let ok := fun (x : Stream) (sync : Fin 16) => s.clear x sync ∧ (n.val = 0x3FFFF → (s.my.strm x).st ≠ .late)
    (ok .k h.sync → exec (.idleK h n) s = out .k h.sync 1) ∧ (ok .d h.sync → exec (.idleD h n) s = out .d h.sync 1) ∧
    (ok .l h.sync → exec (.idleL h n) s = out .l h.sync 2) ∧ (ok .m m.sync → s.my.eng.faulting s.t = none → exec (.idleM m n) s = out .m m.sync 3) ∧
    (∀ o, ok .m m.sync → s.my.eng.faulting s.t = some o →
      exec (.idleM m n) s = .next (s.issued .m m.sync 3 { unit := fun u => point (u.behindMma o m.sync), tag := o.id })) ∧
    (ok .v h.sync → exec (.idleV h n) s = out .v h.sync 2) ∧ (ok .s h.sync → exec (.idleS h n) s = out .s h.sync 2)

/-- R20, R219 to R221, R335: FENCE of kind REL, AR or SC issues once every write that the unit issued earlier has reached its scope, SC also once every earlier
synchronising operation has been reported, and ACQ at once; all but REL hold the unit's later accesses for what the fence awaits. It takes its turn after
the other streams of its column, whose accesses of the cycle it so awaits; until then nothing of it happens but that its turn is put off. LFENCE
issues once every write of a layout record has taken effect, and otherwise waits or misses as BUSY; ISYNC drops the words fetched ahead and
the CODE blocks held. -/
def Obligations.Fences : Prop :=
  ∀ (s : State) (h : Hdr) (kind : FenceKind) (scope : Scope), s.clear .k h.sync →
    let u := s.my
    let holds := fun (u : UnitSt) => { u with ord := { u.ord with fence := some s.t, acq := u.ord.acq.filter (s.awaits u s.t) ++ u.amfWaiting } }
    ((kind ≠ .acq → u.writesDone scope s.t none = true) → (kind = .sc → u.syncDone s.t = true) →
      (s.others s.me = false → exec (.fence h kind scope) s = .next (s.issued .k h.sync 1 { unit := if kind = .rel then id else holds })) ∧
      (s.others s.me = true → exec (.fence h kind scope) s = .next (perform (secondTurn s.me .k) s))) ∧
    (kind ≠ .acq → (u.writesDone scope s.t none = false ∨ (kind = .sc ∧ u.syncDone s.t = false)) →
      exec (.fence h kind scope) s = .next (if u.ctl.timed then perform (takeFault s.me .k (schedMiss .busy)) s else s)) ∧
    (s.recordsPending s.me u = false → exec (.lfence h) s = .next (s.issued .k h.sync 1 {})) ∧
    (s.recordsPending s.me u = true →
      exec (.lfence h) s = .next (if u.ctl.timed then perform (takeFault s.me .k (schedMiss .busy)) s else s)) ∧
    exec (.isync h) s = .next (s.issued .k h.sync 1 { unit := fun u => { u with ord := { u.ord with oldCode := [], codeHeld := [] } } })

/-- R142, R228, R375, R378: TRAP and BKPT execute, and then enter the handler: the frame holds the cause, the mode and the number of queued faults, the code, the
program counter of K past the instruction and those of the other streams as they stand, and CYC; the unit is in supervisor state, loose,
with K at ENTRY. Registers and memories are as they were. Without a handler the fault escalates to a kill of the unit's queue.
An undefined opcode takes ILLEGAL_INSTRUCTION in the stream that meets it, which has not executed: its program counter stays (R142; that FADDR holds the
place of the word is the model's reading, log entry 31). -/
def Obligations.TrapsEnterTheHandler : Prop :=
  (∀ (s : State) (h : Hdr) (code : Fin 4096), s.clear .k h.sync → s.my.frm.insv = false → s.my.ctl.haltAt = none →
     ∀ x ∈ [(Instr.trap h code, 0x16), (Instr.bkpt h code, 0x17)],
       ∃ t, exec x.1 s = .next t ∧
         let u := s.my
         let v := t.unit s.me
         v.frm.faultf = BitVec.ofNat 64 (x.2 + boolCode u.ctl.timed * 2 ^ 23 + u.frm.queue.length * 2 ^ 24) ∧
         v.frm.faddr = 0 ∧ v.frm.finfo = BitVec.ofNat 64 code.val ∧ v.frm.fcyc = s.cyc s.me ∧
         v.frm.fpc[Stream.ix .k] = ((u.strm .k).pc + 4).truncate 18 ∧
         (∀ y, y ≠ .k → v.frm.fpc[Stream.ix y] = ((u.strm y).pc).truncate 18) ∧
         v.ctl.timed = false ∧ v.regs = u.regs ∧ v.maps = u.maps ∧ t.mems = s.mems ∧ t.ext = s.ext ∧
         (u.frm.en = true → v.frm.insv = true ∧ (v.strm .k).pc = u.frm.entry.zeroExtend 64 ∧ (v.strm .k).last = s.t ∧
           (t.slot s.me).st = (if (s.slot s.me).st = .stopping then .stopping else .stopped)) ∧
         (u.frm.en = false → v.frm.insv = false ∧ t.agenda = .event (.kill (s.slot s.me).qdie (s.slot s.me).qnum (some s.me)) :: s.agenda)) ∧
  (∀ (s : State) (h : Hdr) (o : Fin 262144), s.my.frm.insv = false → s.my.frm.en = true → s.my.ctl.haltAt = none →
     ∃ t, exec (.undef h o) s = .next t ∧
       let v := t.unit s.me
       v.frm.insv = true ∧ v.frm.faultf.truncate 8 = (0x03 : BitVec 8) ∧ v.frm.faddr = (s.my.strm s.cur.stream).pc ∧
       v.frm.fpc[Stream.ix s.cur.stream] = ((s.my.strm s.cur.stream).pc).truncate 18 ∧ v.regs = s.my.regs ∧ v.pend = s.my.pend ∧ t.mems = s.mems)

/-- R228, R376, R378: ERET in supervisor state puts every stream at its resume program counter, counted from the ERET, loose and out of supervisor
state, and the stopped column runs; with a fault queued it is delivered first, the frame filled anew and the handler entered again. Outside
supervisor state it takes the privilege fault. -/
def Obligations.EretReturns : Prop :=
  ∀ (s : State) (h : Hdr), s.clear .k h.sync →
    (s.my.frm.insv = true → s.my.frm.queue = [] →
      ∃ t, exec (.eret h) s = .next t ∧
        let v := t.unit s.me
        v.frm.insv = false ∧ v.ctl.timed = false ∧ v.regs = s.my.regs ∧
        (∀ y : Stream, (v.strm y).pc = (s.my.frm.fpc[Stream.ix y]).zeroExtend 64 ∧ (v.strm y).last = s.t ∧ (v.strm y).due = none) ∧
        (t.slot s.me).st = (if (s.slot s.me).st = .stopped then .running else (s.slot s.me).st) ∧ t.mems = s.mems) ∧
    (s.my.frm.insv = true → s.my.frm.en = true → s.my.ctl.haltAt = none → ∀ x f q, s.my.frm.queue = (x, f) :: q → ¬ (f.cause = BitVec.ofNat 8 0x0E ∧ f.kind = 2) →
      ∃ t, exec (.eret h) s = .next t ∧
        let v := t.unit s.me
        v.frm.insv = true ∧ v.frm.queue = q ∧ v.frm.fpc = s.my.frm.fpc ∧ v.frm.faddr = f.addr ∧ v.frm.finfo = f.info ∧
        v.frm.faultf.truncate 8 = f.cause ∧ (v.strm .k).pc = s.my.frm.entry.zeroExtend 64) ∧
    (s.my.frm.insv = false → exec (.eret h) s = .next (perform (takeFault s.me .k (flt .priv)) s))

/-- R115, R116, R125, R222 to R227, R269, R340, R374: the requests that K sends, each with nothing pending on the registers that it reads. LAUNCH on a queue of the partition leaves its request with
the queue's leader at issue + 1 (no rule gives a transport: log entry 42), and on another queue takes the privilege fault; CANCEL removes the work that a handle of the unit's own job names, and with
another handle takes the privilege fault; SNAP, with no earlier one held, is held until the engine takes it; WAITG reads the graph counter through the unit's own map at each try (log entry 28), goes
on once it has come far enough, and otherwise waits or misses as BUSY; ILOAD reads its blocks and holds K; CPUB, at a position that the unit owns, publishes its blocks, which are CODE and not
poisoned, as a synchronising operation. A block of the map that one mirror has lost is rewritten as it is read. -/
def Obligations.Requests : Prop :=
  ∀ (s : State) (h : Hdr) (a b q : Fin 64) (pri : Fin 8) (deps : Fin 65536) (level : Level), s.clear .k h.sync →
    let mend := fun (l : List Dword) (u : UnitSt) => { u with maps := u.maps.mend u.maps.cur (s.my.walked l).contains }
    let priv := (.next (perform (takeFault s.me .k (flt .priv)) s) : Out)
    (∀ p, s.partOf s.me = some p → p.queues.contains (dieOf s.me, q) = true → s.ready [a, b] none 0 →
      ∃ t, exec (.launch h a b q pri deps) s = .next t ∧ t.units = (s.issued .k h.sync 2 {}).units ∧ t.nextId = s.nextId + 1 ∧
        t.work.reqs = s.work.reqs ++ [{ id := s.nextId + 1, die := dieOf s.me, q := q, part := s.partNum s.me, desc := s.my.sd a, arg := s.my.sd b,
                                        job := s.jobOf s.me, pri := pri, deps := BitVec.ofNat 16 deps.val }] ∧
        t.timers = s.timers ++ [{ part := some p.num, at_ := s.t + 1, ev := .launchPlacement (s.nextId + 1) }]) ∧
    (s.ready [a, b] none 0 → (∀ p, s.partOf s.me = some p → p.queues.contains (dieOf s.me, q) = false) → exec (.launch h a b q pri deps) s = priv) ∧
    (∀ j, s.job (s.jobOf s.me) = some j → s.ready [a] none 0 →
      (s.handleKnown j level (s.my.sd a) = true →
        exec (.cancel h level a) s = .next (perform (cancelWork j level (s.my.sd a)) (s.issued .k h.sync 1 {}))) ∧
      (s.handleKnown j level (s.my.sd a) = false → exec (.cancel h level a) s = priv)) ∧
    (s.ready [a] none 0 → s.my.ctl.snapHeld = false →
      ∃ t, exec (.snap h a) s = .next t ∧ (t.unit s.me).ctl.snapHeld = true ∧ 
        t.work.held = s.work.held ++ [{ col := s.me, launch := (s.slot s.me).launch, job := s.jobOf s.me, round := (s.my.sd a).truncate 32 }]) ∧
    (∀ n, s.ready [a, b] none 0 → s.my.mapped [s.my.sd a] = true → s.graphCounter s.me s.my (s.my.sd a) = some n →
      ((s.my.sd b).toNat ≤ n → exec (.waitg h a b) s = .next (perform (refreshFrontier s.me) (s.issued .k h.sync 1 { unit := mend [s.my.sd a] }))) ∧
      (n < (s.my.sd b).toNat → exec (.waitg h a b) s = .next (if s.my.ctl.timed then perform (takeFault s.me .k (schedMiss .busy)) s else s))) ∧
    (let w := (s.my.sd b).toNat
      let off := w % 2 ^ 18
      let n := w / 2 ^ 20 % 2 ^ 13
      let go := s.farLoad s.my s.me .k s.t 2 (codeTile (s.my.sd a) n) (.code off)
      s.ready [a, b] none 0 → w / 2 ^ 18 % 4 = 0 → w < 2 ^ 33 → 1 ≤ n → n ≤ 4096 → off + 64 * n ≤ 2 ^ 18 → off % 64 = 0 →
      tagOf (s.my.sd a) = 0 → (s.my.sd a).toNat % 64 = 0 → (s.my.sd a).toNat + 64 * n ≤ 2 ^ 48 → go.free →
        exec (.iload h a b) s = .next (s.issuedWith .k h.sync 1
          { go with sig := 1, tag := 0, held := false, unit := fun u => { go.unit u with ctl := { (go.unit u).ctl with iload := true } } })) ∧
    (let n := (s.my.sd b).toNat / 64
      ∀ ps, s.ready [a, b] none 0 → (s.my.sd b).toNat % 64 = 0 → 1 ≤ n → n ≤ 4096 → tagOf (s.my.sd a) = 0 → (s.my.sd a).toNat % 64 = 0 →
        (s.my.sd a).toNat + 64 * n ≤ 2 ^ 48 → s.syncMiss s.me s.my s.t = none → s.syncFault s.me s.my s.t = none →
        s.xlate s.my 1 (codeTile (s.my.sd a) n).addrs = .ok ps → (∀ p ∈ ps, (s.headAt p).fmt = 0x20 ∧ (s.headAt p).scl ≠ 0xFF) →
        s.my.mapped (codeTile (s.my.sd a) n).addrs = true →
        let o : Outst := { id := 0, stream := .k, issue := s.t, written := some (s.t + s.bdly), isRead := false, sync := true, wide := true, host := true }
        ∃ t, exec (.cpub h a b) s = .next t ∧
          t.units = (s.issued .k h.sync 1 { eff := [syncEff .k s.t], unit := fun u => ((mend (codeTile (s.my.sd a) n).addrs u).synced s.t).addOutst o }).units ∧
          t.parts = s.parts.map (fun p => if p.num == s.partNum s.me then { p with pubs := p.pubs ++ [{ id := s.nextId + 1, keys := ps.map Place.key }] } else p))

/-- R119 to R122, R217: PHPRE of a present map that is not the current one starts the Wain on it; PHADV to the map that is ready, with no arrival and no dual write
outstanding, switches the unit to it at issue + 1. -/
def Obligations.PhaseChanges : Prop :=
  ∀ (s : State) (h : Hdr) (n : Fin 16) (due : Fin 1048576), s.clear .k h.sync →
    (s.wainFault s.my n = none →
      exec (.phpre h n due) s = .next (let d := if due.val ≠ 0 ∧ s.my.ctl.timed = true then some (s.t + (due.val : Int)) else none
        let t := perform (startWain s.me n d) (s.issued .k h.sync 2 {})
        match d with
        | some x => perform (eventAt s.me x (.phpreDueDeadline s.me)) t
        | none => t)) ∧
    (s.my.maps.valid = true → s.my.maps.tgt = n → s.my.maps.ready = true → s.arrivalOut s.my n s.t = false → s.my.maps.duals = [] →
      exec (.phadv h n) s = .next (s.issued .k h.sync 1 { eff := [s.lands .k (.mapSwitch n) 1] })) ∧
    (s.my.maps.valid = true → s.my.maps.tgt = n → s.my.maps.ready = false →
      exec (.phadv h n) s = .next (if s.my.ctl.timed then perform (takeFault s.me .k (schedMiss .phase)) s else s))

/-! ## D and L -/

/-- R102 to R104, R242: exactly when the guard lets ACT, PRE, RD and WR through, by the commands that the bank and the vault have seen; R105: a
REFB is let through exactly when an ACT would be, and no beat is declared on the bank after its cycle. -/
def Obligations.GuardLetsThrough : Prop :=
  ∀ (v : VaultSt) (b : Fin 16) (cow : Bool) (now : Int),
    let k := v.banks[b]
    let since := fun (x : Option Int) (n : Nat) => ∀ a, x = some a → a + n ≤ now
    let recent := v.acts.filter (fun a => now - 24 < a && a ≤ now)
    let rowOk := since k.pre 14 ∧ since k.act 48 ∧ since k.ref 120 ∧ recent.length < 4 ∧ (∀ a ∈ recent, a + 4 ≤ now)
    let portFree := v.portHeld now = false ∧ (cow = true → v.portHeld (now + 1) = false)
    (v.guard .act b now = none ↔ k.row = none ∧ rowOk) ∧
    (v.guard .refb b now = none ↔ k.row = none ∧ v.beatsAfter b now = false ∧ rowOk) ∧
    (v.guard .pre b now = none ↔ k.row = none ∨ (v.beatsAfter b now = false ∧ since k.act 34 ∧ since k.wr 16 ∧ since k.rd 6)) ∧
    (v.guard .rd b now = none ↔ k.row ≠ none ∧ since k.act 14 ∧ v.portHeld now = false ∧ since v.lastWr 6) ∧
    (v.guard (.wr cow) b now = none ↔ k.row ≠ none ∧ since k.act 14 ∧ portFree ∧ since v.lastRd 4)

/-- R241, R103, R105: a command of D that the keeper does not hold off and that the guard lets through acts at issue on its bank alone: ACT opens the row,
PRE closes an active bank and leaves an idle one as it is, REFB restarts the deadline. -/
def Obligations.BankCommands : Prop :=
  ∀ (s : State) (h : Hdr) (b : Fin 16) (row : Fin 8192) (a : Fin 64), s.clear .d h.sync →
    let v := s.vault s.me
    let out := fun (w : VaultSt) => (.next (perform (onVault s.me (fun _ => w)) (s.issued .d h.sync 1 {})) : Out)
    let opened := fun (r : Fin 8192) => (v.onBank b (fun k => { k with row := some r, act := some s.t })).addAct s.t
    v.keeperHolds b s.t = false →
    (v.guard .act b s.t = none → exec (.act h b row) s = out (opened row) ∧
      exec (.actRegister h b a) s = out (opened (Fin.ofNat 8192 ((s.my.sd a).toNat % 2 ^ 13)))) ∧
    (v.guard .pre b s.t = none → exec (.pre h b) s =
      out (if (v.banks[b]).row.isSome then v.onBank b (fun k => { k with row := Option.none, pre := some s.t }) else v)) ∧
    (v.guard .refb b s.t = none → exec (.refb h b) s =
      out ((v.onBank b (fun k => { k with ref := some s.t, deadline := s.t + s.my.span })).addAct s.t))

/-- R242: PREA checks every active bank in bank order: it closes all of them when every check passes, and none when one fails, and then raises GUARD for the first
failing bank. A PRE, PREA or REFB that would close or refresh a bank with window beats declared after its cycle raises GUARD of kind STATE, 0x1. -/
def Obligations.PrechargeAll : Prop :=
  ∀ (s : State) (h : Hdr) (b : Fin 16), s.clear .d h.sync → (∀ c : Fin 16, (s.vault s.me).keeperHolds c s.t = false) →
    let v := s.vault s.me
    let active := fun (c : Fin 16) => (v.banks[c]).row.isSome
    let fails := fun (i : Instr) (e : FaultRec) => e.cause = BitVec.ofNat 8 Cause.guard.code ∧ exec i s = .next (perform (takeFault s.me .d e) s) ∧
      (perform (takeFault s.me .d e) s).vaults = s.vaults
    let beats := ∃ w ∈ v.wins, w.bank = b ∧ s.t < w.last
    let state := flt .guard 1 0 (BitVec.ofNat 64 b.val)
    let first := ∀ c : Fin 16, c < b → active c = true → v.guard .pre c s.t = none
    ((∀ c, active c = true → v.guard .pre c s.t = none) →
      ∃ t, exec (.prea h) s = .next t ∧ t.units = (s.issued .d h.sync 1 {}).units ∧
        ∀ c : Fin 16, ((t.vault s.me).banks[c]) = (if active c then { v.banks[c] with row := Option.none, pre := some s.t } else v.banks[c])) ∧
    (∀ e, active b = true → v.guard .pre b s.t = some e → first → fails (.prea h) e) ∧
    (beats → active b = true → fails (.pre h b) state ∧ (first → fails (.prea h) state)) ∧
    (beats → active b = false → fails (.refb h b) state)

/-- R244: WIN declares its beats on the cycles issue + delay and on, where the vault has fewer than 32 declarations with beats to come and no cycle of its
own is held, and raises GUARD of code 0x9 where one is; R245: WCLS cuts the windows of its kind on the bank, or on every bank, after the cycle. -/
def Obligations.Windows : Prop :=
  ∀ (s : State) (h : Hdr) (kind : WinKind) (bank : Fin 16) (beats delay : Fin 64) (all : Bool), s.clear .d h.sync →
    let v := s.vault s.me
    let first := s.t + (delay.val : Int)
    let left := v.wins.filter (fun w => s.t ≤ w.last && 0 < w.n)
    let held := (List.range beats.val).any (fun i => v.portHeld (first + i))
    (left.length < 32 → held = false →
      exec (.win h kind bank beats delay) s = .next (
        let t := perform (onVault s.me (fun v => { v with wins := left ++ [{ kind := kind, bank := bank, first := first, n := beats.val }] })) (s.issued .d h.sync 1 {})
        if delay.val = 0 then { t with agenda := .event (.windowBeat s.me) :: t.agenda } else t)) ∧
    (left.length < 32 → held = true →
      exec (.win h kind bank beats delay) s = .next (perform (takeFault s.me .d (flt .guard 9 0 (BitVec.ofNat 64 (bank.val + 0x100)))) s)) ∧
    exec (.wcls h kind bank all) s = .next (perform (onVault s.me (fun v => { v with wins := (v.wins.map (fun w =>
      if w.kind == kind && (all || w.bank == bank) then
        (if s.t < w.first then { w with n := 0 } else { w with n := min w.n (s.t - w.first + 1).toNat }) else w)).filter (fun w => 0 < w.n) }))
      (s.issued .d h.sync 1 {}))

/-- R234 to R237, R247, R251, R253: a load of L whose record, addresses, conditions and blocks raise nothing issues with the access of its tile and its post-increment. In a buffer window the access
takes each block's data on the block's port cycle, the first one issue + 1 (R95 and R96 give the count of the cycles; which block is taken on which is log entry 24), and writes its destination at
issue + 4 plus the cycles that it holds the port, two later for an operand latch; that is its signal cycle. -/
def Obligations.TileLoads : Prop :=
  ∀ (s : State) (h : Hdr) (v x : Fin 64) (m : LMem) (lat : OpLat), s.clear .l h.sync →
    let u := s.my
    let w := u.regs.ly[m.y]
    let l := layoutOf w
    let addr := u.memAddr false m.ax m.pi m.disp
    let inc := u.postInc .l false m.ax m.pi m.disp s.t
    let own := l.rowAddr addr
    let ix := u.v x
    let reg := fun (splat : Bool) => LoadDst.vec (u.regs.physV v) w splat
    let loads := fun (i : Instr) (rows : Nat) (at_ : Nat → Dword) (extra : Nat) (dst : LoadDst) (port : Option (Port × Nat)) (more : UnitSt → UnitSt) =>
      let t := l.tile rows at_
      let go := s.load u s.me .l s.t t extra dst port
      l.fieldBad = false → l.checkRows rows at_ [0, 2, 3] = none → go.free →
        exec i s = .next (s.issuedWith .l h.sync 2 { go with eff := go.eff ++ inc, unit := fun u => more (go.unit u) }) ∧
        (∀ k, winMem t.window = some k →
          let n := 4 + occOf k t.spans + extra
          let blks := t.addrs.map blkOf
          go.sig = n ∧ go.eff = [s.lands .l (.capture k (((blks.zip (blks.map (fun b => (s.mem s.me k).head b))).zip (portCycles k (occOf k t.spans) t.addrs)).map
            (fun y => (y.1.1, y.1.2, s.t + 1 + (y.2 : Int)))) [] dst (s.t + n)) 1])
    (l.elems ≤ l.ltype.lanes → loads (.vld h v m) l.rows own 0 (reg false) (some (.tileW 0, 1)) id) ∧
    (l.cols ≤ l.ltype.lanes → loads (.vlds h v m) 1 own 0 (reg true) (some (.tileW 0, 1)) id) ∧
    (l.rows ≤ 256 → l.elems ≤ l.ltype.lanes → u.portFree (.tileR 0) s.t 1 = true → u.rowsClear s.t (u.vRows [x]) = true →
      loads (.vldg h v m x) l.rows (fun r => own (ix.lane 16 r)) 0 (reg false) (some (.tileW 0, 1)) (fun u => u.takePort (.tileR 0) s.t 1)) ∧
    (l.blks ≤ 256 → loads (.ldh h v m) l.rows own 0 (.heads (u.regs.physV v) w) (some (.tileW 0, 1)) id) ∧
    (l.latchBytes ≤ 65536 → (lat = .opa → u.eng.gather = none) → loads (.ltr h lat m) l.rows own 2 (.latch lat w) none id)

/-- R249, R250, R252, R255, R351: QLD fills the queue's tail slot with the blocks of its tile, undecoded, and takes the slot at issue: FREE is one less, the slot's blocks are pending until
they are written, and the access counts as a write of L, too (R351); LREC loads one block into a layout record,
from the REC window at issue + 5 and from the others as any load does; QCW writes a queue's control word at issue + 1 unless the queue would pass the end of SP; POP
moves the oldest word of an engine FIFO, which has been delivered, into data bits [63:0] of a register at issue + 2, the register's other bits zero. -/
def Obligations.SlotAndRecordLoads : Prop :=
  (∀ (s : State) (h : Hdr) (n : Fin 16) (m : LMem), s.clear .l h.sync →
     let u := s.my
     let w := u.regs.ly[m.y]
     let l := layoutOf w
     let addr := u.memAddr false m.ax m.pi m.disp
     let inc := u.postInc .l false m.ax m.pi m.disp s.t
     let q := u.regs.qc[n]
     let off := 64 * q.base + (q.head + q.depth - q.free) % max 1 q.depth * q.slotBytes
     let t := l.tile l.rows (l.rowAddr addr)
     let go := s.load u s.me .l s.t t 0 (.slot off w) (some (.spW, slotOcc off l.blks))
     let far := tagOf addr == 0
     let id := s.nextId + 1
     let blks := (List.range (q.slotBytes / 64)).map (fun i =>
       ({ id := if far then id else 0, mem := some .sp, blk := off / 64 + i, far := far, due := if far then none else some (s.t + go.sig), place := none } : PendBlk))
     (q.depth ≠ 0 → 0 < q.free → l.fieldBad = false → l.blks * 64 = q.slotBytes → l.checkRows l.rows (l.rowAddr addr) [0, 2, 3] = none → go.free →
       exec (.qld h n m) s = .next (s.issuedWith .l h.sync 2 { go with
         eff := go.eff ++ inc
         more := Act.seq go.more (Act.when far (reserveLoad id))
         unit := fun u =>
           let u := if far then (go.unit u).trackFar id .l s.t false false false else (go.unit u).track .l s.t (s.t + go.sig) false
           { u with ord := { u.ord with pblks := u.ord.pblks ++ blks }, regs := { u.regs with qc := u.regs.qc.set n { q with free := q.free - 1 } } } })) ∧
     (tagOf addr = 5 → checkAccess addr 64 64 [0, 2, 3, 5] = none → s.accessHeld u s.t = false →
       exec (.lrec h m) s = .next (s.issued .l h.sync 2
         { eff := s.lands .l (.recCopy (Fin.ofNat 256 (offOf addr / 64)) m.y (s.t + 5)) 1 :: inc
           unit := fun u => u.track .l s.t (s.t + 5) true
           sig := 5 })) ∧
     (let a := s.load u s.me .l s.t { addrs := [addr], skips := [false], spans := [(offOf addr, 64)] } 0 (.lrec m.y) none
      tagOf addr ≠ 5 → checkAccess addr 64 64 [0, 2, 3, 5] = none → a.free →
         exec (.lrec h m) s = .next (s.issuedWith .l h.sync 2 { a with eff := a.eff ++ inc }))) ∧
  (∀ (s : State) (h : Hdr) (n : Fin 16) (a v : Fin 64) (f : Fifo) (e : FifoEnt) (l : List FifoEnt) (w : Dword), s.clear .l h.sync →
     let q := QCtl.ofWord (s.my.sd a)
     exec (.qcw h n a) s = (if 2 ^ 20 < 64 * q.base + q.depth * q.slotBytes then .next (perform (takeFault s.me .l (windowFault 3 0)) s)
       else .next (s.issued .l h.sync 2 { eff := [s.lands .l (.queue n q) 1] })) ∧
     (s.my.fifo f = e :: l → e.word = some w → s.my.portFree (.tileW 0) (s.t + 2) 1 = true →
       exec (.pop h v f) s = .next (s.issued .l h.sync 2
         { eff := [s.lands .l (.row (vRow (s.my.regs.physV v)) allData allTail { data := w.zeroExtend 4096, tail := 0 }) 2]
           unit := fun u => (u.setFifo f l).takePort (.tileW 0) (s.t + 2) 1
           sig := 2 })))

/-- R69, R246: a VRD of an open row that the guard, the keeper and the pending accesses let through reads the two blocks at issue and writes them at issue + 15, its
signal cycle: into a quarter of a register with tails 0b00, or with their headers into SP. The blocks of an extent that is not shared raise no race.
A VWR of an open row that lies in no extent of the unit's map, which the guard, the keeper and the ports let through, writes the two payloads of its quarter at issue;
each block keeps its header, but a poisoned one takes 0x00, 0x7F; its buffer form raises WINDOW of kind PATH. -/
def Obligations.VaultReadsAndWrites : Prop :=
  (∀ (s : State) (h : Hdr) (v : Fin 64) (bank : Fin 16) (col : Fin 32) (q : Fin 4) (ax : Fin 8) (row : Fin 8192), s.clear .l h.sync →
     let u := s.my
     let k := s.vault s.me
     let pa := paOf bank row col
     let blk := fun (i : Nat) => (s.mem s.me .vault).blk (pa / 64 + i)
     let sp := offOf u.regs.al[ax] / 64
     let ok := fun (p : Port) => k.keeperHolds bank s.t = false ∧ s.accessHeld u s.t = false ∧ u.portFree p (s.t + 15) 1 = true ∧ k.guard .rd bank s.t = none ∧
       (k.banks[bank]).row = some row ∧ u.gate s.t (some .vault) (s.pendingAt s.me u pa) = Gate.ok ∧ (∀ x, s.mappedAt u s.me pa = some x → x.1.sh = false) ∧
       (blk 0).poisoned = false ∧ (blk 1).poisoned = false
     let out := fun (p : Port) (e : Eff) (wr : Bool) => (.next (perform (onVault s.me (fun v => v.command .rd bank row 0 s.t)) (s.issued .l h.sync 2
       { eff := [s.lands .l e 15]
         unit := fun u => if wr then ((u.takePort p (s.t + 15) 1).track .l s.t (s.t + 15) true).track .l s.t (s.t + 15) false
           else (u.takePort p (s.t + 15) 1).track .l s.t (s.t + 15) true
         sig := 15 })) : Out)
     (ok (.tileW 0) → exec (.vrd h v bank col q) s = out (.tileW 0) (quarterEff (u.regs.physV v) q (some (blk 0).pay) (some (blk 1).pay)) false) ∧
     (ok .spW → checkAccess u.regs.al[ax] 128 128 [3] = none →
       exec (.vrdBuf h bank col ax) s = out .spW (.blocks .sp [(sp, (blk 0).whole), (sp + 1, (blk 1).whole)]) true)) ∧
  (∀ (s : State) (h : Hdr) (v : Fin 64) (bank : Fin 16) (col : Fin 32) (q : Fin 4) (ax : Fin 8) (row : Fin 8192), s.clear .s h.sync →
     let u := s.my
     let k := s.vault s.me
     let pa := paOf bank row col
     let old := fun (i : Nat) => (s.mem s.me .vault).blk (pa / 64 + i)
     let write := fun (i : Nat) => (pa / 64 + i, ({ mask := BitVec.allOnes 512, data := (u.v v).part (2 * q.val + i)
                                                    hd := if (old i).poisoned then some .raw else none, need := none } : BlkWrite))
     k.keeperHolds bank s.t = false → s.accessHeld u s.t = false → u.portFree (.tileR 0) s.t 1 = true → u.rowsClear s.t (u.vRows [v]) = true →
     ((k.banks[bank]).row = some row → k.guard (.wr false) bank s.t = none → s.mappedAt u s.me pa = none → k.isLive (pa / 64) = false → k.isLive (pa / 64 + 1) = false →
       exec (.vwr h v bank col q false ax) s = .next (perform (fun _ => [.mem s.me .vault [write 0, write 1]])
         (perform (onVault s.me (fun w => w.command (.wr false) bank 0 0 s.t)) (s.issued .s h.sync 2
           { unit := fun u => (u.takePort (.tileR 0) s.t 1).track .s s.t s.t false })))) ∧
     exec (.vwr h v bank col q true ax) s = .next (perform (takeFault s.me .s (flt .window 5)) s))

/-- R256 to R264, R408: an instruction that pushes a copy command whose records, addresses and blocks raise nothing, with an entry of CPF free, issues; CPF has one
entry more, the engine one command more, with the operation, the sequence number and the targets that the instruction gives, and its first block on
cycle b, the later of issue + 2 and the end of the command before. -/
def Obligations.CopyPushes : Prop :=
  ∀ (s : State) (h : Hdr) (k : Cp) (tg : Fin 64), 
    let u := s.my
    let pushes := fun (i : Instr) (x : Stream) (op : Fin 5) (word : Dword) =>
      let p : Push := { op := op, ys := k.ys, yd := k.yd, src := u.areg (x == .s) k.sa, dst := u.areg (x == .s) k.da, tgt := word }
      let a := s.pushCopy s.me u x s.t p
      s.clear x h.sync → a.free → exec i s = .next (s.issuedWith x h.sync 2 a) ∧ a.sig = 1 ∧ a.eff = [] ∧ a.pc = none ∧
        (u.eng.cpf.length < 64) ∧ (a.unit u).eng.cpf = u.eng.cpf ++ [{ id := s.nextId + 1, word := none }] ∧
        (a.unit u).regs = u.regs ∧ (a.unit u).frm = u.frm ∧ (a.unit u).eng.pushed = u.eng.pushed + 1 ∧
        (∃ c : CopyCmd, (a.unit u).eng.cmds = u.eng.cmds ++ [c] ∧ c.op = op ∧ c.seq = u.eng.pushed ∧ c.targets = p.targets ∧ c.stat = 0 ∧
          c.start = max (s.t + 2) u.eng.cpyEnd ∧ (a.unit u).eng.cpyEnd = c.start + c.m)
    pushes (.cpyL h k) .l 0 0 ∧ pushes (.cpyx h k tg) .l 1 (u.sd tg) ∧ pushes (.cpymL h k tg) .l 2 (u.sd tg) ∧ pushes (.get h k tg) .l 3 (s.homeWord s.me (u.sd tg)) ∧
    pushes (.cpyS h k) .s 0 0 ∧ pushes (.cpymS h k tg) .s 2 (u.sd tg) ∧ pushes (.put h k tg) .s 4 (s.homeWord s.me (u.sd tg))

/-! ## M -/

/-- R73, R74, R85, R284 to R288: a product whose operands are in place, of one class and kind, with the engine, the ports and the rows free, issues: it holds the engine for its cost, reads
destination row j at W0 + j − 1 with W0 = issue + cost + 4, and its signal cycle is W0 + M − 1; the elements that it multiplies are those of its operands as they stand at issue. Nothing else
of the unit's registers and no memory changes. A float element of a product takes its terms chunk by chunk: the products and their sum within a chunk are exact, so that a sum of finite terms
is the same number in any order and sets no bit; the sum is added to the element's image exactly and narrowed once by rto(), and the bits of the chunk, the addition and the narrowing are
set. The last chunk may be shorter. An element that is NaN stays the canonical NaN. A row's elements are those of its 128 columns. -/
def Obligations.Products : Prop :=
  (∀ (s : State) (h : MHdr) (o : Mm) (al : Bool) (a b : MOperand), s.clear .m h.sync →
     let u := s.my
     let m := o.msz.rows
     let k := o.k.val
     let c := if a.w = 16 then 2 * k else if a.w = 8 then k else (k + 1) / 2
     let w0 := s.t + ((c + 4 : Nat) : Int)
     let product := fun (i : Instr) (latchA gathered : Bool) =>
       let kind := mulKind a.w (a.blks ++ b.blks)
       let placed := fun (x : Mem) (l : List Dword) => ∀ d ∈ l, ∀ p ∈ u.ord.pblks, p.mem = some x → p.blk = blkOf d → ∃ y, p.due = some y ∧ y ≤ s.t
       u.eng.mbusy ≤ s.t → s.accessHeld u s.t = false → (latchA = true → gathered = false → u.eng.gather = none) →
       (gathered = true → ∀ g, u.eng.gather = some g → g.done ≤ s.t) → (latchA = true → s.latchPending s.me u .opa = false) →
       (o.bl = true → s.latchPending s.me u .opb = false) → s.operands s.me u o latchA gathered = .ok (a, b) → placed .ab a.tile → placed .wb b.tile → kind.2 = none →
       (o.bl = false → u.portFree .wbR s.t c = true) → (latchA = false → u.portFree .abR s.t c = true) →
       (o.z = false → u.portFree (.tileR o.dt) (w0 - 1) m = true) → u.rowsClearAt s.t (oldRows o w0) = true → u.portFree (.tileW o.dt) w0 m = true →
       u.rowsFree o.dt (16 * o.roff.val) m (if o.z then none else some (w0 - 1)) (some w0) = true →
         ∃ (op : MmaOp) (t : State), exec i s = .next t ∧
           let v := t.unit s.me
           v.pend = u.pend ++ (List.range m).map (fun (j : Nat) => { at_ := w0 - 1 + (j : Int), stream := .m, eff := .mmaRow op.id j }) ∧
           v.eng.mbusy = s.t + (c : Int) ∧ v.eng.mmas = u.eng.mmas.filter (fun q => s.t < q.sig) ++ [op] ∧
           op.tile = o.dt ∧ op.row = 16 * o.roff.val ∧ op.m = m ∧ op.k = k ∧ op.zero = o.z ∧ op.int = kind.1 ∧
           op.sig = s.t + ((c + 4 + m - 1 : Nat) : Int) ∧
           op.a = (List.range m).map (fun i => (List.range k).map (fun j => mulElem (a.elem i j))) ∧
           op.b = (List.range 128).map (fun n => (List.range k).map (fun j => mulElem (b.elem n j))) ∧
           v.regs = u.regs ∧ v.frm = u.frm ∧ t.mems = s.mems
     product (.mma h o al) al false ∧ product (.mmag h o) true true) ∧
  (let units := fun (u : Int) (x : XNum) => match x with
     | .fin s m e => (if s then -1 else 1) * ((m * 2 ^ (e - u).toNat : Nat) : Int)
     | _ => 0
   let finite := fun (u : Int) (x : XNum) => ∃ s m e, x = .fin s m e ∧ u ≤ e
   let step := fun (a b : List XNum) (acc : Pair) =>
     let s := chunkSum a b
     let t := (image .fp32 acc).add s.1
     ((rto t.1 .fp32).1, s.2 ||| t.2 ||| (rto t.1 .fp32).2)
   (∀ (u : Int) (xs : List XNum), u ≤ 0 → (∀ x ∈ xs, finite u x) →
     ∃ y, XNum.sum xs = (y, 0) ∧ finite u y ∧ units u y = (xs.map (units u)).foldl (· + ·) 0) ∧
   (∀ (u : Int) (a b : List XNum), u ≤ 0 → (∀ x ∈ a, finite u x) → (∀ x ∈ b, finite u x) →
     ∃ y, chunkSum a b = (y, 0) ∧ finite (2 * u) y ∧ units (2 * u) y = ((a.zip b).map (fun x => units u x.1 * units u x.2)).foldl (· + ·) 0) ∧
   (∀ (c n : Nat) (a b a' b' : List XNum) (acc : Pair) (f : NumBits), 0 < c → a.length = c → b.length = c →
     mmaFloat c (n + 1) (a ++ a') (b ++ b') acc f = mmaFloat c n a' b' (step a b acc).1 (f ||| (step a b acc).2)) ∧
   (∀ (c n : Nat) (a b : List XNum) (acc : Pair) (f : NumBits), a ≠ [] → a.length ≤ c → b.length ≤ c →
     mmaFloat c (n + 1) a b acc f = ((step a b acc).1, f ||| (step a b acc).2)) ∧
   (∀ (c n : Nat) (b : List XNum) (acc : Pair) (f : NumBits), mmaFloat c n [] b acc f = (acc, f)) ∧
   (∀ (c n k : Nat) (a b : List XNum) (acc : Pair) (f : NumBits), 0 < c → a.length ≤ n → a.length ≤ k → mmaFloat c n a b acc f = mmaFloat c k a b acc f) ∧
   (∀ (c n : Nat) (a b : List XNum) (acc : Pair) (f : NumBits), 0 < c → a ≠ [] → a.length ≤ n → image .fp32 acc = .nan → (mmaFloat c n a b acc f).1 = nanPair .fp32) ∧
   (∀ (o : MmaOp) (j : Nat) (old : Row), o.int = false →
     let el := fun (n : Nat) => mmaFloat o.chunk (o.k + 1) (o.a.getD j []) (o.b.getD n []) (if o.zero then { v := 0, t := 0 } else old.pair 32 n) 0
     (∀ n, n < 128 → (o.newRow j old).1.pair 32 n = { v := (el n).1.v % 2 ^ 32, t := (el n).1.t % 4 }) ∧
     (o.newRow j old).2 = (List.range 128).foldl (fun a n => a ||| (el n).2) 0))

/-- R86: an integer element of a product takes its products one after another, each exactly; a sum outside −2^31 to 2^31 − 1 wraps modulo 2^32 and sets NUMST.IOV; so the
element is the old one plus the exact sum of the products, modulo 2^32, and its tail is 0b00. -/
def Obligations.IntegerProductWraps : Prop :=
  (∀ (acc : Nat), mmaInt [] [] acc = (acc, 0)) ∧
  (∀ (x y : XNum) (a b : List XNum) (acc : Nat),
    let sum := sInt 32 acc + xInt x * xInt y
    let r := mmaInt a b (wrap 32 sum)
    mmaInt (x :: a) (y :: b) acc = (r.1, (if sum < -(2 ^ 31) ∨ 2 ^ 31 ≤ sum then nIov else 0) ||| r.2)) ∧
  (∀ (a b : List XNum) (acc : Nat), acc < 2 ^ 32 →
    (mmaInt a b acc).1 = wrap 32 (sInt 32 acc + ((a.zip b).map (fun x => xInt x.1 * xInt x.2)).foldl (· + ·) 0)) ∧
  (∀ (o : MmaOp) (j n : Nat) (old : Row), o.int = true → n < 128 →
    (o.newRow j old).1.pair 32 n = { v := (mmaInt (o.a.getD j []) (o.b.getD n []) (if o.zero then 0 else old.lane 32 n)).1, t := 0 })

/-- R294 to R296: MZERO writes M rows of zeros from issue + 1 on, one a cycle; MMOV copies n rows, row j at issue + 2 + j, each as it stood before the move wrote
it; MRST and MCLS write LABEL and RC of a tile's restart register at issue + 1 and leave its other bits. -/
def Obligations.TileRows : Prop :=
  ∀ (s : State) (h : MHdr) (t d : Fin 4) (msz : Msz) (roff : Fin 4) (drow srow : Fin 64) (n : Fin 128) (label : Fin 65536) (rc : Bool),
    s.clear .m h.sync → s.my.eng.mbusy ≤ s.t →
    let u := s.my
    let m := msz.rows
    let first := 16 * roff.val
    let trs := u.regs.trs[Fin.ofNat 3 (t.val - 1)]
    let restart := fun (w : Dword) => (.next (s.issued .m h.sync 3 { eff := [s.lands .m (.spec (Fin.ofNat 4096 (0x034 + t.val)) w) 1]
                                                                     unit := fun u => u.holdEngine (s.t + 1) }) : Out)
    (u.portFree (.tileW t) (s.t + 1) m = true → u.rowsFree t first m none (some (s.t + 1)) = true →
      exec (.mzero h t msz roff) s = .next (s.issued .m h.sync 3
        { eff := (List.range m).map (fun (j : Nat) => { at_ := s.t + 1 + (j : Int), stream := .m, eff := rowWrite (tileRow t (first + j)) .zero })
          unit := fun u => (u.takePort (.tileW t) (s.t + 1) m).holdEngine (s.t + 1)
          sig := m })) ∧
    (u.portFree (.tileR t) s.t n.val = true → u.portFree (.tileW d) (s.t + 2) n.val = true → u.rowsFree t srow.val n.val (some s.t) none = true →
      u.rowsFree d drow.val n.val none (some (s.t + 2)) = true →
      u.rowsClearAt s.t ((List.range n.val).map (fun (j : Nat) => (tileRow t (srow.val + j), s.t + (j : Int)))) = true →
      exec (.mmov h d t drow srow n) s = .next (s.issued .m h.sync 3
        { eff := (List.range n.val).map (fun (j : Nat) =>
            let x := srow.val + j
            let r := if d = t ∧ drow.val ≤ x ∧ x < drow.val + n.val then min j (1 + (x - drow.val)) else j
            let src := tileRow t x
            let dst := tileRow d (drow.val + j)
            if r = 0 then { at_ := s.t + 2 + (j : Int), stream := .m, eff := rowWrite dst u.regs.tiles[src] }
            else { at_ := s.t + (r : Int), stream := .m, eff := .copyRow src dst allData allTail none (s.t + 2 + (j : Int)) })
          unit := fun u => ((u.takePort (.tileR t) s.t n.val).takePort (.tileW d) (s.t + 2) n.val).holdEngine (s.t + (n.val : Int))
          sig := n.val + 1 })) ∧
    exec (.mrst h t label) s = restart ((trs &&& 0x8000000000000000) ||| BitVec.ofNat 64 label.val) ∧
    exec (.mcls h t rc) s = restart ((trs &&& 0xFFFF) ||| (if rc then 0x8000000000000000 else 0))

/-- R291 to R293: MIDX takes GIDX from the lanes of its register and starts the gather of the next MMAG of the section, which is complete G + 4 cycles on: it reads two
blocks a cycle from issue + 1 on, each as it stands then, and holds their payloads as clipping leaves them under their common header; with no MMAG after it, it takes GIDX alone. (Rows
of more than 64 KiB together are log entry 75.) MLDT loads an operand
latch from WB, written at issue + 6 + occ. -/
def Obligations.GatherAndLatchLoads : Prop :=
  ∀ (s : State) (h : MHdr) (v : Fin 64) (lat : OpLat) (y : Fin 256), s.clear .m h.sync → s.my.eng.mbusy ≤ s.t → s.accessHeld s.my s.t = false →
    let u := s.my
    let img := u.v v
    let index := fun (i : Nat) => img.lane 16 i
    let taken := fun (e : Eng) => e.gidx = Vector.ofFn (fun i => BitVec.ofNat 16 (index i.val)) ∧ e.mbusy = s.t + 1
    let next := nextMmag (s.mem s.me .store) (u.strm .m).hi 21846 ((u.strm .m).pc.toNat + 12)
    (u.portFree (.tileR 0) s.t 1 = true → u.rowReadBusy (vRow (u.regs.physV v)) s.t = false → u.rowsClear s.t (u.vRows [v]) = true → next = none →
      ∃ t, exec (.midx h v) s = .next t ∧ taken (t.unit s.me).eng ∧ (t.unit s.me).eng.gather = none ∧ (t.unit s.me).regs = u.regs ∧ t.mems = s.mems) ∧
    (∀ o, u.portFree (.tileR 0) s.t 1 = true → u.rowReadBusy (vRow (u.regs.physV v)) s.t = false → next = some o →
      let l := u.ly o.ya
      let m := o.msz.rows
      let r := (o.k.val * l.w + 511) / 512
      let g := m * ((r + 1) / 2)
      let row := fun (i : Nat) => l.ownRow (index i)
      let blk := fun (i j : Nat) => l.clip (index i) j ((s.mem s.me .ab).blk (blkOf (row i + BitVec.ofNat 64 (64 * j))))
      let part := fun (i j : Nat) => blkOf (row i + BitVec.ofNat 64 (64 * j))
      let fin := s.t + ((g + 4 : Nat) : Int)
      let idx := (List.range 64).map index
      let dst := LoadDst.gather fin m r o.k.val u.regs.ly[o.ya] idx
      let held := fun (hd : Head) (b : List (BitVec 512)) => ({ rows := m, elems := o.k.val, w := l.w, hd := hd, blks := b } : OpLatch)
      l.fieldBad = false → l.wcl < 3 → l.t = false → (∀ i, i < 64 → index i < l.rows) → r ≤ l.rowBlks → m * r ≤ 1024 → l.checkRows m row [2] = none → u.portFree .abR (s.t + 1) g = true →
      u.ord.pblks = [] → (∀ i j, i < m → j < r → (blk i j).hd = (blk 0 0).hd) →
        ∃ t x, exec (.midx h v) s = .next t ∧ taken (t.unit s.me).eng ∧ (t.unit s.me).eng.gather = some x ∧ x.done = fin ∧ x.full = false ∧
          (t.unit s.me).pend = u.pend ++ [s.lands .m (.capture .ab ((List.range m).flatMap (fun i => (List.range r).map (fun j =>
            (part i j, (s.mem s.me .ab).head (part i j), s.t + 1 + ((i * ((r + 1) / 2) + j / 2 : Nat) : Int))))) [] dst fin) 1] ∧
          (∀ got hd, got ≠ [] → (∀ n, n < got.length → (l.clip (index (n / max 1 r)) (n % max 1 r) (got.getD n .clear)).hd = hd) → dst.pend (dst.clip got) .m fin = [{ at_ := fin, stream := .m, eff := .gather fin (held hd
            ((List.range got.length).map (fun n => (l.clip (index (n / max 1 r)) (n % max 1 r) (got.getD n .clear)).pay))) }]) ∧
          (t.unit s.me).regs = u.regs ∧ t.mems = s.mems) ∧
    (let w := u.regs.ly[y]
     let l := layoutOf w
     let t := l.tile l.rows l.ownRow
     let go := s.chipLoad u s.me .m s.t .wb t (occOf .wb t.spans) 2 (.latch lat w) none
     (lat = .opa → u.eng.gather = none) → l.fieldBad = false → l.latchBytes ≤ 65536 → l.checkRows l.rows l.ownRow [1] = none → go.free →
       exec (.mldt h lat y) s = .next (s.issued .m h.sync 3 { go with unit := fun u => (go.unit u).holdEngine (s.t + 1) }) ∧
         go.sig = 6 + occOf .wb t.spans)

/-! ## V -/

/-- R299, R300, R304 to R309, R315, R323, R324: a lane form whose registers and predicate no earlier V write holds issues, and leaves pending on cycle issue + n, its
signal cycle, the write of d's lanes whose bit of the governing predicate is 1, lane k from lane k of each source; with PAIR it does the same one register on. The sticky
bits of those lanes are set on that cycle. Nothing else is written. -/
def Obligations.LaneForms : Prop :=
  ∀ (s : State) (c : VCtl) (d a b e : Fin 64) (pair : Bool) (imm : Int) (g : Fin 256) (alt : Bool), s.clear .v c.sync →
    let u := s.my
    let w := c.ty.width
    let form := fun (i : Instr) (n : Nat) (two : Bool) (srcs : List (Fin 64)) (f : List Pair → Pair × NumBits) =>
      let up := fun (r : Fin 64) (o : Nat) => Fin.ofNat 64 (r.val + o)
      let offs := if two then [0, 1] else [0]
      let lanes := fun (o : Nat) => (List.range c.ty.lanes).map (fun k => if u.gov c k then f (srcs.map (fun r => (u.v (up r o)).pair w k)) else intLane 0)
      let write := fun (o : Nat) => s.lands .v (laneEff u c.ty (up d o) (u.gov c) ((lanes o).map (·.1))) n
      let flags := offs.foldl (fun a o => a ||| (lanes o).foldl (fun a x => a ||| x.2) 0) 0
      u.vReady s.t n (offs.flatMap (fun o => srcs.map (fun r => up r o))) (offs.map (up d)) [c.p] [] →
        exec i s = .next (s.issued .v c.sync 2 { eff := offs.map write ++ numstAt (s.t + n) .v flags, sig := n })
    let float := fun (f : Fmt → Pair × NumBits) (i : Pair × NumBits) => match c.ty.fmt? with
      | some t => f t
      | none => i
    let val := fun (x : Pair) => c.ty.intVal x.v
    let modulo := fun (x : Int) => intLane (wrap w x)
    let two := fun (ff : XNum → XNum → XNum × NumBits) (fi : Int → Int → Int) (l : List Pair) =>
      float (fun t => narrow c t (ff (image t (lane1 l)) (image t (lane2 l)))) (modulo (fi (val (lane1 l)) (val (lane2 l))))
    let fma := fun (np ne : Bool) (l : List Pair) => float
      (fun t => let p := (image t (lane1 l)).mul (image t (lane2 l))
                let x := (if np then p.1.neg else p.1).add (if ne then (image t (lane3 l)).neg else image t (lane3 l))
                narrow c t (x.1, p.2 ||| x.2))
      (modulo ((if np then -(val (lane1 l) * val (lane2 l)) else val (lane1 l) * val (lane2 l)) + (if ne then -val (lane3 l) else val (lane3 l))))
    let sat := fun (x : Int) => intLane (wrap w (max c.ty.lo (min c.ty.hi x)))
    let bit := fun (f : Nat → Nat → Nat) (l : List Pair) => intLane (f (lane1 l).v (lane2 l).v % 2 ^ w)
    let n2 := if c.ty.isF then 4 else 2
    (form (.vadd c d a b pair) n2 pair [a, b] (two XNum.add (· + ·)) ∧ form (.vsub c d a b pair) n2 pair [a, b] (two (fun x y => x.add y.neg) (· - ·)) ∧
      form (.vmul c d a b pair) n2 pair [a, b] (two XNum.mul (· * ·)) ∧ form (.vmulh c d a b) 2 false [a, b] (two XNum.mul (fun x y => x * y / 2 ^ w)) ∧
      form (.vmin c d a b pair) n2 pair [a, b] (minmax c false) ∧ form (.vmax c d a b pair) n2 pair [a, b] (minmax c true) ∧
      form (.vabs c d a) n2 false [a] (signForm c false) ∧ form (.vneg c d a) n2 false [a] (signForm c true)) ∧
    (form (.vadds c d a b) 2 false [a, b] (fun l => sat (val (lane1 l) + val (lane2 l))) ∧
      form (.vsubs c d a b) 2 false [a, b] (fun l => sat (val (lane1 l) - val (lane2 l))) ∧
      form (.vaddi c d a imm) 2 false [a] (fun l => modulo (val (lane1 l) + imm)) ∧ form (.vmov c d a) 2 false [a] (fun l => (lane1 l, 0)) ∧
      form (.vli c d imm) 2 false [] (fun _ => float (fun t => narrow c t (XNum.ofInt imm, 0)) (modulo imm))) ∧
    (form (.vfma c d a b e pair) 4 pair [a, b, e] (fma false false) ∧ form (.vfms c d a b e pair) 4 pair [a, b, e] (fma false true) ∧
      form (.vfnma c d a b e pair) 4 pair [a, b, e] (fma true false) ∧ form (.vfnms c d a b e pair) 4 pair [a, b, e] (fma true true)) ∧
    (form (.vand c d a b) 2 false [a, b] (bit (· &&& ·)) ∧ form (.vor c d a b) 2 false [a, b] (bit (· ||| ·)) ∧ form (.vxor c d a b) 2 false [a, b] (bit (· ^^^ ·)) ∧
      form (.vandn c d a b) 2 false [a, b] (bit (fun x y => x &&& (2 ^ w - 1 - y))) ∧ form (.vnot c d a) 2 false [a] (bit (fun x _ => 2 ^ w - 1 - x)) ∧
      form (.vshl c d a b) 2 false [a, b] (bit (fun x y => x * 2 ^ (y % w))) ∧ form (.vshr c d a b) 2 false [a, b] (bit (fun x y => x / 2 ^ (y % w))) ∧
      form (.vsra c d a b) 2 false [a, b] (bit (fun x y => wrap w (sInt w x / 2 ^ (y % w))))) ∧
    (form (.vfin c d a) 4 false [a] (fun l => float (fun t => ({ v := (roundFloat t (image t (lane1 l)) c.mode).1, t := 0 }, (roundFloat t (image t (lane1 l)) c.mode).2)) (intLane 0)) ∧
      form (.vtail c d a) 2 false [a] (fun l => intLane (lane1 l).t) ∧ form (.vtclr c d a) 2 false [a] (fun l => intLane (lane1 l).v) ∧
      form (.vscl c d a imm) 4 false [a] (fun l => float (fun t => narrow c t ((image t (lane1 l)).scale imm, 0)) (intLane 0)) ∧
      form (.vradd c d a b g alt) 4 false [a, b] (residueForm c g alt false) ∧ form (.vrsub c d a b g alt) 4 false [a, b] (residueForm c g alt true) ∧
      form (.vkmix c d a b) 6 false [a, b] (fun l => intLane (mix64 (BitVec.ofNat 64 (lane1 l).v) (BitVec.ofNat 64 (lane2 l).v)).toNat))

/-- R83, R300: the write of a lane form changes the lanes that are selected to their new values and tails and leaves every other lane with its tail, and every other row; a lane's
value after it is the new lane modulo the lane's width, its tail lies in the pair of its lowest data byte, and its other pairs are written 0b00, as are the pairs of 4-bit lanes. -/
def Obligations.LaneWritesMerge : Prop :=
  ∀ (u : UnitSt) (ty : VTy) (d : Fin 64) (sel : Nat → Bool) (lanes : List Pair), lanes.length = ty.lanes →
    let ix := vRow (u.regs.physV d)
    let v := u.applyEff (laneEff u ty d sel lanes)
    let pair := fun (r : Row) (i : Nat) => r.tail.toNat / 2 ^ (2 * i) % 4
    (∀ k x, lanes[k]? = some x → (v.regs.tiles[ix]).lane ty.width k = if sel k then x.v % 2 ^ ty.width else (u.regs.tiles[ix]).lane ty.width k) ∧
    (∀ k x j, lanes[k]? = some x → x.t < 4 → j < ty.width / 8 →
      pair v.regs.tiles[ix] (ty.width / 8 * k + j) = if sel k then (if j = 0 then x.t else 0) else pair u.regs.tiles[ix] (ty.width / 8 * k + j)) ∧
    (ty.width = 4 → ∀ i, i < 512 → pair v.regs.tiles[ix] i = if sel (2 * i) || sel (2 * i + 1) then 0 else pair u.regs.tiles[ix] i) ∧
    (∀ j, j ≠ ix → v.regs.tiles[j] = u.regs.tiles[j]) ∧ v.regs.s = u.regs.s ∧ v.regs.p = u.regs.p ∧ v.ctl = u.ctl ∧ v.frm = u.frm ∧ v.pend = u.pend

/-- R307, R310, R312: the forms that write a predicate write at issue + 2 the bits of d that the governing predicate selects: the compares and VCLS one bit a lane, the
predicate forms all 1,024. -/
def Obligations.Predicates : Prop :=
  ∀ (s : State) (c : VCtl) (d p q : Fin 16) (a b : Fin 64) (imm : Fin 512), s.clear .v c.sync →
    let u := s.my
    let w := c.ty.width
    let out := fun (mask v : BitVec 1024) => (.next (s.issued .v c.sync 2 { eff := [s.lands .v (.pred (u.regs.physP d) mask v) 2], sig := 2 }) : Out)
    let pack := fun (g : Nat → Bool) => BitVec.ofNat 1024 (packNat 1 ((List.range c.ty.lanes).map (fun k => boolCode (g k))))
    let lane := fun (f : Nat → Bool) => out (pack (u.gov c)) (pack f)
    let cmp := fun (f : XNum → XNum → Bool) => lane (fun k => match c.ty.fmt? with
      | some g => f (image g ((u.v a).pair w k)) (image g ((u.v b).pair w k))
      | none => f (XNum.ofInt (c.ty.intVal ((u.v a).lane w k))) (XNum.ofInt (c.ty.intVal ((u.v b).lane w k))))
    (u.vReady s.t 2 [a, b] [] [c.p] [d] →
      exec (.vcmpEq c d a b) s = cmp XNum.eq ∧ exec (.vcmpNe c d a b) s = cmp XNum.ne ∧ exec (.vcmpLt c d a b) s = cmp XNum.lt ∧
      exec (.vcmpLe c d a b) s = cmp XNum.le ∧ exec (.vcmpUn c d a b) s = cmp (fun x y => x.isNan || y.isNan)) ∧
    (u.vReady s.t 2 [a] [] [c.p] [d] →
      exec (.vcls c d a imm) s = lane (fun k => match c.ty.fmt? with
        | some f => inClass f ((u.v a).pair w k) imm.val
        | none => false)) ∧
    (u.vBusy s.t 2 [] [] [c.p, p, q] [d] = none →
      exec (.pand c d p q) s = out (u.p c.p) (u.p p &&& u.p q) ∧ exec (.por c d p q) s = out (u.p c.p) (u.p p ||| u.p q) ∧
      exec (.pxor c d p q) s = out (u.p c.p) (u.p p ^^^ u.p q) ∧ exec (.pandn c d p q) s = out (u.p c.p) (u.p p &&& ~~~(u.p q))) ∧
    (u.vBusy s.t 2 [] [] [c.p, p] [d] = none → exec (.pnot c d p) s = out (u.p c.p) (~~~(u.p p)) ∧ exec (.pmov c d p) s = out (u.p c.p) (u.p p)) ∧
    (u.vBusy s.t 2 [] [] [c.p] [d] = none →
      exec (.pset c d imm) s = out (u.p c.p) (BitVec.ofNat 1024 (2 ^ (if imm.val = 511 then 1024 else imm.val) - 1)))

/-- R311, R313, R318, R319: selects, permutes and moves write the selected lanes of d with the lanes, tails and all, that they name: VSEL by a predicate, VPERM by the indices
of register b, VSHUF by its pattern, VSLD from the two registers in a row, VBCST from one lane; VXF takes the oldest entry of a latch at issue + 1 and frees it, where no
XFER from it still has its turn; VMOVT copies a row of a tile, read on issue + 1. VSHUF reads b but for its pattern REV. -/
def Obligations.LaneMoves : Prop :=
  ∀ (s : State) (c : VCtl) (d a b : Fin 64) (e : Fin 16) (imm : Fin 512) (x : Latch) (y : LEntry) (l : List LEntry) (row : Fin 64) (t : Fin 4), s.clear .v c.sync →
    let u := s.my
    let w := c.ty.width
    let n := c.ty.lanes
    let out := fun (m : Nat) (f : Nat → Pair) =>
      (.next (s.issued .v c.sync 2 { eff := [s.lands .v (laneEff u c.ty d (u.gov c) ((List.range n).map f)) m], sig := m }) : Out)
    let dm := laneMask w n (u.gov c)
    let tm := tailMask w n (u.gov c)
    (u.vReady s.t 2 [a, b] [d] [c.p, e] [] →
      exec (.vsel c d a b e) s = out 2 (fun k => (if (u.p e).getLsbD k then u.v a else u.v b).pair w k)) ∧
    (u.vReady s.t 3 (a :: (List.range ((n + 255) / 256)).map (fun i => Fin.ofNat 64 (b.val + i))) [d] [c.p] [] →
      exec (.vperm c d a b) s = out 3 (fun k => (u.v a).pair w ((u.v (Fin.ofNat 64 (b.val + k / 256))).lane 16 (k % 256) % n))) ∧
    (u.vReady s.t 3 (if imm.val < 4 then [a, b] else [a]) [d] [c.p] [] →
      exec (.vshuf c d a b imm) s = out 3 (fun k =>
        let z := shuffle n imm.val k
        (if z.1 then u.v b else u.v a).pair w z.2)) ∧
    (u.vReady s.t 3 [a, b] [d] [c.p] [] →
      exec (.vsld c d a b imm) s = out 3 (fun k => if k + imm.val < n then (u.v a).pair w (k + imm.val) else (u.v b).pair w (k + imm.val - n))) ∧
    (u.vReady s.t 3 [a] [d] [c.p] [] → exec (.vbcst c d a imm) s = out 3 (fun _ => (u.v a).pair w imm.val)) ∧
    (u.vBusy s.t 1 [] [d] [c.p] [] = none → s.xferWaits s.me x = false → u.latch x = y :: l → y.valid = true →
      exec (.vxf c d x) s = .next (s.issued .v c.sync 2
        { eff := [s.lands .v (.row (vRow (u.regs.physV d)) dm tm (Row.ofLanes w ((List.range n).map (y.img.pair w)))) 1]
          unit := fun u => u.setLatch x l })) ∧
    (u.vBusy s.t 2 [] [d] [c.p] [] = none → u.portFree (.tileR t) (s.t + 1) 1 = true → u.rowsStand s.t [tileRow t row.val] (s.t + 1) = true →
      exec (.vmovt c d row t) s = .next (s.issued .v c.sync 2
        { eff := [s.lands .v (.copyRow (tileRow t row.val) (vRow (u.regs.physV d)) dm tm (some c.ty) (s.t + 2)) 1]
          unit := fun u => u.takePort (.tileR t) (s.t + 1) 1
          sig := 2 }))

/-- R314, R320 to R322: VCVT converts the lanes that its part gives, at issue + 4; VMAXA puts the largest magnitude of the selected lanes, as an FP32 pair, into the scale bypass,
eight cycles off; VQNT takes the oldest entry, which has arrived, derives the scale byte from it, and writes lanes and the byte of QSC at issue + 4. -/
def Obligations.Conversions : Prop :=
  ∀ (s : State) (c : VCtl) (d a : Fin 64) (src : VTy) (qt : Fin 4) (j : Fin 8) (e : SbEntry) (l : List SbEntry), s.clear .v c.sync →
    let u := s.my
    let n := c.ty.lanes
    let out := fun (sel : Nat → Bool) (res : Nat → Pair × NumBits) (more : List Pend) (f : UnitSt → UnitSt) =>
      let r := (List.range n).map res
      (.next (s.issued .v c.sync 2
        { eff := s.lands .v (laneEff u c.ty d sel (r.map (·.1))) 4 :: more ++ numstAt (s.t + 4) .v (r.foldl (fun a x => a ||| x.2) 0), unit := f, sig := 4 }) : Out)
    (u.vReady s.t 4 [a] [d] [c.p] [] →
      let at_ := fun k => if u.gov c k then cvtSource src.lanes n j.val k else none
      exec (.vcvt c d a src j) s = out (fun k => (at_ k).isSome) (fun k => match at_ k with
        | some i => cvtLane c src ((u.v a).pair src.width i)
        | none => intLane 0) [] id) ∧
    (∀ f, c.ty.fmt? = some f → u.vReady s.t 1 [a] [] [c.p] [] → u.eng.sb.length < 8 →
      let lanes := ((List.range n).filter (u.gov c)).map (fun k => absPair f ((u.v a).pair c.ty.width k))
      let x := (rto (image f (extreme f true lanes)) .fp32).1
      exec (.vmaxa c a) s = .next (s.issued .v c.sync 2
        { unit := fun u => { u with eng := { u.eng with sb := u.eng.sb ++ [{ v := x.v, t := x.t, rem := 8, issued := s.t }] } } })) ∧
    (∀ f, src.fmt? = some f → u.vReady s.t 4 [a] [d] [c.p] [] → u.eng.sb = e :: l → (u.ctl.timed = true → e.issued + 8 = s.t) → (u.ctl.timed = false → e.rem = 0) →
      let sb := scaleByte c.ty qt.val (image .fp32 { v := e.v, t := e.t })
      let lo := j.val * src.lanes
      let in_ := fun k => lo ≤ k && k < lo + src.lanes && u.gov c (k - lo)
      exec (.vqnt c d a src qt j) s = out in_ (fun k =>
        let r := finalRound c.ty sb (image f ((u.v a).pair src.width (k - lo))) c.mode
        if in_ k then ({ v := r.1, t := 0 }, r.2) else intLane 0)
        [s.lands .v (.qsc j (BitVec.ofNat 8 sb)) 4] (fun u => { u with eng := { u.eng with sb := l } }))

/-- R34, R305, R316, R317, R325: the forms with a latch destination take its youngest entry, which arrives 10, 24 or 40 cycles on, at issue; a reduction holds one value over the
selected lanes, a special function one value a lane, VRNDN the next 64 words of the noise sequence, which nothing fixes. The sticky bits are set at issue + 1. -/
def Obligations.LatchForms : Prop :=
  ∀ (s : State) (c : VCtl) (a : Fin 64), s.clear .v c.sync →
    let u := s.my
    let w := c.ty.width
    let lanes := ((List.range c.ty.lanes).filter (u.gov c)).map (fun k => (u.v a).pair w k)
    let ints := lanes.map (fun p => c.ty.intVal p.v)
    let put := fun (i : Instr) (x : Latch) (size cycles : Nat) (rv : List (Fin 64)) (r : Row × NumBits) =>
      u.vReady s.t 1 rv [] [c.p] [] → (u.latch x).length < size →
        exec i s = .next (s.issued .v c.sync 2
          { eff := numstAt (s.t + 1) .v r.2, unit := fun u => u.setLatch x (u.latch x ++ [{ img := r.1, valid := false, rem := cycles }]) })
    let int := fun (v : Int) => (scalarImg (.ofData (BitVec.ofInt 64 v)), (0 : NumBits))
    let red := fun (i : Instr) (ff : Fmt → Fmt × Pair × NumBits) (fi : Int) => put i .xr 16 10 [a] (match c.ty.fmt? with
      | some f => let r := ff f
                  let t := tailed c r.1 r.2.1
                  (scalarImg (.ofPair t.1), r.2.2 ||| t.2)
      | none => int fi)
    let fn := fun (i : Instr) (g : XNum → XNum × NumBits) =>
      let f := (c.ty.fmt?).getD .fp32
      let r := (List.range c.ty.lanes).map (fun k => if u.gov c k then narrow c f (g (image f ((u.v a).pair w k))) else intLane 0)
      put i .xs 32 24 [a] (Row.ofLanes w (r.map (·.1)), r.foldl (fun a x => a ||| x.2) 0)
    red (.vrsum c a) (fun f => let x := XNum.sum (lanes.map (image f)); (.fp32, (rto x.1 .fp32).1, x.2 ||| (rto x.1 .fp32).2)) (ints.foldl (· + ·) 0) ∧
    red (.vrmax c a) (fun f => (f, extreme f true lanes, 0)) (match ints with | [] => 0 | x :: r => r.foldl max x) ∧
    red (.vrmin c a) (fun f => (f, extreme f false lanes, 0)) (match ints with | [] => 0 | x :: r => r.foldl min x) ∧
    red (.vrmaxa c a) (fun f => (f, extreme f true (lanes.map (absPair f)), 0)) 0 ∧
    fn (.vexp c a) fnExp ∧ fn (.vlog c a) fnLog ∧ fn (.vrcp c a) fnRcp ∧ fn (.vrsq c a) fnRsq ∧ fn (.vsqrt c a) fnSqrt ∧ fn (.vtanh c a) fnTanh ∧
    fn (.vsigm c a) fnSigm ∧ fn (.verf c a) fnErf ∧
    (u.vBusy s.t 1 [] [] [c.p] [] = none → (u.latch .xn).length < 8 → u.noiseReady 64 = true →
      let ws := s.noiseWords u 64
      let r := Row.ofLanes 64 ((List.range 64).map (fun k => { v := if u.gov c k then (ws.getD k 0).toNat else 0, t := 0 }))
      ∃ t, exec (.vrndn c) s = .next t ∧ t.units = (s.issued .v c.sync 2 { unit := fun u =>
        ((u.setLatch .xn (u.latch .xn ++ [{ img := r, valid := false, rem := 40 }])).drawNoise 64).noteDraw { at_ := s.t, first := s.my.eng.drawn, words := ws, sel := s.my.p c.p } }).units)

/-! ## S -/

/-- R235 to R237, R265 to R267: a store of S whose record, addresses, conditions and blocks raise nothing issues. VST, VSTS and VSTC store the elements of the record
that the predicate selects, rounded to the stored type, from the lane of the element's number, from lane 0, or from the selected lanes in order, and the post-increment;
STH stores headers alone. -/
def Obligations.Stores : Prop :=
  ∀ (s : State) (h : Hdr) (m : SMem) (ax : Fin 8) (pi : Bool) (y fmt sc : Fin 256), s.clear .s h.sync →
    let u := s.my
    let l := u.ly m.y
    let addr := u.memAddr true m.ax m.pi m.disp
    let own := l.rowAddr addr
    let t := l.tile l.rows own
    let row := u.v m.v
    let hd : Head := { fmt := BitVec.ofNat 8 m.ty.blockCode, scl := if m.ty.isI then 0x7F else BitVec.ofNat 8 m.s.val }
    let stores := fun (i : Instr) (sel : LaneOf) =>
      let els := (l.stored sel (u.p m.p)).map (fun e => (e.1, e.2.1, storeCode l.ltype m.ty m.s.val m.mode (row.pair l.ltype.width e.2.2)))
      let ws := storeWrites l.w l.perBlk t.addrs (els.map (fun e => (e.1, e.2.1, e.2.2.1))) hd
      let flags := els.foldl (fun a e => a ||| e.2.2.2) 0
      let go := s.store u s.me .s s.t t.window t.spans ws flags
      l.fieldBad = false → l.elems ≤ l.ltype.lanes → l.checkRows l.rows own [0, 2, 3] = none → m.ty.width = l.w → storePair l.ltype m.ty = true → u.portFree (.tileR 0) s.t 1 = true →
      u.rowsClear s.t (u.vRows [m.v]) = true → go.free →
        exec i s = .next (s.issuedWith .s h.sync 2 { go with eff := go.eff ++ u.postInc .s true m.ax m.pi m.disp s.t
                                                             unit := fun u => (go.unit u).takePort (.tileR 0) s.t 1 }) ∧
        (∀ k, winMem t.window = some k → go.sig = 1 + occOf k t.spans ∧
          go.eff = s.lands .s (.blocks k (ws.map (fun x => (blkOf x.1, x.2)))) (1 + occOf k t.spans) :: numstAt (s.t + ((1 + occOf k t.spans : Nat) : Int)) .s flags)
    let k := u.ly y
    let hat := k.rowAddr (u.memAddr true ax pi 0)
    let ht := k.tile k.rows hat
    let hw : BlkWrite := { mask := 0, data := 0, hd := some { fmt := BitVec.ofNat 8 fmt.val, scl := BitVec.ofNat 8 sc.val }, need := none }
    stores (.vst h m) .own ∧ stores (.vsts h m) .first ∧ stores (.vstc h m) .packed ∧
    (k.fieldBad = false → k.blks ≤ 256 → k.checkRows k.rows hat [0, 2, 3] = none →
      (∀ x, winMem ht.window = some x → s.accessHeld u s.t = false → u.portFree (writePort x) (s.t + 1) 1 = true →
        exec (.sth h ax pi y fmt sc) s = .next (s.issued .s h.sync 2
          { eff := s.lands .s (.blocks x (ht.addrs.map (fun a => (blkOf a, hw)))) 2 :: u.postInc .s true ax pi 0 s.t
            unit := fun u => (u.takePort (writePort x) (s.t + 1) 1).track .s s.t (s.t + 2) false
            sig := 2 })) ∧
      (let go := s.farStore u s.me .s s.t (ht.addrs.map (fun a => (a, hw))) 0
       winMem ht.window = none → go.free →
         exec (.sth h ax pi y fmt sc) s = .next (s.issuedWith .s h.sync 2 { go with eff := go.eff ++ u.postInc .s true ax pi 0 s.t })))

/-- R268: a SUPD form whose record, addresses, ports and blocks raise nothing issues; the rate is the FP32 pair of S[a], the decay of SUPD.MOM the upper half of its data, and its
weight tile, and SUPD.MOM's momentum tile, is written f × occ + 2 cycles on, f being 2, and 4 for SUPD.MOM. That a block is read on the first of the f cycles that stand for its port
cycle in a plain load, from issue + 1 on, is the model's choice (log entry 47). -/
def Obligations.WeightUpdates : Prop :=
  ∀ (s : State) (h : Hdr) (m : UMem) (b : Fin 64), s.clear .s h.sync → s.my.portFree (.tileR 0) s.t 1 = true → s.accessHeld s.my s.t = false → s.my.ord.pblks = [] →
    let u := s.my
    let l := u.ly m.y
    let own := l.rowAddr (u.memAddr true m.ax m.pi m.disp)
    let mown := l.rowAddr (if m.pi then u.sd b else lea (u.sd b) (BitVec.ofInt 64 (64 * m.disp)))
    let t := l.tile l.rows own
    let q := l.tile l.rows mown
    let ok := fun (x : Mem) (t : Tile) (n : Nat) => winMem t.window = some x ∧ u.portFree (readPort x) (s.t + 1) n = true ∧ u.portFree (writePort x) (s.t + 1) n = true ∧
      (∀ a ∈ t.read, supdFault l.w ((s.mem s.me x).head (blkOf a)) a = none)
    let runs := fun (i : Instr) (wm mm : Mem) (f wocc mocc : Nat) (beta : Option XNum) =>
      let wn := f * wocc
      let mn := f * mocc
      let reads := fun (m : Mem) (t : Tile) (occ : Nat) =>
        (t.addrs.zip (portCycles m occ t.addrs)).map (fun x => (blkOf x.1, (s.mem s.me m).head (blkOf x.1), s.t + 1 + ((f * x.2 : Nat) : Int)))
      ∃ (o : SupdOp) (st : State), exec i s = .next st ∧ (st.unit s.me).pend = u.pend ++ s.lands .s (.supd o) 1 :: u.postInc .s true m.ax m.pi m.disp s.t ∧
        o.mode = m.mode ∧ o.w = l.w ∧ o.lr = image .fp32 ((u.s m.a).pair .fp32) ∧ o.beta = beta ∧ o.wm = wm ∧ o.wdue = s.t + ((2 + wn : Nat) : Int) ∧
        o.wb = reads wm t wocc ∧ o.wgot = [] ∧ (beta.isSome = true → o.mm = mm ∧ o.mb = reads mm q mocc ∧ o.mgot = [] ∧ o.mdue = s.t + ((2 + mn : Nat) : Int)) ∧ (st.unit s.me).regs = u.regs ∧ st.mems = s.mems
    l.fieldBad = false → (l.ltype.isF || l.ltype.isI) = true → l.elems ≤ l.ltype.lanes → l.checkRows l.rows own [1, 2, 3] = none →
    (∀ wm, ok wm t (2 * occOf wm t.spans) → runs (.supdSgd h m) wm wm 2 (occOf wm t.spans) 0 none) ∧
    (∀ wm mm, l.checkRows l.rows mown [1, 2, 3] = none → ok wm t (4 * occOf wm t.spans) → ok mm q (4 * occOf mm q.spans) →
      runs (.supdMom h m b) wm mm 4 (occOf wm t.spans) (occOf mm q.spans) (some (elemVal .fp32 ((u.sd m.a).toNat / 2 ^ 32))))

/-- R116, R270 to R274, R335, R336: SIG, AMO and CAS, BARDEF and BARARV whose target, address and conditions raise nothing, and whose address the unit's map translates at once where it
is the unit that translates it, issue as an operation on the word that the address names: with the operands that the registers hold, an entry of AMF where the old value is asked for, the unit's earlier writes done for an operation that releases, and EPOCH advanced at
issue + 1 for one that synchronises. A target word that names the job's own package by its number is the one with package 0 (R408). BARDEF takes or frees a barrier slot at issue (log entry 48); BARARV marks its slot as arrived; BARWT issues once the release has come, and clears it. -/
def Obligations.WordsAndBarriers : Prop :=
  ∀ (s : State) (h : Hdr) (o : At) (sop : SigOp) (aop : AmoOp) (old : Bool) (a : Fin 64) (ax : Fin 8) (scope : Scope), s.clear .s h.sync →
    let u := s.my
    let sync := o.ord = .sc
    let tgt := s.homeWord s.me (u.sd o.a)
    let base := s.accessHeld u s.t = false
    let word := fun (i : Instr) (op : AtomOp) (old : Bool) =>
      base → (Fin.ofNat 512 tgt.toNat = s.me → bits tgt.toNat 28 9 = 0 → u.mapped [u.regs.as[o.ax]] = true) → s.atomFault s.me u tgt u.regs.as[o.ax] (Size.bytes o.size) = none → (old = true → u.fifoFull .amf = false) →
      (o.ord = .rel ∨ sync → u.writesDone o.scope s.t none = true) → (sync → s.syncMiss s.me u s.t = none ∧ s.syncFault s.me u s.t = none) →
        ∃ (x : Atomic) (t : State), exec i s = .next t ∧ x ∈ t.work.atoms ∧ x.id = s.nextId + 1 ∧ x.op = op ∧ x.size = o.size ∧ x.old = old ∧ x.addr = u.regs.as[o.ax] ∧
          x.target = Fin.ofNat 512 tgt.toNat ∧ x.pkg = tgt.toNat / 2 ^ 9 % 2 ^ 20 ∧ (t.unit s.me).pend = u.pend ++ (if sync then [syncEff .s s.t] else []) ∧
          (t.unit s.me).eng.amf = (if old then u.eng.amf ++ [{ id := s.nextId + 1, word := none }] else u.eng.amf) ∧ (t.unit s.me).regs = u.regs ∧ t.mems = s.mems
    let addr := u.regs.as[ax]
    let slots := fun (t : State) (l : List BarSlot) => (t.unit s.me).ord.slots = l ∧ (t.unit s.me).regs = u.regs ∧ t.mems = s.mems
    let n := (u.sd a).toNat
    let sent := fun (t : State) (op : AtomOp) => ∃ x ∈ t.work.atoms, x.id = s.nextId + 1 ∧ x.op = op ∧ x.size = .b64 ∧ x.old = false ∧ x.addr = addr ∧ x.target = s.me ∧ x.pkg = 0 ∧
      x.who.col = s.me ∧ x.launch = (s.slot s.me).launch ∧ x.done = false
    let mark := fun (arrived : Bool) => u.ord.slots.map (fun b => if b.va == addr.toNat then { b with arrived := arrived, joined := false, released := false } else b)
    word (.sig h o sop) (.sig sop (u.sd o.b)) false ∧ word (.amo h o aop old) (.amo aop (u.sd o.b)) old ∧
    word (.cas h o old) (.cas (u.sd o.b) (u.sd (Fin.ofNat 64 (o.b.val + 1)))) old ∧
    (∀ p, base → u.mapped [addr] = true → s.barPlace u addr = .ok p → n ≤ 65535 → (n ≠ 0 → u.barSlot addr = none → u.ord.slots.length < 4) →
      ∃ t, exec (.bardef h a ax scope) s = .next t ∧ sent t (.barDef n) ∧ slots t (if n = 0 then u.ord.slots.filter (fun b => b.va != addr.toNat)
        else if (u.barSlot addr).isSome then u.ord.slots
        else u.ord.slots ++ [{ va := addr.toNat, owner := p.col, pa := p.pa, gen := 0, arrived := false, joined := false, released := false }])) ∧
    (∀ p b, base → u.mapped [addr] = true → s.barPlace u addr = .ok p → u.barSlot addr = some b → b.arrived = false → u.writesDone scope s.t none = true → s.syncMiss s.me u s.t = none →
      s.syncFault s.me u s.t = none →
      ∃ t, exec (.bararv h ax scope) s = .next t ∧ sent t .barArv ∧ slots t (mark true) ∧ (t.unit s.me).pend = u.pend ++ [syncEff .s s.t]) ∧
    (∀ p b, u.mapped [addr] = true → s.barPlace u addr = .ok p → u.barSlot addr = some b → b.arrived = true → b.released = true → s.syncMiss s.me u s.t = none → s.syncFault s.me u s.t = none →
      ∃ t, exec (.barwt h ax scope) s = .next t ∧ slots t (mark false) ∧ (t.unit s.me).pend = u.pend ++ [syncEff .s s.t])

/-- R256, R261, R276, R277: PUSH gives the engine of its FIFO the command that the register's first 32 bytes hold, as the instruction of that operation would; COLL joins the
collective of its handle. Either reserves an entry of the FIFO. -/
def Obligations.FifoPushes : Prop :=
  ∀ (s : State) (h : Hdr) (v a b : Fin 64) (y : Fin 256) (op : CollOp), s.clear .s h.sync →
    let u := s.my
    let n := (u.v v).data.toNat
    let field := fun (lo w : Nat) => n / 2 ^ lo % 2 ^ w
    let word := fun (lo : Nat) => BitVec.ofNat 64 (field lo 64)
    let row := fun (g : Attempt) => { g with unit := fun u => (g.unit u).takePort (.tileR 0) s.t 1 }
    let copy := s.pushCopy s.me u .s s.t { op := Fin.ofNat 5 (field 56 8), ys := Fin.ofNat 256 (field 48 8), yd := Fin.ofNat 256 (field 40 8),
                                           src := word 192, dst := word 128
                                           tgt := if field 56 8 = 3 ∨ field 56 8 = 4 then s.homeWord s.me (word 64) else word 64 }
    let joins := fun (i : Instr) (q : CollCmd) (push : Bool) (f : Attempt → Attempt) =>
      let g := s.pushColl s.me u s.t q push
      g.free → exec i s = .next (s.issuedWith .s h.sync 2 (f g)) ∧ u.eng.clf.length < 16 ∧ g.eff = [] ∧
        (g.unit u).eng.clf = u.eng.clf ++ [{ id := s.nextId + 1, word := none }] ∧ (g.unit u).eng.xcoll = u.eng.xcoll + 1 ∧ (g.unit u).regs = u.regs
    joins (.coll h op a y b) { op := op, addr := u.sd b, hand := u.sd a, y := y } false id ∧
    (u.portFree (.tileR 0) s.t 1 = true → u.rowsClear s.t (u.vRows [v]) = true → field 56 8 < 5 → field 0 40 = 0 → copy.free →
      exec (.push h v .cpf) s = .next (s.issuedWith .s h.sync 2 (row copy))) ∧
    (u.portFree (.tileR 0) s.t 1 = true → u.rowsClear s.t (u.vRows [v]) = true → CollOp.ofCode (field 56 8) = some op → field 64 64 = 0 → field 0 48 = 0 →
      joins (.push h v .clf) { op := op, addr := word 192, hand := word 128, y := Fin.ofNat 256 (field 48 8) } true row)

/-! ## Shared: encodings, the step, memory, landing -/

/-- R138 to R161: a few instructions by the words that the encoding tables give them, bit by bit. -/
def Obligations.EncodedWords : Prop :=
  let h : Hdr := { sync := 0, idle := 0 }
  decode .k [0x10805142] = .ok (.addi { sync := 1, idle := 0 } 5 5 2) ∧
  decode .k [0x009C3FFF, 0x0FFFFFFF] = .ok (.li h 3 (-1)) ∧
  decode .k [0x01A90002] = .ok (.fence h .rel .pkg) ∧
  decode .d [0x8015310A] = .ok (.win { sync := 8, idle := 0 } .mig 3 4 10) ∧
  decode .l [0x80047509, 0x103FFFFD] = .ok (.vld { sync := 9, idle := 0 } 7 { ax := 2, pi := true, y := 9, disp := -3 }) ∧
  decode .m [0x00161000, 0x00000000, 0x00000064] = .ok (.mzero { sync := 0, stamp := 100 } 2 .m16 1) ∧
  decode .v [0x00051010, 0x08000000] = .ok (.vadd { sync := 0, idle := 0, ty := .fp32, p := 0, mode := .rne, tm := .keep } 17 0 16 false) ∧
  decode .s [0x00101518, 0x00000000] = .ok (.vwr h 1 5 3 0 false 0)

/-- R138 to R160: every well-formed instruction of a stream is what the stream's decoder reads from its own words. -/
def Obligations.DecodeEncode : Prop := ∀ (i : Instr), i.wf = true → encode i ≠ [] → ∃ x : Stream, decode x (encode i) = .ok i

/-- R142: the decoder answers only well-formed instructions: a word of any stream that breaks a field's range is refused by the name of its fault. -/
def Obligations.DecodedIsWellFormed : Prop := ∀ (x : Stream) (ws : List Nat) (i : Instr), decode x ws = .ok i → i.wf = true

/-- R6, R140, R141: what a fetch finds, outside the reach of an ILOAD: the words at the program counter, each little-endian, as many as its first one asks for, where the program
counter is a multiple of 4 and all of them lie in the stream's section; otherwise nothing. -/
def Obligations.Fetches : Prop :=
  ∀ (s : State) (c : Col) (x : Stream),
    let u := s.unit c
    let pc := (u.strm x).pc.toNat
    let r := u.section x
    let at_ := fun (i : Nat) => let b := fun (j : Nat) => ((s.mem c .store).byte (pc + 4 * i + j)).toNat
                                b 0 + 256 * (b 1 + 256 * (b 2 + 256 * b 3))
    let n := wordCount x (at_ 0 / 2 ^ 18 % 2 ^ 7)
    u.ord.stale.contains x = false →
      s.fetch c x = if pc % 4 = 0 ∧ r.1 ≤ pc ∧ pc + 4 ≤ r.2 ∧ pc + 4 * n ≤ r.2 then some ((List.range n).map at_) else none

/-- R23, R24, R27, R143: at the turn of a stream that may issue, whose words decode to i, step is exec of i once the computed cycle has come, with that cycle noted; before it, nothing
happens; an event at the head of the agenda is executed with its operands. -/
def Obligations.StepRunsTheDecodedInstruction : Prop :=
  ∀ (s : State) (c : Col) (x : Stream) (n : Nat) (r : List Task) (l : List Nat) (i : Instr) (e : Ev),
    let s0 := { s with agenda := r, cur := { col := c, stream := x, turn := n } }
    let t := (s0.unit c).strm x
    let due := t.due.getD (max (s0.now c) (s0.computed c x l))
    (s.agenda = .issue c x n :: r → s0.active c x = true → s0.fetch c x = some l → due ≤ s0.now c → decode x l = .ok i →
      (s0.unit c).ctl.timed = true ∨ s0.now c ≤ due + ((s0.unit c).ctl.limit.toNat : Int) →
        step s = exec i { s0 with units := s0.units.set c ((s0.unit c).onStrm x (fun t => { t with due := some due })) }) ∧
    (s.agenda = .issue c x n :: r → s0.active c x = true → s0.fetch c x = some l → s0.now c < due → step s = .next s0) ∧
    (s.agenda = .event e :: r → step s = exec e.instr { s with agenda := r, ev := e })

/-- R20, R26 to R28: an attempt of any instruction of any stream whose tokens are not there, or whose signalled counter is full with no other stream of its column left to take its
turn, raises SCHED_MISS of that kind in timed mode, and in loose mode waits, with nothing changed; where the counter is full and others have their turn, it takes a later turn. Full counters
that streams fill and drain in a ring are log entry 70. For the instructions of the list the same is said of exec. -/
def Obligations.UnmetTokens : Prop :=
  (∀ (s : State) (x : Stream) (sync : Fin 16) (len : Nat) (f : State → Col → UnitSt → Int → Attempt) (m : Miss),
    (f s s.me s.my s.t).illegal = none → (f s s.me s.my s.t).priv = false → (x = .k → s.my.frm.insv = true → sync = 0) → s.my.tokenMiss x sync s.t = some m →
      (m = .token ∨ (s.others s.me = false ∧ s.together s.me s.my x sync s.t = false) →
        done (issueAs x sync len f) s = .next (if s.my.ctl.timed then perform (takeFault s.me x (schedMiss m)) s else s)) ∧
      (m = .tokfull → s.others s.me = true → s.cur.turn < 6 → done (issueAs x sync len f) s = .next (perform (secondTurn s.me x) s))) ∧
  (∀ (s : State) (h : Hdr) (k : MHdr) (c : VCtl) (x : Stream) (m : Miss) (a b d : Fin 64) (n : Fin 262144) (q : Fin 16) (t : Fin 4),
    ∀ i ∈ [(Stream.k, h.sync, Instr.add h d a b), (.k, h.sync, .jmp h 0), (.k, h.sync, .idleK h n), (.d, h.sync, .pre h q), (.d, h.sync, .idleD h n), (.l, h.sync, .qcw h q a),
        (.l, h.sync, .pop h d .cpf), (.m, k.sync, .mmov k t t a b 1), (.v, c.sync, .vadd c d a b false), (.v, c.sync, .vxf c d .xs), (.s, h.sync, .vwr h a q 0 0 false 0), (.s, h.sync, .idleS h n)],
      (i.1 = .k → s.my.frm.insv = true → i.2.1 = 0) → i.1 = x → s.my.tokenMiss x i.2.1 s.t = some m →
      m = .token ∨ (s.others s.me = false ∧ s.together s.me s.my x i.2.1 s.t = false) →
        exec i.2.2 s = .next (if s.my.ctl.timed then perform (takeFault s.me x (schedMiss m)) s else s))

/-- R15, R18, R23: the frame of an instruction whose effect is on its unit alone, in the words of `issued`: the effects pending, the tokens consumed and sent, its own stream past it, what
its description gives the unit; every other unit, every memory, vault and slot, and the rest of the machine are as they were. -/
def Obligations.IssueChangesOnlyItsUnit : Prop :=
  ∀ (s : State) (x : Stream) (sync : Fin 16) (len : Nat) (a : Attempt),
    let t := s.issued x sync len a
    let u := s.my
    let v := t.unit s.me
    (∃ w, t = { s with units := s.units.set s.me w }) ∧ (∀ c, c ≠ s.me → t.unit c = s.unit c) ∧
    (a.unit = id →
      v.regs = u.regs ∧ v.eng = u.eng ∧ v.maps = u.maps ∧ v.frm = u.frm ∧ v.pend = u.pend ++ a.eff ∧
      v.ctl = { u.ctl with strms := v.ctl.strms } ∧ (∀ y, y ≠ x → v.strm y = u.strm y) ∧
      v.strm x = { u.strm x with pc := a.pc.getD ((u.strm x).pc + BitVec.ofNat 64 (4 * len)), last := s.t, due := none } ∧
      v.ord.tok = (waits x sync).foldl tokSub u.ord.tok ∧
      v.ord.fly = u.ord.fly ++ (signals x sync).map (fun i => { ix := i, rem := a.sig, tag := a.tag, held := a.held }) ∧
      v.ord.outst = u.ord.outst ∧ v.ord.slots = u.ord.slots ∧ v.ord.epoch = u.ord.epoch)

/-- R29, R65, R68, R69, R71, R89, R183, R201, R247, R248, R250 to R252, R300: what a write does to the unit's registers when it takes effect: S0 stays zero and a write to it is discarded; a
scalar register takes data and tail; a row and a predicate take the bits that the write selects; sticky bits are set, and cleared by a write of ones; everything else stays. What a load that
an instruction has left on its port cycles writes: each block is taken on its cycle with the header that it had at issue; headers and slots take it as it stands, header and all. After the
last one the load leaves pending, on its written cycle: for LDS.F the narrowed value of the element under its block's header, a poisoned one as the canonical NaN with POIS; for LDS.I the
element extended by its block's format, tail 0b00; for a register load the lanes of the tile's elements, clipped ones with tail 0b00 and lanes beyond them zero, row 0 over every lane for a
splat, a lane being narrowed, extended or copied as its type and the block's format say; for LDH the header bytes; for QLD the blocks; for LREC the record. -/
def Obligations.WritesTakeEffect : Prop :=
  (∀ (u : UnitSt) (d : Fin 64) (v : SVal) (ix : Fin 256) (dm : BitVec 4096) (tm : BitVec 1024) (r : Row) (p : Fin 16) (m b : BitVec 1024) (f : NumBits),
     let rest := fun (w : UnitSt) => w.ctl = u.ctl ∧ w.frm = u.frm ∧ w.eng = u.eng ∧ w.maps = u.maps ∧ w.ord = u.ord ∧ w.pend = u.pend
     (let w := u.applyEff (.sreg d v)
      (w.s 0).data = 0 ∧ (w.s 0).tail = 0 ∧ (d ≠ 0 → w.s d = v) ∧ (∀ k, k ≠ d → w.s k = u.s k) ∧ w.regs = { u.regs with s := w.regs.s } ∧ rest w) ∧
     (let w := u.applyEff (.row ix dm tm r)
      w.regs.tiles[ix] = { data := (u.regs.tiles[ix].data &&& ~~~dm) ||| (r.data &&& dm), tail := (u.regs.tiles[ix].tail &&& ~~~tm) ||| (r.tail &&& tm) } ∧
      (∀ j, j ≠ ix → w.regs.tiles[j] = u.regs.tiles[j]) ∧ w.regs = { u.regs with tiles := w.regs.tiles } ∧ rest w) ∧
     (let w := u.applyEff (.pred p m b)
      w.regs.p[p] = (u.regs.p[p] &&& ~~~m) ||| (b &&& m) ∧ (∀ j, j ≠ p → w.regs.p[j] = u.regs.p[j]) ∧ w.regs = { u.regs with p := w.regs.p } ∧ rest w) ∧
     (let w := u.applyEff (.numst f)
      w.regs = { u.regs with numst := u.regs.numst ||| f } ∧ rest w) ∧
     (let w := u.applyEff (.numstClear f)
      w.regs = { u.regs with numst := u.regs.numst &&& ~~~f } ∧ rest w)) ∧
  ((∀ (s : State) (c : Col) (x : Stream) (m : Mem) (left : List (Nat × Head × Int)) (got : List Blk) (dst : LoadDst) (due : Int),
     let u := s.unit c
     let land := perform (landEff c { at_ := s.now c, stream := x, eff := .capture m left got dst due }) s
     let put := fun (l : List Pend) => { s with units := s.units.set c { u with pend := u.pend ++ l } }
     let whole := (∃ r w, dst = .heads r w) ∨ ∃ o w, dst = .slot o w
     let at_ := fun (y : Nat × Head × Int) => ({ hd := y.2.1, pay := ((s.mem c m).blk y.1).pay } : Blk)
     ((∀ y ∈ left, y.2.2 ≤ s.now c) → (whole → land = put (dst.pend (dst.clip (got ++ left.map (fun y => (s.mem c m).blk y.1))) x due)) ∧
       (¬ whole → land = put (dst.pend (dst.clip (got ++ left.map at_)) x due))) ∧
     (∀ y z l, left = y :: z :: l → y.2.2 ≤ s.now c → s.now c < z.2.2 → ¬ whole →
       land = put [{ at_ := z.2.2, stream := x, eff := .capture m (z :: l) (got ++ [at_ y]) dst due }])) ∧
   (∀ (x : Stream) (due : Int) (d : Fin 64) (f : Fmt) (t : ITy) (ix : Nat) (b : Blk) (ty : VTy), tyOfCode b.hd.fmt.toNat = some ty →
     let code := fun (w : Nat) => b.pay.toNat / 2 ^ (w * ix) % 2 ^ w
     let out := fun (v : SVal) (m : NumBits) => ({ at_ := due, stream := x, eff := .sreg d v } : Pend) :: numstAt due x m
     let w := 8 * 2 ^ (t.code / 2)
     (b.hd.scl = 0xFF → (LoadDst.sF d f ix).pend [b] x due = out (.ofPair (nanPair .fp32)) nPois) ∧
     (∀ g, b.hd.scl ≠ 0xFF → ty.fmt? = some g →
       let r := rto ((image g { v := code f.width, t := 0 }).scale ((b.hd.scl.toNat : Int) - 127)) .fp32
       (LoadDst.sF d f ix).pend [b] x due = out (.ofPair r.1) r.2) ∧
     (ty.width = w → (LoadDst.sI d t ix).pend [b] x due = out { data := if ty.unsignedTy then BitVec.ofNat 64 (code w) else BitVec.ofInt 64 (sInt w (code w)), tail := 0 } 0)) ∧
   (∀ (x : Stream) (due : Int) (r : Fin 64) (rec : BitVec 512) (splat : Bool) (bs : List Blk),
     let l := layoutOf rec
     let w := l.ltype.width
     let n := if splat then l.ltype.lanes else l.elems
     let rc := fun (k : Nat) => if splat then (0, k % l.cols) else l.elemAt k
     let b := fun (k : Nat) => bs.getD ((rc k).1 * l.rowBlks + (rc k).2 / l.perBlk) .clear
     let v := fun (k : Nat) => laneValue l.ltype (b k).hd (elemCode l.w (b k).pay ((rc k).2 % l.perBlk))
     n ≤ l.ltype.lanes → ∃ row : Row, (LoadDst.vec r rec splat).pend bs x due =
         { at_ := due, stream := x, eff := .row (vRow r) allData allTail row } :: numstAt due x ((List.range n).foldl (fun a k => a ||| (v k).2) 0) ∧
       (∀ k, k < n → row.pair w k = { v := (v k).1.v % 2 ^ w, t := if w < 8 ∨ l.clipped (rc k).1 (rc k).2 = true then 0 else (v k).1.t % 4 }) ∧
       (∀ k, n ≤ k → k < l.ltype.lanes → row.pair w k = { v := 0, t := 0 })) ∧
   (∀ (lane ty : VTy) (h : Head) (code : Nat), tyOfCode h.fmt.toNat = some ty →
     let scale := (h.scl.toNat : Int) - 127
     (∀ f, lane.fmt? = some f →
       (h.scl = 0xFF → laneValue lane h code = (nanPair f, nPois)) ∧
       (h.scl ≠ 0xFF → (∀ g, ty.fmt? = some g → laneValue lane h code = rto ((image g { v := code, t := 0 }).scale scale) f) ∧
         (ty.isX = true → laneValue lane h code = rto ((XNum.ofInt (sInt ty.width code)).scale scale) f) ∧
         (ty.isI = true → laneValue lane h code = rto (XNum.ofInt (ty.intVal code)) f))) ∧
     (lane.isI = true → laneValue lane h code = ({ v := wrap lane.width (ty.intVal code), t := 0 }, 0)) ∧
     (lane.isX = true ∨ lane.isQ = true → laneValue lane h code = ({ v := code, t := 0 }, 0))) ∧
   (∀ (x : Stream) (due : Int) (r : Fin 64) (rec : BitVec 512) (y : Fin 256) (off : Nat) (b : Blk) (bs : List Blk), bs.length ≤ 256 →
     (∃ row : Row, (LoadDst.heads r rec).pend bs x due = [{ at_ := due, stream := x, eff := .row (vRow r) allData allTail row }] ∧
       ∀ k b, bs[k]? = some b → row.pair 16 k = { v := b.hd.fmt.toNat + 256 * b.hd.scl.toNat, t := 0 }) ∧
     (LoadDst.lrec y).pend (b :: bs) x due = [{ at_ := due, stream := x, eff := .lrec y b.pay }] ∧
     ∃ ws, (LoadDst.slot off rec).pend bs x due = [{ at_ := due, stream := x, eff := .blocks .sp ws }] ∧ ws.length = bs.length ∧
       ∀ k b, bs[k]? = some b → ws[k]? = some (off / 64 + k, b.whole)))

/-- R30: of two streams' writes to one register, or to one row, that become effective in the same cycle, that of the stream later in the order K, D, L, M, V, S prevails, whichever was
issued first, in either mode. -/
def Obligations.LaterStreamPrevails : Prop :=
  ∀ (s : State) (c : Col) (x y : Stream) (e f : Eff), Stream.ix x < Stream.ix y →
    (∃ sel v w, e = .spec sel v ∧ f = .spec sel w) ∨ (∃ d v w, e = .sreg d v ∧ f = .sreg d w) ∨ (∃ ix dm tm v dn tn w, e = .row ix dm tm v ∧ f = .row ix dn tn w) →
    let a : Pend := { at_ := s.now c, stream := x, eff := e }
    let b : Pend := { at_ := s.now c, stream := y, eff := f }
    (s.unit c).pend = [a, b] ∨ (s.unit c).pend = [b, a] →
      (perform (Act.seq (landFirst c) (landLast c)) s).unit c = (({ s.unit c with pend := [] } : UnitSt).applyEff e).applyEff f

/-- R6, R63, R66, R237, R341 to R344: a block write to a memory in canonical form changes the bits of its block that the mask selects, and its header where it gives one; every other byte and
header reads as before, and the form is kept. The race detector: an access recorded with a column and an epoch is ordered towards a unit if it is the unit's own, or if the unit's frontier
for that column is ahead of the epoch, modulo 2^32. A read, or a write, that is not ordered after the recorded writer is a race, WR or WW; a write is one, RW, towards a recorded reader that
is not ordered, and, BROAD, of a broad block by a unit whose latest synchronising position is not later than STAMP; the first of these decides, with the column and epoch of the other party.
Any other read is recorded in its own slot, a free one, or by making the block broad, and any other write leaves its own record alone. So, of two accesses with a write among them, the second
races exactly where the first is not ordered towards it. A write that races is not performed: memories and shadow words stay. -/
def Obligations.BlockWrites : Prop :=
  (∀ (m : Memory) (b : Nat) (w : BlkWrite), m.wf = true →
     let m' := m.write b w
     m'.wf = true ∧
     (∀ i, i < 64 → m'.byte (64 * b + i) = (m.byte (64 * b + i) &&& ~~~(payByte w.mask i)) ||| (payByte w.data i &&& payByte w.mask i)) ∧
     (∀ a, a < 64 * b ∨ 64 * b + 64 ≤ a → m'.byte a = m.byte a) ∧
     m'.head b = w.hd.getD (m.head b) ∧ (∀ k, k ≠ b → m'.head k = m.head k)) ∧
  ((∀ (s : State) (w : Who) (pos : Int) (sh : BitVec 128),
     let get := fun (x : BitVec 128) (hi lo : Nat) => x.toNat / 2 ^ lo % 2 ^ (hi + 1 - lo)
     let e := w.epoch.toNat % 2 ^ 32
     let c := w.col.val
     let ord := fun (hi lo ehi elo : Nat) => s.ordered w (get sh hi lo) (get sh ehi elo) = true
     let other := fun (hi lo ehi elo : Nat) => BitVec.ofNat 64 (get sh hi lo * 2 ^ 32 + get sh ehi elo)
     let after := get sh 84 84 = 1 → ord 125 117 116 85
     let broad := get sh 127 126 = 1
     let stamp := sInt 64 (get sh 63 0)
     let slotA := fun (x : BitVec 128) => (get x 83 83, get x 82 74, get x 73 42)
     let slotB := fun (x : BitVec 128) => (get x 41 41, get x 40 32, get x 31 0)
     let inA := get sh 83 83 = 1
     let inB := get sh 41 41 = 1
     let mineA := inA ∧ get sh 82 74 = c
     let mineB := inB ∧ get sh 40 32 = c
     let safeA := inA → ord 82 74 73 42
     let safeB := inB → ord 40 32 31 0
     (∀ k n, s.ordered w k n = true ↔ k = c ∨
       (1 ≤ (s.frontierAt w (Fin.ofNat 512 k) + 2 ^ 32 - n) % 2 ^ 32 ∧ (s.frontierAt w (Fin.ofNat 512 k) + 2 ^ 32 - n) % 2 ^ 32 < 2 ^ 31)) ∧
     (¬ after → s.shadow w false pos sh = .error (1, other 125 117 116 85) ∧ s.shadow w true pos sh = .error (2, other 125 117 116 85)) ∧
     (after → ∃ m, s.shadow w false pos sh = .ok m ∧ get m 125 84 = get sh 125 84 ∧
       (broad → get m 127 126 = 1 ∧ get m 63 0 = wrap 64 (max stamp pos)) ∧
       (¬ broad → mineA → get m 127 126 = get sh 127 126 ∧ slotA m = (1, c, e) ∧ slotB m = slotB sh) ∧
       (¬ broad → ¬ mineA → mineB → get m 127 126 = get sh 127 126 ∧ slotB m = (1, c, e) ∧ slotA m = slotA sh) ∧
       (¬ broad → ¬ mineB → ¬ inA → get m 127 126 = get sh 127 126 ∧ slotA m = (1, c, e) ∧ slotB m = slotB sh) ∧
       (¬ broad → ¬ mineA → inA → ¬ inB → get m 127 126 = get sh 127 126 ∧ slotB m = (1, c, e) ∧ slotA m = slotA sh) ∧
       (¬ broad → ¬ mineA → ¬ mineB → inA → inB → get m 127 126 = 1 ∧ get m 63 0 = wrap 64 pos)) ∧
     (after → broad → w.scpos ≤ stamp → s.shadow w true pos sh = .error (4, BitVec.ofNat 64 (get sh 63 0))) ∧
     (after → ¬ broad → ¬ safeA → s.shadow w true pos sh = .error (3, other 82 74 73 42)) ∧
     (after → ¬ broad → safeA → ¬ safeB → s.shadow w true pos sh = .error (3, other 40 32 31 0)) ∧
     (after → (broad → stamp < w.scpos) → (¬ broad → safeA ∧ safeB) →
       ∃ m, s.shadow w true pos sh = .ok m ∧ get m 127 126 = 0 ∧ get m 125 117 = c ∧ get m 116 85 = e ∧ get m 84 84 = 1 ∧ get m 83 0 = 0)) ∧
   (∀ (s : State) (w v : Who) (p q : Int) (sh m : BitVec 128),
     let ordered := s.ordered v w.col.val (w.epoch.toNat % 2 ^ 32) = true
     (s.shadow w true p sh = .ok m → (ordered → (∃ n, s.shadow v false q m = .ok n) ∧ ∃ n, s.shadow v true q m = .ok n) ∧
       (¬ ordered → (∃ o, s.shadow v false q m = .error (1, o)) ∧ ∃ o, s.shadow v true q m = .error (2, o))) ∧
     (s.shadow w false p 0 = .ok m → (ordered → ∃ n, s.shadow v true q m = .ok n) ∧ (¬ ordered → ∃ o, s.shadow v true q m = .error (3, o)))) ∧
   (∀ (s : State) (o : Col) (r : Req) (x : BlkWrite) (k : Nat) (d : Dword),
     let v := s.vault o
     let t := perform (performWrite o r x) s
     let same := t.mems = s.mems ∧ t.vaults = s.vaults ∧ t.ext = s.ext
     (v.isLive (r.pa / 64) = true → s.writeFault o r x = .error (flt .barrier 6 r.va) ∧ same) ∧
     (v.isLive (r.pa / 64) = false → r.sh = true → s.shadow r.who true (s.now o) (v.shadowOf (r.pa / 64)) = .error (k, d) →
       s.writeFault o r x = .error (flt .race k r.va d) ∧ same)))

/-- R63, R66: whatever a step does, an instruction or an event of the machine, every memory keeps its canonical form. -/
def Obligations.StepKeepsMemoriesCanonical : Prop := ∀ (s t : State), s.memWf → step s = .next t → t.memWf

/-- R66, R420: after reset every memory is in canonical form, and every block reads as zeros under the header 0x00, 0x7F, which is what R66 gives a cleared block and R420 the vaults after boot; that
memory reads so before boot is the model's choice (DESIGN CHOICE, log entry 55). -/
def Obligations.ResetMemories : Prop :=
  State.reset.memWf ∧ ∀ (c : Col) (m : Mem) (b i : Nat), (State.reset.mem c m).byte i = 0 ∧ (State.reset.mem c m).head b = { fmt := 0x00, scl := 0x7F }

/-! ## Events of a unit -/

/-- R20 to R22, R34 to R36, R45, R49, R50, R239, R274, R290, R291, R320, R340, R355, R376, R422: what arrives at a unit: a token at its counter, the image of a latch entry, a scale-bypass entry; the
realignment cycle, which makes a unit timed when every stream waits for it, and leaves a handler in K its count; a stall, a deferred fault taken, queued up to four, escalated or discarded; the release of a barrier; the end of a
gather; a fault that an MMA meets in its engine, with its tokens given back; a frontier; the discard of published code; noise words from the log. -/
def Obligations.UnitEvents : Prop :=
  ∀ (s : State) (c : Col),
    let u := s.unit c
    let put := fun (v : UnitSt) => (.next { s with units := s.units.set c v } : Out)
    (∀ ix pre f post, s.ev = .tokenArrival c ix → u.ord.fly = pre ++ f :: post → f.ix = ix → f.rem = 0 → f.held = false →
      (∀ g ∈ pre, g.ix ≠ ix ∨ g.rem ≠ 0 ∨ g.held = true) →
      exec .tokenArrival s = put { u with ord := { u.ord with tok := tokAdd u.ord.tok ix, fly := pre ++ post } }) ∧
    (∀ x pre e post, s.ev = .latchEntryArrival c x → u.latch x = pre ++ e :: post → e.valid = false → e.rem = 0 → (∀ g ∈ pre, g.valid = true ∨ g.rem ≠ 0) →
      exec .latchEntryArrival s = put (u.setLatch x (pre ++ { e with valid := true } :: post))) ∧
    (∀ pre e post, s.ev = .scaleBypassEntryAvailable c → u.eng.sb = pre ++ e :: post → e.rem = 1 → (∀ g ∈ pre, g.rem ≠ 1) →
      exec .scaleBypassEntryAvailable s = put { u with eng := { u.eng with sb := pre ++ { e with rem := 0 } :: post } }) ∧
    (s.ev = .realignmentCycle c → u.ctl.prepped = false → u.ctl.rpend = true →
      let all := ∀ x : Stream, ∃ n, (u.strm x).st = .point n
      let goes := fun (x : Stream) => match (u.strm x).st with
        | .point _ => { u.strm x with st := .run, last := s.now c, due := none }
        | .run => { u.strm x with st := .late }
        | _ => u.strm x
      let strms := fun (t : State) => ∀ x : Stream, (t.unit c).strm x = (if u.frm.insv = true ∧ x = .k then { u.strm x with st := (goes x).st } else goes x)
      (all → s.issues c = true → ∃ t, exec .realignmentCycle s = .next t ∧ (t.unit c).ctl.timed = !u.ctl.decl ∧ (t.unit c).ctl.rpend = false ∧ (t.unit c).regs = u.regs ∧ strms t) ∧
      (¬ all → ∃ t, exec .realignmentCycle s = .next t ∧ (t.unit c).ctl.timed = u.ctl.timed ∧ (t.unit c).ctl.rpend = false ∧ (t.unit c).regs = u.regs ∧ strms t)) ∧
    (∀ x, s.ev = .stall c x → s.issues c = true → exec .stall s = .next (perform (takeFault c x (flt .stall)) s)) ∧
    (∀ x f, s.ev = .deferredFaultReport c x f →
      (u.ctl.dead = true → exec .deferredFaultReport s = .next s) ∧
      (s.issues c = true → exec .deferredFaultReport s = .next (perform (takeFault c x f true) s)) ∧
      (u.ctl.dead = false → s.issues c = false → (s.slot c).st = .stopped ∨ (s.slot c).st = .held ∨ (s.slot c).st = .stopping →
        exec .deferredFaultReport s = (if u.frm.queue.length < 4
          then put { u with frm := { u.frm with queue := u.frm.queue ++ [(x, f)], faultf := u.frm.faultf + (0x1000000 : Dword) } }
          else .next (perform (escalate c) s)))) ∧
    (∀ o pa gen, s.ev = .barrierRelease c (barKey o pa) gen → (s.slot c).saved = [] →
      exec .barrierRelease s = put { u with ord := { u.ord with slots := u.ord.slots.map (fun b =>
        if barKey b.owner b.pa == barKey o pa && b.joined && b.gen == gen then { b with released := true } else b) } }) ∧
    (∀ g, s.ev = .gatherComplete c → u.eng.gather = some g → g.done ≤ s.now c → g.full = false →
      exec .gatherComplete s = put { u with eng := { u.eng with opa := g.opa, gather := some { g with full := true } } }) ∧
    (∀ id o e, s.ev = .mmaBlockFault c id → u.eng.mmas.find? (fun m => m.id == id) = some o → o.bad = some e → u.ctl.prepped = false → u.ctl.dead = false →
      ∃ v, exec .mmaBlockFault s = .next (perform (takeFault c .m e) { s with units := s.units.set c v }) ∧ (v.strm .m).pc = o.pc ∧ (∀ n, (v.strm .m).st ≠ .point n) ∧
        v.ord.tok = o.took.foldl tokAdd u.ord.tok ∧ v.ord.fly = u.ord.fly.filter (fun f => f.tag != id) ∧ v.regs = u.regs ∧ v.pend = u.pend ∧
        v.eng.mmas = u.eng.mmas.filter (fun m => m.id != id)) ∧
    (∀ pos, s.ev = .frontierRefresh c pos → exec .frontierRefresh s = put { u with ord := { u.ord with fpos := pos } }) ∧
    (∀ n id p q, s.ev = .codeRangeDiscard n id → s.part n = some p → p.pubs.find? (fun q => q.id == id) = some q →
      ∃ t, exec .codeRangeDiscard s = .next t ∧ (∀ d, (t.unit d).ord.codeHeld = (s.unit d).ord.codeHeld.filter (fun x => !q.keys.contains x.1)) ∧
        t.parts = s.parts.map (fun p => if p.num == n then { p with pubs := p.pubs.filter (fun q => q.id != id) } else p)) ∧
    (∀ ws, s.ev = .loggedWordsSupply c ws → exec .loggedWordsSupply s = put { u with eng := { u.eng with supply := u.eng.supply ++ ws } })

/-- R53, R54, R136, R180, R360 to R362, R365 to R369, R377, R380: the life of a column's unit. A bind of a free or done column starts its load, and any other bind is refused; the load of an object
that nothing rejects, whose wheel positions no other unit has, ends at WAITBASE. A launch of one column is held at the boundary that another column's unit asked for, and released with its streams
where they stood, loose, each one's next instruction counted as if it had never been held (log entry 29). A unit whose HALT is done is done: its column leaves its launch, which counts in its work
record. A record that is complete is acted on once: one without PARENT is the job's, is reported with its words and ends the job's collectives; another counts in its parent, but not where a CANCEL cut
it off (log entry 67); one that is not complete, or that has been acted on, changes nothing. The fallow pass leaves the column free, its registers and buffers zero and its vault as it was. A kill of a
queue ends the unit of its one launch and reports the frames of the units that faulted; of a queue with nothing in it, it is reported alone. -/
def Obligations.LaunchEvents : Prop :=
  ∀ (s : State) (c : Col),
    let k := s.slot c
    let slotIs := fun (t : State) (st : SlotState) => (t.slot c).st = st
    (s.ev = .bind c → k.st = .free ∨ k.st = .done → ∃ t, exec .bind s = .next t ∧ slotIs t .loading ∧ (t.slot c).cmd = .none ∧ t.mems = s.mems ∧ t.units = s.units) ∧
    (s.ev = .bind c → k.st ≠ .free → k.st ≠ .done → ∃ t, exec .bind s = .next t ∧ slotIs t k.st ∧ t.outbox = s.outbox ++ [.cmdRefused c .bind]) ∧
    (∀ b p j, s.ev = .objectLoadComplete c → s.launchOf c = some b → s.partOf c = some p → s.job b.job = some j → k.st = .loading →
      (s.unit c).ctl.dead = false →
      let f := s.object j k.desc k.unit.toNat
      f.rejected s.pkg.dielist (handlerBase p.handler) = false → (∀ w ∈ wheelPos f.wheel, w ∉ s.otherWheels c p) →
        ∃ t, exec .objectLoadComplete s = .next t ∧ slotIs t .waitBase) ∧
    (∀ id b d, s.ev = .hold id d → c ≠ d → s.work.bound.find? (fun b => b.id == id && !b.saved) = some b → b.cols = [c] → c ∉ b.faulted → (s.unit c).ctl.dead = false →
      k.st = .running ∨ k.st = .waitBase → exec .hold s = .next { s with slots := s.slots.set c { k with cmd := .none, st := .held } }) ∧
    (∀ id b, s.ev = .release id → s.work.bound.find? (fun b => b.id == id && !b.saved) = some b → b.cols = [c] → (s.unit c).ctl.dead = false → k.st = .held →
      (s.unit c).frm.queue = [] → ∃ t, exec .release s = .next t ∧ slotIs t .running ∧ (t.unit c).ctl.timed = false ∧ (t.unit c).regs = (s.unit c).regs ∧
        ∀ x : Stream, ((t.unit c).strm x).pc = ((s.unit c).strm x).pc ∧ ((t.unit c).strm x).last = ((s.unit c).strm x).last) ∧
    (s.ev = .unitCompletion c → s.haltDone c = true →
      ∃ t, slotIs t .done ∧ (t.unit c).ctl.haltAt = none ∧ (t.unit c).ord.slots = [] ∧
        (t.unit c).pend = (s.unit c).pend ++ [{ at_ := s.now c + 1, stream := .k, eff := .epoch (s.now c + 1) }] ∧ t.mems = s.mems ∧ t.work = s.work ∧
        exec .unitCompletion s = .next (perform (match s.launchOf c with
            | some b => match s.job b.job with
              | some j => countItem j b.desc false
              | none => Act.none
            | none => Act.none)
          (perform (leaveLaunch c) t))) ∧
    (∀ job rec j, s.ev = .workRecordCompletion job rec → s.job job = some j → s.recordDone j rec = true → s.jobWord j rec wParent = 0 →
      rec ∉ j.ended → ∃ t, exec .workRecordCompletion s = .next t ∧ t.outbox = s.outbox ++ [.jobDone job ((List.range 8).map (s.jobWord j rec))] ∧ t.mems = s.mems ∧
        (∀ k ∈ t.work.colls, k.job ≠ job)) ∧
    (∀ job rec j, s.ev = .workRecordCompletion job rec → s.job job = some j → s.recordDone j rec = true → s.jobWord j rec wParent ≠ 0 → rec ∉ j.placed → (∀ n ∈ s.work.snaps, n.job ≠ job) →
      rec ∉ j.ended → exec .workRecordCompletion s = .next (perform (Act.when (!j.cut.contains rec) (countItem j (s.jobWord j rec wParent) false))
        { s with work := { s.work with jobs := s.work.jobs.map (fun y => if y.handle == job then { y with ended := rec :: y.ended, cut := y.cut.filter (fun a => a != rec) } else y) } })) ∧
    (∀ job rec j, s.ev = .workRecordCompletion job rec → s.job job = some j → s.recordDone j rec = false ∨ rec ∈ j.ended → exec .workRecordCompletion s = .next s) ∧
    (s.ev = .fallow c → k.st = .done ∨ k.st = .saved → ∃ t, exec .fallow s = .next t ∧ slotIs t .fallow ∧ t.units = s.units ∧ t.mems = s.mems) ∧
    (s.ev = .fallowPassComplete c → k.st = .fallow → ∃ t, exec .fallowPassComplete s = .next t ∧ slotIs t .free ∧ (t.unit c).regs = .zero ∧ (t.unit c).ctl.limit = 0 ∧
      (t.unit c).ord.epoch = (s.unit c).ord.epoch ∧ (∀ m : Mem, m = .wb ∨ m = .ab ∨ m = .sp → t.mem c m = .empty) ∧ t.mem c .vault = s.mem c .vault) ∧
    (∀ die q o b, s.ev = .kill die q o → s.work.bound.filter (fun b => b.qdie == die && b.q == q) = [b] → b.cols = [c] → k.saved = [] → (s.unit c).ctl.dead = false →
      ∃ t, exec .kill s = .next t ∧ (t.unit c).ctl.dead = true ∧ (t.unit c).ctl.haltAt = none ∧ (t.unit c).regs = (s.unit c).regs ∧
        Report.killed die q ((match o with | some d => [d] | none => b.faulted).map (fun d => (d, (s.unit d).frm))) ∈ t.outbox) ∧
    (∀ die q, s.ev = .kill die q none → (∀ b ∈ s.work.bound, b.qdie = die → b.q ≠ q) → (∀ x ∈ s.work.queues, x.die = die → x.q = q → x.items = []) →
      (∀ r ∈ s.work.reqs, r.die = die → r.q ≠ q) → exec .kill s = .next { s with outbox := s.outbox ++ [.killed die q []] })

/-! ## Events of the far path and of the engines -/

/-- R129 to R134, R237 to R240, R259 to R264, R270 to R277, R350, R353, R364, R408: a block, or a transfer between columns, that is late for its formula cycle raises FAR_LATE once in a timed unit that
issues, and nothing elsewhere. A block of a load waits for the others; the last one writes the destination by the data of all, where their headers raise no fault. The acknowledgement of a store ends
it; a block on loan is read from `State.ext`, and each package that answers counts as heard (log entry 22). A copy command's blocks go out one a cycle, and its retirement posts its word. A block that
reaches a target column of its job waits a cycle at a port that is taken, and otherwise is written, or for a get read. A get's block that is back is written at the cycle after, waits for a block
before it (log entry 65), and is dropped and counted where its issuer's die has been reset (log entry 68). A word's operation is performed on its word alone, without a port of the target's memory (log
entry 48), and reported, with the old value where it was asked for. A collective that waits for nothing more delivers its words. -/
def Obligations.PathEvents : Prop :=
  ∀ (s : State),
    (∀ tx k t a, s.ev = .farLate tx k → s.txn tx = some t → t.arrs[k]? = some a →
      (a.late = false → s.issues t.who.col = true → (s.unit t.who.col).ctl.timed = true →
        exec .farLate s = .next (perform (takeFault t.who.col t.who.stream (flt .farLate 0 a.va)) (perform (onArr tx k (fun a => { a with late := true })) s))) ∧
      (a.late = true ∨ s.issues t.who.col = false ∨ (s.unit t.who.col).ctl.timed = false → exec .farLate s = .next s)) ∧
    (∀ tx k x q, s.ev = .farLate tx k → s.txn tx = none → s.arrived tx = some (x, q) → s.issues x.from_ = true → (s.unit x.from_).ctl.timed = true →
      exec .farLate s = .next (perform (takeFault x.from_ q.who.stream (flt .farLate 0 x.loc.addr))
        { s with work := { s.work with xfers := s.work.xfers.map (fun y => if y.tx == tx then { y with form := none } else y) } })) ∧
    (∀ tx k t a x, s.ev = .farPathDelivery tx k → s.txn tx = some t → t.arrs[k]? = some a → a.del = false → a.bad = none → t.kind = .load x → (∀ o, x ≠ .code o) →
      (∃ j b, j ≠ k ∧ t.arrs[j]? = some b ∧ b.del = false) →
      let b := (a.loan.map s.ext.blk).getD a.blk
      exec .farPathDelivery s = .next (perform (hearPeers (a.loan.toList.map (· / 2 ^ 46)))
        { s with txns := s.txns.map (fun y => if y.id == tx then { t with arrs := t.arrs.set k { a with blk := b, del := true } } else y) })) ∧
    (∀ tx k t a x, s.ev = .farPathDelivery tx k → s.txn tx = some t → t.arrs[k]? = some a → a.del = false → a.bad = none → t.kind = .load x →
      (∃ r f i, x = .sF r f i) ∨ (∃ r f i, x = .sI r f i) ∨ (∃ r l p, x = .vec r l p) ∨ (∃ r l, x = .heads r l) ∨ (∃ r, x = .lrec r) →
      (∀ j b, j ≠ k → t.arrs[j]? = some b → b.del = true ∧ b.bad = none) →
      let all := t.arrs.set k { a with blk := (a.loan.map s.ext.blk).getD a.blk, del := true }
      let read := all.filter (fun b => !b.skip)
      x.fault (read.map (fun b => b.blk.hd)) (read.map (fun b => b.va)) = none →
        ∃ u, exec .farPathDelivery s = .next u ∧ u.txns.find? (fun y => y.id == tx) = none ∧ u.mems = s.mems ∧ u.ext = s.ext ∧
          (u.unit t.who.col).regs = ((x.pend (x.clip (all.map (fun b => b.blk))) t.who.stream (s.now t.who.col)).foldl (fun v p => v.applyEff p.eff) (s.unit t.who.col)).regs) ∧
    (∀ c id t, s.ev = .writeAcknowledgement c id → s.txns.find? (fun t => t.id == id) = some t → t.kind = .store →
      exec .writeAcknowledgement s = .next (perform (hearPeers (t.arrs.filterMap (fun a => a.loan.map (· / 2 ^ 46))))
        { s with units := s.units.set c ((s.unit c).dropOutst id), txns := s.txns.filter (fun t => t.id != id) })) ∧
    (∀ c id k q, s.ev = .copyBlock c id k → (s.unit c).cmd? id = some q → k + 1 < q.m →
      exec .copyBlock s = .next (perform (eventAt c (s.now c + 1) (.copyBlock c id (k + 1))) (perform (readPiece c q k) s))) ∧
    (∀ c id q, s.ev = .copyRetirement c id → (s.unit c).cmd? id = some q → q.posted = true → q.reading = true → exec .copyRetirement s = .next s) ∧
    (∀ c id q, s.ev = .copyRetirement c id → (s.unit c).cmd? id = some q → (s.unit c).ctl.dead = false → q.posted = false →
      ∃ t w, exec .copyRetirement s = .next t ∧ (t.unit c).eng.cpf = (s.unit c).eng.cpf.map (fun e => if e.id == id then { e with word := some w } else e) ∧
        w.toNat % 2 ^ 8 = q.op.val ∧ w.toNat / 2 ^ 8 % 2 ^ 8 = q.stat.val ∧ w.toNat / 2 ^ 32 = q.seq.toNat ∧
        (t.unit c).eng.cmds = (if q.reading then (s.unit c).eng.cmds.map (fun y => if y.id == id then { y with posted := true } else y)
          else (s.unit c).eng.cmds.filter (fun q => q.id != id)) ∧ t.mems = s.mems) ∧
    (∀ tx k x q m off, s.ev = .incomingPut tx k → s.arrived tx = some (x, q) → s.genOk x = true → x.loc = .chip m off → s.jobAt x.job x.from_ x.dest = true →
      let port := (x.loc.port true).getD .spW
      (s.unit x.dest).incTaken port (s.now x.from_) = true →
        exec .incomingPut s = .next (perform (eventAt x.from_ (s.now x.from_ + 1) (.incomingPut tx k))
          (perform (onUnit x.dest (fun u => u.takePort port (s.now x.from_ + 1) 1)) s))) ∧
    (∀ tx k x q m off, s.ev = .incomingPut tx k → s.arrived tx = some (x, q) → s.genOk x = true → x.loc = .chip m off → m ≠ .store → s.jobAt x.job x.from_ x.dest = true →
      (s.unit x.dest).incTaken ((x.loc.port true).getD .spW) (s.now x.from_) = false → accFault x.loc x.blk.hd = none →
        ∃ t, exec .incomingPut s = .next t ∧ t.mem x.dest m = (s.mem x.dest m).write (off / 64) x.blk.whole ∧ (∀ d n, d ≠ x.dest ∨ n ≠ m → t.mem d n = s.mem d n)) ∧
    (∀ tx k x q m off, s.ev = .incomingGet tx k → s.arrived tx = some (x, q) → s.genOk x = true → x.loc = .chip m off → s.jobAt x.job x.from_ x.dest = true →
      (s.unit x.dest).incTaken ((x.loc.port false).getD .spR) (s.now x.from_) = false →
        ∃ t, exec .incomingGet s = .next t ∧ t.mems = s.mems ∧ t.work.xfers = s.work.xfers.map (fun y => if y.tx == tx then { y with blk := s.locBlk x.dest x.loc } else y)) ∧
    (∀ tx k, s.ev = .getResponse tx k →
      (s.arrived tx = none → ∃ t, exec .getResponse s = .next t ∧ t.work.xfers = s.work.xfers.filter (fun x => x.tx != tx)) ∧
      (∀ x q, s.arrived tx = some (x, q) → s.ownOk x.who = false → ∃ t, exec .getResponse s = .next t ∧ t.work.xfers = s.work.xfers.filter (fun x => x.tx != tx) ∧
        (t.dies[dieOf x.from_]).dropped = (s.dies[dieOf x.from_]).dropped + 1 ∧ t.units = s.units ∧ t.mems = s.mems) ∧
      (∀ x q, s.arrived tx = some (x, q) → s.ownOk x.who = true → s.copyBehind q x.k = true →
        exec .getResponse s = .next (perform (eventAt x.from_ (s.now x.from_ + 1) (.getResponse tx k)) s)) ∧
      (∀ x q, s.arrived tx = some (x, q) → s.ownOk x.who = true → s.copyBehind q x.k = false → q.op = 3 →
        ∃ t, exec .getResponse s = .next t ∧ t.work.xfers = s.work.xfers.filter (fun x => x.tx != tx) ∧
          (∀ m off, (q.blks.map (·.dst)).getD k .none = .chip m off → (s.unit x.from_).cmd? q.id = some q → q.x = none → q.far = true →
            (t.unit x.from_).pend = (s.unit x.from_).pend ++ [{ at_ := s.now x.from_ + 1, stream := q.who.stream, eff := .blocks m [(off / 64, ((q.blks.getD k { src := .none, dst := .none, mask := 0, fill := 0, hd := none }).out x.blk).whole)] }]))) ∧
    (∀ id a m, s.ev = .atomicPerform id → s.work.atoms.find? (fun a => a.id == id) = some a → a.done = false → a.placed = true → a.loan = none → a.mem = m → m ≠ .vault →
      a.who.gen = ((s.dies[dieOf a.target]).gen)[dieOf a.target] → s.jobAt a.job a.who.col a.target = true → a.op.isBar = false →
      let b := (s.mem a.owner m).blk (a.off / 64)
      let o := offOf a.addr % 64
      let w := b.pay.toNat / 2 ^ (8 * o) % 2 ^ Size.bitsOf a.size
      b.poisoned = false →
        ∃ t, exec .atomicPerform s = .next t ∧ t.mem a.owner m = (s.mem a.owner m).write (a.off / 64) (bytesWrite o (Size.bytes a.size) (a.op.apply a.size false w)) ∧
          (∀ d n, d ≠ a.owner ∨ n ≠ m → t.mem d n = s.mem d n) ∧ ∃ x ∈ t.work.atoms, x.id = id ∧ x.result = BitVec.ofNat 64 w ∧ x.done = true ∧ x.bad = none) ∧
    (∀ id a, s.ev = .atomicPerform id → s.work.atoms.find? (fun a => a.id == id) = some a → a.done = false → a.placed = true → a.mem ≠ .vault →
      a.who.gen = ((s.dies[dieOf a.target]).gen)[dieOf a.target] → s.jobAt a.job a.who.col a.target = false →
        ∃ t, exec .atomicPerform s = .next t ∧ t.mems = s.mems ∧ t.ext = s.ext ∧ ∃ x ∈ t.work.atoms, x.id = id ∧ x.done = true ∧
          x.bad = some (flt .xlate 1 (BitVec.ofNat 64 (a.addr.toNat / 64 * 64)) 0 3)) ∧
    (∀ id a, s.ev = .atomicReport id → s.work.atoms.find? (fun a => a.id == id) = some a → s.ownOk a.who = true → a.bad = none → (s.unit a.who.col).ctl.dead = false →
      ∃ t, exec .atomicReport s = .next t ∧ t.work.atoms = s.work.atoms.filter (fun a => a.id != id) ∧ t.mems = s.mems ∧
        (t.unit a.who.col).eng.amf = (s.unit a.who.col).eng.amf.map (fun e => if e.id == id then { e with word := some a.result } else e)) ∧
    (∀ id k c n e, s.ev = .collectiveClose id → s.work.colls.find? (fun k => k.id == id) = some k → k.joined = [] → k.due = [(c, n, e)] → n ≤ s.now c → k.written = false →
      ∃ t, exec .collectiveClose s = .next t ∧ t.mems = s.mems ∧ (∀ f ∈ (t.unit c).eng.clf, f.id = e → (s.unit c).ctl.dead = false → f.word = some k.word))

/-! ## Events of a vault -/

/-- R99, R105, R106, R109, R115, R117, R118, R121, R125, R126, R129, R131, R217, R244, R342, R414, R423: a refresh deadline in timed mode raises REFRESH, and the keeper refreshes a bank alone. A window's beat is
spent, and does nothing more, where its bank is closed or the keeper's; on an open row a REMOTE beat drops a request of an old generation, reads a block for the oldest waiting one whose turn it is, or takes its
write, performed a cycle later, or two for a COW block (log entry 72), and not before the formula of its WORST tier (`r.least`, log entry 64); a COW write waits for two beats of one declaration; a MIG beat does the Wain's next
job; a SHARED beat clears a block, drains one, makes a rewrite that the Gleaner has asked for, or reports telemetry, by the budgets of its own column's vault (log entries 19, 27). The Wain reads and
writes its columns, and is ready once none is left, with the pinned extents of its map in the translation cache. A dual write lands, and leaves its block dirty unless that is the home. A PHPRE deadline that passes raises
SCHED_MISS. A soft error leaves poison in memory, reported for the stack (log entry 69 says when), or is counted and its repair reported, or fails a block of one mirror. The Gleaner's rewrite waits for a beat, and
for the end of a Wain that reads the map (log entry 19). The budgets start anew every 120,000 ticks. A request for a page of the Loan tier comes to no vault of the package (log entry 22; PathEvents has its blocks). -/
def Obligations.VaultEvents : Prop :=
  ∀ (s : State) (c : Col),
    let u := s.unit c
    let v := s.vault c
    (∀ b, s.ev = .refresh c b → s.issues c = true → u.ctl.timed = true →
      exec .refresh s = .next (perform (takeFault c .d (flt .refresh 0 0 (BitVec.ofNat 64 b.val))) s)) ∧
    (∀ b, s.ev = .keeperRefresh c b → ∃ w, exec .keeperRefresh s = .next { s with vaults := s.vaults.set c w } ∧ (w.banks[b]).row = (v.banks[b]).row ∧
      (∃ r, (w.banks[b]).ref = some r ∧ (w.banks[b]).deadline = r + u.span ∧ s.now c ≤ r) ∧ (w.banks[b]).keeper.isSome = true ∧ (∀ d, d ≠ b → w.banks[d] = v.banks[d])) ∧
    (∀ w, s.ev = .windowBeat c → v.wins.find? (fun w => w.covers (s.now c)) = some w →
      let spent := v.addPort (s.now c)
      let s1 : State := { s with vaults := s.vaults.set c spent }
      ((v.banks[w.bank]).row = none ∨ v.keeperHolds w.bank (s.now c) = true → exec .windowBeat s = .next s1) ∧
      (∀ row, (v.banks[w.bank]).row = some row → v.keeperHolds w.bank (s.now c) = false →
        (∀ r, w.kind = .remote → oldest ((s.waiting c w.bank row).filter (fun r => s.inTurn c r (s.writtenAt c r))) = some r →
          (r.who.gen ≠ ((s.dies[dieOf c]).gen)[dieOf c] →
            exec .windowBeat s = .next { s with vaults := s.vaults.set c { spent with reqs := v.reqs.filter (fun q => q != r) } }) ∧
          (r.who.gen = ((s.dies[dieOf c]).gen)[dieOf c] → r.kind = .read → v.beatOk .rd w.bank (s.now c) = true → r.sh = false → s.ownOk r.who = true →
            ∃ t, exec .windowBeat s = .next t ∧ t.mems = s.mems ∧ (t.vault c).reqs = v.reqs.filter (fun q => q != r) ∧ ((t.vault c).banks[w.bank]).rd = some (s.now c) ∧
              ∀ x ∈ s.txns, x.id = r.tx → ∀ a, x.arrs[r.k]? = some a → ∃ y ∈ t.txns, y.id = r.tx ∧ ∃ b, y.arrs[r.k]? = some b ∧
                b.blk = (s.mem c .vault).blk (r.pa / 64) ∧ b.bad = none ∧ b.at_ = (if dieOf c = dieOf r.who.col then some (s.now r.who.col + 18 + r.ret) else none)) ∧
          (∀ x, r.who.gen = ((s.dies[dieOf c]).gen)[dieOf c] → r.kind = .write x → r.cow = false ∨ s.now c < w.last → v.beatOk (.wr r.cow) w.bank (s.now c) = true →
            ∃ t, exec .windowBeat s = .next t ∧ t.mems = s.mems ∧ (t.vault c).reqs = v.reqs.filter (fun q => q != r) ∧ ((t.vault c).banks[w.bank]).wr = some (s.now c) ∧
              (t.vault c).served = v.served ++ [{ at_ := s.writtenAt c r, req := r }] ∧ max (s.now r.who.col + (if r.cow then 2 else 1)) r.least ≤ s.writtenAt c r ∧
              (∀ x ∈ v.served, x.req.pa / 64 = r.pa / 64 → x.req.who.col = r.who.col → x.at_ < s.writtenAt c r) ∧
              ((∀ x ∈ v.served, x.req.pa / 64 ≠ r.pa / 64) → s.writtenAt c r = max (s.now r.who.col + (if r.cow then 2 else 1)) r.least)) ∧
          (∀ x, r.who.gen = ((s.dies[dieOf c]).gen)[dieOf c] → r.kind = .write x → r.cow = true → w.last ≤ s.now c → exec .windowBeat s = .next s1)) ∧
        (w.kind = .remote → oldest ((s.waiting c w.bank row).filter (fun r => s.inTurn c r (s.writtenAt c r))) = none → exec .windowBeat s = .next s1) ∧
        (∀ j, w.kind = .mig → s.migJob c w.bank row = some j → v.beatOk (match j with | .read .. => .rd | _ => .wr false) w.bank (s.now c) = true →
          exec .windowBeat s = .next (perform (serveMig j) s1)) ∧
        (∀ b, w.kind = .shared → 0 < v.budget.left.getD 0 0 → v.budget.fallow.find? (blkIn w.bank row) = some b → v.beatOk (.wr false) w.bank (s.now c) = true →
          ∃ t, exec .windowBeat s = .next t ∧ t.mem c .vault = (s.mem c .vault).write b Blk.clear.whole ∧ (∀ d m, d ≠ c ∨ m ≠ .vault → t.mem d m = s.mem d m) ∧
            (t.vault c).budget = ({ v.budget with fallow := v.budget.fallow.filter (fun x => x != b) } : Budget).spend 0) ∧
        (∀ x, w.kind = .shared → v.budget.left.getD 0 0 = 0 ∨ v.budget.fallow.find? (blkIn w.bank row) = none → 0 < v.budget.left.getD 1 0 →
          v.drain.find? (fun x => blkIn w.bank row (v.snapBlk x.1 x.2) && ((s.job x.1).bind (·.storage)).isSome) = some x → v.beatOk .rd w.bank (s.now c) = true →
          ∃ t, exec .windowBeat s = .next t ∧ t.mems = s.mems ∧ t.outbox = s.outbox ++ [.drained x.1 c x.2 ((s.mem c .vault).blk (v.snapBlk x.1 x.2))] ∧
            (t.vault c).drain = v.drain.filter (fun y => y != x)) ∧
        (w.kind = .shared → v.budget.left.getD 0 0 = 0 ∨ v.budget.fallow.find? (blkIn w.bank row) = none → v.budget.left.getD 1 0 = 0 ∨ v.drain = [] →
          (∀ d map ix tier col ppn es e, 0 < v.budget.left.getD 2 0 → v.budget.rewrites.find? s.rewriteReady = some (.gleanerRewrite d map ix tier col ppn) →
            let m := (s.unit d).maps
            m.maps[map] = some es → es[ix]? = some e → e.fl = true → e.sh = false → map ≠ m.cur → (m.valid = true → map ≠ m.tgt) → tier ≤ e.worst → tier ≠ 3 → tier = tierAt d col →
            s.pkg.dielist.contains (dieOf col) = true → ppn < 2 ^ 17 →
              exec .windowBeat s = .next { s with
                vaults := s.vaults.set c { spent with budget := ({ v.budget with rewrites := dropFirst (fun x => x == .gleanerRewrite d map ix tier col ppn) v.budget.rewrites } : Budget).spend 2 }
                units := s.units.set d { s.unit d with maps := ({ m with maps := m.maps.set map (some (es.set ix { e with tier := tier, col := col, ppn := ppn })) } : MapSt).mend map (fun k => k == (ix + 1) / 2) } }) ∧
          (v.budget.left.getD 2 0 = 0 ∨ (v.budget.rewrites.find? s.rewriteReady = none ∧ v.budget.glean = 0) → 0 < v.budget.left.getD 3 0 → 0 < v.budget.tele →
            exec .windowBeat s = .next { s with
              vaults := s.vaults.set c { spent with budget := ({ v.budget with tele := v.budget.tele - 1 } : Budget).spend 3 }
              outbox := s.outbox ++ [.telemetry c (site c).1 (site c).2] }) ∧
          ((∀ i, i < 4 → v.budget.left.getD i 0 = 0) → exec .windowBeat s = .next s1)))) ∧
    (∀ mv rest, s.ev = .wainBeat c false → u.maps.moves = mv :: rest → ∃ t k, exec .wainBeat s = .next t ∧ (t.unit c).maps.moves = rest ∧
      (t.unit c).maps.carried = u.maps.carried ++ [k] ∧ k.mv = mv ∧ k.from_ = s.now c + (mv.transit : Int) ∧ k.lo = s.wainBlk mv.src mv.spa mv.sext 0 ∧
      k.hi = s.wainBlk mv.src mv.spa mv.sext 1 ∧ t.mems = s.mems ∧ t.ext = s.ext) ∧
    (∀ k, s.ev = .wainBeat c true → u.maps.beatWrite (s.now c) = some k → k.mv.dext = none → ∃ t, exec .wainBeat s = .next t ∧
      (k.slo = none → k.shi = none → t.mem k.mv.dst .vault = ((s.mem k.mv.dst .vault).write (k.mv.dpa / 64) k.lo.whole).write (k.mv.dpa / 64 + 1) k.hi.whole) ∧
      (t.unit c).maps.carried = u.maps.carried.filter (fun q => q.mv.va != k.mv.va)) ∧
    (s.ev = .wainReady c → u.maps.active = true → u.maps.moves = [] → u.maps.carried = [] → u.maps.readyAt ≤ s.now c →
      exec .wainReady s = .next { s with units := s.units.set c { u with maps := ({ u.maps with ready := true, active := false } : MapSt).loadPins (u.maps.current ++ (u.maps.maps[u.maps.tgt]).getD []) } }) ∧
    (∀ id d w, s.ev = .dualWrite c id → u.maps.duals.find? (fun d => d.id == id && !d.done) = some d → d.ws = [w] → d.dext = none → ∃ t, exec .dualWrite s = .next t ∧
      t.mem d.col .vault = ((s.mem d.col .vault).writes (if d.cow then (s.snapWrite d.col (s.work.snaps.find? (fun n => n.job == d.job)) d.round (d.pa / 64) w).2 else [])).write (d.pa / 64) w ∧ (∀ e n, e ≠ d.col ∨ n ≠ .vault → t.mem e n = s.mem e n) ∧
      ((t.vault d.col).dirty.contains (d.pa / 64) || d.home) = true) ∧
    (s.ev = .phpreDueDeadline c → u.maps.due = some (s.now c) → u.ctl.timed = true → u.maps.ready = false → s.issues c = true →
      exec .phpreDueDeadline s = .next (perform (takeFault c .k (schedMiss .phase)) s)) ∧
    (∀ m b, 64 * b < Mem.size m →
      let put := fun (h : Head) => ∃ t, exec .scrub s = .next t ∧ t.units = s.units ∧ t.vaults = s.vaults ∧ t.mem c m = (s.mem c m).write b { mask := 0, data := 0, hd := some h, need := none } ∧
        t.outbox = s.outbox ++ (if m = .vault then [.stackError (dieOf c) (s.channel c) b] else [])
      (s.ev = .scrub c m b .payload → put { (s.mem c m).head b with scl := 0xFF }) ∧ (s.ev = .scrub c m b .header → put { fmt := 0x00, scl := 0xFF }) ∧
      (s.ev = .scrub c m b .corrected → exec .scrub s = .next { s with
        vaults := s.vaults.set c { v with corrected := v.corrected + 1 }
        outbox := s.outbox ++ (if m = .vault then [.repair (dieOf c) (s.channel c) b] else []) })) ∧
    (∀ m b map second, s.ev = .scrub c m b (.mirror map second) → exec .scrub s = .next { s with units := s.units.set c { u with maps := u.maps.fail map second b } }) ∧
    (∀ map ix tier col ppn, s.ev = .gleanerRewrite c map ix tier col ppn →
      exec .gleanerRewrite s = .next { s with vaults := s.vaults.set c { v with budget := { v.budget with rewrites := v.budget.rewrites ++ [s.ev] } } }) ∧
    (∀ l, s.ev = .budgetPeriod c l →
      let set := if l = [] then v.budget.set else [l.getD 0 0, l.getD 1 0, l.getD 2 0, l.getD 3 0]
      ∃ w, w = { v with budget := w.budget } ∧ w.budget.set = set ∧ w.budget.fallow = v.budget.fallow ∧ w.budget.rewrites = v.budget.rewrites ∧
        ((∃ t, v.budget.since = some t ∧ s.tick < t + periodTicks) → w.budget.left = v.budget.left ∧ w.budget.since = v.budget.since ∧
          exec .budgetPeriod s = .next { s with vaults := s.vaults.set c w }) ∧
        ((∀ t, v.budget.since = some t → t + periodTicks ≤ s.tick) → (∃ n ∈ set, 0 < n) → w.budget.left = set ∧ w.budget.since = some s.tick ∧
          exec .budgetPeriod s = .next { s with vaults := s.vaults.set c w, timers := s.timers ++ [{ part := none, at_ := (s.tick : Int) + 120000, ev := .budgetPeriod c [] }] }))

/-! ## Events of the launch layer -/

/-- R210, R245, R297, R376, R381 to R388: a launch of one column that is pre-empted has its column stopping, and its unit, where it was held, stopped as it stands (a held unit counts as forced: log entry 29), a HALT that
a queued fault precedes being taken back. A pre-emption request clamps the loop, after the writes of K that land on its cycle, and discards the recomputable tiles, with the products that still run on them (their rows go with
the request's cycle: log entry 21) and none of the unit's other pending writes. A unit that has not stopped 18,000 cycles after the request is stopped on the next cycle (log entry 21), one that has issued HALT outside
the handler only if a fault takes it back; the save writes its image, with the window beats after the stop, and leaves the column saved, for the fallow pass (which begins at once: log entry 29). A saved launch begins to
load where its column is free and the image's header is right, is killed where the header is not, and at the end of the load goes on with the accumulator rows of the image and its other registers (kept beside
the image: log entry 8), loose, in the handler if it was there (the column is then stopped: log entry 29), and otherwise takes its oldest queued fault first. -/
def Obligations.PreemptionEvents : Prop :=
  ∀ (s : State) (c : Col),
    let u := s.unit c
    let k := s.slot c
    (∀ id b, s.ev = .preempt id → s.work.bound.find? (fun b => b.id == id && !b.saved) = some b → b.cols = [c] →
      (k.st = .running ∨ k.st = .stopped → ∃ t, exec .preempt s = .next t ∧ (t.slot c).st = .stopping ∧ (t.slot c).cmd = .none ∧ t.units = s.units ∧ t.mems = s.mems) ∧
      (k.st = .held → u.ctl.haltAt = none ∨ u.frm.queue ≠ [] → ∃ t, exec .preempt s = .next t ∧ (t.slot c).st = .stopping ∧ (t.slot c).cmd = .none ∧ t.mems = s.mems ∧
        t.unit c = { u.backToHalt with ctl := { u.backToHalt.ctl with haltAt := none, prepped := true, forced := true, hcyc := s.now c } })) ∧
    (s.ev = .preemptionRequest c → k.st = .stopping → u.ctl.dead = false →
      ∃ t, exec .preemptionRequest s = .next t ∧ (t.unit c).regs = ((perform (landSome c Pend.beforeRequest) s).unit c).regs.clamp ∧
        (t.unit c).ctl.preempt = some (s.now c) ∧ Ev.forcedStop c ∈ t.timers.map (·.ev)) ∧
    (s.ev = .preemptionRequest c → k.st = .stopping → u.ctl.dead = false → (∀ p ∈ u.pend, s.now c < p.at_ ∨ p.beforeRequest = false) →
      ∃ t, exec .preemptionRequest s = .next t ∧ (t.unit c).ctl.preempt = some (s.now c) ∧
      (t.unit c).ctl.lost = ([1, 2, 3] : List (Fin 4)).filter u.regs.recomputable ∧ (t.unit c).regs = u.regs.clamp ∧ t.mems = s.mems ∧
      (∀ m ∈ u.eng.mmas, m.tile ∈ (t.unit c).ctl.lost → s.now c ≤ m.sig → m ∉ (t.unit c).eng.mmas ∧ ∀ p ∈ (t.unit c).pend, ∀ j, p.eff ≠ .mmaRow m.id j) ∧
      (∀ p ∈ u.pend, p.stream ≠ .m → (∀ id j, p.eff ≠ .mmaRow id j) → p ∈ (t.unit c).pend) ∧
      t.timers = s.timers ++ [{ part := (s.partOf c).map (·.num), at_ := s.now c + 18001, ev := .forcedStop c }]) ∧
    (s.ev = .forcedStop c → k.st = .stopping → u.ctl.dead = false → u.ctl.prepped = false → (∃ q, u.ctl.preempt = some q ∧ q + 18001 ≤ s.now c) →
      (u.ctl.haltAt = none ∨ u.frm.insv = true → exec .forcedStop s = .next { s with units := s.units.set c { u with ctl := { u.ctl with prepped := true, forced := true, hcyc := s.now c - 1 } } }) ∧
      (u.ctl.haltAt.isSome = true → u.frm.insv = false → exec .forcedStop s = .next (perform (eventAt c (s.now c + 1) (.forcedStop c)) s))) ∧
    (∀ b, s.ev = .saveImage c → s.launchOf c = some b → k.st = .stopping → u.ctl.prepped = true → u.ctl.dead = false →
      ∃ t x, exec .saveImage s = .next t ∧ (t.slot c).st = .saved ∧ (t.slot c).saved = k.saved ++ [x] ∧ x.unit = u ∧ x.launch = b.id ∧ x.hcyc = u.ctl.hcyc ∧ x.page = k.savepg.toNat ∧
        x.wins = ((s.vault c).wins.filter (fun w => u.ctl.hcyc < w.last)).map (fun w => w.from_ (u.ctl.hcyc + 1)) ∧ (t.vault c).wins = [] ∧
        t.mem c .vault = (s.mem c .vault).writes (s.saveBlks c x) ∧ t.agenda = .event (.fallow c) :: s.agenda) ∧
    (∀ id x y, s.ev = .resume id → s.work.bound.find? (fun b => b.id == id && b.saved) = some x → x.cols = [c] → SavedUnit.ofLaunch id k = some y →
      (k.st = .free ∨ k.st = .done → s.imageOk c y.page = true →
        ∃ t, exec .resume s = .next t ∧ (t.slot c).st = .loading ∧ (t.slot c).launch = id ∧ t.mems = s.mems ∧ t.units = s.units) ∧
      (k.st = .free ∨ k.st = .done → s.imageOk c y.page = false → exec .resume s = .next (perform (killLaunch x) s)) ∧
      (∀ p h, k.st = .loading → s.partOf c = some p → p.handler = some h → y.insv = false → (∃ f, y.unit.frm.queue.head? = some f ∧ f.2.cause ≠ BitVec.ofNat 8 Cause.map.code) →
        ∃ t, exec .resume s = .next t ∧ (t.slot c).st = .stopped ∧ (t.unit c).frm.insv = true ∧ (t.unit c).ctl.timed = false ∧
          (t.unit c).regs.tiles = .ofFn (fun i => (s.mem c .vault).rowAt (64 * y.page + imgAcc + 10 * i.val))) ∧
      (∀ p, k.st = .loading → s.partOf c = some p → y.insv = true ∨ y.unit.frm.queue = [] → ∃ t, exec .resume s = .next t ∧ (t.slot c).st = (if y.insv then .stopped else .running) ∧
        (t.slot c).saved = k.saved.filter (fun z => z.launch != id) ∧ (t.unit c).ctl.timed = false ∧ (t.unit c).ctl.prepped = false ∧ (t.unit c).regs.s = y.unit.regs.s ∧
        (t.unit c).regs.tiles = .ofFn (fun i => (s.mem c .vault).rowAt (64 * y.page + imgAcc + 10 * i.val)) ∧ t.mem c .vault = s.mem c .vault))

/-- R224, R357 to R362, R369 to R373, R390, R418, R422: a launch request is queued by the leader, and waits for a leader or for room. At a slot boundary a queue's pass notes which of its
launches, and of those in its leader's other queues of the partition, have become eligible, and takes the first candidate where it is its own and fits the free columns: a new launch is bound there, by bind records and
commands, and a saved one resumes; a launch of another queue that comes before keeps its columns for that queue's pass; where none fits, nothing is bound (the order of candidates and the choice of columns are log entry 29's). A slice is renewed where no waiting launch needs its columns, and otherwise the launch is pre-empted at the next slot boundary, once its units can be
(log entry 29). A queue changes its leader. In a session, a job is recorded and its root launch requested; a partition is formed of a free column, released once no work is left, and its vaults cleared at the end of the pass; and a handler and a noise mode
are installed. -/
def Obligations.SchedulingEvents : Prop :=
  ∀ (s : State), 
    (∀ id r k j p, s.ev = .launchPlacement id → s.work.reqs.find? (fun r => r.id == id) = some r → s.queue r.die r.q = some k → s.job r.job = some j → s.part r.part = some p →
      k.owner = r.part → k.leader.isSome = true → k.items.length < 1024 → s.descBad j p r.desc = false →
      ∃ t, exec .launchPlacement s = .next t ∧ t.work.reqs = s.work.reqs.filter (fun r => r.id != id) ∧ t.units = s.units ∧
        ∃ y ∈ t.work.queues, y.die = r.die ∧ y.q = r.q ∧ ∃ x ∈ y.items, x.id = id ∧ x.desc = r.desc ∧ x.arg = r.arg ∧ x.pri = r.pri) ∧
    (∀ id r k j p, s.ev = .launchPlacement id → s.work.reqs.find? (fun r => r.id == id) = some r → s.queue r.die r.q = some k → s.job r.job = some j → s.part r.part = some p →
      k.owner = r.part → k.leader = none ∨ 1024 ≤ k.items.length →
      ∃ t, exec .launchPlacement s = .next t ∧ t.work.reqs = s.work.reqs ∧ t.mems = s.mems) ∧
    (∀ die q k p, s.ev = .schedulingPass die q → s.queue die q = some k → s.part k.owner = some p →
      (k.leader = none → exec .schedulingPass s = .next s) ∧
      (k.leader.isSome = true → p.closing = false → p.paused = false → p.cyc % 2048 = 0 → k.held = [] →
        let mark := fun (x : Placed) => match s.job x.job with
          | some j => if x.elig.isNone && s.jobWord j x.desc wDeps == 0 then { x with elig := some s.tick } else x
          | none => x
        let led : State := { s with work := { s.work with
          queues := (s.work.queues.map (fun y => if y.leader == k.leader && y.owner == k.owner then { y with items := y.items.map mark } else y)).map
            (fun y => if y.die == die && y.q == q then { y with held := [] } else y) } }
        ((∀ x ∈ led.rivals k, ∀ free, (∀ c ∈ free, c ∈ s.freeCols p) → s.fit x free (s.free + 1000) = none) → exec .schedulingPass s = .next led) ∧
        (∀ x y cols, sortCands (led.rivals k) = [x, y] → x.of k = false → y.of k = true → s.fit x (s.freeCols p) (s.free + 1000) = some cols → led.verdict p x = .go →
          x.eff = 8 ∨ s.passComes x = true → s.fit y ((s.freeCols p).filter (fun c => !cols.contains c)) (s.free + 1000) = none → exec .schedulingPass s = .next led) ∧
        (∀ x l cols, sortCands (led.rivals k) = x :: l → x.of k = true → s.fit x (s.freeCols p) (s.free + 1000) = some cols →
          (∀ j, x.saved = false → s.job x.job = some j → s.floorBad p j x = false →
            ∃ t, exec .schedulingPass s = .next t ∧ t.mems = s.mems ∧ t.units = s.units ∧ (∀ y ∈ t.work.queues, y.die = die → y.q = q → ∀ z ∈ y.items, z.id ≠ x.id) ∧
              ∃ b ∈ t.work.bound, b.id = s.nextId + 1 ∧ b.desc = x.desc ∧ b.job = x.job ∧ b.arg = x.arg ∧ b.cols = cols ∧ b.part = p.num ∧ b.qdie = die ∧ b.q = q ∧ b.saved = false ∧
                ∀ c ∈ cols, (t.slot c).launch = b.id ∧ (t.slot c).desc = x.desc ∧ (t.slot c).arg = x.arg ∧ (t.slot c).cmd = .bind ∧ Task.event (.bind c) ∈ t.agenda) ∧
          (x.saved = true → s.wheelTaken x.id p = false →
            ∃ t, exec .schedulingPass s = .next t ∧ t.agenda = .event (.resume x.id) :: s.agenda ∧ t.mems = s.mems ∧ t.units = s.units ∧ t.slots = s.slots ∧ t.work.bound = s.work.bound)))) ∧
    (∀ id b p, s.ev = .sliceEnd id → s.work.bound.find? (fun b => b.id == id && !b.saved) = some b → s.part b.part = some p →
      let again := fun (n : Nat) => (.next { s with timers := s.timers ++ [{ part := none, at_ := ((s.tick + n : Nat) : Int), ev := .sliceEnd id }] } : Out)
      let wanted := ∃ k ∈ s.work.queues, k.owner = b.part ∧ k.leader.isSome = true ∧ ∃ x ∈ s.cands k, s.needs p b x = true
      let ready := ∀ c ∈ b.cols, ((s.slot c).st = .running ∨ (s.slot c).st = .stopped ∨ (s.slot c).st = .held) ∧ (s.unit c).ctl.dead = false
      (¬ wanted → exec .sliceEnd s = again 1200000) ∧ (wanted → ready → exec .sliceEnd s = .next (perform (eventAtPart b.part (slotAfter p.cyc) (.preempt id)) s)) ∧
      (wanted → ¬ ready → exec .sliceEnd s = again 2048)) ∧
    (∀ die q, s.ev = .leaderHandover die q → exec .leaderHandover s = .next { s with work := { s.work with
      queues := s.work.queues.map (fun k => if k.die == die && k.q == q then { k with leader := s.leader die } else k) } }) ∧
    (∀ r k, s.ev = .rootLaunchPlacement r → s.pkg.session = true → s.job r.handle = none → s.queue r.die r.q = some k → k.owner = r.part →
      ∃ t j, exec .rootLaunchPlacement s = .next t ∧ j ∈ t.work.jobs ∧ j.handle = r.handle ∧ j.map = r.map ∧ j.groups = r.groups ∧ t.agenda = .event (.launchPlacement (s.nextId + 1)) :: s.agenda ∧
        t.work.reqs = s.work.reqs ++ [{ id := s.nextId + 1, die := r.die, q := r.q, part := r.part, desc := r.desc, arg := r.arg, job := r.handle, pri := r.pri, deps := 0 }]) ∧
    (∀ r c, s.ev = .partitionFormation r → s.pkg.session = true → s.pkg.ready = true → r.cols = [c] → s.part r.num = none → 600 ≤ r.floor → r.floor ≤ 1200 →
      s.pkg.dielist.contains (dieOf c) = true → s.partOf c = none → (s.slot c).st = .free → (∀ l ∈ s.work.loans, l.col ≠ c) → r.queues = [] →
      ∃ t p, exec .partitionFormation s = .next t ∧ t.parts = s.parts ++ [p] ∧ p.num = r.num ∧ p.cols = [c] ∧ p.cyc = r.start ∧ p.mhz = 1200 ∧ p.floor = r.floor ∧
        (t.unit c).ord.epoch = 0 ∧ (t.unit c).regs = (s.unit c).regs ∧ t.mems = s.mems) ∧
    (∀ num p, s.ev = .partitionRelease num → s.pkg.session = true → s.part num = some p → (∀ b ∈ s.work.bound, b.part ≠ num) → (∀ r ∈ s.work.reqs, r.part ≠ num) →
      (∀ k ∈ s.work.queues, k.owner = num → k.items = []) → p.closing = false →
      ∃ t, exec .partitionRelease s = .next t ∧ t.parts = s.parts.map (fun p => if p.num == num then { p with closing := true } else p) ∧ t.mems = s.mems) ∧
    (∀ num p, s.ev = .vaultPassComplete num → s.part num = some p → p.closing = true →
      ∃ t, exec .vaultPassComplete s = .next t ∧ (∀ c ∈ p.cols, t.mem c .vault = .empty) ∧ t.parts = s.parts.filter (fun q => q.num != num) ∧
        t.outbox = s.outbox ++ [.partitionReady num]) ∧
    (∀ num object entry x p, s.ev = .handlerInstall num object entry → s.pkg.session = true → s.part num = some p → (listImg object).secs = [x] → (listImg object).headBad = false → x.kind = 1 → x.index = 0 →
      x.size % 4 = 0 → x.size ≤ 2 ^ 14 → entry < x.size / 4 →
      ∃ h : Handler, exec .handlerInstall s = .next { s with parts := s.parts.map (fun p => if p.num == num then { p with handler := some h } else p) } ∧ h.entry = entry ∧ h.size = (x.size + 4095) / 4096 * 4096) ∧
    (∀ num mode, s.ev = .noiseMode num mode → s.pkg.session = true →
      exec .noiseMode s = .next { s with parts := s.parts.map (fun p => if p.num == num then { p with noise := mode } else p) })

/-! ## Events of the host and of the package -/

/-- R271, R372, R410 to R421, R424, R425: what the host's commands change: the session, which only an authentic one opens; LATTOL; in a session (log entry 69) the power limit, a die's drain and an
attestation, and outside it none of them. An access through BAR2 to columns that are free, done or saved reads or writes exactly its bytes and wakes the columns; to others it is aborted, and past the
window no rule gives it an effect. A release by the host writes its word and no other, and does nothing without a session, without W, on a misaligned address, a live barrier block or a poisoned one (log entry 69). A loan is
granted beside the others, and recalled: its pages are cleared 32 cycles a page later, counted in ticks (log entry 2); as long as a page is lent the borrower's reads and writes of it are served, as events (log entry 22). The attestation report has the fields that R421 gives, signed as one number over them under a free key (log
entry 23). A job has its reserve and storage path. A held SNAP is accepted, waits for another round's snapshot or for reserves that are still to be cleared (log entry 74), goes with the same round's, or is discarded, as its
round and the reserves say; a snapshot is opened, and reported when drained. -/
def Obligations.HostEvents : Prop :=
  ∀ (s : State) (c : Col),
    let k := s.slot c
    (∀ a, s.ev = .managementSession a → exec .managementSession s = .next { s with pkg := { s.pkg with session := a && s.pkg.ready } }) ∧
    (∀ w, s.ev = .plim w → exec .plim s = .next (if s.pkg.session then { s with pkg := { s.pkg with plim := min 3200 (max 1000 w) } } else s)) ∧
    (∀ n, s.ev = .lattol n → ∃ t, exec .lattol s = .next t ∧ t.pkg = { s.pkg with lattol := n } ∧ t.mems = s.mems ∧ t.units = s.units ∧ t.work = s.work ∧
      ∀ d, t.vault d = (if n.toNat < (s.vault d).exitNs then { s.vault d with idle := none } else s.vault d)) ∧
    (∀ d on, s.ev = .dieDrain d on → exec .dieDrain s = .next (if s.pkg.session then { s with dies := s.dies.set d { s.dies[d] with drains := on } } else s)) ∧
    (∀ d num n, s.ev = .attestationReport d num n →
      let tenant := ((s.part num).map (fun p => p.tenant)).getD 0
      exec .attestationReport s = .next (if s.pkg.session then { s with outbox := s.outbox ++ [.attestation {
        identity := Config.identity, image := Config.imageHash, dielist := s.pkg.dielist, part := num, tenant := tenant, nonce := n
        sig := Config.sign d ([Config.identity, Config.imageHash, s.pkg.dielist.length] ++ s.pkg.dielist.map (fun e => e.val) ++ [num.toNat, tenant, n]) }] } else s)) ∧
    (∀ off bytes, s.ev = .hostBar2Access false off bytes → off + bytes.length ≤ 2 ^ 38 → (∀ i, i < bytes.length → s.barServed (barCol (off + i)) = true) →
      ∃ t, exec .hostBar2Access s = .next t ∧ t.mems = s.mems ∧ (∀ i, i < bytes.length → (t.vault (barCol (off + i))).idle = none) ∧
        t.outbox = s.outbox ++ [.bar2Read ((List.range bytes.length).map (fun i => (s.mem (barCol (off + i)) .vault).byte ((off + i) % 2 ^ 29)))]) ∧
    (∀ off b, s.ev = .hostBar2Access true off [b] → off + 1 ≤ 2 ^ 38 → s.barServed (barCol off) = true →
      ∃ t, exec .hostBar2Access s = .next t ∧ t.outbox = s.outbox ∧ (t.vault (barCol off)).idle = none ∧
        t.mem (barCol off) .vault = (s.mem (barCol off) .vault).write (off % 2 ^ 29 / 64) (bytesWrite (off % 2 ^ 29 % 64) 1 b.toNat)) ∧
    (∀ off bytes, s.memWf → s.ev = .hostBar2Access true off bytes → off + bytes.length ≤ 2 ^ 38 → (∀ i, i < bytes.length → s.barServed (barCol (off + i)) = true) →
      ∃ t, exec .hostBar2Access s = .next t ∧ t.outbox = s.outbox ∧ (∀ i, i < bytes.length → (t.mem (barCol (off + i)) .vault).byte ((off + i) % 2 ^ 29) = bytes.getD i 0) ∧
        ∀ d a, (∀ i, i < bytes.length → barCol (off + i) ≠ d ∨ (off + i) % 2 ^ 29 ≠ a) → (t.mem d .vault).byte a = (s.mem d .vault).byte a) ∧
    (∀ w off bytes, s.ev = .hostBar2Access w off bytes → off + bytes.length ≤ 2 ^ 38 → (∃ i, i < bytes.length ∧ s.barServed (barCol (off + i)) = false) →
      exec .hostBar2Access s = .next { s with outbox := s.outbox ++ [.bar2Abort] }) ∧
    (∀ w off bytes, s.ev = .hostBar2Access w off bytes → 2 ^ 38 < off + bytes.length → exec .hostBar2Access s = .fault .outsideBar2) ∧
    (∀ job addr v j p, s.ev = .hostRelease job addr v → s.pkg.session = true → s.job job = some j → s.jobPlace j (offOf addr) = some p → p.ext.w = true → addr.toNat % 8 = 0 → tagOf addr = 0 →
      (p.isLoan = true ∨ (s.vault p.col).isLive (p.pa / 64) = false) → (s.placeBlk p).poisoned = false →
        exec .hostRelease s = .next (perform (setJobWord j addr 0 v) s) ∧
        (p.isLoan = false → p.ext.cow = false ∨ (∀ n ∈ s.work.snaps, n.job ≠ job) → ∃ t, exec .hostRelease s = .next t ∧ t.units = s.units ∧ t.ext = s.ext ∧ (∀ d m, d ≠ p.col ∨ m ≠ .vault → t.mem d m = s.mem d m) ∧
          t.mem p.col .vault = (s.mem p.col .vault).write (p.pa / 64) (bytesWrite (offOf addr % 64) 8 v.toNat))) ∧
    (∀ job addr v j p, s.ev = .hostRelease job addr v → s.job job = some j → s.jobPlace j (offOf addr) = some p →
      s.pkg.session = false ∨ p.ext.w = false ∨ addr.toNat % 8 ≠ 0 ∨ tagOf addr ≠ 0 ∨ (p.isLoan = false ∧ (s.vault p.col).isLive (p.pa / 64) = true) ∨ (s.placeBlk p).poisoned = true →
      exec .hostRelease s = .next s) ∧
    (∀ page pages pkg, s.ev = .loanGrant c page pages pkg → s.pkg.session = true → s.partOf c = none → s.pkg.dielist.contains (dieOf c) = true → 0 < pages → page + pages ≤ 2 ^ 17 →
      (∀ l ∈ s.work.loans, l.col = c → l.page + l.pages ≤ page ∨ page + pages ≤ l.page) →
      exec .loanGrant s = .next { s with work := { s.work with loans := s.work.loans ++ [{ col := c, page := page, pages := pages, pkg := pkg, recalled := none }] } }) ∧
    (∀ page l, s.ev = .loanRecall c page → s.pkg.session = true → s.work.loans.find? (fun l => l.col == c && l.page == page) = some l → l.recalled = none →
      exec .loanRecall s = .next { s with
        work := { s.work with loans := s.work.loans.map (fun x => if x.col == c && x.page == page then { x with recalled := some (s.tick + 32 * l.pages) } else x) }
        timers := s.timers ++ [{ part := none, at_ := ((s.tick + 32 * l.pages : Nat) : Int), ev := .loanRecall c page }] }) ∧
    (∀ page l x, s.ev = .loanRecall c page → s.work.loans.find? (fun l => l.col == c && l.page == page) = some l → l.recalled = some x → x ≤ s.tick →
      ∃ t, exec .loanRecall s = .next t ∧ t.work.loans = s.work.loans.filter (fun x => !(x.col == c && x.page == page)) ∧
        t.mem c .vault = (s.mem c .vault).writes ((List.range (64 * l.pages)).map (fun i => (64 * page + i, Blk.clear.whole)))) ∧
    (∀ blk bytes head, s.ev = .loanWrite c blk bytes head →
      (s.lent c blk = true → ∃ t, exec .incomingPut s = .next t ∧ t.mem c .vault = (s.mem c .vault).write blk (loanBytes bytes head) ∧ t.outbox = s.outbox ∧
        (∀ d m, d ≠ c ∨ m ≠ .vault → t.mem d m = s.mem d m)) ∧ (s.lent c blk = false → exec .incomingPut s = .next s)) ∧
    (∀ blk, s.ev = .loanRead c blk →
      exec .incomingGet s = .next (if s.lent c blk then { s with outbox := s.outbox ++ [.loanRead c blk ((s.mem c .vault).blk blk)] } else s)) ∧
    (∀ job e r, s.ev = .snapshotReserve job e r → s.pkg.session = true → exec .snapshotReserve s = .next { s with work := { s.work with
      jobs := s.work.jobs.map (fun j => if j.handle == job then { j with reserves := j.reserves ++ [(e, r)] } else j) } }) ∧
    (∀ job p, s.ev = .snapshotStoragePath job p → s.pkg.session = true → exec .snapshotStoragePath s = .next { s with work := { s.work with
      jobs := s.work.jobs.map (fun j => if j.handle == job then { j with storage := some p } else j) } }) ∧
    (∀ h j, s.ev = .snapAccept c → s.work.held.filter (fun x => x.col == c) = [h] → s.job h.job = some j →
      let off := s.work.held.filter (fun x => x != h)
      let free := fun (t : State) => t.work.held = off ∧ (k.launch = h.launch → (∀ y ∈ k.saved, y.launch ≠ h.launch) → (t.unit c).ctl.snapHeld = false) ∧
        (∀ y ∈ k.saved, y.launch = h.launch → t.units = s.units ∧ ∀ z ∈ (t.slot c).saved, z.launch = h.launch → z.unit.ctl.snapHeld = false)
      let bare := ∃ e ∈ s.cowExtents h.job, ∀ x ∈ j.reserves, reserveFor x.1 e = false
      (∀ n, s.work.snaps.find? (fun n => n.job == h.job) = some n →
        (n.round = h.round → ∃ t, exec .snapAccept s = .next t ∧ t.work.snaps = s.work.snaps ∧ free t) ∧ (n.round ≠ h.round → exec .snapAccept s = .next s)) ∧
      (s.work.snaps.find? (fun n => n.job == h.job) = none → s.roundOver j h.round = true ∨ bare →
        ∃ t, exec .snapAccept s = .next t ∧ t.work.snaps = s.work.snaps ∧ free t ∧ t.outbox = s.outbox ++ [.snapDiscarded h.job h.round]) ∧
      (s.work.snaps.find? (fun n => n.job == h.job) = none → s.roundOver j h.round = false → ¬ bare →
        (s.reserveWaits j = true → exec .snapAccept s = .next s) ∧
        (s.reserveWaits j = false → ∃ t, exec .snapAccept s = .next t ∧ t.work.snaps = s.work.snaps ++ [{ job := h.job, round := h.round, opened := false }] ∧ free t))) ∧
    (∀ job n j, s.ev = .snapshotOpen job → s.work.snaps.find? (fun n => n.job == job) = some n → s.job job = some j → n.opened = false →
      ∃ t, exec .snapshotOpen s = .next t ∧ t.work.snaps = s.work.snaps.map (fun k => if k.job == job then { k with opened := true } else k) ∧ t.mems = s.mems) ∧
    (∀ job n, s.ev = .snapshotDrained job → s.work.snaps.find? (fun n => n.job == job) = some n → n.opened = true → (∀ c : Col, ∀ x ∈ (s.vault c).drain, x.1 ≠ job) →
      ∃ t, exec .snapshotDrained s = .next t ∧ t.work.snaps = s.work.snaps.filter (fun k => k.job != job) ∧ t.outbox = s.outbox ++ [.snapDone job n.round] ∧ t.mems = s.mems)

/-- R350, R358, R391 to R393, R399, R403 to R405, R408, R420, R424, R425: power-good forms the dielist of dies that pass their steps and are linked with each other, and reports; a die that resets advances its generation, its
columns taking the model's reset values (log entries 4, 55), and counts the responses that still come, in the links too (log entry 68); links come back, notices and timeouts carry generations, R404's 1,200,000 cyc and R408's
10 ms being counted in reference ticks (log entry 2). A package that has acknowledged nothing for 10 ms has its requests settled as stale, and one with none is forgotten (log entry 22). A
temperature below the step is noted; one that reaches it has the nearby partition's clock step down at the next slot boundary, or, a degree below the limit, a partition at its floor pause; 100 degrees are reported and trip. The
clock steps by 50 MHz between floor and 1,200 at slot boundaries, and the pause ends once every vault that it stands for is cool, the keeper having kept the banks refreshed (log entry 16); power over its limit steps the
clock down, and pauses a partition that stays at its floor for a further millisecond; a thermal trip resets every die; a column that may enters a deeper idle state (log entry 53). -/
def Obligations.PowerEvents : Prop :=
  ∀ (s : State) (c : Col),
    let v := s.vault c
    let onP := fun (num : BitVec 16) (f : Part → Part) => s.parts.map (fun p => if p.num == num then f p else p)
    (∀ r, s.ev = .powerGood r → s.pkg.ready = false → s.pkg.failed = false →
      let pass := fun (l : List Bool) (d : Die) => l.getD d.val false = true
      ∃ t, exec .powerGood s = .next t ∧ t.pkg.ready = (!t.pkg.dielist.isEmpty && (r.fwOk.take 4).any id) ∧ t.pkg.failed = !t.pkg.ready ∧
        (∀ d ∈ t.pkg.dielist, pass r.trim d ∧ pass r.clock d ∧ pass r.timing d ∧ pass r.init d ∧ ∀ e ∈ t.pkg.dielist, (d, e) ∉ r.links) ∧
        ((∀ d, pass r.trim d ∧ pass r.clock d ∧ pass r.timing d ∧ pass r.init d) → r.links = [] → t.pkg.dielist = [0, 1, 2, 3]) ∧
        t.outbox = s.outbox ++ [if t.pkg.ready then .ready else .bootFail] ∧ (∀ c, dieOf c ∈ t.pkg.dielist → t.mem c .vault = .empty)) ∧
    (∀ r, s.ev = .powerGood r → s.pkg.ready = true ∨ s.pkg.failed = true → exec .powerGood s = .next s) ∧
    (∀ d, s.ev = .dieReset d → s.work.bound = [] → (∀ c : Col, dieOf c = d → ∀ p ∈ (s.unit c).pend, ∀ b va h hp ph w tx k r, p.eff ≠ .loan b va h hp ph w tx k r) →
      ∃ t, exec .dieReset s = .next t ∧ ((t.dies[d]).gen)[d] = ((s.dies[d]).gen)[d] + 1 ∧
      (t.dies[d]).dropped = (s.dies[d]).dropped + s.coming_ d + ((s.links.filter (fun b => b.dst = d)).flatMap LinkBeat.backs).length ∧
      t.links = s.links.filter (fun b => b.src != d && b.dst != d) ∧
      (∀ c : Col, dieOf c = d → t.unit c = .reset ∧ t.slot c = .reset ∧ ∀ m, t.mem c m = .empty) ∧ (∀ c : Col, dieOf c ≠ d → t.unit c = s.unit c ∧ ∀ m, t.mem c m = s.mem c m)) ∧
    (∀ d e : Die, s.ev = .linkRetrain d e → d ≠ e → ∃ t, exec .linkRetrain s = .next t ∧ ((t.dies[d]).links)[e] = true ∧ ((t.dies[e]).links)[d] = true ∧ t.units = s.units) ∧
    (∀ (d e : Die) gen, s.ev = .resetNotice d e gen → ((s.dies[e]).gen)[d] = gen → exec .resetNotice s = .next s) ∧
    (∀ (d e : Die) gen, s.ev = .resetNotice d e gen → ((s.dies[e]).gen)[d] ≠ gen → exec .resetNotice s = .next (perform (settleDie d e)
      { s with dies := s.dies.set e { s.dies[e] with gen := ((s.dies[e]).gen).set d gen, downAt := ((s.dies[e]).downAt).set d none } })) ∧
    (∀ (d e : Die) t, s.ev = .linkDownTimeout d e → ((s.dies[e]).downAt)[d] = some t → t + 1200000 ≤ s.tick → exec .linkDownTimeout s = .next (perform (settleDie d e)
      { s with dies := s.dies.set e { s.dies[e] with gen := ((s.dies[e]).gen).set d (((s.dies[d]).gen)[d]), downAt := ((s.dies[e]).downAt).set d none } })) ∧
    (∀ pkg, s.ev = .peerPackageTimeout pkg → (∀ x ∈ s.pkg.peers, x.1 ≠ pkg) → exec .peerPackageTimeout s = .next s) ∧
    (∀ pkg n, s.ev = .peerPackageTimeout pkg → s.pkg.peers.find? (fun x => x.1 == pkg) = some (pkg, n) → (∀ c : Col, (s.unit c).eng.cmds = []) → s.txns = [] →
      let off := { s.pkg with peers := s.pkg.peers.filter (fun x => x.1 != pkg) }
      (s.work.atoms = [] → exec .peerPackageTimeout s = .next { s with pkg := off }) ∧
      (∀ a, s.work.atoms = [a] → a.pkg = pkg →
        (s.tick < n + 12000000 → exec .peerPackageTimeout s =
          .next { s with timers := s.timers ++ [{ part := none, at_ := ((n + 12000000 : Nat) : Int), ev := .peerPackageTimeout pkg }] }) ∧
        (n + 12000000 ≤ s.tick → s.work.colls = [] → exec .peerPackageTimeout s = .next { s with pkg := off, work := { s.work with atoms := [{ a with done := true, bad := some (staleFault a.addr 0) }] }, agenda := .event (.atomicReport a.id) :: s.agenda }))) ∧
    (∀ milli, s.ev = .vaultTemperatureRead c milli → milli < s.limitC c * 1000 - 3000 → (∀ p ∈ s.parts, c ∉ p.heated ∧ c ∉ p.pausedBy) →
      exec .vaultTemperatureRead s = .next { s with vaults := s.vaults.set c { s.vault c with temp := milli, stepAt := none }, free := s.free + 1 }) ∧
    (∀ milli, s.ev = .vaultTemperatureRead c milli → 100000 ≤ milli → ∃ t, exec .vaultTemperatureRead s = .next t ∧ t.outbox = s.outbox ++ [.heat (dieOf c) (s.channel c) milli] ∧
      t.agenda = .event .thermalTrip :: s.agenda ∧ (t.vault c).temp = milli) ∧
    (∀ milli p, s.ev = .vaultTemperatureRead c milli → s.limitC c * 1000 - 3000 ≤ milli → milli < 100000 → s.parts = [p] → p.cols.any (near c) = true → p.floor < p.mhz → v.stepAt = none →
      ∃ t, exec .vaultTemperatureRead s = .next t ∧ t.timers = s.timers ++ [{ part := some p.num, at_ := nextSlot p, ev := .throttleStep p.num }] ∧
        t.vault c = { v with temp := milli, stepAt := some s.tick } ∧ t.parts = [{ p with heated := if p.heated.contains c then p.heated else p.heated ++ [c] }]) ∧
    (∀ milli p, s.ev = .vaultTemperatureRead c milli → s.limitC c * 1000 - 3000 ≤ milli → milli < 100000 → s.parts = [p] → p.cols.any (near c) = true → p.mhz ≤ p.floor →
      ∃ t, exec .vaultTemperatureRead s = .next t ∧ t.vault c = { v with temp := milli } ∧
        (milli < s.limitC c * 1000 - 1000 → t.parts = [p] ∧ t.timers = s.timers) ∧
        (s.limitC c * 1000 - 1000 ≤ milli → t.parts = [{ p with pausedBy := if p.pausedBy.contains c then p.pausedBy else p.pausedBy ++ [c] }] ∧
          t.timers = s.timers ++ (if p.paused then [] else [{ part := some p.num, at_ := nextSlot p, ev := .pause p.num }]))) ∧
    (∀ num p, s.ev = .throttleStep num → s.part num = some p → p.cyc % 2048 = 0 →
      exec .throttleStep s = .next { s with parts := onP num (fun p => { p with mhz := max p.floor (p.mhz - 50), stepped := s.tick }) }) ∧
    (∀ num p, s.ev = .throttleRise num → s.part num = some p → s.coolPart p = true → p.atFloor = none → p.mhz < 1200 → p.stepped + 1200000 ≤ s.tick → p.cyc % 2048 = 0 → 1150 ≤ p.mhz →
      exec .throttleRise s = .next { s with parts := onP num (fun p => { p with mhz := 1200, stepped := s.tick, heated := [] }) }) ∧
    (∀ num p, s.ev = .pause num → s.part num = some p → p.cyc % 2048 = 0 → p.mhz ≤ p.floor → p.paused = false →
      exec .pause s = .next { s with parts := onP num (fun p => { p with paused := true, pausedAt := s.tick }) }) ∧
    (∀ num p, s.ev = .pauseEnd num → s.part num = some p →
      (s.coolPause p = true → s.powerHolds p = false → p.paused = true →
        ∃ t, exec .pauseEnd s = .next t ∧ t.parts = onP num (fun p => { p with paused := false, pausedBy := [] }) ∧ Ev.throttleRise num ∈ t.timers.map (·.ev) ∧
          t.units = s.units ∧ t.mems = s.mems ∧ (p.cols = [c] → t.vault c = v.keptPause p.cyc ((s.tick - p.pausedAt) * p.mhz / 1200 : Nat) (s.unit c).span)) ∧
      (s.coolPause p = false ∨ s.powerHolds p = true ∨ p.paused = false → exec .pauseEnd s = .next s)) ∧
    (∀ w num p, s.ev = .powerLimitCheck w num → s.pkg.plim < w → s.part num = some p →
      (p.floor < p.mhz → exec .powerLimitCheck s = .next { s with
        parts := onP num (fun p => { p with atFloor := none }), timers := s.timers ++ [{ part := some num, at_ := nextSlot p, ev := .throttleStep num }] }) ∧
      (p.mhz ≤ p.floor → p.atFloor = none → exec .powerLimitCheck s = .next { s with parts := onP num (fun p => { p with atFloor := some s.tick }) }) ∧
      (∀ t, p.mhz ≤ p.floor → p.atFloor = some t →
        (s.tick < t + 1200000 → exec .powerLimitCheck s = .next s) ∧
        (t + 1200000 ≤ s.tick → p.paused = false →
          exec .powerLimitCheck s = .next { s with timers := s.timers ++ [{ part := some num, at_ := nextSlot p, ev := .pause num }] }))) ∧
    (s.ev = .thermalTrip → ∃ t, exec .thermalTrip s = .next t ∧ t.outbox = s.outbox ++ [.trip] ∧
      t.agenda = [3, 2, 1, 0].map (fun d => Task.event (.dieReset d)) ++ s.agenda ∧ t.mems = s.mems) ∧
    (∀ st, s.ev = .idleStateEntry c st →
      (s.mayIdle c st = true → v.deeper st = true → v.idleAt + IdleState.after st ≤ s.tick → exec .idleStateEntry s = .next { s with vaults := s.vaults.set c { v with idle := some st } }) ∧
      (s.mayIdle c st = false ∨ v.deeper st = false ∨ s.tick < v.idleAt + IdleState.after st → exec .idleStateEntry s = .next s))
end

