-- ==== Sys2Proof/Laws/Events.lean ====
section
/-! SUPPORT. Small laws for the events: the first element of a list for which something holds. -/
namespace Sys2Proof.Machine

/-- The first element for which p holds goes. -/
theorem dropFirst_at {α : Type} {p : α → Bool} {pre post : List α} {f : α} (h : ∀ g ∈ pre, p g = false) (hf : p f = true) :
    dropFirst p (pre ++ f :: post) = pre ++ post := by
  induction pre with
  | nil => simp [dropFirst, hf]
  | cons g l ih => simp [dropFirst, h g (by simp), ih (fun x hx => h x (by simp [hx]))]
/-- The first element for which p holds changes. -/
theorem mapFirst_at {α : Type} {p : α → Bool} {q : α → α} {pre post : List α} {f : α} (h : ∀ g ∈ pre, p g = false) (hf : p f = true) :
    mapFirst p q (pre ++ f :: post) = pre ++ q f :: post := by
  induction pre with
  | nil => simp [mapFirst, hf]
  | cons g l ih => simp [mapFirst, h g (by simp), ih (fun x hx => h x (by simp [hx]))]
/-- What a bank command leaves in the other banks. -/
theorem onBank_other {v : VaultSt} {b d : Fin 16} {f : Bank → Bank} (h : d ≠ b) : ((v.onBank b f).banks[d]) = v.banks[d] := by
  have : b.val ≠ d.val := fun e => h (Fin.ext e.symm)
  simp [VaultSt.onBank, Fin.getElem_fin, this]

end Sys2Proof.Machine
end

