-- ==== Sys2Proof/Laws/Forms.lean ====
section
/-! SUPPORT. What each shared form of the instructions does where it completes, said once. -/
namespace Sys2Proof.Machine

/-- A scalar form leaves pending the write of its result and its sticky bits. -/
theorem scalar_completes {s : State} {h : Hdr} {len n : Nat} {reads : List (Fin 64)} {d : Fin 64} {f : UnitSt → SVal × NumBits}
    (hc : s.clear .k h.sync) (hr : s.ready reads (some d) n) :
    done (scalar h len reads d n f) s = .next (s.issued .k h.sync len
      { eff := s.writes d (f s.my).1 n :: numstAt (s.t + n) .k (f s.my).2, sig := n }) :=
  issueAs_issues hc ⟨rfl, rfl, hr, rfl⟩ rfl
/-- An integer form on two registers. -/
theorem intOp_completes {s : State} {h : Hdr} {d a b : Fin 64} {f : Dword → Dword → Dword} (hc : s.clear .k h.sync) (hr : s.ready [a, b] (some d) 1) :
    done (intOp h d a b f) s = .next (s.issued .k h.sync 1 { eff := [s.writes d { data := f (s.my.sd a) (s.my.sd b), tail := 0 } 1] }) :=
  scalar_completes hc hr
/-- An integer form on one register. -/
theorem intOp1_completes {s : State} {h : Hdr} {d a : Fin 64} {f : Dword → Dword} (hc : s.clear .k h.sync) (hr : s.ready [a] (some d) 1) :
    done (intOp1 h d a f) s = .next (s.issued .k h.sync 1 { eff := [s.writes d { data := f (s.my.sd a), tail := 0 } 1] }) :=
  scalar_completes hc hr
/-- A division form, outside supervisor state, with an entry of XD free. -/
theorem divide_completes {s : State} {h : Hdr} {a b : Fin 64} {f : Dword → Dword → Dword} (hc : s.clear .k h.sync) (hi : s.my.frm.insv = false)
    (hr : s.ready [a, b] none 0) (hl : s.my.latchFull .xd = false) :
    done (divide h a b f) s = .next (s.issued .k h.sync 1
      { unit := fun u => u.pushLatch .xd (scalarImg (.ofData (f (u.sd a) (u.sd b)))) }) := by
  have hr' : kBusy s s.me s.my s.t [a, b] none 0 = none := hr
  refine issueAs_issues hc ⟨rfl, hi, ?_, rfl⟩ rfl
  simp only [hr', hl]; rfl
/-- A conditional branch. -/
theorem branch_completes {s : State} {h : Hdr} {a : Fin 64} {off : Int} {f : Dword → Bool} (hc : s.clear .k h.sync) (hr : s.ready [a] none 0) :
    done (branch h a off f) s = .next (s.issued .k h.sync 1 { pc := if f (s.my.sd a) then some ((s.my.strm .k).target off) else none }) :=
  issueAs_issues hc ⟨rfl, rfl, hr, rfl⟩ rfl

end Sys2Proof.Machine
end

