-- ==== Sys2Proof/Laws/PerInstr.lean ====
section
/-! SUPPORT. A family of statements about instructions as syntax, one lemma per constructor: the words of a well-formed instruction are
words of 32 bits (R138), and an event has none. -/
namespace Sys2Proof.Laws

theorem code_lt_fmt (x : Fmt) : Fmt.code x < 8 := by cases x <;> decide
theorem code_lt_iTy (x : ITy) : ITy.code x < 8 := by cases x <;> decide
theorem code_lt_vTy (x : VTy) : VTy.code x < 16 := by cases x <;> decide
theorem code_lt_mode (x : Mode) : Mode.code x < 8 := by cases x <;> decide
theorem code_lt_tailMode (x : TailMode) : TailMode.code x < 4 := by cases x <;> decide
theorem code_lt_scope (x : Scope) : Scope.code x < 8 := by cases x <;> decide
theorem code_lt_ord (x : Ord) : Ord.code x < 4 := by cases x <;> decide
theorem code_lt_fenceKind (x : FenceKind) : FenceKind.code x < 4 := by cases x <;> decide
theorem code_lt_winKind (x : WinKind) : WinKind.code x < 4 := by cases x <;> decide
theorem code_lt_level (x : Level) : Level.code x < 8 := by cases x <;> decide
theorem code_lt_amoOp (x : AmoOp) : AmoOp.code x < 16 := by cases x <;> decide
theorem code_lt_sigOp (x : SigOp) : SigOp.code x < 2 := by cases x <;> decide
theorem code_lt_collOp (x : CollOp) : CollOp.code x < 4 := by cases x <;> decide
theorem code_lt_size (x : Size) : Size.code x < 2 := by cases x <;> decide
theorem code_lt_msz (x : Msz) : Msz.code x < 4 := by cases x <;> decide
theorem code_lt_latch (x : Latch) : Latch.code x < 4 := by cases x <;> decide
theorem code_lt_fifo (x : Fifo) : Fifo.code x < 4 := by cases x <;> decide
theorem code_lt_opLat (x : OpLat) : OpLat.code x < 2 := by cases x <;> decide
theorem boolCode_lt (b : Bool) : boolCode b < 2 := by cases b <;> decide
theorem unsigned_lt (n : Nat) (i : Int) : unsigned n i < 2 ^ n := by
  have h : (0 : Int) < 2 ^ n := Int.pow_pos (by decide)
  have a := Int.emod_lt_of_pos i h
  have b := Int.emod_nonneg i (Int.ne_of_gt h)
  have e : ((2 ^ n : Nat) : Int) = 2 ^ n := by simp
  unfold unsigned; omega

/-- Every word of a well-formed instruction has 32 bits. -/
def Encoding.Statement (i : Instr) : Prop := i.wf = true → ∀ w ∈ encode i, w < 2 ^ 32

theorem first_lt (h : Hdr) {op o : Nat} (hp : op < 128) (ho : o < 2 ^ 18) : first h op o < 2 ^ 32 := by
  have := h.sync.isLt; have := h.idle.isLt; unfold first; omega
theorem one_word {h : Hdr} {op o : Nat} (hp : op < 128) (ho : o < 2 ^ 18) : ∀ w ∈ [first h op o], w < 2 ^ 32 := by
  intro w hw; simp at hw; exact hw ▸ first_lt h hp ho
theorem two_words {h : Hdr} {op o p : Nat} (hp : op < 128) (ho : o < 2 ^ 18) (hq : p < 2 ^ 32) : ∀ w ∈ [first h op o, p], w < 2 ^ 32 := by
  intro w hw; simp at hw; rcases hw with rfl | rfl
  · exact first_lt h hp ho
  · exact hq
theorem three_words {h : MHdr} {op o x z : Nat} (hp : op < 128) (ho : o < 2 ^ 18) (hx : x < 2 ^ 32) (hz : z < 32) : ∀ w ∈ mwords h op o x z, w < 2 ^ 32 := by
  have := h.sync.isLt; have := h.stamp.isLt
  intro w hw; simp [mwords] at hw; rcases hw with rfl | rfl | rfl <;> omega
theorem rrr_lt (d a b : Fin 64) : rrr d.val a.val b.val < 2 ^ 18 := by have := d.isLt; have := a.isLt; have := b.isLt; unfold rrr; omega
theorem rrr_lt' {d a b : Nat} (hd : d < 64) (ha : a < 64) (hb : b < 64) : rrr d a b < 2 ^ 18 := by unfold rrr; omega

namespace Encoding

theorem add (h : Hdr) (d a b : Fin 64) : Statement (.add h d a b) := by
  intro h0; have := d.isLt; have := a.isLt; have := b.isLt; refine one_word ?_ ?_ <;> (try unfold rrr) <;> (try unfold ff) <;> omega
theorem sub (h : Hdr) (d a b : Fin 64) : Statement (.sub h d a b) := by
  intro h0; have := d.isLt; have := a.isLt; have := b.isLt; refine one_word ?_ ?_ <;> (try unfold rrr) <;> (try unfold ff) <;> omega
theorem mul (h : Hdr) (d a b : Fin 64) : Statement (.mul h d a b) := by
  intro h0; have := d.isLt; have := a.isLt; have := b.isLt; refine one_word ?_ ?_ <;> (try unfold rrr) <;> (try unfold ff) <;> omega
theorem mulh (h : Hdr) (d a b : Fin 64) : Statement (.mulh h d a b) := by
  intro h0; have := d.isLt; have := a.isLt; have := b.isLt; refine one_word ?_ ?_ <;> (try unfold rrr) <;> (try unfold ff) <;> omega
theorem mulhn (h : Hdr) (d a b : Fin 64) : Statement (.mulhn h d a b) := by
  intro h0; have := d.isLt; have := a.isLt; have := b.isLt; refine one_word ?_ ?_ <;> (try unfold rrr) <;> (try unfold ff) <;> omega
theorem div (h : Hdr) (a b : Fin 64) : Statement (.div h a b) := by
  intro h0; have := a.isLt; have := b.isLt; refine one_word ?_ ?_ <;> (try unfold rrr) <;> (try unfold ff) <;> omega
theorem divn (h : Hdr) (a b : Fin 64) : Statement (.divn h a b) := by
  intro h0; have := a.isLt; have := b.isLt; refine one_word ?_ ?_ <;> (try unfold rrr) <;> (try unfold ff) <;> omega
theorem rem (h : Hdr) (a b : Fin 64) : Statement (.rem h a b) := by
  intro h0; have := a.isLt; have := b.isLt; refine one_word ?_ ?_ <;> (try unfold rrr) <;> (try unfold ff) <;> omega
theorem remn (h : Hdr) (a b : Fin 64) : Statement (.remn h a b) := by
  intro h0; have := a.isLt; have := b.isLt; refine one_word ?_ ?_ <;> (try unfold rrr) <;> (try unfold ff) <;> omega
theorem and (h : Hdr) (d a b : Fin 64) : Statement (.and h d a b) := by
  intro h0; have := d.isLt; have := a.isLt; have := b.isLt; refine one_word ?_ ?_ <;> (try unfold rrr) <;> (try unfold ff) <;> omega
theorem or (h : Hdr) (d a b : Fin 64) : Statement (.or h d a b) := by
  intro h0; have := d.isLt; have := a.isLt; have := b.isLt; refine one_word ?_ ?_ <;> (try unfold rrr) <;> (try unfold ff) <;> omega
theorem xor (h : Hdr) (d a b : Fin 64) : Statement (.xor h d a b) := by
  intro h0; have := d.isLt; have := a.isLt; have := b.isLt; refine one_word ?_ ?_ <;> (try unfold rrr) <;> (try unfold ff) <;> omega
theorem andn (h : Hdr) (d a b : Fin 64) : Statement (.andn h d a b) := by
  intro h0; have := d.isLt; have := a.isLt; have := b.isLt; refine one_word ?_ ?_ <;> (try unfold rrr) <;> (try unfold ff) <;> omega
theorem shl (h : Hdr) (d a b : Fin 64) : Statement (.shl h d a b) := by
  intro h0; have := d.isLt; have := a.isLt; have := b.isLt; refine one_word ?_ ?_ <;> (try unfold rrr) <;> (try unfold ff) <;> omega
theorem shr (h : Hdr) (d a b : Fin 64) : Statement (.shr h d a b) := by
  intro h0; have := d.isLt; have := a.isLt; have := b.isLt; refine one_word ?_ ?_ <;> (try unfold rrr) <;> (try unfold ff) <;> omega
theorem sra (h : Hdr) (d a b : Fin 64) : Statement (.sra h d a b) := by
  intro h0; have := d.isLt; have := a.isLt; have := b.isLt; refine one_word ?_ ?_ <;> (try unfold rrr) <;> (try unfold ff) <;> omega
theorem min (h : Hdr) (d a b : Fin 64) : Statement (.min h d a b) := by
  intro h0; have := d.isLt; have := a.isLt; have := b.isLt; refine one_word ?_ ?_ <;> (try unfold rrr) <;> (try unfold ff) <;> omega
theorem max (h : Hdr) (d a b : Fin 64) : Statement (.max h d a b) := by
  intro h0; have := d.isLt; have := a.isLt; have := b.isLt; refine one_word ?_ ?_ <;> (try unfold rrr) <;> (try unfold ff) <;> omega
theorem minn (h : Hdr) (d a b : Fin 64) : Statement (.minn h d a b) := by
  intro h0; have := d.isLt; have := a.isLt; have := b.isLt; refine one_word ?_ ?_ <;> (try unfold rrr) <;> (try unfold ff) <;> omega
theorem maxn (h : Hdr) (d a b : Fin 64) : Statement (.maxn h d a b) := by
  intro h0; have := d.isLt; have := a.isLt; have := b.isLt; refine one_word ?_ ?_ <;> (try unfold rrr) <;> (try unfold ff) <;> omega
theorem clz (h : Hdr) (d a : Fin 64) : Statement (.clz h d a) := by
  intro h0; have := d.isLt; have := a.isLt; refine one_word ?_ ?_ <;> (try unfold rrr) <;> (try unfold ff) <;> omega
theorem ctz (h : Hdr) (d a : Fin 64) : Statement (.ctz h d a) := by
  intro h0; have := d.isLt; have := a.isLt; refine one_word ?_ ?_ <;> (try unfold rrr) <;> (try unfold ff) <;> omega
theorem popc (h : Hdr) (d a : Fin 64) : Statement (.popc h d a) := by
  intro h0; have := d.isLt; have := a.isLt; refine one_word ?_ ?_ <;> (try unfold rrr) <;> (try unfold ff) <;> omega
theorem sext (h : Hdr) (d a : Fin 64) (imm : Int) : Statement (.sext h d a imm) := by
  intro h0; simp [Instr.wf] at h0; have := d.isLt; have := a.isLt; have := unsigned_lt 6 imm; have := unsigned_lt 9 imm; have := unsigned_lt 12 imm; have := unsigned_lt 13 imm; have := unsigned_lt 18 imm; have := unsigned_lt 22 imm; have := unsigned_lt 40 imm; refine one_word ?_ ?_ <;> (try unfold rrr) <;> (try unfold ff) <;> omega
theorem csel (h : Hdr) (d a b : Fin 64) : Statement (.csel h d a b) := by
  intro h0; have := d.isLt; have := a.isLt; have := b.isLt; refine one_word ?_ ?_ <;> (try unfold rrr) <;> (try unfold ff) <;> omega
theorem lea (h : Hdr) (d a b : Fin 64) : Statement (.lea h d a b) := by
  intro h0; have := d.isLt; have := a.isLt; have := b.isLt; refine one_word ?_ ?_ <;> (try unfold rrr) <;> (try unfold ff) <;> omega
theorem wtag (h : Hdr) (d a : Fin 64) (imm : Int) : Statement (.wtag h d a imm) := by
  intro h0; simp [Instr.wf] at h0; have := d.isLt; have := a.isLt; have := unsigned_lt 6 imm; have := unsigned_lt 9 imm; have := unsigned_lt 12 imm; have := unsigned_lt 13 imm; have := unsigned_lt 18 imm; have := unsigned_lt 22 imm; have := unsigned_lt 40 imm; refine one_word ?_ ?_ <;> (try unfold rrr) <;> (try unfold ff) <;> omega
theorem wchk (h : Hdr) (d a b : Fin 64) : Statement (.wchk h d a b) := by
  intro h0; have := d.isLt; have := a.isLt; have := b.isLt; refine one_word ?_ ?_ <;> (try unfold rrr) <;> (try unfold ff) <;> omega
theorem addi (h : Hdr) (d a : Fin 64) (imm : Int) : Statement (.addi h d a imm) := by
  intro h0; have := d.isLt; have := a.isLt; have := unsigned_lt 6 imm; have := unsigned_lt 9 imm; have := unsigned_lt 12 imm; have := unsigned_lt 13 imm; have := unsigned_lt 18 imm; have := unsigned_lt 22 imm; have := unsigned_lt 40 imm; refine one_word ?_ ?_ <;> (try unfold rrr) <;> (try unfold ff) <;> omega
theorem andi (h : Hdr) (d a : Fin 64) (imm : Int) : Statement (.andi h d a imm) := by
  intro h0; simp [Instr.wf] at h0; have := d.isLt; have := a.isLt; have := unsigned_lt 6 imm; have := unsigned_lt 9 imm; have := unsigned_lt 12 imm; have := unsigned_lt 13 imm; have := unsigned_lt 18 imm; have := unsigned_lt 22 imm; have := unsigned_lt 40 imm; refine one_word ?_ ?_ <;> (try unfold rrr) <;> (try unfold ff) <;> omega
theorem ori (h : Hdr) (d a : Fin 64) (imm : Int) : Statement (.ori h d a imm) := by
  intro h0; simp [Instr.wf] at h0; have := d.isLt; have := a.isLt; have := unsigned_lt 6 imm; have := unsigned_lt 9 imm; have := unsigned_lt 12 imm; have := unsigned_lt 13 imm; have := unsigned_lt 18 imm; have := unsigned_lt 22 imm; have := unsigned_lt 40 imm; refine one_word ?_ ?_ <;> (try unfold rrr) <;> (try unfold ff) <;> omega
theorem xori (h : Hdr) (d a : Fin 64) (imm : Int) : Statement (.xori h d a imm) := by
  intro h0; simp [Instr.wf] at h0; have := d.isLt; have := a.isLt; have := unsigned_lt 6 imm; have := unsigned_lt 9 imm; have := unsigned_lt 12 imm; have := unsigned_lt 13 imm; have := unsigned_lt 18 imm; have := unsigned_lt 22 imm; have := unsigned_lt 40 imm; refine one_word ?_ ?_ <;> (try unfold rrr) <;> (try unfold ff) <;> omega
theorem shli (h : Hdr) (d a : Fin 64) (imm : Int) : Statement (.shli h d a imm) := by
  intro h0; simp [Instr.wf] at h0; have := d.isLt; have := a.isLt; have := unsigned_lt 6 imm; have := unsigned_lt 9 imm; have := unsigned_lt 12 imm; have := unsigned_lt 13 imm; have := unsigned_lt 18 imm; have := unsigned_lt 22 imm; have := unsigned_lt 40 imm; refine one_word ?_ ?_ <;> (try unfold rrr) <;> (try unfold ff) <;> omega
theorem shri (h : Hdr) (d a : Fin 64) (imm : Int) : Statement (.shri h d a imm) := by
  intro h0; simp [Instr.wf] at h0; have := d.isLt; have := a.isLt; have := unsigned_lt 6 imm; have := unsigned_lt 9 imm; have := unsigned_lt 12 imm; have := unsigned_lt 13 imm; have := unsigned_lt 18 imm; have := unsigned_lt 22 imm; have := unsigned_lt 40 imm; refine one_word ?_ ?_ <;> (try unfold rrr) <;> (try unfold ff) <;> omega
theorem srai (h : Hdr) (d a : Fin 64) (imm : Int) : Statement (.srai h d a imm) := by
  intro h0; simp [Instr.wf] at h0; have := d.isLt; have := a.isLt; have := unsigned_lt 6 imm; have := unsigned_lt 9 imm; have := unsigned_lt 12 imm; have := unsigned_lt 13 imm; have := unsigned_lt 18 imm; have := unsigned_lt 22 imm; have := unsigned_lt 40 imm; refine one_word ?_ ?_ <;> (try unfold rrr) <;> (try unfold ff) <;> omega
theorem li (h : Hdr) (d : Fin 64) (imm : Int) : Statement (.li h d imm) := by
  intro h0; have := d.isLt; have := unsigned_lt 6 imm; have := unsigned_lt 9 imm; have := unsigned_lt 12 imm; have := unsigned_lt 13 imm; have := unsigned_lt 18 imm; have := unsigned_lt 22 imm; have := unsigned_lt 40 imm; refine two_words ?_ ?_ ?_ <;> (try unfold rrr) <;> (try unfold ff) <;> omega
theorem lih (h : Hdr) (d : Fin 64) (imm : Fin 16777216) : Statement (.lih h d imm) := by
  intro h0; have := d.isLt; have := imm.isLt; refine two_words ?_ ?_ ?_ <;> (try unfold rrr) <;> (try unfold ff) <;> omega
theorem cmpEq (h : Hdr) (d a b : Fin 64) : Statement (.cmpEq h d a b) := by
  intro h0; have := d.isLt; have := a.isLt; have := b.isLt; refine one_word ?_ ?_ <;> (try unfold rrr) <;> (try unfold ff) <;> omega
theorem cmpNe (h : Hdr) (d a b : Fin 64) : Statement (.cmpNe h d a b) := by
  intro h0; have := d.isLt; have := a.isLt; have := b.isLt; refine one_word ?_ ?_ <;> (try unfold rrr) <;> (try unfold ff) <;> omega
theorem cmpLt (h : Hdr) (d a b : Fin 64) : Statement (.cmpLt h d a b) := by
  intro h0; have := d.isLt; have := a.isLt; have := b.isLt; refine one_word ?_ ?_ <;> (try unfold rrr) <;> (try unfold ff) <;> omega
theorem cmpLe (h : Hdr) (d a b : Fin 64) : Statement (.cmpLe h d a b) := by
  intro h0; have := d.isLt; have := a.isLt; have := b.isLt; refine one_word ?_ ?_ <;> (try unfold rrr) <;> (try unfold ff) <;> omega
theorem cmpLtn (h : Hdr) (d a b : Fin 64) : Statement (.cmpLtn h d a b) := by
  intro h0; have := d.isLt; have := a.isLt; have := b.isLt; refine one_word ?_ ?_ <;> (try unfold rrr) <;> (try unfold ff) <;> omega
theorem cmpLen (h : Hdr) (d a b : Fin 64) : Statement (.cmpLen h d a b) := by
  intro h0; have := d.isLt; have := a.isLt; have := b.isLt; refine one_word ?_ ?_ <;> (try unfold rrr) <;> (try unfold ff) <;> omega
theorem fcmpEq (h : Hdr) (d a b : Fin 64) : Statement (.fcmpEq h d a b) := by
  intro h0; have := d.isLt; have := a.isLt; have := b.isLt; refine one_word ?_ ?_ <;> (try unfold rrr) <;> (try unfold ff) <;> omega
theorem fcmpNe (h : Hdr) (d a b : Fin 64) : Statement (.fcmpNe h d a b) := by
  intro h0; have := d.isLt; have := a.isLt; have := b.isLt; refine one_word ?_ ?_ <;> (try unfold rrr) <;> (try unfold ff) <;> omega
theorem fcmpLt (h : Hdr) (d a b : Fin 64) : Statement (.fcmpLt h d a b) := by
  intro h0; have := d.isLt; have := a.isLt; have := b.isLt; refine one_word ?_ ?_ <;> (try unfold rrr) <;> (try unfold ff) <;> omega
theorem fcmpLe (h : Hdr) (d a b : Fin 64) : Statement (.fcmpLe h d a b) := by
  intro h0; have := d.isLt; have := a.isLt; have := b.isLt; refine one_word ?_ ?_ <;> (try unfold rrr) <;> (try unfold ff) <;> omega
theorem fcmpUn (h : Hdr) (d a b : Fin 64) : Statement (.fcmpUn h d a b) := by
  intro h0; have := d.isLt; have := a.isLt; have := b.isLt; refine one_word ?_ ?_ <;> (try unfold rrr) <;> (try unfold ff) <;> omega
theorem fadd (h : Hdr) (d a b : Fin 64) : Statement (.fadd h d a b) := by
  intro h0; have := d.isLt; have := a.isLt; have := b.isLt; refine one_word ?_ ?_ <;> (try unfold rrr) <;> (try unfold ff) <;> omega
theorem fsub (h : Hdr) (d a b : Fin 64) : Statement (.fsub h d a b) := by
  intro h0; have := d.isLt; have := a.isLt; have := b.isLt; refine one_word ?_ ?_ <;> (try unfold rrr) <;> (try unfold ff) <;> omega
theorem fmul (h : Hdr) (d a b : Fin 64) : Statement (.fmul h d a b) := by
  intro h0; have := d.isLt; have := a.isLt; have := b.isLt; refine one_word ?_ ?_ <;> (try unfold rrr) <;> (try unfold ff) <;> omega
theorem ffma (h : Hdr) (d a b : Fin 64) : Statement (.ffma h d a b) := by
  intro h0; have := d.isLt; have := a.isLt; have := b.isLt; refine one_word ?_ ?_ <;> (try unfold rrr) <;> (try unfold ff) <;> omega
theorem fmin (h : Hdr) (d a b : Fin 64) : Statement (.fmin h d a b) := by
  intro h0; have := d.isLt; have := a.isLt; have := b.isLt; refine one_word ?_ ?_ <;> (try unfold rrr) <;> (try unfold ff) <;> omega
theorem fmax (h : Hdr) (d a b : Fin 64) : Statement (.fmax h d a b) := by
  intro h0; have := d.isLt; have := a.isLt; have := b.isLt; refine one_word ?_ ?_ <;> (try unfold rrr) <;> (try unfold ff) <;> omega
theorem fcvt (h : Hdr) (d a : Fin 64) (f g : Fmt) : Statement (.fcvt h d a f g) := by
  intro h0; have := d.isLt; have := a.isLt; have := code_lt_fmt f; have := code_lt_fmt g; refine one_word ?_ ?_ <;> (try unfold rrr) <;> (try unfold ff) <;> omega
theorem ffin (h : Hdr) (d a : Fin 64) (f : Fmt) (mode : Mode) : Statement (.ffin h d a f mode) := by
  intro h0; have := d.isLt; have := a.isLt; have := code_lt_fmt f; have := code_lt_mode mode; refine one_word ?_ ?_ <;> (try unfold rrr) <;> (try unfold ff) <;> omega
theorem fcvti (h : Hdr) (d a : Fin 64) (mode : Mode) (t : ITy) : Statement (.fcvti h d a mode t) := by
  intro h0; have := d.isLt; have := a.isLt; have := code_lt_mode mode; have := code_lt_iTy t; refine one_word ?_ ?_ <;> (try unfold rrr) <;> (try unfold ff) <;> omega
theorem icvtf (h : Hdr) (d a : Fin 64) (t : ITy) : Statement (.icvtf h d a t) := by
  intro h0; have := d.isLt; have := a.isLt; have := code_lt_iTy t; refine one_word ?_ ?_ <;> (try unfold rrr) <;> (try unfold ff) <;> omega
theorem fcls (h : Hdr) (d a : Fin 64) (f : Fmt) : Statement (.fcls h d a f) := by
  intro h0; have := d.isLt; have := a.isLt; have := code_lt_fmt f; refine one_word ?_ ?_ <;> (try unfold rrr) <;> (try unfold ff) <;> omega
theorem ftail (h : Hdr) (d a : Fin 64) : Statement (.ftail h d a) := by
  intro h0; have := d.isLt; have := a.isLt; refine one_word ?_ ?_ <;> (try unfold rrr) <;> (try unfold ff) <;> omega
theorem ldsF (h : Hdr) (d a : Fin 64) (f : Fmt) : Statement (.ldsF h d a f) := by
  intro h0; have := d.isLt; have := a.isLt; have := code_lt_fmt f; refine one_word ?_ ?_ <;> (try unfold rrr) <;> (try unfold ff) <;> omega
theorem ldsI (h : Hdr) (d a : Fin 64) (t : ITy) : Statement (.ldsI h d a t) := by
  intro h0; have := d.isLt; have := a.isLt; have := code_lt_iTy t; refine one_word ?_ ?_ <;> (try unfold rrr) <;> (try unfold ff) <;> omega
theorem stsF (h : Hdr) (d a : Fin 64) (f : Fmt) (mode : Mode) : Statement (.stsF h d a f mode) := by
  intro h0; have := d.isLt; have := a.isLt; have := code_lt_fmt f; have := code_lt_mode mode; refine one_word ?_ ?_ <;> (try unfold rrr) <;> (try unfold ff) <;> omega
theorem stsI (h : Hdr) (d a : Fin 64) (t : ITy) : Statement (.stsI h d a t) := by
  intro h0; have := d.isLt; have := a.isLt; have := code_lt_iTy t; refine one_word ?_ ?_ <;> (try unfold rrr) <;> (try unfold ff) <;> omega
theorem brEq (h : Hdr) (a : Fin 64) (off : Int) : Statement (.brEq h a off) := by
  intro h0; have := a.isLt; have := unsigned_lt 6 off; have := unsigned_lt 9 off; have := unsigned_lt 12 off; have := unsigned_lt 13 off; have := unsigned_lt 18 off; have := unsigned_lt 22 off; have := unsigned_lt 40 off; refine one_word ?_ ?_ <;> (try unfold rrr) <;> (try unfold ff) <;> omega
theorem brNe (h : Hdr) (a : Fin 64) (off : Int) : Statement (.brNe h a off) := by
  intro h0; have := a.isLt; have := unsigned_lt 6 off; have := unsigned_lt 9 off; have := unsigned_lt 12 off; have := unsigned_lt 13 off; have := unsigned_lt 18 off; have := unsigned_lt 22 off; have := unsigned_lt 40 off; refine one_word ?_ ?_ <;> (try unfold rrr) <;> (try unfold ff) <;> omega
theorem brLt (h : Hdr) (a : Fin 64) (off : Int) : Statement (.brLt h a off) := by
  intro h0; have := a.isLt; have := unsigned_lt 6 off; have := unsigned_lt 9 off; have := unsigned_lt 12 off; have := unsigned_lt 13 off; have := unsigned_lt 18 off; have := unsigned_lt 22 off; have := unsigned_lt 40 off; refine one_word ?_ ?_ <;> (try unfold rrr) <;> (try unfold ff) <;> omega
theorem brGe (h : Hdr) (a : Fin 64) (off : Int) : Statement (.brGe h a off) := by
  intro h0; have := a.isLt; have := unsigned_lt 6 off; have := unsigned_lt 9 off; have := unsigned_lt 12 off; have := unsigned_lt 13 off; have := unsigned_lt 18 off; have := unsigned_lt 22 off; have := unsigned_lt 40 off; refine one_word ?_ ?_ <;> (try unfold rrr) <;> (try unfold ff) <;> omega
theorem brLe (h : Hdr) (a : Fin 64) (off : Int) : Statement (.brLe h a off) := by
  intro h0; have := a.isLt; have := unsigned_lt 6 off; have := unsigned_lt 9 off; have := unsigned_lt 12 off; have := unsigned_lt 13 off; have := unsigned_lt 18 off; have := unsigned_lt 22 off; have := unsigned_lt 40 off; refine one_word ?_ ?_ <;> (try unfold rrr) <;> (try unfold ff) <;> omega
theorem brGt (h : Hdr) (a : Fin 64) (off : Int) : Statement (.brGt h a off) := by
  intro h0; have := a.isLt; have := unsigned_lt 6 off; have := unsigned_lt 9 off; have := unsigned_lt 12 off; have := unsigned_lt 13 off; have := unsigned_lt 18 off; have := unsigned_lt 22 off; have := unsigned_lt 40 off; refine one_word ?_ ?_ <;> (try unfold rrr) <;> (try unfold ff) <;> omega
theorem jmp (h : Hdr) (off : Int) : Statement (.jmp h off) := by
  intro h0; have := unsigned_lt 6 off; have := unsigned_lt 9 off; have := unsigned_lt 12 off; have := unsigned_lt 13 off; have := unsigned_lt 18 off; have := unsigned_lt 22 off; have := unsigned_lt 40 off; refine one_word ?_ ?_ <;> (try unfold rrr) <;> (try unfold ff) <;> omega
theorem jmpi (h : Hdr) (a : Fin 64) : Statement (.jmpi h a) := by
  intro h0; have := a.isLt; refine one_word ?_ ?_ <;> (try unfold rrr) <;> (try unfold ff) <;> omega
theorem call (h : Hdr) (off : Int) : Statement (.call h off) := by
  intro h0; have := unsigned_lt 6 off; have := unsigned_lt 9 off; have := unsigned_lt 12 off; have := unsigned_lt 13 off; have := unsigned_lt 18 off; have := unsigned_lt 22 off; have := unsigned_lt 40 off; refine one_word ?_ ?_ <;> (try unfold rrr) <;> (try unfold ff) <;> omega
theorem ret (h : Hdr) : Statement (.ret h) := by
  intro h0; refine one_word ?_ ?_ <;> (try unfold rrr) <;> (try unfold ff) <;> omega
theorem loop (h : Hdr) (lc : Fin 4) (off : Int) : Statement (.loop h lc off) := by
  intro h0; have := lc.isLt; have := unsigned_lt 6 off; have := unsigned_lt 9 off; have := unsigned_lt 12 off; have := unsigned_lt 13 off; have := unsigned_lt 18 off; have := unsigned_lt 22 off; have := unsigned_lt 40 off; refine one_word ?_ ?_ <;> (try unfold rrr) <;> (try unfold ff) <;> omega
theorem lset (h : Hdr) (lc : Fin 4) (label : Fin 65536) (a : Fin 64) (drain : Fin 16384) : Statement (.lset h lc label a drain) := by
  intro h0; have := lc.isLt; have := label.isLt; have := a.isLt; have := drain.isLt; refine two_words ?_ ?_ ?_ <;> (try unfold rrr) <;> (try unfold ff) <;> omega
theorem prep (h : Hdr) : Statement (.prep h) := by
  intro h0; refine one_word ?_ ?_ <;> (try unfold rrr) <;> (try unfold ff) <;> omega
theorem xfer (h : Hdr) (d : Fin 64) (x : Latch) : Statement (.xfer h d x) := by
  intro h0; have := d.isLt; have := code_lt_latch x; refine one_word ?_ ?_ <;> (try unfold rrr) <;> (try unfold ff) <;> omega
theorem srd (h : Hdr) (d : Fin 64) (sel : Fin 4096) : Statement (.srd h d sel) := by
  intro h0; have := d.isLt; have := sel.isLt; refine one_word ?_ ?_ <;> (try unfold rrr) <;> (try unfold ff) <;> omega
theorem swr (h : Hdr) (d : Fin 64) (sel : Fin 4096) : Statement (.swr h d sel) := by
  intro h0; have := d.isLt; have := sel.isLt; refine one_word ?_ ?_ <;> (try unfold rrr) <;> (try unfold ff) <;> omega
theorem phpre (h : Hdr) (n : Fin 16) (due : Fin 1048576) : Statement (.phpre h n due) := by
  intro h0; have := n.isLt; have := due.isLt; refine two_words ?_ ?_ ?_ <;> (try unfold rrr) <;> (try unfold ff) <;> omega
theorem phadv (h : Hdr) (n : Fin 16) : Statement (.phadv h n) := by
  intro h0; have := n.isLt; refine one_word ?_ ?_ <;> (try unfold rrr) <;> (try unfold ff) <;> omega
theorem phq (h : Hdr) (d : Fin 64) (n : Fin 16) : Statement (.phq h d n) := by
  intro h0; have := d.isLt; have := n.isLt; refine one_word ?_ ?_ <;> (try unfold rrr) <;> (try unfold ff) <;> omega
theorem align (h : Hdr) : Statement (.align h) := by
  intro h0; refine one_word ?_ ?_ <;> (try unfold rrr) <;> (try unfold ff) <;> omega
theorem realign (h : Hdr) (a : Fin 64) : Statement (.realign h a) := by
  intro h0; have := a.isLt; refine one_word ?_ ?_ <;> (try unfold rrr) <;> (try unfold ff) <;> omega
theorem halt (h : Hdr) : Statement (.halt h) := by
  intro h0; refine one_word ?_ ?_ <;> (try unfold rrr) <;> (try unfold ff) <;> omega
theorem trap (h : Hdr) (code : Fin 4096) : Statement (.trap h code) := by
  intro h0; have := code.isLt; refine one_word ?_ ?_ <;> (try unfold rrr) <;> (try unfold ff) <;> omega
theorem eret (h : Hdr) : Statement (.eret h) := by
  intro h0; refine one_word ?_ ?_ <;> (try unfold rrr) <;> (try unfold ff) <;> omega
theorem fence (h : Hdr) (kind : FenceKind) (scope : Scope) : Statement (.fence h kind scope) := by
  intro h0; have := code_lt_fenceKind kind; have := code_lt_scope scope; refine one_word ?_ ?_ <;> (try unfold rrr) <;> (try unfold ff) <;> omega
theorem lfence (h : Hdr) : Statement (.lfence h) := by
  intro h0; refine one_word ?_ ?_ <;> (try unfold rrr) <;> (try unfold ff) <;> omega
theorem isync (h : Hdr) : Statement (.isync h) := by
  intro h0; refine one_word ?_ ?_ <;> (try unfold rrr) <;> (try unfold ff) <;> omega
theorem cpub (h : Hdr) (a b : Fin 64) : Statement (.cpub h a b) := by
  intro h0; have := a.isLt; have := b.isLt; refine one_word ?_ ?_ <;> (try unfold rrr) <;> (try unfold ff) <;> omega
theorem iload (h : Hdr) (a b : Fin 64) : Statement (.iload h a b) := by
  intro h0; have := a.isLt; have := b.isLt; refine one_word ?_ ?_ <;> (try unfold rrr) <;> (try unfold ff) <;> omega
theorem launch (h : Hdr) (a b q : Fin 64) (pri : Fin 8) (deps : Fin 65536) : Statement (.launch h a b q pri deps) := by
  intro h0; have := a.isLt; have := b.isLt; have := q.isLt; have := pri.isLt; have := deps.isLt; refine two_words ?_ ?_ ?_ <;> (try unfold rrr) <;> (try unfold ff) <;> omega
theorem waitg (h : Hdr) (a b : Fin 64) : Statement (.waitg h a b) := by
  intro h0; have := a.isLt; have := b.isLt; refine one_word ?_ ?_ <;> (try unfold rrr) <;> (try unfold ff) <;> omega
theorem cancel (h : Hdr) (level : Level) (a : Fin 64) : Statement (.cancel h level a) := by
  intro h0; have := code_lt_level level; have := a.isLt; refine one_word ?_ ?_ <;> (try unfold rrr) <;> (try unfold ff) <;> omega
theorem snap (h : Hdr) (a : Fin 64) : Statement (.snap h a) := by
  intro h0; have := a.isLt; refine one_word ?_ ?_ <;> (try unfold rrr) <;> (try unfold ff) <;> omega
theorem rndn (h : Hdr) (d : Fin 64) : Statement (.rndn h d) := by
  intro h0; have := d.isLt; refine one_word ?_ ?_ <;> (try unfold rrr) <;> (try unfold ff) <;> omega
theorem kmix (h : Hdr) (d a b : Fin 64) : Statement (.kmix h d a b) := by
  intro h0; have := d.isLt; have := a.isLt; have := b.isLt; refine one_word ?_ ?_ <;> (try unfold rrr) <;> (try unfold ff) <;> omega
theorem bkpt (h : Hdr) (code : Fin 4096) : Statement (.bkpt h code) := by
  intro h0; have := code.isLt; refine one_word ?_ ?_ <;> (try unfold rrr) <;> (try unfold ff) <;> omega
theorem undef (h : Hdr) (o : Fin 262144) : Statement (.undef h o) := by
  intro h0; have := o.isLt; refine one_word ?_ ?_ <;> (try unfold rrr) <;> (try unfold ff) <;> omega
theorem idleK (h : Hdr) (n : Fin 262144) : Statement (.idleK h n) := by
  intro h0; have := n.isLt; refine one_word ?_ ?_ <;> (try unfold rrr) <;> (try unfold ff) <;> omega
theorem idleD (h : Hdr) (n : Fin 262144) : Statement (.idleD h n) := by
  intro h0; have := n.isLt; refine one_word ?_ ?_ <;> (try unfold rrr) <;> (try unfold ff) <;> omega
theorem act (h : Hdr) (bank : Fin 16) (row : Fin 8192) : Statement (.act h bank row) := by
  intro h0; have := bank.isLt; have := row.isLt; refine one_word ?_ ?_ <;> (try unfold rrr) <;> (try unfold ff) <;> omega
theorem actRegister (h : Hdr) (bank : Fin 16) (a : Fin 64) : Statement (.actRegister h bank a) := by
  intro h0; have := bank.isLt; have := a.isLt; refine one_word ?_ ?_ <;> (try unfold rrr) <;> (try unfold ff) <;> omega
theorem pre (h : Hdr) (bank : Fin 16) : Statement (.pre h bank) := by
  intro h0; have := bank.isLt; refine one_word ?_ ?_ <;> (try unfold rrr) <;> (try unfold ff) <;> omega
theorem prea (h : Hdr) : Statement (.prea h) := by
  intro h0; refine one_word ?_ ?_ <;> (try unfold rrr) <;> (try unfold ff) <;> omega
theorem refb (h : Hdr) (bank : Fin 16) : Statement (.refb h bank) := by
  intro h0; have := bank.isLt; refine one_word ?_ ?_ <;> (try unfold rrr) <;> (try unfold ff) <;> omega
theorem win (h : Hdr) (kind : WinKind) (bank : Fin 16) (beats delay : Fin 64) : Statement (.win h kind bank beats delay) := by
  intro h0; have := code_lt_winKind kind; have := bank.isLt; have := beats.isLt; have := delay.isLt; refine one_word ?_ ?_ <;> (try unfold rrr) <;> (try unfold ff) <;> omega
theorem wcls (h : Hdr) (kind : WinKind) (bank : Fin 16) (all : Bool) : Statement (.wcls h kind bank all) := by
  intro h0; have := code_lt_winKind kind; have := bank.isLt; have := boolCode_lt all; refine one_word ?_ ?_ <;> (try unfold rrr) <;> (try unfold ff) <;> omega
theorem idleL (h : Hdr) (n : Fin 262144) : Statement (.idleL h n) := by
  intro h0; have := n.isLt; refine two_words ?_ ?_ ?_ <;> (try unfold rrr) <;> (try unfold ff) <;> omega
theorem vld (h : Hdr) (v : Fin 64) (m : LMem) : Statement (.vld h v m) := by
  intro h0; have := v.isLt; have := m.ax.isLt; have := m.y.isLt; have := boolCode_lt m.pi; have := unsigned_lt 22 m.disp; refine two_words ?_ ?_ ?_ <;> (try unfold rrr) <;> (try unfold ff) <;> omega
theorem vlds (h : Hdr) (v : Fin 64) (m : LMem) : Statement (.vlds h v m) := by
  intro h0; have := v.isLt; have := m.ax.isLt; have := m.y.isLt; have := boolCode_lt m.pi; have := unsigned_lt 22 m.disp; refine two_words ?_ ?_ ?_ <;> (try unfold rrr) <;> (try unfold ff) <;> omega
theorem vldg (h : Hdr) (v : Fin 64) (m : LMem) (x : Fin 64) : Statement (.vldg h v m x) := by
  intro h0; have := v.isLt; have := m.ax.isLt; have := m.y.isLt; have := boolCode_lt m.pi; have := unsigned_lt 22 m.disp; have := x.isLt; refine two_words ?_ ?_ ?_ <;> (try unfold rrr) <;> (try unfold ff) <;> omega
theorem vrd (h : Hdr) (v : Fin 64) (bank : Fin 16) (col : Fin 32) (q : Fin 4) : Statement (.vrd h v bank col q) := by
  intro h0; have := v.isLt; have := bank.isLt; have := col.isLt; have := q.isLt; refine two_words ?_ ?_ ?_ <;> (try unfold rrr) <;> (try unfold ff) <;> omega
theorem vrdBuf (h : Hdr) (bank : Fin 16) (col : Fin 32) (ax : Fin 8) : Statement (.vrdBuf h bank col ax) := by
  intro h0; have := bank.isLt; have := col.isLt; have := ax.isLt; refine two_words ?_ ?_ ?_ <;> (try unfold rrr) <;> (try unfold ff) <;> omega
theorem qld (h : Hdr) (n : Fin 16) (m : LMem) : Statement (.qld h n m) := by
  intro h0; have := n.isLt; have := m.ax.isLt; have := m.y.isLt; have := boolCode_lt m.pi; have := unsigned_lt 22 m.disp; refine two_words ?_ ?_ ?_ <;> (try unfold rrr) <;> (try unfold ff) <;> omega
theorem qcw (h : Hdr) (n : Fin 16) (a : Fin 64) : Statement (.qcw h n a) := by
  intro h0; have := n.isLt; have := a.isLt; refine two_words ?_ ?_ ?_ <;> (try unfold rrr) <;> (try unfold ff) <;> omega
theorem ldh (h : Hdr) (v : Fin 64) (m : LMem) : Statement (.ldh h v m) := by
  intro h0; have := v.isLt; have := m.ax.isLt; have := m.y.isLt; have := boolCode_lt m.pi; have := unsigned_lt 22 m.disp; refine two_words ?_ ?_ ?_ <;> (try unfold rrr) <;> (try unfold ff) <;> omega
theorem lrec (h : Hdr) (m : LMem) : Statement (.lrec h m) := by
  intro h0; have := m.ax.isLt; have := m.y.isLt; have := boolCode_lt m.pi; have := unsigned_lt 22 m.disp; refine two_words ?_ ?_ ?_ <;> (try unfold rrr) <;> (try unfold ff) <;> omega
theorem ltr (h : Hdr) (lat : OpLat) (m : LMem) : Statement (.ltr h lat m) := by
  intro h0; have := code_lt_opLat lat; have := m.ax.isLt; have := m.y.isLt; have := boolCode_lt m.pi; have := unsigned_lt 22 m.disp; refine two_words ?_ ?_ ?_ <;> (try unfold rrr) <;> (try unfold ff) <;> omega
theorem pop (h : Hdr) (v : Fin 64) (f : Fifo) : Statement (.pop h v f) := by
  intro h0; have := v.isLt; have := code_lt_fifo f; refine two_words ?_ ?_ ?_ <;> (try unfold rrr) <;> (try unfold ff) <;> omega
theorem cpyL (h : Hdr) (c : Cp) : Statement (.cpyL h c) := by
  intro h0; have := c.ys.isLt; have := c.yd.isLt; have := c.sa.isLt; have := c.da.isLt; refine two_words ?_ ?_ ?_ <;> (try unfold rrr) <;> (try unfold ff) <;> omega
theorem cpyx (h : Hdr) (c : Cp) (tg : Fin 64) : Statement (.cpyx h c tg) := by
  intro h0; have := c.ys.isLt; have := c.yd.isLt; have := c.sa.isLt; have := c.da.isLt; have := tg.isLt; refine two_words ?_ ?_ ?_ <;> (try unfold rrr) <;> (try unfold ff) <;> omega
theorem cpymL (h : Hdr) (c : Cp) (tg : Fin 64) : Statement (.cpymL h c tg) := by
  intro h0; have := c.ys.isLt; have := c.yd.isLt; have := c.sa.isLt; have := c.da.isLt; have := tg.isLt; refine two_words ?_ ?_ ?_ <;> (try unfold rrr) <;> (try unfold ff) <;> omega
theorem get (h : Hdr) (c : Cp) (tg : Fin 64) : Statement (.get h c tg) := by
  intro h0; have := c.ys.isLt; have := c.yd.isLt; have := c.sa.isLt; have := c.da.isLt; have := tg.isLt; refine two_words ?_ ?_ ?_ <;> (try unfold rrr) <;> (try unfold ff) <;> omega
theorem idleM (h : MHdr) (n : Fin 262144) : Statement (.idleM h n) := by
  intro h0; have := n.isLt; refine three_words ?_ ?_ ?_ ?_ <;> (try unfold rrr) <;> (try unfold ff) <;> omega
theorem mma (h : MHdr) (o : Mm) (al : Bool) : Statement (.mma h o al) := by
  intro h0; have := o.dt.isLt; have := o.roff.isLt; have := o.ya.isLt; have := o.yb.isLt; have := o.k.isLt; have := code_lt_msz o.msz; have := boolCode_lt o.bl; have := boolCode_lt o.z; have := boolCode_lt al; refine three_words ?_ ?_ ?_ ?_ <;> (try unfold rrr) <;> (try unfold ff) <;> omega
theorem mmag (h : MHdr) (o : Mm) : Statement (.mmag h o) := by
  intro h0; have := o.dt.isLt; have := o.roff.isLt; have := o.ya.isLt; have := o.yb.isLt; have := o.k.isLt; have := code_lt_msz o.msz; have := boolCode_lt o.bl; have := boolCode_lt o.z; refine three_words ?_ ?_ ?_ ?_ <;> (try unfold rrr) <;> (try unfold ff) <;> omega
theorem midx (h : MHdr) (v : Fin 64) : Statement (.midx h v) := by
  intro h0; have := v.isLt; refine three_words ?_ ?_ ?_ ?_ <;> (try unfold rrr) <;> (try unfold ff) <;> omega
theorem mldt (h : MHdr) (lat : OpLat) (y : Fin 256) : Statement (.mldt h lat y) := by
  intro h0; have := code_lt_opLat lat; have := y.isLt; refine three_words ?_ ?_ ?_ ?_ <;> (try unfold rrr) <;> (try unfold ff) <;> omega
theorem mzero (h : MHdr) (t : Fin 4) (msz : Msz) (roff : Fin 4) : Statement (.mzero h t msz roff) := by
  intro h0; have := t.isLt; have := code_lt_msz msz; have := roff.isLt; refine three_words ?_ ?_ ?_ ?_ <;> (try unfold rrr) <;> (try unfold ff) <;> omega
theorem mmov (h : MHdr) (dt st : Fin 4) (drow srow : Fin 64) (n : Fin 128) : Statement (.mmov h dt st drow srow n) := by
  intro h0; have := dt.isLt; have := st.isLt; have := drow.isLt; have := srow.isLt; have := n.isLt; refine three_words ?_ ?_ ?_ ?_ <;> (try unfold rrr) <;> (try unfold ff) <;> omega
theorem mrst (h : MHdr) (t : Fin 4) (label : Fin 65536) : Statement (.mrst h t label) := by
  intro h0; have := t.isLt; have := label.isLt; refine three_words ?_ ?_ ?_ ?_ <;> (try unfold rrr) <;> (try unfold ff) <;> omega
theorem mcls (h : MHdr) (t : Fin 4) (rc : Bool) : Statement (.mcls h t rc) := by
  intro h0; have := t.isLt; have := boolCode_lt rc; refine three_words ?_ ?_ ?_ ?_ <;> (try unfold rrr) <;> (try unfold ff) <;> omega
theorem idleV (h : Hdr) (n : Fin 262144) : Statement (.idleV h n) := by
  intro h0; have := n.isLt; refine two_words ?_ ?_ ?_ <;> (try unfold rrr) <;> (try unfold ff) <;> omega
theorem vadd (c : VCtl) (d a b : Fin 64) (pair : Bool) : Statement (.vadd c d a b pair) := by
  intro h0; have := c.p.isLt; have := code_lt_vTy c.ty; have := code_lt_mode c.mode; have := code_lt_tailMode c.tm; have := d.isLt; have := a.isLt; have := b.isLt; have := boolCode_lt pair; refine two_words ?_ ?_ ?_ <;> (try unfold rrr) <;> (try unfold ff) <;> omega
theorem vsub (c : VCtl) (d a b : Fin 64) (pair : Bool) : Statement (.vsub c d a b pair) := by
  intro h0; have := c.p.isLt; have := code_lt_vTy c.ty; have := code_lt_mode c.mode; have := code_lt_tailMode c.tm; have := d.isLt; have := a.isLt; have := b.isLt; have := boolCode_lt pair; refine two_words ?_ ?_ ?_ <;> (try unfold rrr) <;> (try unfold ff) <;> omega
theorem vmul (c : VCtl) (d a b : Fin 64) (pair : Bool) : Statement (.vmul c d a b pair) := by
  intro h0; have := c.p.isLt; have := code_lt_vTy c.ty; have := code_lt_mode c.mode; have := code_lt_tailMode c.tm; have := d.isLt; have := a.isLt; have := b.isLt; have := boolCode_lt pair; refine two_words ?_ ?_ ?_ <;> (try unfold rrr) <;> (try unfold ff) <;> omega
theorem vmulh (c : VCtl) (d a b : Fin 64) : Statement (.vmulh c d a b) := by
  intro h0; have := c.p.isLt; have := code_lt_vTy c.ty; have := code_lt_mode c.mode; have := code_lt_tailMode c.tm; have := d.isLt; have := a.isLt; have := b.isLt; refine two_words ?_ ?_ ?_ <;> (try unfold rrr) <;> (try unfold ff) <;> omega
theorem vmin (c : VCtl) (d a b : Fin 64) (pair : Bool) : Statement (.vmin c d a b pair) := by
  intro h0; have := c.p.isLt; have := code_lt_vTy c.ty; have := code_lt_mode c.mode; have := code_lt_tailMode c.tm; have := d.isLt; have := a.isLt; have := b.isLt; have := boolCode_lt pair; refine two_words ?_ ?_ ?_ <;> (try unfold rrr) <;> (try unfold ff) <;> omega
theorem vmax (c : VCtl) (d a b : Fin 64) (pair : Bool) : Statement (.vmax c d a b pair) := by
  intro h0; have := c.p.isLt; have := code_lt_vTy c.ty; have := code_lt_mode c.mode; have := code_lt_tailMode c.tm; have := d.isLt; have := a.isLt; have := b.isLt; have := boolCode_lt pair; refine two_words ?_ ?_ ?_ <;> (try unfold rrr) <;> (try unfold ff) <;> omega
theorem vabs (c : VCtl) (d a : Fin 64) : Statement (.vabs c d a) := by
  intro h0; have := c.p.isLt; have := code_lt_vTy c.ty; have := code_lt_mode c.mode; have := code_lt_tailMode c.tm; have := d.isLt; have := a.isLt; refine two_words ?_ ?_ ?_ <;> (try unfold rrr) <;> (try unfold ff) <;> omega
theorem vneg (c : VCtl) (d a : Fin 64) : Statement (.vneg c d a) := by
  intro h0; have := c.p.isLt; have := code_lt_vTy c.ty; have := code_lt_mode c.mode; have := code_lt_tailMode c.tm; have := d.isLt; have := a.isLt; refine two_words ?_ ?_ ?_ <;> (try unfold rrr) <;> (try unfold ff) <;> omega
theorem vadds (c : VCtl) (d a b : Fin 64) : Statement (.vadds c d a b) := by
  intro h0; have := c.p.isLt; have := code_lt_vTy c.ty; have := code_lt_mode c.mode; have := code_lt_tailMode c.tm; have := d.isLt; have := a.isLt; have := b.isLt; refine two_words ?_ ?_ ?_ <;> (try unfold rrr) <;> (try unfold ff) <;> omega
theorem vsubs (c : VCtl) (d a b : Fin 64) : Statement (.vsubs c d a b) := by
  intro h0; have := c.p.isLt; have := code_lt_vTy c.ty; have := code_lt_mode c.mode; have := code_lt_tailMode c.tm; have := d.isLt; have := a.isLt; have := b.isLt; refine two_words ?_ ?_ ?_ <;> (try unfold rrr) <;> (try unfold ff) <;> omega
theorem vaddi (c : VCtl) (d a : Fin 64) (imm : Int) : Statement (.vaddi c d a imm) := by
  intro h0; have := c.p.isLt; have := code_lt_vTy c.ty; have := code_lt_mode c.mode; have := code_lt_tailMode c.tm; have := d.isLt; have := a.isLt; have := unsigned_lt 6 imm; have := unsigned_lt 9 imm; have := unsigned_lt 12 imm; have := unsigned_lt 13 imm; have := unsigned_lt 18 imm; have := unsigned_lt 22 imm; have := unsigned_lt 40 imm; refine two_words ?_ ?_ ?_ <;> (try unfold rrr) <;> (try unfold ff) <;> omega
theorem vmov (c : VCtl) (d a : Fin 64) : Statement (.vmov c d a) := by
  intro h0; have := c.p.isLt; have := code_lt_vTy c.ty; have := code_lt_mode c.mode; have := code_lt_tailMode c.tm; have := d.isLt; have := a.isLt; refine two_words ?_ ?_ ?_ <;> (try unfold rrr) <;> (try unfold ff) <;> omega
theorem vli (c : VCtl) (d : Fin 64) (imm : Int) : Statement (.vli c d imm) := by
  intro h0; have := c.p.isLt; have := code_lt_vTy c.ty; have := code_lt_mode c.mode; have := code_lt_tailMode c.tm; have := d.isLt; have := unsigned_lt 6 imm; have := unsigned_lt 9 imm; have := unsigned_lt 12 imm; have := unsigned_lt 13 imm; have := unsigned_lt 18 imm; have := unsigned_lt 22 imm; have := unsigned_lt 40 imm; refine two_words ?_ ?_ ?_ <;> (try unfold rrr) <;> (try unfold ff) <;> omega
theorem vcls (c : VCtl) (d : Fin 16) (a : Fin 64) (imm : Fin 512) : Statement (.vcls c d a imm) := by
  intro h0; have := c.p.isLt; have := code_lt_vTy c.ty; have := code_lt_mode c.mode; have := code_lt_tailMode c.tm; have := d.isLt; have := a.isLt; have := imm.isLt; refine two_words ?_ ?_ ?_ <;> (try unfold rrr) <;> (try unfold ff) <;> omega
theorem vfma (c : VCtl) (d a b e : Fin 64) (pair : Bool) : Statement (.vfma c d a b e pair) := by
  intro h0; have := c.p.isLt; have := code_lt_vTy c.ty; have := code_lt_mode c.mode; have := code_lt_tailMode c.tm; have := d.isLt; have := a.isLt; have := b.isLt; have := e.isLt; have := boolCode_lt pair; refine two_words ?_ ?_ ?_ <;> (try unfold rrr) <;> (try unfold ff) <;> omega
theorem vfms (c : VCtl) (d a b e : Fin 64) (pair : Bool) : Statement (.vfms c d a b e pair) := by
  intro h0; have := c.p.isLt; have := code_lt_vTy c.ty; have := code_lt_mode c.mode; have := code_lt_tailMode c.tm; have := d.isLt; have := a.isLt; have := b.isLt; have := e.isLt; have := boolCode_lt pair; refine two_words ?_ ?_ ?_ <;> (try unfold rrr) <;> (try unfold ff) <;> omega
theorem vfnma (c : VCtl) (d a b e : Fin 64) (pair : Bool) : Statement (.vfnma c d a b e pair) := by
  intro h0; have := c.p.isLt; have := code_lt_vTy c.ty; have := code_lt_mode c.mode; have := code_lt_tailMode c.tm; have := d.isLt; have := a.isLt; have := b.isLt; have := e.isLt; have := boolCode_lt pair; refine two_words ?_ ?_ ?_ <;> (try unfold rrr) <;> (try unfold ff) <;> omega
theorem vfnms (c : VCtl) (d a b e : Fin 64) (pair : Bool) : Statement (.vfnms c d a b e pair) := by
  intro h0; have := c.p.isLt; have := code_lt_vTy c.ty; have := code_lt_mode c.mode; have := code_lt_tailMode c.tm; have := d.isLt; have := a.isLt; have := b.isLt; have := e.isLt; have := boolCode_lt pair; refine two_words ?_ ?_ ?_ <;> (try unfold rrr) <;> (try unfold ff) <;> omega
theorem vand (c : VCtl) (d a b : Fin 64) : Statement (.vand c d a b) := by
  intro h0; have := c.p.isLt; have := code_lt_vTy c.ty; have := code_lt_mode c.mode; have := code_lt_tailMode c.tm; have := d.isLt; have := a.isLt; have := b.isLt; refine two_words ?_ ?_ ?_ <;> (try unfold rrr) <;> (try unfold ff) <;> omega
theorem vor (c : VCtl) (d a b : Fin 64) : Statement (.vor c d a b) := by
  intro h0; have := c.p.isLt; have := code_lt_vTy c.ty; have := code_lt_mode c.mode; have := code_lt_tailMode c.tm; have := d.isLt; have := a.isLt; have := b.isLt; refine two_words ?_ ?_ ?_ <;> (try unfold rrr) <;> (try unfold ff) <;> omega
theorem vxor (c : VCtl) (d a b : Fin 64) : Statement (.vxor c d a b) := by
  intro h0; have := c.p.isLt; have := code_lt_vTy c.ty; have := code_lt_mode c.mode; have := code_lt_tailMode c.tm; have := d.isLt; have := a.isLt; have := b.isLt; refine two_words ?_ ?_ ?_ <;> (try unfold rrr) <;> (try unfold ff) <;> omega
theorem vandn (c : VCtl) (d a b : Fin 64) : Statement (.vandn c d a b) := by
  intro h0; have := c.p.isLt; have := code_lt_vTy c.ty; have := code_lt_mode c.mode; have := code_lt_tailMode c.tm; have := d.isLt; have := a.isLt; have := b.isLt; refine two_words ?_ ?_ ?_ <;> (try unfold rrr) <;> (try unfold ff) <;> omega
theorem vshl (c : VCtl) (d a b : Fin 64) : Statement (.vshl c d a b) := by
  intro h0; have := c.p.isLt; have := code_lt_vTy c.ty; have := code_lt_mode c.mode; have := code_lt_tailMode c.tm; have := d.isLt; have := a.isLt; have := b.isLt; refine two_words ?_ ?_ ?_ <;> (try unfold rrr) <;> (try unfold ff) <;> omega
theorem vshr (c : VCtl) (d a b : Fin 64) : Statement (.vshr c d a b) := by
  intro h0; have := c.p.isLt; have := code_lt_vTy c.ty; have := code_lt_mode c.mode; have := code_lt_tailMode c.tm; have := d.isLt; have := a.isLt; have := b.isLt; refine two_words ?_ ?_ ?_ <;> (try unfold rrr) <;> (try unfold ff) <;> omega
theorem vsra (c : VCtl) (d a b : Fin 64) : Statement (.vsra c d a b) := by
  intro h0; have := c.p.isLt; have := code_lt_vTy c.ty; have := code_lt_mode c.mode; have := code_lt_tailMode c.tm; have := d.isLt; have := a.isLt; have := b.isLt; refine two_words ?_ ?_ ?_ <;> (try unfold rrr) <;> (try unfold ff) <;> omega
theorem vnot (c : VCtl) (d a : Fin 64) : Statement (.vnot c d a) := by
  intro h0; have := c.p.isLt; have := code_lt_vTy c.ty; have := code_lt_mode c.mode; have := code_lt_tailMode c.tm; have := d.isLt; have := a.isLt; refine two_words ?_ ?_ ?_ <;> (try unfold rrr) <;> (try unfold ff) <;> omega
theorem vcmpEq (c : VCtl) (d : Fin 16) (a b : Fin 64) : Statement (.vcmpEq c d a b) := by
  intro h0; have := c.p.isLt; have := code_lt_vTy c.ty; have := code_lt_mode c.mode; have := code_lt_tailMode c.tm; have := d.isLt; have := a.isLt; have := b.isLt; refine two_words ?_ ?_ ?_ <;> (try unfold rrr) <;> (try unfold ff) <;> omega
theorem vcmpNe (c : VCtl) (d : Fin 16) (a b : Fin 64) : Statement (.vcmpNe c d a b) := by
  intro h0; have := c.p.isLt; have := code_lt_vTy c.ty; have := code_lt_mode c.mode; have := code_lt_tailMode c.tm; have := d.isLt; have := a.isLt; have := b.isLt; refine two_words ?_ ?_ ?_ <;> (try unfold rrr) <;> (try unfold ff) <;> omega
theorem vcmpLt (c : VCtl) (d : Fin 16) (a b : Fin 64) : Statement (.vcmpLt c d a b) := by
  intro h0; have := c.p.isLt; have := code_lt_vTy c.ty; have := code_lt_mode c.mode; have := code_lt_tailMode c.tm; have := d.isLt; have := a.isLt; have := b.isLt; refine two_words ?_ ?_ ?_ <;> (try unfold rrr) <;> (try unfold ff) <;> omega
theorem vcmpLe (c : VCtl) (d : Fin 16) (a b : Fin 64) : Statement (.vcmpLe c d a b) := by
  intro h0; have := c.p.isLt; have := code_lt_vTy c.ty; have := code_lt_mode c.mode; have := code_lt_tailMode c.tm; have := d.isLt; have := a.isLt; have := b.isLt; refine two_words ?_ ?_ ?_ <;> (try unfold rrr) <;> (try unfold ff) <;> omega
theorem vcmpUn (c : VCtl) (d : Fin 16) (a b : Fin 64) : Statement (.vcmpUn c d a b) := by
  intro h0; have := c.p.isLt; have := code_lt_vTy c.ty; have := code_lt_mode c.mode; have := code_lt_tailMode c.tm; have := d.isLt; have := a.isLt; have := b.isLt; refine two_words ?_ ?_ ?_ <;> (try unfold rrr) <;> (try unfold ff) <;> omega
theorem vsel (c : VCtl) (d a b : Fin 64) (e : Fin 16) : Statement (.vsel c d a b e) := by
  intro h0; have := c.p.isLt; have := code_lt_vTy c.ty; have := code_lt_mode c.mode; have := code_lt_tailMode c.tm; have := d.isLt; have := a.isLt; have := b.isLt; have := e.isLt; refine two_words ?_ ?_ ?_ <;> (try unfold rrr) <;> (try unfold ff) <;> omega
theorem pand (c : VCtl) (d a b : Fin 16) : Statement (.pand c d a b) := by
  intro h0; have := c.p.isLt; have := code_lt_vTy c.ty; have := code_lt_mode c.mode; have := code_lt_tailMode c.tm; have := d.isLt; have := a.isLt; have := b.isLt; refine two_words ?_ ?_ ?_ <;> (try unfold rrr) <;> (try unfold ff) <;> omega
theorem por (c : VCtl) (d a b : Fin 16) : Statement (.por c d a b) := by
  intro h0; have := c.p.isLt; have := code_lt_vTy c.ty; have := code_lt_mode c.mode; have := code_lt_tailMode c.tm; have := d.isLt; have := a.isLt; have := b.isLt; refine two_words ?_ ?_ ?_ <;> (try unfold rrr) <;> (try unfold ff) <;> omega
theorem pxor (c : VCtl) (d a b : Fin 16) : Statement (.pxor c d a b) := by
  intro h0; have := c.p.isLt; have := code_lt_vTy c.ty; have := code_lt_mode c.mode; have := code_lt_tailMode c.tm; have := d.isLt; have := a.isLt; have := b.isLt; refine two_words ?_ ?_ ?_ <;> (try unfold rrr) <;> (try unfold ff) <;> omega
theorem pandn (c : VCtl) (d a b : Fin 16) : Statement (.pandn c d a b) := by
  intro h0; have := c.p.isLt; have := code_lt_vTy c.ty; have := code_lt_mode c.mode; have := code_lt_tailMode c.tm; have := d.isLt; have := a.isLt; have := b.isLt; refine two_words ?_ ?_ ?_ <;> (try unfold rrr) <;> (try unfold ff) <;> omega
theorem pnot (c : VCtl) (d a : Fin 16) : Statement (.pnot c d a) := by
  intro h0; have := c.p.isLt; have := code_lt_vTy c.ty; have := code_lt_mode c.mode; have := code_lt_tailMode c.tm; have := d.isLt; have := a.isLt; refine two_words ?_ ?_ ?_ <;> (try unfold rrr) <;> (try unfold ff) <;> omega
theorem pset (c : VCtl) (d : Fin 16) (imm : Fin 512) : Statement (.pset c d imm) := by
  intro h0; have := c.p.isLt; have := code_lt_vTy c.ty; have := code_lt_mode c.mode; have := code_lt_tailMode c.tm; have := d.isLt; have := imm.isLt; refine two_words ?_ ?_ ?_ <;> (try unfold rrr) <;> (try unfold ff) <;> omega
theorem pmov (c : VCtl) (d a : Fin 16) : Statement (.pmov c d a) := by
  intro h0; have := c.p.isLt; have := code_lt_vTy c.ty; have := code_lt_mode c.mode; have := code_lt_tailMode c.tm; have := d.isLt; have := a.isLt; refine two_words ?_ ?_ ?_ <;> (try unfold rrr) <;> (try unfold ff) <;> omega
theorem vperm (c : VCtl) (d a b : Fin 64) : Statement (.vperm c d a b) := by
  intro h0; have := c.p.isLt; have := code_lt_vTy c.ty; have := code_lt_mode c.mode; have := code_lt_tailMode c.tm; have := d.isLt; have := a.isLt; have := b.isLt; refine two_words ?_ ?_ ?_ <;> (try unfold rrr) <;> (try unfold ff) <;> omega
theorem vshuf (c : VCtl) (d a b : Fin 64) (imm : Fin 512) : Statement (.vshuf c d a b imm) := by
  intro h0; have := c.p.isLt; have := code_lt_vTy c.ty; have := code_lt_mode c.mode; have := code_lt_tailMode c.tm; have := d.isLt; have := a.isLt; have := b.isLt; have := imm.isLt; refine two_words ?_ ?_ ?_ <;> (try unfold rrr) <;> (try unfold ff) <;> omega
theorem vsld (c : VCtl) (d a b : Fin 64) (imm : Fin 512) : Statement (.vsld c d a b imm) := by
  intro h0; have := c.p.isLt; have := code_lt_vTy c.ty; have := code_lt_mode c.mode; have := code_lt_tailMode c.tm; have := d.isLt; have := a.isLt; have := b.isLt; have := imm.isLt; refine two_words ?_ ?_ ?_ <;> (try unfold rrr) <;> (try unfold ff) <;> omega
theorem vbcst (c : VCtl) (d a : Fin 64) (imm : Fin 512) : Statement (.vbcst c d a imm) := by
  intro h0; have := c.p.isLt; have := code_lt_vTy c.ty; have := code_lt_mode c.mode; have := code_lt_tailMode c.tm; have := d.isLt; have := a.isLt; have := imm.isLt; refine two_words ?_ ?_ ?_ <;> (try unfold rrr) <;> (try unfold ff) <;> omega
theorem vrsum (c : VCtl) (a : Fin 64) : Statement (.vrsum c a) := by
  intro h0; have := c.p.isLt; have := code_lt_vTy c.ty; have := code_lt_mode c.mode; have := code_lt_tailMode c.tm; have := a.isLt; refine two_words ?_ ?_ ?_ <;> (try unfold rrr) <;> (try unfold ff) <;> omega
theorem vrmax (c : VCtl) (a : Fin 64) : Statement (.vrmax c a) := by
  intro h0; have := c.p.isLt; have := code_lt_vTy c.ty; have := code_lt_mode c.mode; have := code_lt_tailMode c.tm; have := a.isLt; refine two_words ?_ ?_ ?_ <;> (try unfold rrr) <;> (try unfold ff) <;> omega
theorem vrmin (c : VCtl) (a : Fin 64) : Statement (.vrmin c a) := by
  intro h0; have := c.p.isLt; have := code_lt_vTy c.ty; have := code_lt_mode c.mode; have := code_lt_tailMode c.tm; have := a.isLt; refine two_words ?_ ?_ ?_ <;> (try unfold rrr) <;> (try unfold ff) <;> omega
theorem vrmaxa (c : VCtl) (a : Fin 64) : Statement (.vrmaxa c a) := by
  intro h0; have := c.p.isLt; have := code_lt_vTy c.ty; have := code_lt_mode c.mode; have := code_lt_tailMode c.tm; have := a.isLt; refine two_words ?_ ?_ ?_ <;> (try unfold rrr) <;> (try unfold ff) <;> omega
theorem vcvt (c : VCtl) (d a : Fin 64) (src : VTy) (j : Fin 8) : Statement (.vcvt c d a src j) := by
  intro h0; have := c.p.isLt; have := code_lt_vTy c.ty; have := code_lt_mode c.mode; have := code_lt_tailMode c.tm; have := d.isLt; have := a.isLt; have := code_lt_vTy src; have := j.isLt; refine two_words ?_ ?_ ?_ <;> (try unfold rrr) <;> (try unfold ff) <;> omega
theorem vfin (c : VCtl) (d a : Fin 64) : Statement (.vfin c d a) := by
  intro h0; have := c.p.isLt; have := code_lt_vTy c.ty; have := code_lt_mode c.mode; have := code_lt_tailMode c.tm; have := d.isLt; have := a.isLt; refine two_words ?_ ?_ ?_ <;> (try unfold rrr) <;> (try unfold ff) <;> omega
theorem vtail (c : VCtl) (d a : Fin 64) : Statement (.vtail c d a) := by
  intro h0; have := c.p.isLt; have := code_lt_vTy c.ty; have := code_lt_mode c.mode; have := code_lt_tailMode c.tm; have := d.isLt; have := a.isLt; refine two_words ?_ ?_ ?_ <;> (try unfold rrr) <;> (try unfold ff) <;> omega
theorem vtclr (c : VCtl) (d a : Fin 64) : Statement (.vtclr c d a) := by
  intro h0; have := c.p.isLt; have := code_lt_vTy c.ty; have := code_lt_mode c.mode; have := code_lt_tailMode c.tm; have := d.isLt; have := a.isLt; refine two_words ?_ ?_ ?_ <;> (try unfold rrr) <;> (try unfold ff) <;> omega
theorem vscl (c : VCtl) (d a : Fin 64) (imm : Int) : Statement (.vscl c d a imm) := by
  intro h0; have := c.p.isLt; have := code_lt_vTy c.ty; have := code_lt_mode c.mode; have := code_lt_tailMode c.tm; have := d.isLt; have := a.isLt; have := unsigned_lt 6 imm; have := unsigned_lt 9 imm; have := unsigned_lt 12 imm; have := unsigned_lt 13 imm; have := unsigned_lt 18 imm; have := unsigned_lt 22 imm; have := unsigned_lt 40 imm; refine two_words ?_ ?_ ?_ <;> (try unfold rrr) <;> (try unfold ff) <;> omega
theorem vmaxa (c : VCtl) (a : Fin 64) : Statement (.vmaxa c a) := by
  intro h0; have := c.p.isLt; have := code_lt_vTy c.ty; have := code_lt_mode c.mode; have := code_lt_tailMode c.tm; have := a.isLt; refine two_words ?_ ?_ ?_ <;> (try unfold rrr) <;> (try unfold ff) <;> omega
theorem vqnt (c : VCtl) (d a : Fin 64) (src : VTy) (qt : Fin 4) (j : Fin 8) : Statement (.vqnt c d a src qt j) := by
  intro h0; have := c.p.isLt; have := code_lt_vTy c.ty; have := code_lt_mode c.mode; have := code_lt_tailMode c.tm; have := d.isLt; have := a.isLt; have := code_lt_vTy src; have := qt.isLt; have := j.isLt; refine two_words ?_ ?_ ?_ <;> (try unfold rrr) <;> (try unfold ff) <;> omega
theorem vradd (c : VCtl) (d a b : Fin 64) (g : Fin 256) (alt : Bool) : Statement (.vradd c d a b g alt) := by
  intro h0; have := c.p.isLt; have := code_lt_vTy c.ty; have := code_lt_mode c.mode; have := code_lt_tailMode c.tm; have := d.isLt; have := a.isLt; have := b.isLt; have := g.isLt; have := boolCode_lt alt; refine two_words ?_ ?_ ?_ <;> (try unfold rrr) <;> (try unfold ff) <;> omega
theorem vrsub (c : VCtl) (d a b : Fin 64) (g : Fin 256) (alt : Bool) : Statement (.vrsub c d a b g alt) := by
  intro h0; have := c.p.isLt; have := code_lt_vTy c.ty; have := code_lt_mode c.mode; have := code_lt_tailMode c.tm; have := d.isLt; have := a.isLt; have := b.isLt; have := g.isLt; have := boolCode_lt alt; refine two_words ?_ ?_ ?_ <;> (try unfold rrr) <;> (try unfold ff) <;> omega
theorem vexp (c : VCtl) (a : Fin 64) : Statement (.vexp c a) := by
  intro h0; have := c.p.isLt; have := code_lt_vTy c.ty; have := code_lt_mode c.mode; have := code_lt_tailMode c.tm; have := a.isLt; refine two_words ?_ ?_ ?_ <;> (try unfold rrr) <;> (try unfold ff) <;> omega
theorem vlog (c : VCtl) (a : Fin 64) : Statement (.vlog c a) := by
  intro h0; have := c.p.isLt; have := code_lt_vTy c.ty; have := code_lt_mode c.mode; have := code_lt_tailMode c.tm; have := a.isLt; refine two_words ?_ ?_ ?_ <;> (try unfold rrr) <;> (try unfold ff) <;> omega
theorem vrcp (c : VCtl) (a : Fin 64) : Statement (.vrcp c a) := by
  intro h0; have := c.p.isLt; have := code_lt_vTy c.ty; have := code_lt_mode c.mode; have := code_lt_tailMode c.tm; have := a.isLt; refine two_words ?_ ?_ ?_ <;> (try unfold rrr) <;> (try unfold ff) <;> omega
theorem vrsq (c : VCtl) (a : Fin 64) : Statement (.vrsq c a) := by
  intro h0; have := c.p.isLt; have := code_lt_vTy c.ty; have := code_lt_mode c.mode; have := code_lt_tailMode c.tm; have := a.isLt; refine two_words ?_ ?_ ?_ <;> (try unfold rrr) <;> (try unfold ff) <;> omega
theorem vsqrt (c : VCtl) (a : Fin 64) : Statement (.vsqrt c a) := by
  intro h0; have := c.p.isLt; have := code_lt_vTy c.ty; have := code_lt_mode c.mode; have := code_lt_tailMode c.tm; have := a.isLt; refine two_words ?_ ?_ ?_ <;> (try unfold rrr) <;> (try unfold ff) <;> omega
theorem vtanh (c : VCtl) (a : Fin 64) : Statement (.vtanh c a) := by
  intro h0; have := c.p.isLt; have := code_lt_vTy c.ty; have := code_lt_mode c.mode; have := code_lt_tailMode c.tm; have := a.isLt; refine two_words ?_ ?_ ?_ <;> (try unfold rrr) <;> (try unfold ff) <;> omega
theorem vsigm (c : VCtl) (a : Fin 64) : Statement (.vsigm c a) := by
  intro h0; have := c.p.isLt; have := code_lt_vTy c.ty; have := code_lt_mode c.mode; have := code_lt_tailMode c.tm; have := a.isLt; refine two_words ?_ ?_ ?_ <;> (try unfold rrr) <;> (try unfold ff) <;> omega
theorem verf (c : VCtl) (a : Fin 64) : Statement (.verf c a) := by
  intro h0; have := c.p.isLt; have := code_lt_vTy c.ty; have := code_lt_mode c.mode; have := code_lt_tailMode c.tm; have := a.isLt; refine two_words ?_ ?_ ?_ <;> (try unfold rrr) <;> (try unfold ff) <;> omega
theorem vkmix (c : VCtl) (d a b : Fin 64) : Statement (.vkmix c d a b) := by
  intro h0; have := c.p.isLt; have := code_lt_vTy c.ty; have := code_lt_mode c.mode; have := code_lt_tailMode c.tm; have := d.isLt; have := a.isLt; have := b.isLt; refine two_words ?_ ?_ ?_ <;> (try unfold rrr) <;> (try unfold ff) <;> omega
theorem vrndn (c : VCtl) : Statement (.vrndn c) := by
  intro h0; have := c.p.isLt; have := code_lt_vTy c.ty; have := code_lt_mode c.mode; have := code_lt_tailMode c.tm; refine two_words ?_ ?_ ?_ <;> (try unfold rrr) <;> (try unfold ff) <;> omega
theorem vxf (c : VCtl) (d : Fin 64) (x : Latch) : Statement (.vxf c d x) := by
  intro h0; have := c.p.isLt; have := code_lt_vTy c.ty; have := code_lt_mode c.mode; have := code_lt_tailMode c.tm; have := d.isLt; have := code_lt_latch x; refine two_words ?_ ?_ ?_ <;> (try unfold rrr) <;> (try unfold ff) <;> omega
theorem vmovt (c : VCtl) (d : Fin 64) (row : Fin 64) (t : Fin 4) : Statement (.vmovt c d row t) := by
  intro h0; have := c.p.isLt; have := code_lt_vTy c.ty; have := code_lt_mode c.mode; have := code_lt_tailMode c.tm; have := d.isLt; have := row.isLt; have := t.isLt; refine two_words ?_ ?_ ?_ <;> (try unfold rrr) <;> (try unfold ff) <;> omega
theorem idleS (h : Hdr) (n : Fin 262144) : Statement (.idleS h n) := by
  intro h0; have := n.isLt; refine two_words ?_ ?_ ?_ <;> (try unfold rrr) <;> (try unfold ff) <;> omega
theorem vst (h : Hdr) (m : SMem) : Statement (.vst h m) := by
  intro h0; have := m.v.isLt; have := m.ax.isLt; have := m.y.isLt; have := m.s.isLt; have := m.p.isLt; have := boolCode_lt m.pi; have := unsigned_lt 9 m.disp; have := code_lt_vTy m.ty; have := code_lt_mode m.mode; refine two_words ?_ ?_ ?_ <;> (try unfold rrr) <;> (try unfold ff) <;> omega
theorem vsts (h : Hdr) (m : SMem) : Statement (.vsts h m) := by
  intro h0; have := m.v.isLt; have := m.ax.isLt; have := m.y.isLt; have := m.s.isLt; have := m.p.isLt; have := boolCode_lt m.pi; have := unsigned_lt 9 m.disp; have := code_lt_vTy m.ty; have := code_lt_mode m.mode; refine two_words ?_ ?_ ?_ <;> (try unfold rrr) <;> (try unfold ff) <;> omega
theorem vstc (h : Hdr) (m : SMem) : Statement (.vstc h m) := by
  intro h0; have := m.v.isLt; have := m.ax.isLt; have := m.y.isLt; have := m.s.isLt; have := m.p.isLt; have := boolCode_lt m.pi; have := unsigned_lt 9 m.disp; have := code_lt_vTy m.ty; have := code_lt_mode m.mode; refine two_words ?_ ?_ ?_ <;> (try unfold rrr) <;> (try unfold ff) <;> omega
theorem vwr (h : Hdr) (v : Fin 64) (bank : Fin 16) (col : Fin 32) (q : Fin 4) (buf : Bool) (ax : Fin 8) : Statement (.vwr h v bank col q buf ax) := by
  intro h0; have := v.isLt; have := bank.isLt; have := col.isLt; have := q.isLt; have := boolCode_lt buf; have := ax.isLt; refine two_words ?_ ?_ ?_ <;> (try unfold rrr) <;> (try unfold ff) <;> omega
theorem sth (h : Hdr) (ax : Fin 8) (pi : Bool) (y : Fin 256) (fmt s : Fin 256) : Statement (.sth h ax pi y fmt s) := by
  intro h0; have := ax.isLt; have := boolCode_lt pi; have := y.isLt; have := fmt.isLt; have := s.isLt; refine two_words ?_ ?_ ?_ <;> (try unfold rrr) <;> (try unfold ff) <;> omega
theorem push (h : Hdr) (v : Fin 64) (f : Fifo) : Statement (.push h v f) := by
  intro h0; have := v.isLt; have := code_lt_fifo f; refine two_words ?_ ?_ ?_ <;> (try unfold rrr) <;> (try unfold ff) <;> omega
theorem put (h : Hdr) (c : Cp) (tg : Fin 64) : Statement (.put h c tg) := by
  intro h0; have := c.ys.isLt; have := c.yd.isLt; have := c.sa.isLt; have := c.da.isLt; have := tg.isLt; refine two_words ?_ ?_ ?_ <;> (try unfold rrr) <;> (try unfold ff) <;> omega
theorem sig (h : Hdr) (o : At) (op : SigOp) : Statement (.sig h o op) := by
  intro h0; have := o.a.isLt; have := o.b.isLt; have := o.ax.isLt; have := code_lt_scope o.scope; have := code_lt_ord o.ord; have := code_lt_size o.size; have := code_lt_sigOp op; refine two_words ?_ ?_ ?_ <;> (try unfold rrr) <;> (try unfold ff) <;> omega
theorem amo (h : Hdr) (o : At) (op : AmoOp) (old : Bool) : Statement (.amo h o op old) := by
  intro h0; have := o.a.isLt; have := o.b.isLt; have := o.ax.isLt; have := code_lt_scope o.scope; have := code_lt_ord o.ord; have := code_lt_size o.size; have := code_lt_amoOp op; have := boolCode_lt old; refine two_words ?_ ?_ ?_ <;> (try unfold rrr) <;> (try unfold ff) <;> omega
theorem cas (h : Hdr) (o : At) (old : Bool) : Statement (.cas h o old) := by
  intro h0; have := o.a.isLt; have := o.b.isLt; have := o.ax.isLt; have := code_lt_scope o.scope; have := code_lt_ord o.ord; have := code_lt_size o.size; have := boolCode_lt old; refine two_words ?_ ?_ ?_ <;> (try unfold rrr) <;> (try unfold ff) <;> omega
theorem bardef (h : Hdr) (a : Fin 64) (ax : Fin 8) (scope : Scope) : Statement (.bardef h a ax scope) := by
  intro h0; have := a.isLt; have := ax.isLt; have := code_lt_scope scope; refine two_words ?_ ?_ ?_ <;> (try unfold rrr) <;> (try unfold ff) <;> (try simp only [Size.code]) <;> omega
theorem bararv (h : Hdr) (ax : Fin 8) (scope : Scope) : Statement (.bararv h ax scope) := by
  intro h0; have := ax.isLt; have := code_lt_scope scope; refine two_words ?_ ?_ ?_ <;> (try unfold rrr) <;> (try unfold ff) <;> (try simp only [Size.code]) <;> omega
theorem barwt (h : Hdr) (ax : Fin 8) (scope : Scope) : Statement (.barwt h ax scope) := by
  intro h0; have := ax.isLt; have := code_lt_scope scope; refine two_words ?_ ?_ ?_ <;> (try unfold rrr) <;> (try unfold ff) <;> (try simp only [Size.code]) <;> omega
theorem supdSgd (h : Hdr) (m : UMem) : Statement (.supdSgd h m) := by
  intro h0; have := m.v.isLt; have := m.ax.isLt; have := m.y.isLt; have := m.a.isLt; have := boolCode_lt m.pi; have := unsigned_lt 13 m.disp; have := code_lt_mode m.mode; refine two_words ?_ ?_ ?_ <;> (try unfold rrr) <;> (try unfold ff) <;> omega
theorem supdMom (h : Hdr) (m : UMem) (b : Fin 64) : Statement (.supdMom h m b) := by
  intro h0; have := m.v.isLt; have := m.ax.isLt; have := m.y.isLt; have := m.a.isLt; have := boolCode_lt m.pi; have := unsigned_lt 13 m.disp; have := code_lt_mode m.mode; have := b.isLt; refine two_words ?_ ?_ ?_ <;> (try unfold rrr) <;> (try unfold ff) <;> omega
theorem coll (h : Hdr) (op : CollOp) (a : Fin 64) (y : Fin 256) (b : Fin 64) : Statement (.coll h op a y b) := by
  intro h0; have := code_lt_collOp op; have := a.isLt; have := y.isLt; have := b.isLt; refine two_words ?_ ?_ ?_ <;> (try unfold rrr) <;> (try unfold ff) <;> omega
theorem cpyS (h : Hdr) (c : Cp) : Statement (.cpyS h c) := by
  intro h0; have := c.ys.isLt; have := c.yd.isLt; have := c.sa.isLt; have := c.da.isLt; refine two_words ?_ ?_ ?_ <;> (try unfold rrr) <;> (try unfold ff) <;> omega
theorem cpymS (h : Hdr) (c : Cp) (tg : Fin 64) : Statement (.cpymS h c tg) := by
  intro h0; have := c.ys.isLt; have := c.yd.isLt; have := c.sa.isLt; have := c.da.isLt; have := tg.isLt; refine two_words ?_ ?_ ?_ <;> (try unfold rrr) <;> (try unfold ff) <;> omega
theorem tokenArrival : Statement .tokenArrival := fun _ _ h => nomatch h
theorem latchEntryArrival : Statement .latchEntryArrival := fun _ _ h => nomatch h
theorem scaleBypassEntryAvailable : Statement .scaleBypassEntryAvailable := fun _ _ h => nomatch h
theorem realignmentCycle : Statement .realignmentCycle := fun _ _ h => nomatch h
theorem stall : Statement .stall := fun _ _ h => nomatch h
theorem unitCompletion : Statement .unitCompletion := fun _ _ h => nomatch h
theorem workRecordCompletion : Statement .workRecordCompletion := fun _ _ h => nomatch h
theorem deferredFaultReport : Statement .deferredFaultReport := fun _ _ h => nomatch h
theorem refresh : Statement .refresh := fun _ _ h => nomatch h
theorem keeperRefresh : Statement .keeperRefresh := fun _ _ h => nomatch h
theorem farLate : Statement .farLate := fun _ _ h => nomatch h
theorem phpreDueDeadline : Statement .phpreDueDeadline := fun _ _ h => nomatch h
theorem wainBeat : Statement .wainBeat := fun _ _ h => nomatch h
theorem wainReady : Statement .wainReady := fun _ _ h => nomatch h
theorem dualWrite : Statement .dualWrite := fun _ _ h => nomatch h
theorem windowBeat : Statement .windowBeat := fun _ _ h => nomatch h
theorem farPathDelivery : Statement .farPathDelivery := fun _ _ h => nomatch h
theorem writeAcknowledgement : Statement .writeAcknowledgement := fun _ _ h => nomatch h
theorem copyBlock : Statement .copyBlock := fun _ _ h => nomatch h
theorem copyRetirement : Statement .copyRetirement := fun _ _ h => nomatch h
theorem incomingPut : Statement .incomingPut := fun _ _ h => nomatch h
theorem incomingGet : Statement .incomingGet := fun _ _ h => nomatch h
theorem getResponse : Statement .getResponse := fun _ _ h => nomatch h
theorem atomicPerform : Statement .atomicPerform := fun _ _ h => nomatch h
theorem atomicReport : Statement .atomicReport := fun _ _ h => nomatch h
theorem barrierRelease : Statement .barrierRelease := fun _ _ h => nomatch h
theorem collectiveClose : Statement .collectiveClose := fun _ _ h => nomatch h
theorem gatherComplete : Statement .gatherComplete := fun _ _ h => nomatch h
theorem mmaBlockFault : Statement .mmaBlockFault := fun _ _ h => nomatch h
theorem frontierRefresh : Statement .frontierRefresh := fun _ _ h => nomatch h
theorem codeRangeDiscard : Statement .codeRangeDiscard := fun _ _ h => nomatch h
theorem bind : Statement .bind := fun _ _ h => nomatch h
theorem objectLoadComplete : Statement .objectLoadComplete := fun _ _ h => nomatch h
theorem preempt : Statement .preempt := fun _ _ h => nomatch h
theorem preemptionRequest : Statement .preemptionRequest := fun _ _ h => nomatch h
theorem forcedStop : Statement .forcedStop := fun _ _ h => nomatch h
theorem saveImage : Statement .saveImage := fun _ _ h => nomatch h
theorem resume : Statement .resume := fun _ _ h => nomatch h
theorem hold : Statement .hold := fun _ _ h => nomatch h
theorem release : Statement .release := fun _ _ h => nomatch h
theorem kill : Statement .kill := fun _ _ h => nomatch h
theorem fallow : Statement .fallow := fun _ _ h => nomatch h
theorem fallowPassComplete : Statement .fallowPassComplete := fun _ _ h => nomatch h
theorem launchPlacement : Statement .launchPlacement := fun _ _ h => nomatch h
theorem schedulingPass : Statement .schedulingPass := fun _ _ h => nomatch h
theorem sliceEnd : Statement .sliceEnd := fun _ _ h => nomatch h
theorem leaderHandover : Statement .leaderHandover := fun _ _ h => nomatch h
theorem partitionFormation : Statement .partitionFormation := fun _ _ h => nomatch h
theorem partitionRelease : Statement .partitionRelease := fun _ _ h => nomatch h
theorem vaultPassComplete : Statement .vaultPassComplete := fun _ _ h => nomatch h
theorem rootLaunchPlacement : Statement .rootLaunchPlacement := fun _ _ h => nomatch h
theorem handlerInstall : Statement .handlerInstall := fun _ _ h => nomatch h
theorem loanGrant : Statement .loanGrant := fun _ _ h => nomatch h
theorem loanRecall : Statement .loanRecall := fun _ _ h => nomatch h
theorem snapshotReserve : Statement .snapshotReserve := fun _ _ h => nomatch h
theorem snapshotStoragePath : Statement .snapshotStoragePath := fun _ _ h => nomatch h
theorem noiseMode : Statement .noiseMode := fun _ _ h => nomatch h
theorem hostRelease : Statement .hostRelease := fun _ _ h => nomatch h
theorem dieDrain : Statement .dieDrain := fun _ _ h => nomatch h
theorem attestationReport : Statement .attestationReport := fun _ _ h => nomatch h
theorem plim : Statement .plim := fun _ _ h => nomatch h
theorem lattol : Statement .lattol := fun _ _ h => nomatch h
theorem hostBar2Access : Statement .hostBar2Access := fun _ _ h => nomatch h
theorem snapAccept : Statement .snapAccept := fun _ _ h => nomatch h
theorem snapshotOpen : Statement .snapshotOpen := fun _ _ h => nomatch h
theorem snapshotDrained : Statement .snapshotDrained := fun _ _ h => nomatch h
theorem gleanerRewrite : Statement .gleanerRewrite := fun _ _ h => nomatch h
theorem scrub : Statement .scrub := fun _ _ h => nomatch h
theorem budgetPeriod : Statement .budgetPeriod := fun _ _ h => nomatch h
theorem powerGood : Statement .powerGood := fun _ _ h => nomatch h
theorem dieReset : Statement .dieReset := fun _ _ h => nomatch h
theorem linkRetrain : Statement .linkRetrain := fun _ _ h => nomatch h
theorem resetNotice : Statement .resetNotice := fun _ _ h => nomatch h
theorem linkDownTimeout : Statement .linkDownTimeout := fun _ _ h => nomatch h
theorem peerPackageTimeout : Statement .peerPackageTimeout := fun _ _ h => nomatch h
theorem vaultTemperatureRead : Statement .vaultTemperatureRead := fun _ _ h => nomatch h
theorem throttleStep : Statement .throttleStep := fun _ _ h => nomatch h
theorem throttleRise : Statement .throttleRise := fun _ _ h => nomatch h
theorem pause : Statement .pause := fun _ _ h => nomatch h
theorem pauseEnd : Statement .pauseEnd := fun _ _ h => nomatch h
theorem powerLimitCheck : Statement .powerLimitCheck := fun _ _ h => nomatch h
theorem thermalTrip : Statement .thermalTrip := fun _ _ h => nomatch h
theorem idleStateEntry : Statement .idleStateEntry := fun _ _ h => nomatch h
theorem loggedWordsSupply : Statement .loggedWordsSupply := fun _ _ h => nomatch h
theorem managementSession : Statement .managementSession := fun _ _ h => nomatch h

end Encoding

end Sys2Proof.Laws
end

