-- ==== Sys2Proof/Laws/Streams.lean ====
section
/-! SUPPORT. What the shared forms of D, L, M, V and S do where they complete, and of the idles, said once. -/
namespace Sys2Proof.Machine

/-! ## Rows that are read (R48, R240) -/

/-- Where nothing is pending on the rows that it reads, an attempt is as it would be without the early-read rule. -/
theorem Attempt.reads_clear {a : Attempt} {u : UnitSt} {now x : Int} {rows : List (Fin 256)} (h : u.rowsClear now rows x = true) :
    a.reads u now rows x = a := by
  simp only [UnitSt.rowsClear] at h
  simp only [Attempt.reads]
  split at h
  · next e => simp only [e]
  · cases h
/-- Where its rows stand, a V attempt is as it would be. -/
theorem Attempt.readsV_stand {a : Attempt} {u : UnitSt} {now x : Int} {rows : List (Fin 256)} (h : u.rowsStand now rows x = true) :
    a.readsV u now rows x = a := by simp only [Attempt.readsV, h, if_true]
theorem Attempt.readsAt_clear {a : Attempt} {u : UnitSt} {now : Int} {rows : List (Fin 256 × Int)} (h : u.rowsClearAt now rows = true) :
    a.readsAt u now rows = a := by
  induction rows with
  | nil => rfl
  | cons r l ih =>
    simp only [UnitSt.rowsClearAt, List.all_cons, Bool.and_eq_true] at h
    simp only [Attempt.readsAt, List.foldr_cons] at ih ⊢
    rw [ih h.2, Attempt.reads_clear h.1]

/-! ## V -/

/-- An instruction of V that is ready, meets no condition and no fault of its own, and whose effect lies in its unit. -/
theorem issueV_issues {s : State} {c : VCtl} {rv : List (Fin 64)} {f : State → Col → UnitSt → Int → Attempt} {a : Attempt}
    (h : s.clear .v c.sync) (hr : s.my.rowsStand s.t (s.my.vRows rv) = true) (g : (f s s.me s.my s.t).free)
    (e : s.issuedWith .v c.sync 2 (f s s.me s.my s.t) = s.issued .v c.sync 2 a) :
    done (issueV c rv f) s = .next (s.issued .v c.sync 2 a) :=
  issueAs_issues h (by simpa only [Attempt.readsV_stand hr] using g) (by simpa only [Attempt.readsV_stand hr] using e)

/-- The register o after r. -/
def regUp (r : Fin 64) (o : Nat) : Fin 64 := Fin.ofNat 64 (r.val + o)
/-- The lanes of a lane form, o registers on: selected ones from `f`, the others zero, which the write leaves out. -/
def laneResults (u : UnitSt) (c : VCtl) (srcs : List (Fin 64)) (f : List Pair → Pair × NumBits) (o : Nat) : List (Pair × NumBits) :=
  (List.range c.ty.lanes).map (fun k => if u.gov c k then f ((srcs.map (fun r => u.v (regUp r o))).map (fun r => r.pair c.ty.width k)) else intLane 0)
/-- Their sticky bits. -/
def laneFlags (l : List (Pair × NumBits)) : NumBits := l.foldl (fun a x => a ||| x.2) 0

/-- A lane form without PAIR leaves pending its write of the selected lanes, and the sticky bits of those lanes. -/
theorem vlanes_completes {s : State} {c : VCtl} {n : Nat} {d : Fin 64} {srcs : List (Fin 64)} {f : List Pair → Pair × NumBits}
    (hc : s.clear .v c.sync) (hb : s.my.vReady s.t n (srcs.map (regUp · 0)) [regUp d 0] [c.p] []) :
    done (vlanes c n false d srcs f) s = .next (s.issued .v c.sync 2
      { eff := s.lands .v (laneEff s.my c.ty (regUp d 0) (s.my.gov c) ((laneResults s.my c srcs f 0).map (·.1))) n ::
          numstAt (s.t + n) .v (0 ||| laneFlags (laneResults s.my c srcs f 0)), sig := n }) := by
  obtain ⟨hb, hr⟩ := hb
  refine issueV_issues hc (by simpa [regUp] using hr) ⟨rfl, rfl, ?_, rfl⟩ ?_
  · simpa [regUp] using hb
  · rw [issuedWith_quiet rfl rfl]; rfl
/-- With PAIR it does so on two registers. -/
theorem vlanes_pair_completes {s : State} {c : VCtl} {n : Nat} {d : Fin 64} {srcs : List (Fin 64)} {f : List Pair → Pair × NumBits}
    (hc : s.clear .v c.sync)
    (hb : s.my.vReady s.t n (srcs.map (regUp · 0) ++ srcs.map (regUp · 1)) [regUp d 0, regUp d 1] [c.p] []) :
    done (vlanes c n true d srcs f) s = .next (s.issued .v c.sync 2
      { eff := [s.lands .v (laneEff s.my c.ty (regUp d 0) (s.my.gov c) ((laneResults s.my c srcs f 0).map (·.1))) n,
                s.lands .v (laneEff s.my c.ty (regUp d 1) (s.my.gov c) ((laneResults s.my c srcs f 1).map (·.1))) n] ++
          numstAt (s.t + n) .v (0 ||| laneFlags (laneResults s.my c srcs f 0) ||| laneFlags (laneResults s.my c srcs f 1)), sig := n }) := by
  obtain ⟨hb, hr⟩ := hb
  refine issueV_issues hc (by simpa [regUp] using hr) ⟨rfl, rfl, ?_, rfl⟩ ?_
  · simpa [regUp] using hb
  · rw [issuedWith_quiet rfl rfl]; rfl
/-- A form that writes a predicate, lane by lane. -/
theorem vpred_completes {s : State} {c : VCtl} {n : Nat} {d : Fin 16} {rv : List (Fin 64)} {rp : List (Fin 16)} {f : UnitSt → Nat → Bool}
    (hc : s.clear .v c.sync) (hb : s.my.vReady s.t 2 rv [] (c.p :: rp) [d]) :
    done (vpred c n d rv rp f) s = .next (s.issued .v c.sync 2
      { eff := [s.lands .v (.pred (s.my.regs.physP d) (BitVec.ofNat 1024 (packNat 1 ((List.range n).map (fun k => boolCode (s.my.gov c k)))))
          (BitVec.ofNat 1024 (packNat 1 ((List.range n).map (fun k => boolCode (f s.my k)))))) 2], sig := 2 }) :=
  issueV_issues hc hb.2 ⟨rfl, rfl, hb.1, rfl⟩ (by rw [issuedWith_quiet rfl rfl]; rfl)
/-- A predicate form. -/
theorem pform_completes {s : State} {c : VCtl} {d : Fin 16} {ps : List (Fin 16)} {f : UnitSt → BitVec 1024}
    (hc : s.clear .v c.sync) (hb : s.my.vBusy s.t 2 [] [] (c.p :: ps) [d] = none) :
    done (pform c d ps f) s = .next (s.issued .v c.sync 2
      { eff := [s.lands .v (.pred (s.my.regs.physP d) (s.my.p c.p) (f s.my)) 2], sig := 2 }) :=
  issueAs_issues hc ⟨rfl, rfl, hb, rfl⟩ (by rw [issuedWith_quiet rfl rfl]; rfl)
/-- A move of lanes. -/
theorem vmove_completes {s : State} {c : VCtl} {n : Nat} {d : Fin 64} {rv : List (Fin 64)} {rp : List (Fin 16)} {f : UnitSt → Nat → Pair}
    (hc : s.clear .v c.sync) (hb : s.my.vReady s.t n rv [d] (c.p :: rp) []) :
    done (vmove c n d rv rp f) s = .next (s.issued .v c.sync 2
      { eff := [s.lands .v (laneEff s.my c.ty d (s.my.gov c) ((List.range c.ty.lanes).map (f s.my))) n], sig := n }) :=
  issueV_issues hc hb.2 ⟨rfl, rfl, hb.1, rfl⟩ (by rw [issuedWith_quiet rfl rfl]; rfl)
/-- A form with a latch destination. -/
theorem vlatch_completes {s : State} {c : VCtl} {x : Latch} {rv : List (Fin 64)} {f : State → UnitSt → Row × NumBits} {rdy : UnitSt → Bool}
    {more : Col → UnitSt → State → Act} {also : State → Int → UnitSt → UnitSt} (hc : s.clear .v c.sync) (hb : s.my.vReady s.t 1 rv [] [c.p] [])
    (hl : s.my.latchFull x = false) (hr : rdy s.my = true) :
    done (vlatch c x rv f rdy more also) s = .next (s.issuedWith .v c.sync 2
      { unit := fun u => also s s.t (u.pushLatch x (f s s.my).1), eff := numstAt (s.t + 1) .v (f s s.my).2, more := more s.me s.my s }) := by
  have e : (if s.my.latchFull x then some Miss.latch else if rdy s.my then none else some Miss.busy) = none := by simp [hl, hr]
  simp only [vlatch, issueV]
  refine (issueAs_completes hc ?_).trans ?_
  · rw [Attempt.readsV_stand hb.2]; exact ⟨rfl, rfl, by simp only [hb.1, e], rfl⟩
  · rw [Attempt.readsV_stand hb.2]; rfl

/-! ## D and M -/

/-- A row command of D that the keeper does not hold off and that the guard lets through. -/
theorem bankCommand_completes {s : State} {h : Hdr} {cmd : Cmd} {b : Fin 16} {row : UnitSt → Fin 8192} (hc : s.clear .d h.sync)
    (hk : (s.vault s.me).keeperHolds b s.t = false) (hg : (s.vault s.me).guard cmd b s.t = none) :
    done (bankCommand h cmd b row) s = .next (perform (onVault s.me (fun v => v.command cmd b (row s.my) s.my.span s.t)) (s.issued .d h.sync 1 {})) := by
  refine (issueAs_completes hc ⟨rfl, rfl, ?_, hg⟩).trans rfl
  simp only [hk]; rfl
/-- The guard refuses: GUARD, and nothing of the bank. -/
theorem bankCommand_faults {s : State} {h : Hdr} {cmd : Cmd} {b : Fin 16} {row : UnitSt → Fin 8192} {e : FaultRec} (hc : s.clear .d h.sync)
    (hk : (s.vault s.me).keeperHolds b s.t = false) (hg : (s.vault s.me).guard cmd b s.t = some e) :
    done (bankCommand h cmd b row) s = .next (perform (takeFault s.me .d e) s) := by
  refine issueAs_fault hc rfl rfl ?_ hg
  simp only [hk]; rfl
/-- A write of a restart register. -/
theorem restartWrite_completes {s : State} {h : MHdr} {t : Fin 4} {f : Dword → Dword} (hc : s.clear .m h.sync) (hb : s.my.eng.mbusy ≤ s.t) :
    done (restartWrite h t f) s = .next (s.issued .m h.sync 3
      { eff := [s.lands .m (.spec (Fin.ofNat 4096 (0x034 + t.val)) (f (s.my.regs.trs[Fin.ofNat 3 (t.val - 1)]))) 1], unit := fun u => u.holdEngine (s.t + 1) }) := by
  refine issueAs_issues hc ⟨rfl, rfl, ?_, rfl⟩ (by rw [issuedWith_quiet rfl rfl]; rfl)
  simp only [Int.not_lt.mpr hb, if_false]

/-! ## Idles, copies and words -/

/-- An idle that is no realignment point changes nothing but its tokens and its place. -/
theorem idle_completes {s : State} {x : Stream} {sync : Fin 16} {len : Nat} {n : Fin 262144} (hc : s.clear x sync) (hn : n.val ≠ 0x3FFFF)
    (hm : x = .m → s.my.eng.faulting s.t = none) :
    done (idle x sync len n) s = .next (s.issued x sync len {}) := by
  have e : (n.val == 0x3FFFF) = false := by simpa using hn
  have b : (if x == .m then s.my.eng.faulting s.t else none) = none := by
    by_cases k : x = .m
    · simp [hm k]
    · simp [k]
  refine issueAs_issues hc ?_ ?_
  · simp only [e, b]; exact ⟨rfl, rfl, rfl, rfl⟩
  · simp only [e, b]; rfl
/-- A copy instruction whose push meets nothing. -/
theorem copyPush_completes {s : State} {x : Stream} {h : Hdr} {op : Fin 5} {k : Cp} {tg : Option (Fin 64)} {a : Attempt} (hc : s.clear x h.sync)
    (ha : s.pushCopy s.me s.my x s.t (s.pushOf s.me s.my x op k tg) = a)
    (hf : a.free) : done (copyPush x h op k tg) s = .next (s.issuedWith x h.sync 2 a) := by
  subst ha
  exact issueAs_completes hc hf
/-- An operation on a word that meets nothing. -/
theorem wordOp_completes {s : State} {h : Hdr} {o : At} {op : UnitSt → AtomOp} {old : Bool} {a : Attempt} (hc : s.clear .s h.sync)
    (ha : s.atomic s.me s.my s.t (s.atomFault s.me s.my (s.homeWord s.me (s.my.sd o.a)) (s.my.regs.as[o.ax]) (Size.bytes o.size)) (s.homeWord s.me (s.my.sd o.a)) (s.my.regs.as[o.ax]) (op s.my) o.size old
      (o.ord == .rel || o.ord == .sc) (o.ord == .acq || o.ord == .sc) (o.ord == .sc) o.scope id = a)
    (hf : a.free) : done (wordOp h o op old) s = .next (s.issuedWith .s h.sync 2 a) := by
  subst ha
  exact issueAs_completes hc hf

end Sys2Proof.Machine
end

