-- ==== Sys2Proof/Tests/Slice0.lean ====
section
/-! SUPPORT. Tests of the model: words decoded by the encoding tables, refusals, ill-formed terms, one step of an instruction against what
its rule says, and for every statement a state that meets its hypotheses. -/
set_option Elab.async false
open Sys2Proof Sys2Proof.Machine

/-! ## Small states -/

def h0 : Hdr := { sync := 0, idle := 0 }
def k0 : MHdr := { sync := 0, stamp := 0 }
def vc (t : VTy) : VCtl := { sync := 0, idle := 0, ty := t, p := 3, mode := .rne, tm := .keep }
def z : State := State.reset
/-- Reset, with the unit of column 0 changed. -/
def onU (f : UnitSt → UnitSt) : State := { z with units := z.units.set 0 (f .reset) }
/-- A state with an event to execute. -/
def evS (e : Ev) (s : State := z) : State := { s with ev := e }
/-- Column 0 in supervisor state. -/
def svS : State := onU (fun u => { u with frm := { u.frm with insv := true } })
/-- Column 0 timed. -/
def timedS : State := onU (fun u => { u with ctl := { u.ctl with timed := true } })
/-- A slot of column 0 in a state. -/
def slotS (st : SlotState) (s : State := z) : State := { s with slots := s.slots.set 0 { s.slot 0 with st := st } }
/-- Column 0 with scalar registers that hold given data. -/
def regS (l : List (Fin 64 × Dword)) : State :=
  onU (fun u => { u with regs := { u.regs with s := l.foldl (fun v x => v.set x.1 { data := x.2, tail := 0 }) u.regs.s } })
/-- A layout record: lane type, width class, rows, columns, base, no clipping. -/
def recW (lt wcl rows cols base : Nat) : BitVec 512 :=
  BitVec.ofNat 512 (lt * 2 ^ 420 + wcl * 2 ^ 416 + cols * 2 ^ 400 + rows * 2 ^ 384 + cols * 2 ^ 368 + rows * 2 ^ 352 + base)
/-- A partition of column 0 alone. -/
def part0 : Part :=
  { num := 7, tenant := 0, cols := [0], ref := 0, floor := 600, mhz := 1200, cyc := 4096, acc := 0, paused := false, offs := .replicate 4 0, queues := [(0, 1)],
    handler := none, board := [], pubs := [], heated := [], pausedAt := 0, pausedBy := [], atFloor := none, stepped := 0, noise := 0, closing := false }
/-- A job whose map gives page 0 to page 5 of column 0's vault. -/
def ext0 : Extent :=
  { vpn := 0, pages := 16, hcol := 0, hppn := 5, col := 0, ppn := 5, tier := 0, worst := 0, rd := true, w := true, x := true, sh := false, fl := false, cow := false,
    pin := true, hash := false, lpkg := 0, loanb := 0, waitb := 0 }
def job0 : Job :=
  { handle := 9, part := 7, root := 0, groups := 0, pkg := 0, map := [ext0], placed := [], cols := [0], ended := [], cut := [], gone := [], log := [], storage := none, reserves := [] }
def bound0 : Bound :=
  { id := 3, desc := 0x100, arg := 0, job := 9, part := 7, qdie := 0, q := 1, cols := [0], faulted := [], since := 0, pri := 0, saved := false }
def queue0 : Queue := { die := 0, q := 1, owner := 7, leader := some 0, items := [], held := [], turns := [] }
/-- A launch of one job bound to column 0, running. -/
def busyS : State :=
  { (slotS .running) with parts := [part0], pkg := { Pkg.reset with ready := true, dielist := [0, 1, 2, 3], session := true }
                          work := { Work.reset with bound := [bound0], jobs := [job0], queues := [queue0] } }
/-- A far-path peer. -/
def who0 : Who := { col := 0, stream := .l, epoch := 0, scpos := 0, fpos := 0, gen := 0, own := 0, issue := 0 }
/-- The same, with that page in map 0 of the unit, and the slot wheel all its own. -/
def mapS (f : UnitSt → UnitSt := id) : State :=
  { busyS with units := busyS.units.set 0 (f { UnitSt.reset with maps := { MapSt.reset with maps := MapSt.reset.maps.set 0 (some [ext0]), cache := [ext0] }, ord := { Ordr.reset with wheel := [(0, 8, 1)] } }) }
def withS (l : List (Fin 64 × Dword)) (u : UnitSt) : UnitSt :=
  { u with regs := { u.regs with s := l.foldl (fun v x => v.set x.1 { data := x.2, tail := 0 }) u.regs.s } }


/-! ## States that meet the hypotheses of the statements -/

theorem wit_IntegerForms : z.clear .k h0.sync ∧ z.ready [1, 2] (some 3) 1 ∧ z.ready [3, 1, 2] (some 3) 1 := by
  unfold State.clear State.ready; decide +kernel
theorem wit_ImmediateForms : z.clear .k h0.sync ∧ z.ready [1] (some 3) 1 ∧ z.ready [] (some 3) 1 ∧ z.ready [3] (some 3) 1 ∧ (1 : Dword) ≠ 0 ∧
    63 - leadingZeros 0x8000 < 16 ∧ 14 < trailingZeros 0x8000 := by
  unfold State.clear State.ready; decide +kernel
theorem wit_FloatCompares : z.clear .k h0.sync ∧ z.ready [1, 2] (some 3) 1 := by unfold State.clear State.ready; decide +kernel
theorem wit_FloatForms : z.clear .k h0.sync ∧ z.ready [1, 2] (some 3) 4 ∧ z.ready [1, 2, 3] (some 3) 4 ∧ z.ready [1, 2] (some 3) 1 ∧ z.ready [1] (some 3) 2 ∧
    z.ready [1] (some 3) 1 := by
  unfold State.clear State.ready; decide +kernel
theorem wit_Divisions : (z.clear .k h0.sync ∧ z.my.frm.insv = false ∧ z.ready [1, 2] none 0 ∧ (z.my.latch .xd).length < 8) ∧
    (svS.clear .k h0.sync ∧ svS.my.frm.insv = true) := by
  unfold State.clear State.ready; decide +kernel
/-- Column 0 with seven entries in XD, the last that leaves one free. -/
def xdS : State := onU (fun u => u.setLatch .xd (List.replicate 7 { img := .zero, valid := true, rem := 0 }))
theorem wit_Divisions_seven : xdS.clear .k h0.sync ∧ xdS.my.frm.insv = false ∧ xdS.ready [1, 2] none 0 ∧ (xdS.my.latch .xd).length = 7 := by
  unfold State.clear State.ready; decide +kernel
theorem wit_TransportsAndMixing : (xdS.clear .k h0.sync ∧ xdS.my.frm.insv = false ∧ xdS.ready [] (some 3) 1 ∧
      xdS.my.latch .xd = { img := .zero, valid := true, rem := 0 } :: List.replicate 6 { img := .zero, valid := true, rem := 0 }) ∧
    xdS.ready [1, 2] (some 3) 3 ∧ (xdS.my.latch .xn).length < 8 ∧ xdS.my.noiseReady 1 = true := by
  unfold State.clear State.ready; decide +kernel
theorem wit_BranchesAndJumps : z.clear .k h0.sync ∧ z.ready [1] none 0 ∧ z.ready [] (some 63) 1 ∧ z.ready [63] none 0 := by
  unfold State.clear State.ready; decide +kernel
/-- Column 0 with LC0 = n and a pre-emption request or none. -/
def loopS (n : BitVec 32) (req : Option Int) : State :=
  onU (fun u => { u with regs := { u.regs with lc := u.regs.lc.set 0 n, lreg := 0x8000000000000000 }, ctl := { u.ctl with preempt := req } })
theorem wit_LoopsAndPreemptionPoints : ((loopS 2 none).clear .k h0.sync ∧ 2 ≤ ((loopS 2 none).my.regs.lc[(0 : Fin 4)]).toNat) ∧
    ((loopS 1 none).clear .k h0.sync ∧ ((loopS 1 none).my.regs.lc[(0 : Fin 4)]).toNat ≤ 1) ∧
    ((loopS 0 none).ready [1] none 0 ∧ (loopS 0 none).my.ctl.preempt = none) ∧
    ((loopS 0 (some 5)).clear .k h0.sync ∧ (loopS 0 (some 5)).ready [1] none 0 ∧ (loopS 0 (some 5)).my.ctl.preempt.isSome = true) := by
  unfold State.clear State.ready; decide +kernel

/-- S1 holds an address of SP, offset 60, the last of its block for four bytes; the block's format is f. -/
def spS (f : Byte) : State :=
  let s := regS [(1, 0x300000000000003C)]
  { s with mems := s.mems.set 0 { Mems.reset with sp := Memory.empty.setHead 0 { fmt := f, scl := 0x7F } } }
def spTile (n : Nat) : Tile := elemTile 0x300000000000003C n
def spStore (s : State) (n : Nat) (code : Byte) : Attempt :=
  s.store s.my s.me .k s.t 3 [(60, n)] [(0x3000000000000000, { bytesWrite 60 n 0 with need := some { fmt := code, scl := 0x7F } })] 0
theorem wit_ScalarMemory :
    (let s := spS 0x01
     s.clear .k h0.sync ∧ checkAccess (s.my.sd 1) 4 4 [0, 1, 2, 3] = none ∧
       kBusy s s.me s.my s.t [1] (some 3) (s.ownLand s.me s.my s.t (spTile 4)) (s.landsFirst s.me s.my s.t (spTile 4)) = none ∧ (s.load s.my s.me .k s.t (spTile 4) 0 (.sF 3 .fp32 15) none).free ∧
       s.ready [1, 3] none 0 ∧ (spStore s 4 0x01).free ∧ winMem (tagOf (s.my.sd 1)) = some .sp) ∧
    (let s := spS 0x0A
     s.clear .k h0.sync ∧ checkAccess (s.my.sd 1) 2 2 [0, 1, 2, 3] = none ∧
       kBusy s s.me s.my s.t [1] (some 3) (s.ownLand s.me s.my s.t (spTile 2)) (s.landsFirst s.me s.my s.t (spTile 2)) = none ∧ (s.load s.my s.me .k s.t (spTile 2) 0 (.sI 3 .i16 30) none).free ∧
       s.ready [1, 3] none 0 ∧ (spStore s 2 0x0A).free) := by
  unfold State.clear State.ready Attempt.free; decide +kernel
theorem wit_SpecialRegisters : (z.clear .k h0.sync ∧ selSV 0x040 = false ∧ z.ready [] (some 3) 1 ∧ z.ready [3] none 0) ∧
    (svS.clear .k h0.sync ∧ svS.my.frm.insv = true ∧ svS.ready [] (some 3) 1) ∧ selSV 0x007 = true ∧ z.my.frm.insv = false ∧ z.cur.turn = 0 ∧
    (let s := { onU (fun u => { u with eng := { u.eng with srd := some (z.t, 5) } }) with cur := { z.cur with turn := 1 } }
     s.clear .k h0.sync ∧ s.ready [] (some 3) 1 ∧ 0 < s.cur.turn ∧ s.my.eng.srd = some (s.t, 5)) := by
  unfold State.clear State.ready; decide +kernel
theorem wit_ReadOnlyClockRegisters : (0x006 : Fin 4096) ∈ [(0x000 : Fin 4096), 0x001, 0x002, 0x003, 0x006] ∧ z.clear .k h0.sync ∧ z.ready [3] none 0 := by
  unfold State.clear State.ready; decide +kernel
/-- Column 0 at its base on the present cycle, aligned or not. -/
def baseS (aligned insv : Bool) : State :=
  onU (fun u => { u with ctl := { u.ctl with aligned := aligned, strms := u.ctl.strms.set 0 { Strm.reset with last := -1, due := some (-1), st := .run } }, frm := { u.frm with insv := insv },
                         regs := { u.regs with s := u.regs.s.set 1 { data := 1, tail := 0 } } })
theorem wit_AlignmentAndHalt : ((baseS false false).clear .k h0.sync ∧ (baseS false false).my.ctl.aligned = false ∧ (baseS false false).t = (baseS false false).baseAt (baseS false false).me ∧
      (((baseS false false).my.strm .k).due.getD (baseS false false).t) ≤ (baseS false false).t - 1 ∧ (baseS false false).my.frm.insv = false) ∧
    ((baseS true false).clear .k h0.sync ∧ (baseS true false).my.ctl.aligned = true ∧ (baseS true false).my.ctl.rpend = false ∧ (baseS true false).ready [1] none 0 ∧
      (baseS true false).t < (baseS true false).baseAt (baseS true false).me + (((baseS true false).my.sd 1).toNat : Int)) ∧
    ((baseS true true).clear .k h0.sync ∧ (baseS true true).my.frm.insv = true) := by
  unfold State.clear State.ready; decide +kernel
theorem wit_Idles : (∀ x ∈ streams, z.clear x h0.sync ∧ (z.my.strm x).st ≠ .late) ∧ z.my.eng.faulting z.t = none := by unfold State.clear; decide +kernel
/-- Column 0 with a store of no known end, and a write of a layout record to come. -/
def writingS (timed : Bool) : State :=
  onU (fun u => { (u.trackFar 5 .s 0 false false false) with pend := [{ at_ := 4, stream := .l, eff := .lrec 0 0 }], ctl := { u.ctl with timed := timed } })
theorem wit_Fences : (z.clear .k h0.sync ∧ z.my.writesDone .pkg z.t none = true ∧ z.my.syncDone z.t = true ∧ z.recordsPending z.me z.my = false) ∧
    ((writingS false).clear .k h0.sync ∧ (writingS false).my.writesDone .pkg (writingS false).t none = false ∧ (writingS false).my.ctl.iload = false ∧
      (writingS false).recordsPending (writingS false).me (writingS false).my = true) ∧
    ((writingS true).clear .k h0.sync ∧ (writingS true).my.writesDone .sys (writingS true).t none = false ∧ (writingS true).my.ctl.timed = true) := by
  unfold State.clear; decide +kernel
/-- Column 0 with a handler. -/
def enS (insv : Bool) (q : List (Stream × FaultRec)) : State := onU (fun u => { u with frm := { u.frm with en := true, insv := insv, entry := 0x3F000, queue := q } })
theorem wit_TrapsEnterTheHandler : (z.clear .k h0.sync ∧ z.my.frm.insv = false ∧ z.my.ctl.haltAt = none ∧ z.my.frm.en = false) ∧
    ((enS false []).clear .k h0.sync ∧ (enS false []).my.frm.insv = false ∧ (enS false []).my.ctl.haltAt = none ∧ (enS false []).my.frm.en = true) := by
  unfold State.clear; decide +kernel
theorem wit_EretReturns : ((enS true []).clear .k h0.sync ∧ (enS true []).my.frm.insv = true ∧ (enS true []).my.frm.queue = []) ∧
    (let s := enS true [(.l, flt .poison)]
     s.clear .k h0.sync ∧ s.my.frm.insv = true ∧ s.my.frm.en = true ∧ s.my.ctl.haltAt = none ∧ s.my.frm.queue = (.l, flt .poison) :: [] ∧
       ¬ ((flt .poison).cause = BitVec.ofNat 8 0x0E ∧ (flt .poison).kind = 2)) ∧
    (z.clear .k h0.sync ∧ z.my.frm.insv = false) := by
  unfold State.clear; decide +kernel
theorem wit_Requests_launch : busyS.clear .k h0.sync ∧ busyS.partOf busyS.me = some part0 ∧ part0.queues.contains (dieOf busyS.me, 1) = true ∧ busyS.ready [1, 2] none 0 := by
  unfold State.clear State.ready; decide +kernel
theorem wit_Requests_cancel : busyS.clear .k h0.sync ∧ busyS.job (busyS.jobOf busyS.me) = some job0 ∧ busyS.handleKnown job0 .unit (busyS.my.sd 1) = true ∧ busyS.ready [1] none 0 := by
  unfold State.clear State.ready; decide +kernel
theorem wit_Requests_snap : busyS.clear .k h0.sync ∧ busyS.ready [1] none 0 ∧ busyS.my.ctl.snapHeld = false := by unfold State.clear State.ready; decide +kernel
theorem wit_Requests_waitg : (mapS).clear .k h0.sync ∧ (mapS).ready [1, 2] none 0 ∧ (mapS).graphCounter (mapS).me (mapS).my ((mapS).my.sd 1) = some 0 ∧ ((mapS).my.sd 2).toNat ≤ 0 := by
  unfold State.clear State.ready; decide +kernel
/-- The largest load that ends at the end of the instruction store. -/
def iloadS : State := mapS (withS [(1, 0x10C0), (2, 0x13FF80)])
theorem wit_Requests_iload : iloadS.clear .k h0.sync ∧ iloadS.ready [1, 2] none 0 ∧
    (let w := (iloadS.my.sd 2).toNat
     let n := w / 2 ^ 20 % 2 ^ 13
     w / 2 ^ 18 % 4 = 0 ∧ w < 2 ^ 33 ∧ 1 ≤ n ∧ n ≤ 4096 ∧ w % 2 ^ 18 + 64 * n ≤ 2 ^ 18 ∧ w % 2 ^ 18 % 64 = 0 ∧ tagOf (iloadS.my.sd 1) = 0 ∧ (iloadS.my.sd 1).toNat % 64 = 0 ∧
     (iloadS.my.sd 1).toNat + 64 * n ≤ 2 ^ 48 ∧
     (iloadS.farLoad iloadS.my iloadS.me .k iloadS.t 2 (codeTile (iloadS.my.sd 1) n) (.code (w % 2 ^ 18))).free) := by
  unfold State.clear State.ready Attempt.free; decide +kernel
def cpubS : State := mapS (withS [(1, 0x1000), (2, 64)])
theorem wit_Requests_cpub : cpubS.clear .k h0.sync ∧ cpubS.ready [1, 2] none 0 ∧ (cpubS.my.sd 2).toNat % 64 = 0 ∧ (cpubS.my.sd 2).toNat / 64 = 1 ∧ tagOf (cpubS.my.sd 1) = 0 ∧
    (cpubS.my.sd 1).toNat % 64 = 0 ∧ (cpubS.my.sd 1).toNat + 64 ≤ 2 ^ 48 ∧ cpubS.syncMiss cpubS.me cpubS.my cpubS.t = none ∧ cpubS.syncFault cpubS.me cpubS.my cpubS.t = none ∧
    (match cpubS.xlate cpubS.my 1 (codeTile (cpubS.my.sd 1) 1).addrs with | .ok ps => ps.length == 1 | .error _ => false) = true := by
  unfold State.clear State.ready; decide +kernel
/-- A phase change to map 1 that is ready, or not. -/
def phaseS (ready timed : Bool) : State :=
  mapS (fun u => { u with maps := { u.maps with maps := u.maps.maps.set 1 (some [ext0]), tgt := 1, valid := true, ready := ready }, ctl := { u.ctl with timed := timed } })
theorem wit_PhaseChanges : ((phaseS true true).clear .k h0.sync ∧ (phaseS true true).wainFault (phaseS true true).my 1 = none ∧ (phaseS true true).my.ctl.timed = true) ∧
    ((phaseS true false).my.maps.valid = true ∧ (phaseS true false).my.maps.tgt = 1 ∧ (phaseS true false).my.maps.ready = true ∧
      (phaseS true false).arrivalOut (phaseS true false).my 1 (phaseS true false).t = false ∧ (phaseS true false).my.maps.duals = [] ∧ (phaseS true false).clear .k h0.sync) ∧
    ((phaseS false true).clear .k h0.sync ∧ (phaseS false true).my.maps.valid = true ∧ (phaseS false true).my.maps.tgt = 1 ∧ (phaseS false true).my.maps.ready = false) := by
  unfold State.clear; decide +kernel
/-- A vault whose bank 0 has row 5 open since cycle 0. -/
def openV (wins : List Win := []) : VaultSt := { VaultSt.reset.onBank 0 (fun k => { k with row := some 5, act := some 0, deadline := 9360 }) with wins := wins }
def vaultS (v : VaultSt) (now : Int) (s : State := busyS) : State := { s with vaults := s.vaults.set 0 v, parts := [{ part0 with cyc := now }] }
theorem wit_GuardLetsThrough : VaultSt.reset.guard .act 3 0 = none ∧ VaultSt.reset.guard .refb 3 0 = none ∧ openV.guard .pre 0 34 = none ∧ openV.guard .rd 0 14 = none ∧
    openV.guard (.wr true) 0 14 = none ∧ openV.guard .pre 0 33 ≠ none ∧ openV.guard .rd 0 13 ≠ none := by decide +kernel
theorem wit_BankCommands : (let s := vaultS openV 34
    s.clear .d h0.sync ∧ (s.vault s.me).keeperHolds 0 s.t = false ∧ (s.vault s.me).guard .pre 0 s.t = none) ∧
    (let s := vaultS openV 48
     s.clear .d h0.sync ∧ (s.vault s.me).keeperHolds 3 s.t = false ∧ (s.vault s.me).guard .act 3 s.t = none ∧ (s.vault s.me).guard .refb 3 s.t = none) := by
  unfold State.clear; decide +kernel
theorem wit_PrechargeAll :
    (let s := vaultS openV 34
     s.clear .d h0.sync ∧ (∀ c : Fin 16, (s.vault s.me).keeperHolds c s.t = false) ∧ (∀ c : Fin 16, ((s.vault s.me).banks[c]).row.isSome = true → (s.vault s.me).guard .pre c s.t = none)) ∧
    (let s := vaultS openV 33
     s.clear .d h0.sync ∧ (∀ c : Fin 16, (s.vault s.me).keeperHolds c s.t = false) ∧ ((s.vault s.me).banks[(0 : Fin 16)]).row.isSome = true ∧ ((s.vault s.me).guard .pre 0 s.t).isSome = true) ∧
    (let s := vaultS (openV [{ kind := .mig, bank := 0, first := 34, n := 2 }, { kind := .shared, bank := 3, first := 40, n := 1 }]) 34
     s.clear .d h0.sync ∧ (∀ c : Fin 16, (s.vault s.me).keeperHolds c s.t = false) ∧ (∃ w ∈ (s.vault s.me).wins, w.bank = 0 ∧ s.t < w.last) ∧ ((s.vault s.me).banks[(0 : Fin 16)]).row.isSome = true ∧
       (∃ w ∈ (s.vault s.me).wins, w.bank = 3 ∧ s.t < w.last) ∧ ((s.vault s.me).banks[(3 : Fin 16)]).row.isSome = false) := by
  unfold State.clear; decide +kernel
theorem wit_Windows :
    (let s := vaultS (openV (List.replicate 31 { kind := .mig, bank := 0, first := 90, n := 1 })) 50
     s.clear .d h0.sync ∧ ((s.vault s.me).wins.filter (fun w => s.t ≤ w.last && 0 < w.n)).length = 31 ∧
       (List.range 40).any (fun i => (s.vault s.me).portHeld (s.t + 0 + i)) = false ∧ (List.range 41).any (fun i => (s.vault s.me).portHeld (s.t + 0 + i)) = true) := by
  unfold State.clear; decide +kernel
/-- Layout record 0, address registers, and the formats of the blocks of SP. -/
def tileU (w : BitVec 512) (a : Dword) (u : UnitSt) : UnitSt := { u with regs := { u.regs with ly := u.regs.ly.set 0 w, al := u.regs.al.set 0 a, as := u.regs.as.set 0 a } }
def spA : Dword := 0x3000000000000000
/-- One row of 128 FP32 elements in blocks of FP32, in SP or in GLOBAL. -/
def tileS (cols : Nat) (a : Dword) : State :=
  let s := mapS (tileU (recW 8 3 1 cols 0) a)
  { s with mems := s.mems.set 0 { Mems.reset with sp := (List.range 8).foldl (fun m b => m.setHead b { fmt := 0x01, scl := 0x7F }) Memory.empty } }
def tileOk (s : State) (rows : Nat) (at_ : Nat → Dword) (extra : Nat) (dst : LoadDst) (port : Option (Port × Nat)) : Prop :=
  (s.my.ly 0).fieldBad = false ∧ (s.my.ly 0).checkRows rows at_ [0, 2, 3] = none ∧ (s.load s.my s.me .l s.t ((s.my.ly 0).tile rows at_) extra dst port).free
def tileHyp (s : State) (l : Layout) (own : Nat → Dword) (w : BitVec 512) : Prop :=
  s.clear .l h0.sync ∧ l.elems = l.ltype.lanes ∧ l.cols ≤ l.ltype.lanes ∧ l.rows ≤ 256 ∧ l.blks ≤ 256 ∧ l.latchBytes ≤ 65536 ∧ s.my.eng.gather = none ∧
    s.my.portFree (.tileR 0) s.t 1 = true ∧ tileOk s l.rows own 0 (.vec 3 w false) (some (.tileW 0, 1)) ∧ tileOk s 1 own 0 (.vec 3 w true) (some (.tileW 0, 1)) ∧
    tileOk s l.rows (fun r => own ((s.my.v 4).lane 16 r)) 0 (.vec 3 w false) (some (.tileW 0, 1)) ∧ tileOk s l.rows own 0 (.heads 3 w) (some (.tileW 0, 1)) ∧
    tileOk s l.rows own 2 (.latch .opb w) none
def tileWit (a : Dword) : Prop :=
  tileHyp (tileS 128 a) ((tileS 128 a).my.ly 0) (((tileS 128 a).my.ly 0).rowAddr ((tileS 128 a).my.memAddr false 0 true 1)) (tileS 128 a).my.regs.ly[(0 : Fin 256)]
theorem wit_TileLoads : tileWit spA ∧ winMem (((tileS 128 spA).my.ly 0).tile 1 (((tileS 128 spA).my.ly 0).rowAddr spA)).window = some .sp ∧ tileWit 0 := by
  unfold tileWit tileHyp State.clear tileOk Attempt.free; and_intros <;> decide +kernel
/-- A queue of two slots of four blocks, of which n are free. -/
def queueS (n : Nat) (a : Dword) : State :=
  let s := tileS 64 a
  { s with units := s.units.set 0 { s.my with regs := { s.my.regs with qc := s.my.regs.qc.set 0 { free := n, depth := 2, esz := 2, base := 64, head := 0 } } } }
def queueHyp (s : State) (q : QCtl) (l : Layout) (own : Nat → Dword) (off : Nat) : Prop :=
  s.clear .l h0.sync ∧ q.depth ≠ 0 ∧ 0 < q.free ∧ l.fieldBad = false ∧ l.blks * 64 = q.slotBytes ∧ l.checkRows l.rows own [0, 2, 3] = none ∧
    off = 64 * q.base + (q.head + q.depth - q.free) % max 1 q.depth * q.slotBytes ∧
    (s.load s.my s.me .l s.t (l.tile l.rows own) 0 (.slot off s.my.regs.ly[(0 : Fin 256)]) (some (.spW, slotOcc off l.blks))).free
def queueWit (n : Nat) (a : Dword) (off : Nat) : Prop :=
  queueHyp (queueS n a) ((queueS n a).my.regs.qc[(0 : Fin 16)]) ((queueS n a).my.ly 0) (((queueS n a).my.ly 0).rowAddr ((queueS n a).my.memAddr false 0 true 1)) off
theorem wit_SlotAndRecordLoads_qld : queueWit 1 spA 0x1100 ∧ queueWit 2 0 0x1000 := by
  unfold queueWit queueHyp State.clear Attempt.free; and_intros <;> decide +kernel
theorem wit_SlotAndRecordLoads_lrec :
    (let s := tileS 128 0x5000000000003FC0
     s.clear .l h0.sync ∧ tagOf (s.my.memAddr false 0 true 1) = 5 ∧ checkAccess (s.my.memAddr false 0 true 1) 64 64 [0, 2, 3, 5] = none ∧ s.accessHeld s.my s.t = false) ∧
    (let s := tileS 128 spA
     s.clear .l h0.sync ∧ tagOf (s.my.memAddr false 0 true 1) ≠ 5 ∧ checkAccess (s.my.memAddr false 0 true 1) 64 64 [0, 2, 3, 5] = none ∧
       (s.load s.my s.me .l s.t { addrs := [spA], skips := [false], spans := [(0, 64)] } 0 (.lrec 0) none).free) := by
  unfold State.clear Attempt.free; decide +kernel
/-- Column 0 with a word in each engine FIFO. -/
def fifoS : State := onU (fun u => ((u.setFifo .cpf [{ id := 1, word := some 5 }]).setFifo .amf [{ id := 2, word := some 6 }]).setFifo .clf [{ id := 3, word := some 7 }])
theorem wit_SlotAndRecordLoads_pop : ∀ x ∈ [(Fifo.cpf, 1, (5 : Dword)), (.amf, 2, 6), (.clf, 3, 7)],
    fifoS.clear .l h0.sync ∧ fifoS.my.fifo x.1 = { id := x.2.1, word := some x.2.2 } :: [] ∧ fifoS.my.portFree (.tileW 0) (fifoS.t + 2) 1 = true := by
  unfold State.clear; decide +kernel
/-- Row 5 of bank 0 open, in no extent of the unit's map, and inside the extent of the map. -/
theorem wit_VaultReadsAndWrites :
    (let s := vaultS openV 14
     let s' := { s with units := s.units.set 0 { s.my with regs := { s.my.regs with al := s.my.regs.al.set 0 (spA + 0xFFF80) } } }
     s'.clear .l h0.sync ∧ (s'.vault s'.me).keeperHolds 0 s'.t = false ∧ s'.accessHeld s'.my s'.t = false ∧ s'.my.portFree (.tileW 0) (s'.t + 15) 1 = true ∧ s'.my.portFree .spW (s'.t + 15) 1 = true ∧
       (s'.vault s'.me).guard .rd 0 s'.t = none ∧ ((s'.vault s'.me).banks[(0 : Fin 16)]).row = some 5 ∧ (match s'.my.gate s'.t (some .vault) (s'.pendingAt s'.me s'.my (paOf 0 5 3)) with | .ok => true | _ => false) = true ∧
       s'.mappedAt s'.my s'.me (paOf 0 5 3) = none ∧ ((s'.mem s'.me .vault).blk (paOf 0 5 3 / 64)).poisoned = false ∧ ((s'.mem s'.me .vault).blk (paOf 0 5 3 / 64 + 1)).poisoned = false ∧
       checkAccess s'.my.regs.al[(0 : Fin 8)] 128 128 [3] = none) ∧
    (let s := vaultS openV 14
     s.clear .s h0.sync ∧ (s.vault s.me).keeperHolds 0 s.t = false ∧ s.accessHeld s.my s.t = false ∧ s.my.portFree (.tileR 0) s.t 1 = true ∧
       ((s.vault s.me).banks[(0 : Fin 16)]).row = some 5 ∧ (s.vault s.me).guard (.wr false) 0 s.t = none ∧ s.mappedAt s.my s.me (paOf 0 5 3) = none ∧
       (s.vault s.me).isLive (paOf 0 5 3 / 64) = false ∧ (s.vault s.me).isLive (paOf 0 5 3 / 64 + 1) = false) := by
  unfold State.clear; decide +kernel
/-- A copy of eight blocks from SP to SP, or to GLOBAL, or of the job's column to itself. -/
def cpS (src dst tgt : Dword) : State :=
  let s := tileS 128 src
  { s with units := s.units.set 0 { s.my with regs := { s.my.regs with ly := s.my.regs.ly.set 1 (recW 8 3 1 128 0), al := s.my.regs.al.set 1 dst, as := s.my.regs.as.set 1 dst, s := s.my.regs.s.set 5 { data := tgt, tail := 0 } } } }
def cpWit (op : Fin 5) (x : Stream) (src dst tgt : Dword) : Prop :=
  (cpS src dst tgt).clear x h0.sync ∧ ((cpS src dst tgt).pushCopy (cpS src dst tgt).me (cpS src dst tgt).my x (cpS src dst tgt).t
    { op := op, ys := 0, yd := 1, src := (cpS src dst tgt).my.areg (x == .s) 0, dst := (cpS src dst tgt).my.areg (x == .s) 1, tgt := (cpS src dst tgt).my.sd 5 }).free
theorem wit_CopyPushes : cpWit 0 .l spA (spA + 0x1000) 0 ∧ cpWit 0 .s 0 spA 0 ∧ cpWit 1 .l spA (spA + 0x1000) (spA + 0x2000) ∧ cpWit 2 .l spA (spA + 0x1000) 0x101 ∧
    cpWit 2 .s spA (spA + 0x1000) 0x101 ∧ cpWit 3 .l 0 spA 0 ∧ cpWit 4 .s spA 0 0 := by
  unfold cpWit State.clear Attempt.free; and_intros <;> decide +kernel
/-- A record with a row stride. -/
def recR (lt wcl rows cols base rstr : Nat) : BitVec 512 := recW lt wcl rows cols base ||| BitVec.ofNat 512 (rstr * 2 ^ 192)
/-- A of 16 rows by 4 in AB, B of 4 by 128 in WB, all I8, and the same in the operand latches; the gather where there is one. -/
def prodS (g : Option Gather) : State :=
  let mem := fun (n : Nat) => (List.range n).foldl (fun m b => m.setHead b { fmt := 0x08, scl := 0x7F }) Memory.empty
  let hd : Head := { fmt := 0x08, scl := 0x7F }
  let s := onU (fun u => { u with
    regs := { u.regs with ly := (u.regs.ly.set 1 (recR 0 1 16 4 (2 * 2 ^ 60) 64)).set 2 (recR 0 1 4 128 (2 ^ 60) 128) }
    eng := { u.eng with gather := g, opa := { rows := 16, elems := 4, w := 8, hd := hd, blks := List.replicate 16 0 }, opb := { rows := 128, elems := 4, w := 8, hd := hd, blks := List.replicate 128 0 } } })
  { s with mems := s.mems.set 0 { Mems.reset with ab := mem 16, wb := mem 8 } }
def mm0 (bl : Bool) : Mm := { dt := 1, msz := .m16, roff := 3, ya := 1, yb := 2, k := 4, bl := bl, z := false }
/-- What Obligations.Products asks of the operands, the ports and the rows, with no block pending. -/
def prodB (s : State) (o : Mm) (latchA gathered : Bool) : Bool :=
  match s.operands s.me s.my o latchA with
  | .error _ => false
  | .ok (a, b) =>
    let u := s.my
    let m := o.msz.rows
    let k := o.k.val
    let c := if a.w = 16 then 2 * k else if a.w = 8 then k else (k + 1) / 2
    let w0 := s.t + ((c + 4 : Nat) : Int)
    decide (u.eng.mbusy ≤ s.t) && !s.accessHeld u s.t && (!latchA || gathered || u.eng.gather.isNone) &&
      (!gathered || (match u.eng.gather with | some g => decide (g.done ≤ s.t) | none => true)) && !(latchA && s.latchPending s.me u .opa) &&
      !(o.bl && s.latchPending s.me u .opb) && u.ord.pblks.isEmpty && (mulKind a.w (a.blks ++ b.blks)).2.isNone && (o.bl || u.portFree .wbR s.t c) &&
      (latchA || u.portFree .abR s.t c) && (o.z || u.portFree (.tileR o.dt) (w0 - 1) m) && u.portFree (.tileW o.dt) w0 m &&
      u.rowsFree o.dt (16 * o.roff.val) m (if o.z then none else some (w0 - 1)) (some w0)
theorem wit_Products : (prodS none).clear .m k0.sync ∧ prodB (prodS none) (mm0 false) false false = true ∧ prodB (prodS none) (mm0 true) true false = true ∧
    (prodS (some { done := 0, full := true, opa := .reset })).clear .m k0.sync ∧ prodB (prodS (some { done := 0, full := true, opa := .reset })) (mm0 false) true true = true := by
  unfold State.clear; and_intros <;> decide +kernel
def mma0 (zero : Bool) : MmaOp :=
  { id := 1, issue := 0, cost := 1, tile := 0, row := 0, m := 16, k := 1, chunk := 64, int := true, zero := zero, a := [[.ofInt 2]], b := [[.ofInt 3]], bad := none, pc := 0, took := [], adds := [], sig := 0, flags := 0 }
theorem wit_IntegerProductWraps : (mma0 false).int = true ∧ 127 < 128 ∧ 2 ^ 32 - 1 < 2 ^ 32 := by decide
/-- Terms of a product whose least exponent is -2, and a chunk of one or more of them. -/
def terms : List XNum := [.fin false 3 0, .fin true 1 (-2)]
theorem wit_Products_sums : (∀ x ∈ terms, ∃ s m e, x = .fin s m e ∧ (-2 : Int) ≤ e) ∧ (-2 : Int) ≤ 0 ∧ terms.length = 2 ∧ terms ≠ [] ∧ image .fp32 (nanPair .fp32) = .nan ∧ { mma0 false with int := false }.int = false := by
  refine ⟨fun x h => ?_, by decide, rfl, by decide, by decide +kernel, rfl⟩
  simp only [terms, List.mem_cons, List.not_mem_nil, or_false] at h
  rcases h with rfl | rfl
  · exact ⟨_, _, _, rfl, by decide⟩
  · exact ⟨_, _, _, rfl, by decide⟩
theorem wit_TileRows : z.clear .m k0.sync ∧ z.my.eng.mbusy ≤ z.t ∧ z.my.portFree (.tileW 1) (z.t + 1) 64 = true ∧ z.my.rowsFree 1 0 64 none (some (z.t + 1)) = true ∧
    z.my.portFree (.tileR 1) z.t 64 = true ∧ z.my.portFree (.tileW 1) (z.t + 2) 64 = true ∧ z.my.rowsFree 1 0 64 (some z.t) none = true ∧ z.my.rowsFree 1 0 64 none (some (z.t + 2)) = true := by
  unfold State.clear; and_intros <;> decide +kernel
/-- M at a MIDX, with an MMAG of record 7 after it in its section. -/
def midxS : State :=
  let ws := [(0x00093070 : Nat), 0x00001040, 0x00000064]
  let s := onU (fun u => { u with regs := { u.regs with ly := u.regs.ly.set 7 (recR 0 1 1 16 (2 * 2 ^ 60) 64) }, ctl := { u.ctl with strms := u.ctl.strms.set 3 { Strm.reset with hi := 24 } } })
  { s with mems := s.mems.set 0 { Mems.reset with store := Memory.empty.write 0 { mask := BitVec.allOnes 512, data := BitVec.ofNat 512 (packNat 32 ws * 2 ^ 96), hd := none, need := none } } }
def midxO : Mm := { dt := 1, msz := .m16, roff := 3, ya := 7, yb := 0, k := 16, bl := true, z := false }
theorem wit_GatherAndLatchLoads_none : z.clear .m k0.sync ∧ z.my.eng.mbusy ≤ z.t ∧ z.accessHeld z.my z.t = false ∧ z.my.portFree (.tileR 0) z.t 1 = true ∧
    z.my.rowReadBusy (vRow (z.my.regs.physV 5)) z.t = false ∧ nextMmag (z.mem z.me .store) (z.my.strm .m).hi 21846 ((z.my.strm .m).pc.toNat + 12) = none := by
  unfold State.clear; and_intros <;> decide +kernel
theorem wit_GatherAndLatchLoads_midx : midxS.clear .m k0.sync ∧ midxS.my.eng.mbusy ≤ midxS.t ∧ midxS.accessHeld midxS.my midxS.t = false ∧ midxS.my.portFree (.tileR 0) midxS.t 1 = true ∧
    midxS.my.rowReadBusy (vRow (midxS.my.regs.physV 5)) midxS.t = false ∧ nextMmag (midxS.mem midxS.me .store) (midxS.my.strm .m).hi 21846 ((midxS.my.strm .m).pc.toNat + 12) = some midxO ∧
    (midxS.my.ly 7).fieldBad = false ∧ (midxS.my.ly 7).t = false ∧ (List.range 64).all (fun i => (midxS.my.v 5).lane 16 i < (midxS.my.ly 7).rows) = true ∧
    (16 * (midxS.my.ly 7).w + 511) / 512 = 1 ∧ 1 ≤ (midxS.my.ly 7).rowBlks ∧
    (midxS.my.ly 7).checkRows 16 (fun i => (midxS.my.ly 7).ownRow ((midxS.my.v 5).lane 16 i)) [2] = none ∧ midxS.my.portFree .abR (midxS.t + 1) 16 = true ∧ midxS.my.ord.pblks = [] ∧
    (List.range 16).all (fun i => ((midxS.my.ly 7).clip ((midxS.my.v 5).lane 16 i) 0 ((midxS.mem midxS.me .ab).blk (blkOf ((midxS.my.ly 7).ownRow ((midxS.my.v 5).lane 16 i))))).hd == .raw) = true := by
  unfold State.clear; and_intros <;> decide +kernel
def mldtL : Layout := (prodS none).my.ly 2
theorem wit_GatherAndLatchLoads_mldt : (prodS none).clear .m k0.sync ∧ (prodS none).my.eng.mbusy ≤ (prodS none).t ∧ (prodS none).accessHeld (prodS none).my (prodS none).t = false ∧
    (prodS none).my.eng.gather = none ∧ mldtL.fieldBad = false ∧ mldtL.latchBytes ≤ 65536 ∧ mldtL.checkRows mldtL.rows mldtL.ownRow [1] = none ∧
    ((prodS none).chipLoad (prodS none).my (prodS none).me .m (prodS none).t .wb (mldtL.tile mldtL.rows mldtL.ownRow) (occOf .wb (mldtL.tile mldtL.rows mldtL.ownRow).spans) 2
      (.latch .opa (prodS none).my.regs.ly[(2 : Fin 256)]) none).free := by
  unfold State.clear Attempt.free; and_intros <;> decide +kernel
theorem wit_LaneForms : z.clear .v (vc .fp32).sync ∧ z.my.vBusy z.t 4 [5, 6, 7, 63, 6, 7, 8, 0] [4, 5] [3] [] = none ∧ z.my.vBusy z.t 6 [5, 6] [4] [0] [] = none ∧
    z.my.vBusy z.t 2 [] [4] [3] [] = none := by
  unfold State.clear; and_intros <;> decide +kernel
theorem wit_LaneWritesMerge : (List.replicate 128 ({ v := 1, t := 0 } : Pair)).length = VTy.fp32.lanes ∧ (List.replicate 1024 ({ v := 15, t := 0 } : Pair)).length = VTy.q4.lanes ∧
    (List.replicate 128 ({ v := 1, t := 0 } : Pair))[127]? = some { v := 1, t := 0 } ∧ (0 : Fin 256) ≠ vRow (UnitSt.reset.regs.physV 4) := by
  and_intros <;> decide +kernel
theorem wit_Predicates : z.clear .v (vc .fp32).sync ∧ z.my.vBusy z.t 2 [1, 2] [] [3] [9] = none ∧ z.my.vBusy z.t 2 [] [] [3, 1, 2] [9] = none ∧ z.my.vBusy z.t 2 [] [] [3, 1] [15] = none ∧
    z.my.vBusy z.t 2 [] [] [3] [9] = none := by
  unfold State.clear; and_intros <;> decide +kernel
def vxfS : State := onU (fun u => u.setLatch .xs [{ img := .zero, valid := true, rem := 0 }])
theorem wit_LaneMoves : z.clear .v (vc .fp32).sync ∧ z.my.vBusy z.t 2 [5, 6] [4] [3, 9] [] = none ∧ z.my.vBusy z.t 3 [5, 6] [4] [3] [] = none ∧
    z.my.vBusy z.t 3 (5 :: (List.range ((VTy.q4.lanes + 255) / 256)).map (fun i => Fin.ofNat 64 (60 + i))) [4] [3] [] = none ∧
    z.my.vBusy z.t 3 [5] [4] [3] [] = none ∧ z.my.vBusy z.t 2 [] [4] [3] [] = none ∧ z.my.portFree (.tileR 3) (z.t + 1) 1 = true ∧ z.my.rowsStand z.t [tileRow 3 63] (z.t + 1) = true ∧
    vxfS.clear .v (vc .fp32).sync ∧ vxfS.my.vBusy vxfS.t 1 [] [4] [3] [] = none ∧ vxfS.xferWaits vxfS.me .xs = false ∧ vxfS.my.latch .xs = { img := .zero, valid := true, rem := 0 } :: [] := by
  unfold State.clear; and_intros <;> decide +kernel
/-- A scale entry that is eight cycles old, in either mode. -/
def sbS (timed : Bool) : State :=
  let s := onU (fun u => { u with eng := { u.eng with sb := [{ v := 0, t := 0, rem := 0, issued := 4088 }] }, ctl := { u.ctl with timed := timed } })
  { s with tick := 4096 }
theorem wit_Conversions : z.clear .v (vc .fp32).sync ∧ z.my.vBusy z.t 4 [5] [4] [3] [] = none ∧ (vc .fp32).ty.fmt? = some .fp32 ∧ z.my.vBusy z.t 1 [5] [] [3] [] = none ∧ z.my.eng.sb.length < 8 ∧
    (sbS true).clear .v (vc .q4).sync ∧ (sbS true).my.eng.sb = { v := 0, t := 0, rem := 0, issued := 4088 } :: [] ∧ (sbS true).my.vBusy (sbS true).t 4 [5] [4] [3] [] = none ∧
    (sbS true).my.ctl.timed = true ∧ 4088 + 8 = (sbS true).t ∧ (sbS false).clear .v (vc .q4).sync ∧ (sbS false).my.ctl.timed = false := by
  unfold State.clear; and_intros <;> decide +kernel
/-- Latches with one entry free. -/
def fullS : State := onU (fun u => let e : LEntry := { img := .zero, valid := true, rem := 0 }
                                   ((u.setLatch .xr (List.replicate 15 e)).setLatch .xs (List.replicate 31 e)).setLatch .xn (List.replicate 7 e))
theorem wit_LatchForms : fullS.clear .v (vc .fp32).sync ∧ fullS.my.vBusy fullS.t 1 [5] [] [3] [] = none ∧ (fullS.my.latch .xr).length < 16 ∧ (fullS.my.latch .xs).length < 32 ∧
    (fullS.my.latch .xn).length < 8 ∧ fullS.my.noiseReady 64 = true ∧ fullS.my.vBusy fullS.t 1 [] [] [3] [] = none := by
  unfold State.clear; and_intros <;> decide +kernel
def sm0 : SMem := { v := 3, ax := 0, pi := true, y := 0, ty := .fp32, mode := .rne, s := 127, p := 0, disp := 1 }
def stEls (s : State) (sel : LaneOf) : List (Nat × Nat × Nat × NumBits) :=
  ((s.my.ly 0).stored sel (s.my.p 0)).map (fun e => (e.1, e.2.1, storeCode .fp32 .fp32 127 .rne ((s.my.v 3).pair 32 e.2.2)))
def stGo (s : State) (sel : LaneOf) (own : Nat → Dword) : Attempt :=
  s.store s.my s.me .s s.t ((s.my.ly 0).tile (s.my.ly 0).rows own).window ((s.my.ly 0).tile (s.my.ly 0).rows own).spans
    (storeWrites (s.my.ly 0).w (s.my.ly 0).perBlk ((s.my.ly 0).tile (s.my.ly 0).rows own).addrs ((stEls s sel).map (fun e => (e.1, e.2.1, e.2.2.1))) { fmt := 0x01, scl := 127 })
    ((stEls s sel).foldl (fun a e => a ||| e.2.2.2) 0)
def stHyp (s : State) (own : Nat → Dword) : Prop :=
  s.clear .s h0.sync ∧ (s.my.ly 0).fieldBad = false ∧ (s.my.ly 0).elems = (s.my.ly 0).ltype.lanes ∧ (s.my.ly 0).ltype = .fp32 ∧ (s.my.ly 0).checkRows (s.my.ly 0).rows own [0, 2, 3] = none ∧
    VTy.fp32.width = (s.my.ly 0).w ∧ storePair .fp32 .fp32 = true ∧ s.my.portFree (.tileR 0) s.t 1 = true ∧ (stGo s .own own).free ∧ (stGo s .first own).free ∧ (stGo s .packed own).free
def stWit (a : Dword) : Prop := stHyp (tileS 128 a) (((tileS 128 a).my.ly 0).rowAddr ((tileS 128 a).my.memAddr true 0 true 1))
theorem wit_Stores : stWit spA ∧ stWit 0 := by
  unfold stWit stHyp State.clear Attempt.free; and_intros <;> decide +kernel
def sthGo (a : Dword) : Attempt :=
  (tileS 128 a).farStore (tileS 128 a).my (tileS 128 a).me .s (tileS 128 a).t ((((tileS 128 a).my.ly 0).tile 1 (((tileS 128 a).my.ly 0).rowAddr a)).addrs.map
    (fun x => (x, ({ mask := 0, data := 0, hd := some { fmt := 0x22, scl := 0x7F }, need := none } : BlkWrite)))) 0
theorem wit_Stores_sth : (tileS 128 spA).clear .s h0.sync ∧ ((tileS 128 spA).my.ly 0).fieldBad = false ∧ ((tileS 128 spA).my.ly 0).blks ≤ 256 ∧
    ((tileS 128 spA).my.ly 0).checkRows 1 (((tileS 128 spA).my.ly 0).rowAddr spA) [0, 2, 3] = none ∧ winMem (((tileS 128 spA).my.ly 0).tile 1 (((tileS 128 spA).my.ly 0).rowAddr spA)).window = some .sp ∧
    (tileS 128 spA).accessHeld (tileS 128 spA).my (tileS 128 spA).t = false ∧ (tileS 128 spA).my.portFree .spW ((tileS 128 spA).t + 1) 1 = true ∧
    winMem (((tileS 128 0).my.ly 0).tile 1 (((tileS 128 0).my.ly 0).rowAddr 0)).window = none ∧ (sthGo 0).free := by
  unfold State.clear Attempt.free; and_intros <;> decide +kernel
/-- Weights in SP, momentum in WB. -/
def supdS : State :=
  let s := tileS 128 spA
  { s with units := s.units.set 0 { s.my with regs := { s.my.regs with s := s.my.regs.s.set 6 { data := 0x1000000000000000, tail := 0 } } }
           mems := s.mems.set 0 { s.mems[0] with wb := (List.range 8).foldl (fun m b => m.setHead b { fmt := 0x01, scl := 0x7F }) Memory.empty } }
def supdOk (x : Mem) (t : Tile) (n : Nat) : Prop :=
  winMem t.window = some x ∧ supdS.my.portFree (readPort x) (supdS.t + 1) n = true ∧ supdS.my.portFree (writePort x) (supdS.t + 1) n = true ∧
    t.read.all (fun a => (supdFault 32 ((supdS.mem supdS.me x).head (blkOf a)) a).isNone) = true
def supdL : Layout := supdS.my.ly 0
theorem wit_WeightUpdates : supdS.clear .s h0.sync ∧ supdS.my.portFree (.tileR 0) supdS.t 1 = true ∧ supdS.accessHeld supdS.my supdS.t = false ∧ supdS.my.ord.pblks = [] ∧ supdL.fieldBad = false ∧
    (supdL.ltype.isF || supdL.ltype.isI) = true ∧ supdL.elems ≤ supdL.ltype.lanes ∧ supdL.w = 32 ∧ supdL.checkRows supdL.rows (supdL.rowAddr (supdS.my.memAddr true 0 true 1)) [1, 2, 3] = none ∧
    supdOk .sp (supdL.tile supdL.rows (supdL.rowAddr (supdS.my.memAddr true 0 true 1))) 16 ∧ supdL.checkRows supdL.rows (supdL.rowAddr (supdS.my.sd 6)) [1, 2, 3] = none ∧
    supdOk .wb (supdL.tile supdL.rows (supdL.rowAddr (supdS.my.sd 6))) 64 := by
  unfold supdOk State.clear; and_intros <;> decide +kernel
/-- A word of SP, and a barrier word in a shared extent, with its slot or none. -/
def wordS (a : Dword) (slots : List BarSlot) : State :=
  mapS (fun u => { u with regs := { u.regs with as := u.regs.as.set 0 a }, maps := { u.maps with maps := u.maps.maps.set 0 (some [{ ext0 with sh := true }]), cache := [{ ext0 with sh := true }] }, ord := { u.ord with slots := slots, synced := -1 } })
def bar0 (arrived released : Bool) : BarSlot := { va := 0x40, owner := 0, pa := 0x5040, gen := 0, arrived := arrived, joined := released, released := released }
def at0 (ord : Ord) : At := { a := 1, b := 2, ax := 0, scope := .pkg, ord := ord, size := .b64 }
theorem wit_WordsAndBarriers : (wordS (spA + 0xFFFF8) []).clear .s h0.sync ∧ (wordS (spA + 0xFFFF8) []).accessHeld (wordS (spA + 0xFFFF8) []).my (wordS (spA + 0xFFFF8) []).t = false ∧
    (wordS (spA + 0xFFFF8) []).atomFault 0 (wordS (spA + 0xFFFF8) []).my 0 (spA + 0xFFFF8) 8 = none ∧ (wordS (spA + 0xFFFF8) []).my.sd 1 = 0 ∧ (wordS (spA + 0xFFFF8) []).my.fifoFull .amf = false ∧
    (wordS (spA + 0xFFFF8) []).my.writesDone .pkg (wordS (spA + 0xFFFF8) []).t none = true ∧ (wordS (spA + 0xFFFF8) []).syncMiss 0 (wordS (spA + 0xFFFF8) []).my (wordS (spA + 0xFFFF8) []).t = none ∧
    (wordS (spA + 0xFFFF8) []).syncFault 0 (wordS (spA + 0xFFFF8) []).my (wordS (spA + 0xFFFF8) []).t = none := by
  unfold State.clear; and_intros <;> decide +kernel
def barOk (s : State) : Prop := s.clear .s h0.sync ∧ s.accessHeld s.my s.t = false ∧ (match s.barPlace s.my 0x40 with | .ok p => p.pa == 0x5040 | .error _ => false) = true ∧ s.my.regs.as[(0 : Fin 8)] = 0x40 ∧
  s.my.writesDone .pkg s.t none = true ∧ s.syncMiss s.me s.my s.t = none ∧ s.syncFault s.me s.my s.t = none
theorem wit_WordsAndBarriers_slots : barOk (wordS 0x40 (List.replicate 3 { bar0 false false with va := 0x80 })) ∧
    (wordS 0x40 (List.replicate 3 { bar0 false false with va := 0x80 })).my.barSlot 0x40 = none ∧ barOk (wordS 0x40 [bar0 false false]) ∧
    (wordS 0x40 [bar0 false false]).my.barSlot 0x40 = some (bar0 false false) ∧ (bar0 false false).arrived = false ∧ barOk (wordS 0x40 [bar0 true true]) ∧
    (wordS 0x40 [bar0 true true]).my.barSlot 0x40 = some (bar0 true true) ∧ (bar0 true true).released = true := by
  unfold barOk State.clear; and_intros <;> decide +kernel
/-- A job whose group 0 is column 0 alone, its table at GLOBAL 0x2000; V7 holds a command. -/
def collS (n : Nat) : State :=
  let s := tileS 128 spA
  { s with units := s.units.set 0 { s.my with regs := { s.my.regs with tiles := s.my.regs.tiles.set 7 { data := BitVec.ofNat 4096 n, tail := 0 }, ly := s.my.regs.ly.set 1 (recW 8 3 1 128 0), s := s.my.regs.s.set 2 { data := spA, tail := 0 } } }
           mems := s.mems.set 0 { s.mems[0] with vault := Memory.empty.write (0x7000 / 64) (bytesWrite 0 4 1) }
           work := { s.work with jobs := [{ job0 with groups := 0x2000 }] } }
theorem wit_FifoPushes_coll : (collS 0).clear .s h0.sync ∧ ((collS 0).pushColl 0 (collS 0).my (collS 0).t { op := .sum, addr := (collS 0).my.sd 2, hand := (collS 0).my.sd 1, y := 0 } false).free := by
  unfold State.clear Attempt.free; and_intros <;> decide +kernel
def pushN : Nat := 0x3000000000000000 * 2 ^ 192 + 0x3000000000001000 * 2 ^ 128 + 1 * 2 ^ 40
def pushC : Nat := 0x3000000000000000 * 2 ^ 192 + 1 * 2 ^ 56
theorem wit_FifoPushes_push : (collS pushN).clear .s h0.sync ∧ (collS pushN).my.portFree (.tileR 0) (collS pushN).t 1 = true ∧ ((collS pushN).my.v 7).data.toNat = pushN ∧ pushN / 2 ^ 56 % 2 ^ 8 < 5 ∧
    pushN % 2 ^ 40 = 0 ∧ ((collS pushN).pushCopy 0 (collS pushN).my .s (collS pushN).t { op := 0, ys := 0, yd := 1, src := spA, dst := 0x3000000000001000, tgt := 0 }).free ∧
    (collS pushC).clear .s h0.sync ∧ ((collS pushC).my.v 7).data.toNat = pushC ∧ CollOp.ofCode (pushC / 2 ^ 56 % 2 ^ 8) = some .max ∧ pushC / 2 ^ 64 % 2 ^ 64 = 0 ∧ pushC % 2 ^ 48 = 0 ∧
    ((collS pushC).pushColl 0 (collS pushC).my (collS pushC).t { op := .max, addr := spA, hand := 0, y := 0 } true).free := by
  unfold State.clear Attempt.free; and_intros <;> decide +kernel
theorem wit_DecodeEncode : Instr.wf (.add h0 3 1 2) = true ∧ encode (.add h0 3 1 2) ≠ [] := by decide +kernel
theorem wit_DecodedIsWellFormed : decode .k [0x10805142] = .ok (.addi { sync := 1, idle := 0 } 5 5 2) := by decide +kernel
/-- A word where K begins; a program counter off a word; a first word that asks for one more than its section holds. -/
theorem wit_Fetches : (z.withFetchWord 32 0x10805142).fetch 0 .k = some [0x10805142] ∧
    ((onU (fun u => u.onStrm .k (fun t => { t with pc := 2, hi := 64 }))).fetch 0 .k).isNone = true ∧
    ((onU (fun u => u.onStrm .d (fun t => { t with pc := 64, hi := 64 }))).fetch 0 .d).isNone = true ∧ (z.unit 0).ord.stale.contains .k = false := by decide +kernel
def stepS (last : Int) (timed : Bool) : State :=
  let s := z.withFetchWord 32 0x10805142
  { s with units := s.units.set 0 (({ s.my with ctl := { s.my.ctl with timed := timed } } : UnitSt).onStrm .k (fun t => { t with last := last })) }
theorem wit_StepRunsTheDecodedInstruction :
    ((stepS (-64) false).agenda = [.issue 0 .k 0] ∧ (stepS (-64) false).active 0 .k = true ∧ (stepS (-64) false).fetch 0 .k = some [0x10805142] ∧
      ((stepS (-64) false).my.strm .k).due = none ∧ (stepS (-64) false).computed 0 .k [0x10805142] ≤ (stepS (-64) false).now 0 ∧ (stepS (-64) true).my.ctl.timed = true) ∧
    (stepS 0 false).now 0 < (stepS 0 false).computed 0 .k [0x10805142] ∧
    ({ z with agenda := [.event .thermalTrip] } : State).agenda = [.event .thermalTrip] := by decide +kernel
/-- Column 0 whose token counters hold one number each. -/
def tokS (n : Fin 16) (again : Bool) : State := { (onU (fun u => { u with ord := { u.ord with tok := .replicate 12 n } })) with cur := { col := 0, stream := .k, turn := if again then maxTurns else 0 } }
theorem wit_UnmetTokens : (∀ x : Stream, x ≠ .k → (tokS 0 false).my.tokenMiss x 8 (tokS 0 false).t = some .token) ∧ (tokS 0 false).my.tokenMiss .k 2 (tokS 0 false).t = none ∧
    (∀ x : Stream, x = .d ∨ x = .l ∨ x = .m ∨ x = .v → (tokS 15 true).my.tokenMiss x 1 (tokS 15 true).t = some .tokfull) ∧ (tokS 15 true).my.tokenMiss .k 2 (tokS 15 true).t = some .tokfull ∧
    (tokS 0 false).my.tokenMiss .k 4 (tokS 0 false).t = some .token ∧ (tokS 15 true).others (tokS 15 true).me = false ∧
    (tokS 15 true).together 0 (tokS 15 true).my .k 2 (tokS 15 true).t = false ∧
    (let s := { tokS 15 false with agenda := [.issue 0 .d 0] }
     s.others s.me = true ∧ s.cur.turn < 6 ∧ s.my.tokenMiss .k 2 s.t = some .tokfull) := by
  refine ⟨fun x h => ?_, by decide +kernel, fun x h => ?_, ?_⟩
  · cases x <;> first | exact absurd rfl h | decide +kernel
  · rcases h with rfl | rfl | rfl | rfl <;> decide +kernel
  · decide +kernel
theorem wit_IssueChangesOnlyItsUnit : ({ eff := [] } : Attempt).unit = id := rfl
theorem wit_WritesTakeEffect : (63 : Fin 64) ≠ 0 ∧ (1 : Fin 64) ≠ 63 ∧ (255 : Fin 256) ≠ 0 ∧ (15 : Fin 16) ≠ 0 := by decide
def pendS (l : List Pend) : State := onU (fun u => { u with pend := l })
def pEff (x : Stream) (v : Dword) : Pend := { at_ := z.now 0, stream := x, eff := .spec 0x101 v }
/-- A load of two blocks of SP of which the first, or both, are due. -/
def capS (last : Int) : List (Nat × Head × Int) := [(0, { fmt := 0x01, scl := 0x7F }, 4096), (1, { fmt := 0x01, scl := 0x7F }, last)]
theorem wit_WritesTakeEffect_loads : z.now 0 = 0 ∧ (∀ y ∈ capS 4096, y.2.2 ≤ 4096) ∧ ¬ (4097 : Int) ≤ 4096 ∧ tyOfCode 0x01 = some .fp32 ∧ VTy.fp32.fmt? = some .fp32 ∧ (0x7F : Byte) ≠ 0xFF ∧
    tyOfCode 0x0A = some .i16 ∧ VTy.i16.width = 8 * 2 ^ (ITy.i16.code / 2) ∧ (layoutOf (recW 8 3 1 128 0)).elems = (layoutOf (recW 8 3 1 128 0)).ltype.lanes ∧
    (layoutOf (recW 8 3 1 60 0)).elems < (layoutOf (recW 8 3 1 60 0)).ltype.lanes ∧ VTy.q4.isQ = true ∧ VTy.fx16.isX = true ∧ VTy.n8.isI = true ∧ (List.replicate 256 Blk.clear).length ≤ 256 := by
  decide +kernel
/-- Shadow words: clear, written by column 1 in epoch 3, read by columns 1 and 2, broad. -/
def shadows : List (BitVec 128) := [0, BitVec.ofNat 128 (2 ^ 117 + 3 * 2 ^ 85 + 2 ^ 84), BitVec.ofNat 128 (2 ^ 83 + 2 ^ 74 + 3 * 2 ^ 42 + 2 ^ 41 + 2 * 2 ^ 32 + 3), BitVec.ofNat 128 (2 ^ 126 + 9)]
def raceOf (r : Except (Nat × Dword) (BitVec 128)) : Nat := match r with
  | .error e => e.1
  | .ok _ => 0
theorem wit_BlockWrites_races : shadows.map (fun x => raceOf (z.shadow who0 false 5 x)) = [0, 1, 0, 0] ∧ shadows.map (fun x => raceOf (z.shadow who0 true 5 x)) = [0, 2, 3, 4] ∧
    shadows.map (fun x => raceOf (z.shadow { who0 with col := 1, scpos := 10 } true 5 x)) = [0, 0, 3, 0] ∧ z.ordered who0 1 3 = false ∧ z.ordered who0 0 3 = true := by decide +kernel
theorem wit_BlockWrites_races_live : let v := { VaultSt.reset with live := [{ pa := 0x5040, users := [(0, 3)] }], shadow := [(0x5080 / 64, BitVec.ofNat 128 (2 ^ 117 + 3 * 2 ^ 85 + 2 ^ 84))] }
    let s : State := { z with vaults := z.vaults.set 0 v }
    (s.vault 0).isLive (0x5040 / 64) = true ∧ (s.vault 0).isLive (0x5080 / 64) = false ∧ raceOf (s.shadow who0 true (s.now 0) ((s.vault 0).shadowOf (0x5080 / 64))) = 2 := by decide +kernel
theorem wit_LaterStreamPrevails : (Stream.ix .k < Stream.ix .s ∧ Stream.ix .v < Stream.ix .s ∧ Stream.ix .k < Stream.ix .d) ∧
    ((pendS [pEff .k 1, pEff .s 2]).unit 0).pend = [pEff .k 1, pEff .s 2] ∧ ((pendS [pEff .s 2, pEff .k 1]).unit 0).pend = [pEff .s 2, pEff .k 1] := by decide +kernel
theorem wit_BlockWrites : Memory.empty.wf = true ∧ (0 < 64 * 1 ∨ 64 * 1 + 64 ≤ 0) ∧ (128 < 64 * 1 ∨ 64 * 1 + 64 ≤ 128) := by decide
def isNext (o : Out) : Bool := match o with
  | .next _ => true
  | _ => false
theorem wit_StepKeepsMemoriesCanonical : z.memWf ∧ isNext (step z) = true := by
  refine ⟨⟨fun c => ?_, rfl⟩, by decide +kernel⟩
  simp only [z, State.reset, Fin.getElem_fin, Vector.getElem_replicate]; decide
theorem wit_StepKeepsMemoriesCanonical_issue : isNext (step (z.withFetchWord 32 0x10805142)) = true := by decide +kernel

theorem wit_TransportsAndMixing_turns : xdS.my.eng.vdrew = none := by decide +kernel
theorem wit_Fences_turns : z.others z.me = false ∧ (let s := { z with agenda := [.issue 0 .d 0] }
    s.clear .k h0.sync ∧ s.others s.me = true ∧ s.my.writesDone .sys s.t none = true ∧ s.my.syncDone s.t = true) ∧ (let s := { z with cur := { z.cur with turn := maxTurns } }
    s.clear .k h0.sync ∧ s.cur.turn = maxTurns ∧ s.my.writesDone .sys s.t none = true ∧ s.my.syncDone s.t = true) := by unfold State.clear; decide +kernel
theorem wit_Requests_privilege : busyS.partOf busyS.me = some part0 ∧ part0.queues.contains (dieOf busyS.me, 2) = false ∧
    (let s := mapS (withS [(1, 5)])
     s.clear .k h0.sync ∧ s.job (s.jobOf s.me) = some job0 ∧ s.ready [1] none 0 ∧ s.handleKnown job0 .unit (s.my.sd 1) = false) := by
  unfold State.clear State.ready; decide +kernel
/-- WAITG of a counter at 0 for one that has come to 0 or to 1, in either mode. -/
def waitS (n : Dword) (timed : Bool) : State := mapS (fun u => withS [(1, 0x40), (2, n)] { u with ctl := { u.ctl with timed := timed } })
theorem wit_Requests_waitg_waits : ∀ timed, (waitS 1 timed).clear .k h0.sync ∧ (waitS 1 timed).ready [1, 2] none 0 ∧ (waitS 1 timed).my.mapped [(waitS 1 timed).my.sd 1] = true ∧
    (waitS 1 timed).graphCounter (waitS 1 timed).me (waitS 1 timed).my ((waitS 1 timed).my.sd 1) = some 0 ∧ 0 < ((waitS 1 timed).my.sd 2).toNat := by
  unfold State.clear State.ready; intro timed; cases timed <;> decide +kernel
/-- The job's page 1 begins with a block of CODE. -/
def codeS : State :=
  { cpubS with mems := cpubS.mems.set 0 { cpubS.mems[0] with vault := Memory.empty.setHead 0x180 { fmt := 0x20, scl := 0x7F } } }
theorem wit_Requests_cpub_code : codeS.clear .k h0.sync ∧ codeS.ready [1, 2] none 0 ∧ (codeS.my.sd 2).toNat = 64 ∧ tagOf (codeS.my.sd 1) = 0 ∧ (codeS.my.sd 1).toNat = 0x1000 ∧
    codeS.syncMiss codeS.me codeS.my codeS.t = none ∧ codeS.syncFault codeS.me codeS.my codeS.t = none ∧ codeS.my.mapped (codeTile (codeS.my.sd 1) 1).addrs = true ∧
    (match codeS.xlate codeS.my 1 (codeTile (codeS.my.sd 1) 1).addrs with
      | .ok ps => ps.all (fun p => (codeS.headAt p).fmt == 0x20 && (codeS.headAt p).scl != 0xFF) | .error _ => false) = true := by
  unfold State.clear State.ready; and_intros <;> decide +kernel
theorem wit_rowsClear : (tileS 128 spA).my.rowsClear (tileS 128 spA).t ((tileS 128 spA).my.vRows [4, 3]) = true := by decide +kernel
theorem wit_vReady : z.my.vReady z.t 4 [5, 6, 7, 63, 6, 7, 8, 0] [4, 5] [3] [] ∧ z.my.vReady z.t 2 [5, 6] [4] [3, 9] [] ∧ z.my.vReady z.t 3 [5] [4] [3] [] ∧
    z.my.vReady z.t 2 [1, 2] [] [3] [9] ∧ fullS.my.vReady fullS.t 1 [5] [] [3] [] ∧ (∀ timed, (sbS timed).my.vReady (sbS timed).t 4 [5] [4] [3] []) := by
  unfold UnitSt.vReady; refine ⟨?_, ?_, ?_, ?_, ?_, fun timed => ?_⟩ <;> (try cases timed) <;> decide +kernel
theorem wit_VaultReadsAndWrites_ports : ∀ f : Bool, let s := vaultS openV (if f then 14 else 20)
    s.my.rowsClear s.t (s.my.vRows [1]) = true ∧ s.my.portFree (.tileR 0) s.t 1 = true := by intro f; cases f <;> decide +kernel
theorem wit_GatherAndLatchLoads_index : (midxS.my.ly 7).wcl < 3 ∧ midxS.my.rowsClear midxS.t (midxS.my.vRows [5]) = true ∧ z.my.rowsClear z.t (z.my.vRows [5]) = true := by decide +kernel
theorem wit_TileRows_clear : z.my.rowsClearAt z.t ((List.range 64).map (fun (j : Nat) => (tileRow 1 (0 + j), z.t + (j : Int)))) = true := by decide +kernel
theorem wit_Products_rows : (prodS none).my.rowsClearAt (prodS none).t (oldRows (mm0 false) ((prodS none).t + 8)) = true := by decide +kernel
theorem wit_WordsAndBarriers_mapped : (wordS 0x40 [bar0 true true]).my.mapped [0x40] = true ∧ Fin.ofNat 512 0 = (wordS 0x40 []).me ∧ bits 0 28 9 = 0 ∧
    (wordS 0x40 [bar0 true true]).my.regs.as[(0 : Fin 8)] = 0x40 := by decide +kernel

/-! ### Events of a unit -/

def fly0 (ix : Fin 12) (rem : Nat) : Fly := { ix := ix, rem := rem, tag := 0, held := false }
theorem wit_token : (onU (fun u => { u with ord := { u.ord with fly := [fly0 1 0, fly0 0 1, fly0 0 0] } })).my.ord.fly = [fly0 1 0, fly0 0 1] ++ fly0 0 0 :: [] ∧
    (∀ g ∈ [fly0 1 0, fly0 0 1], g.ix ≠ 0 ∨ g.rem ≠ 0 ∨ g.held = true) := by decide +kernel
theorem wit_latchEntry : (onU (fun u => u.setLatch .xd [{ img := .zero, valid := true, rem := 0 }, { img := .zero, valid := false, rem := 0 }])).my.latch .xd =
    [{ img := .zero, valid := true, rem := 0 }] ++ { img := .zero, valid := false, rem := 0 } :: [] := by decide +kernel
theorem wit_scaleBypass : (onU (fun u => { u with eng := { u.eng with sb := [{ v := 0, t := 0, rem := 1, issued := 0 }] } })).my.eng.sb = [] ++ { v := 0, t := 0, rem := 1, issued := 0 } :: [] := by
  decide +kernel
/-- Column 0 running, realignment asked for, its streams in one state. -/
def alignS (st : SState) : State :=
  slotS .running (onU (fun u => { u with ctl := { u.ctl with rpend := true, strms := .replicate 6 { Strm.reset with st := st } } }))
theorem wit_realignment : (alignS (.point 0)).my.ctl.prepped = false ∧ (alignS (.point 0)).my.ctl.rpend = true ∧ (∀ x : Stream, ((alignS (.point 0)).my.strm x).st = .point 0) ∧
    (alignS (.point 0)).issues 0 = true ∧ ((alignS .run).my.strm .k).st = .run ∧ (alignS .run).my.ctl.rpend = true ∧ (alignS .run).my.ctl.prepped = false := by
  refine ⟨by decide +kernel, by decide +kernel, fun x => ?_, ?_⟩
  · cases x <;> decide +kernel
  · decide +kernel
/-- Column 0 with queued deferred faults. -/
def queuedS (st : SlotState) (n : Nat) : State := slotS st (onU (fun u => { u with frm := { u.frm with queue := .replicate n (.l, flt .farLate) } }))
theorem wit_deferred : (onU (fun u => { u with ctl := { u.ctl with dead := true } })).my.ctl.dead = true ∧ (slotS .running).issues 0 = true ∧ (slotS .running).my.ctl.dead = false ∧
    (∀ st ∈ [SlotState.stopped, .held, .stopping], ((queuedS st 0).slot 0).st = st) ∧ (queuedS .stopped 3).issues 0 = false ∧ (queuedS .held 3).my.frm.queue.length < 4 ∧
    ¬ (queuedS .held 4).my.frm.queue.length < 4 ∧ (queuedS .held 4).my.ctl.dead = false := by decide +kernel
theorem wit_barrierRelease : (z.slot 0).saved = [] := by decide +kernel
def gather0 : Gather := { done := 0, full := false, opa := .reset }
theorem wit_gatherComplete : (onU (fun u => { u with eng := { u.eng with gather := some gather0 } })).my.eng.gather = some gather0 ∧ gather0.done ≤ z.now 0 ∧ gather0.full = false := by decide +kernel
def mmaBad0 : MmaOp :=
  { id := 1, issue := 0, cost := 1, tile := 0, row := 0, m := 1, k := 1, chunk := 1, int := false, zero := false, a := [], b := [], bad := some (flt .format), pc := 0, took := [0], adds := [], sig := 4, flags := 0 }
def mmaS : State := slotS .running (onU (fun u => { u with eng := { u.eng with mmas := [mmaBad0] } }))
theorem wit_mmaBlockFault : mmaS.my.eng.mmas.find? (fun m => m.id == 1) = some mmaBad0 ∧ mmaBad0.bad = some (flt .format) ∧ mmaS.my.ctl.prepped = false ∧ mmaS.my.ctl.dead = false := by decide +kernel
theorem wit_Idles_behind : (let s := onU (fun u => { u with eng := { u.eng with mmas := [{ mmaBad0 with cost := 4097 }] } })
    s.clear .m k0.sync ∧ s.my.eng.faulting s.t = some { mmaBad0 with cost := 4097 }) := by unfold State.clear; decide +kernel
def part1 : Part := { part0 with pubs := [{ id := 4, keys := [0] }] }
theorem wit_codeRangeDiscard : ({ z with parts := [part1] } : State).part 7 = some part1 ∧ part1.pubs.find? (fun q => q.id == 4) = some { id := 4, keys := [0] } := by decide +kernel

/-! ### Events of launches -/

/-- The launch of column 0 with its slot and unit changed. -/
def lnS (st : SlotState) (f : UnitSt → UnitSt := id) : State := { slotS st busyS with units := z.units.set 0 (f .reset) }
theorem wit_bind : (∀ st ∈ [SlotState.free, .done], ((slotS st).slot 0).st = st) ∧ ((slotS .running).slot 0).st ≠ .free ∧ ((slotS .running).slot 0).st ≠ .done := by decide +kernel
/-- The job's page 0 begins with an object of no sections. -/
def objS : State :=
  let s := lnS .loading
  { s with mems := s.mems.set 0 { s.mems[0] with vault := { Memory.empty with cells := [(0x5000, 0x4B), (0x5001, 0x58), (0x5002, 0x4F), (0x5003, 0x42), (0x5004, 1)] } } }
theorem wit_objectLoadComplete : objS.launchOf 0 = some bound0 ∧ objS.partOf 0 = some part0 ∧ objS.job bound0.job = some job0 ∧ (objS.slot 0).st = .loading ∧
    (objS.object job0 (objS.slot 0).desc (objS.slot 0).unit.toNat).rejected objS.pkg.dielist (handlerBase part0.handler) = false ∧
    (objS.object job0 (objS.slot 0).desc (objS.slot 0).unit.toNat).wheel = [] ∧ wheelPos [] = [] := by decide +kernel
theorem wit_hold_release : (lnS .running).work.bound.find? (fun b => b.id == 3 && !b.saved) = some bound0 ∧ bound0.cols = [0] ∧ (0 : Col) ∉ bound0.faulted ∧ ((lnS .running).slot 0).st = .running ∧
    ((lnS .waitBase).slot 0).st = .waitBase ∧ ((lnS .held).slot 0).st = .held ∧ (lnS .held).my.ctl.dead = false ∧ (lnS .held).my.frm.queue = [] := by decide +kernel
theorem wit_unitCompletion : (lnS .running (fun u => { u with ctl := { u.ctl with haltAt := some 4096 } })).haltDone 0 = true := by decide +kernel
/-- The record at the job's page 0 with a word of PARENT. -/
def recS (parent : Byte) : State :=
  let s := lnS .running
  if parent = 0 then s else { s with mems := s.mems.set 0 { s.mems[0] with vault := { Memory.empty with cells := [(0x5000 + 8 * wParent, parent)] } } }
theorem wit_workRecordCompletion : (recS 0).job 9 = some job0 ∧ (recS 0).recordDone job0 0 = true ∧ (recS 0).jobWord job0 0 wParent = 0 ∧ (recS 1).recordDone job0 0 = true ∧
    (recS 1).jobWord job0 0 wParent = 1 ∧ (0 : Dword) ∉ job0.placed ∧ (recS 1).work.snaps = [] ∧ (recS 1).job 9 = some job0 := by decide +kernel
theorem wit_fallow : (∀ st ∈ [SlotState.done, .saved, .fallow], ((slotS st).slot 0).st = st) := by decide +kernel
theorem wit_kill : (lnS .running).work.bound.filter (fun b => b.qdie == 0 && b.q == 1) = [bound0] ∧ ((lnS .running).slot 0).saved = [] ∧ (lnS .running).my.ctl.dead = false ∧
    (z.work.bound = [] ∧ z.work.queues = [] ∧ z.work.reqs = []) := by decide +kernel

/-! ### Events of the far path and of the engines -/

def arr0 (del : Bool) : Arr := { va := 0x40, loan := none, term := 0, grp := 0, form := some 0, at_ := some 0, blk := Blk.clear, bad := none, del := del, late := false, skip := false, ret := 0 }
def txn0 (k : TxKind) : Txn := { id := 5, who := who0, kind := k, arrs := [arr0 false, arr0 false] }
def txnS (k : TxKind) : State := { timedS with txns := [txn0 k] }
theorem wit_farLate : (txnS (.load (.lrec 1))).txn 5 = some (txn0 (.load (.lrec 1))) ∧ (txn0 (.load (.lrec 1))).arrs[1]? = some (arr0 false) ∧ (arr0 false).del = false ∧ (arr0 false).late = false ∧
    (txnS (.load (.lrec 1))).my.ctl.timed = true ∧ (arr0 false).bad = none ∧ (txn0 (.load (.lrec 1))).arrs[0]? = some (arr0 false) := by decide +kernel
theorem wit_writeAcknowledgement : (txnS .store).txns.find? (fun t => t.id == 5) = some (txn0 .store) ∧ (txn0 .store).kind = .store := by decide +kernel
def cmd0 (m : Nat) : CopyCmd :=
  { id := 6, seq := 1, op := 0, who := who0, start := 0, m := m, srcs := [(.chip .sp 0, none)], blks := [{ src := .chip .sp 0, dst := .chip .wb 0, mask := 0, fill := 0, hd := none }], dsts := [none],
    targets := [], pkg := 0, rtx := 0, wtx := 0, far := false, left := 1, written := 0, stat := 0, lastW := 0, lastAt := 0, x := none, bound := 0, acks := [], posted := false }
def cmdS (m : Nat) : State := lnS .running (fun u => { u with eng := { u.eng with cmds := [cmd0 m] } })
theorem wit_copyBlock : (cmdS 2).my.cmd? 6 = some (cmd0 2) ∧ 0 + 1 < (cmd0 2).m ∧ (cmdS 1).my.cmd? 6 = some (cmd0 1) ∧ (cmdS 1).my.ctl.dead = false ∧ (cmd0 1).posted = false := by decide +kernel
/-- An expansion with a source piece still to read, its word posted. -/
theorem wit_copyRetirement_posted : let x : CpX := { masks := [], srcs := [], got := [], next := 0, last := 0, w := 32, n := 16, cols := 16, rowb := 1, dcols := 16, drowb := 1, fill := 0 }
    let q : CopyCmd := { cmd0 1 with posted := true, x := some x }
    let s := lnS .running (fun u => { u with eng := { u.eng with cmds := [q] } })
    s.my.cmd? 6 = some q ∧ q.posted = true ∧ q.reading = true := by decide +kernel
def xfer0 (l : CpLoc) (b : Blk) : Xfer := { tx := 8, k := 0, arrive := 0, form := none, cmd := 6, from_ := 0, dest := 0, loc := l, blk := b, job := 9, who := who0, gen := 0 }
def xferS (l : CpLoc) (inc : List (Port × Int)) : State :=
  let s := lnS .running (fun u => { u with eng := { u.eng with cmds := [cmd0 1], inc := inc } })
  { s with work := { s.work with xfers := [xfer0 l Blk.clear] } }
theorem wit_incoming : (∀ m ∈ [Mem.wb, .ab, .sp, .store], (xferS (.chip m 0) []).arrived 8 = some (xfer0 (.chip m 0) Blk.clear, cmd0 1)) ∧ (xferS (.chip .sp 0) []).genOk (xfer0 (.chip .sp 0) Blk.clear) = true ∧
    (xferS (.chip .sp 0) []).jobAt 9 0 0 = true ∧ (xferS (.chip .sp 0) []).my.incTaken .spW 4096 = false ∧ (xferS (.chip .sp 0) []).my.incTaken .spR 4096 = false ∧
    (xferS (.chip .sp 0) [(.spW, 4096)]).my.incTaken .spW 4096 = true ∧ (xferS (.chip .sp 0) [(.spW, 4096)]).now 0 = 4096 ∧ CpLoc.port (.chip .sp 0) true = some .spW ∧ CpLoc.port (.chip .sp 0) false = some .spR ∧
    accFault (.chip .sp 0) Blk.clear.hd = none := by decide +kernel
def atom0 : Atomic :=
  { id := 2, who := who0, target := 0, pkg := 0, addr := 0x1000000000000038, op := .sig .add 1, size := .b64, old := true, placed := true, owner := 0, mem := .sp, off := 0x38, loan := none, copy := false,
    home := (0, 0), cow := false, ret := 0, result := 0, bad := none, done := false, job := 9, launch := 3 }
def atomS : State := { busyS with work := { busyS.work with atoms := [atom0] } }
theorem wit_atomic : atomS.work.atoms.find? (fun a => a.id == 2) = some atom0 ∧ atom0.done = false ∧ atom0.placed = true ∧ atom0.loan = none ∧ atom0.mem ≠ .vault ∧
    atom0.who.gen = ((atomS.dies[dieOf atom0.target]).gen)[dieOf atom0.target] ∧ atom0.op.isBar = false ∧ ((atomS.mem 0 .sp).blk (0x38 / 64)).poisoned = false ∧ atom0.bad = none ∧
    atomS.my.ctl.dead = false ∧ atomS.jobAt 9 0 0 = true := by decide +kernel
/-- The target column has no unit of the job. -/
theorem wit_atomic_dropped : let a := { atom0 with target := 1, owner := 1 }
    let s : State := { busyS with work := { busyS.work with atoms := [a] } }
    s.work.atoms.find? (fun a => a.id == 2) = some a ∧ a.done = false ∧ a.placed = true ∧ a.mem ≠ .vault ∧ a.who.gen = ((s.dies[dieOf a.target]).gen)[dieOf a.target] ∧ s.jobAt a.job a.who.col a.target = false := by
  decide +kernel
def coll0 : Coll :=
  { id := 4, job := 9, above := 0, group := 0, round := 0, op := .sum, members := [0], remote := false, root := none, joined := [], stat := 0, closing := true, written := false, due := [(0, 4096, 1)] }
def closeS : State := { busyS with work := { busyS.work with colls := [coll0] } }
theorem wit_collectiveClose : closeS.work.colls.find? (fun k => k.id == 4) = some coll0 ∧ coll0.joined = [] ∧ coll0.due = [(0, 4096, 1)] ∧ 4096 ≤ closeS.now 0 ∧ coll0.written = false := by decide +kernel

/-! ### Events of a vault -/

def vltS (f : VaultSt → VaultSt) (g : UnitSt → UnitSt := id) : State :=
  let s := lnS .running g
  { s with vaults := s.vaults.set 0 (f (s.vault 0)) }
theorem wit_refresh : (vltS id (fun u => { u with ctl := { u.ctl with timed := true } })).issues 0 = true ∧ (vltS id (fun u => { u with ctl := { u.ctl with timed := true } })).my.ctl.timed = true := by decide +kernel
def win0 : Win := { kind := .mig, bank := 15, first := 4096, n := 1 }
theorem wit_windowBeat : ((vltS (fun v => { v with wins := [win0] })).vault 0).wins.find? (fun w => w.covers ((vltS id).now 0)) = some win0 ∧
    (((vltS (fun v => { v with wins := [win0] })).vault 0).banks[win0.bank]).row = none := by decide +kernel
def move0 : WainMove := { src := 0, spa := 0x80, sext := none, dst := 0, dpa := 0x1000, dext := none, home := true, transit := 4, va := 0 }
def carry0 : Carried := { mv := move0, lo := Blk.clear, hi := Blk.clear, dlo := false, dhi := false, slo := none, shi := none, rd := 0, from_ := 0 }
theorem wit_wainBeat : (lnS .running (fun u => { u with maps := { u.maps with moves := [move0] } })).my.maps.moves = move0 :: [] ∧
    (lnS .running (fun u => { u with maps := { u.maps with carried := [carry0], pick := some 0 } })).my.maps.beatWrite 4096 = some carry0 ∧ carry0.mv.dext = none := by decide +kernel
theorem wit_wainReady : (lnS .running (fun u => { u with maps := { u.maps with active := true, readyAt := 4096 } })).my.maps.active = true ∧
    (lnS .running (fun u => { u with maps := { u.maps with active := true, readyAt := 4096 } })).my.maps.readyAt ≤ (lnS .running).now 0 ∧
    (lnS .running (fun u => { u with maps := { u.maps with active := true, readyAt := 4096 } })).my.maps.carried = [] := by decide +kernel
def dual0 : Dual := { id := 3, col := 0, pa := 0x1000, dext := none, home := false, ws := [Blk.clear.whole], land := 0, done := false, cow := false, job := 9, round := 0 }
theorem wit_dualWrite : (lnS .running (fun u => { u with maps := { u.maps with duals := [dual0] } })).my.maps.duals.find? (fun d => d.id == 3 && !d.done) = some dual0 ∧ dual0.ws = [Blk.clear.whole] ∧
    dual0.dext = none := by decide +kernel
def phpreS : State := lnS .running (fun u => { u with maps := { u.maps with due := some 4096 }, ctl := { u.ctl with timed := true } })
theorem wit_phpreDueDeadline : phpreS.my.maps.due = some (phpreS.now 0) ∧ phpreS.my.ctl.timed = true ∧ phpreS.my.maps.ready = false ∧ phpreS.issues 0 = true := by decide +kernel
theorem wit_scrub : (∀ m : Mem, 64 * 0 < Mem.size m) ∧ 64 * 8388607 < Mem.size .vault ∧ ¬ 64 * 8388608 < Mem.size .vault := by
  refine ⟨fun m => ?_, by decide, by decide⟩; cases m <;> decide
/-- A floating extent of one unit in map 1. -/
def flo0 : Extent := { ext0 with fl := true, worst := 2, pin := false }
def gleanS : State := { busyS with units := busyS.units.set 0 { UnitSt.reset with maps := { MapSt.reset with maps := MapSt.reset.maps.set 1 (some [flo0]) } } }
theorem wit_gleanerRewrite : gleanS.my.maps.maps[(1 : Fin 16)] = some [flo0] ∧ [flo0][0]? = some flo0 ∧ flo0.fl = true ∧ flo0.sh = false ∧ (1 : Fin 16) ≠ gleanS.my.maps.cur ∧ gleanS.my.maps.valid = false ∧
    gleanS.my.maps.active = false ∧ (2 : Fin 4) ≤ flo0.worst ∧ (2 : Fin 4) = tierAt 0 511 ∧ (1 : Fin 4) = tierAt 0 1 ∧ gleanS.pkg.dielist.contains (dieOf 511) = true ∧ 2 ^ 17 - 1 < 2 ^ 17 := by decide +kernel

theorem wit_hold_others : (0 : Col) ≠ 1 ∧ (lnS .running).my.ctl.dead = false := by decide +kernel
theorem wit_workRecordCompletion_ended : (0 : Dword) ∉ job0.ended ∧
    (let j := { job0 with ended := [0] }
     let s : State := { recS 0 with work := { (recS 0).work with jobs := [j] } }
     s.job 9 = some j ∧ (0 : Dword) ∈ j.ended) ∧
    (let s := lnS .running
     let s' : State := { s with mems := s.mems.set 0 { s.mems[0] with vault := { Memory.empty with cells := [(0x5000, 1)] } } }
     s'.job 9 = some job0) := by decide +kernel
theorem wit_kill_reports : bound0.faulted = [] ∧ (lnS .running).my.frm.faultf = 0 := by decide +kernel
/-- A transaction of two blocks of which the second is to come; a transfer to come. -/
def lateS (st : SlotState) (late : Bool) (k : TxKind) : State :=
  slotS st { timedS with txns := [{ txn0 k with arrs := [{ arr0 true with bad := none }, { arr0 false with late := late }] }] }
theorem wit_farLate_both : (lateS .running false .store).issues 0 = true ∧ (lateS .running false .store).my.ctl.timed = true ∧
    (∃ t a, (lateS .running false .store).txn 5 = some t ∧ t.arrs[1]? = some a ∧ a.late = false) ∧ (∃ t a, (lateS .running true .store).txn 5 = some t ∧ t.arrs[1]? = some a ∧ a.late = true) ∧
    (lateS .held false .store).issues 0 = false ∧ (slotS .running).my.ctl.timed = false := by
  refine ⟨by decide +kernel, by decide +kernel, ⟨_, _, rfl, rfl, rfl⟩, ⟨_, _, rfl, rfl, rfl⟩, by decide +kernel, by decide +kernel⟩
theorem wit_farLate_get : (let s := xferS (.chip .sp 0) []
    let s' : State := { s with units := s.units.set 0 { s.my with ctl := { s.my.ctl with timed := true } } }
    s'.txn 8 = none ∧ s'.arrived 8 = some (xfer0 (.chip .sp 0) Blk.clear, cmd0 1) ∧ s'.issues 0 = true ∧ s'.my.ctl.timed = true) := by decide +kernel
theorem wit_farPathDelivery : (let s := lateS .running false (.load (.lrec 1))
    let t := { txn0 (.load (.lrec 1)) with arrs := [{ arr0 true with bad := none }, arr0 false] }
    s.txn 5 = some t ∧ t.arrs[1]? = some (arr0 false) ∧ (∀ b, t.arrs[0]? = some b → b.del = true ∧ b.bad = none) ∧
    (LoadDst.lrec 1).fault ((t.arrs.set 1 { arr0 false with del := true }).map (fun b => b.blk.hd)) [0x40, 0x40] = none) := by
  refine ⟨by decide +kernel, by decide +kernel, fun b h => ?_, by decide +kernel⟩
  simp at h; subst h; exact ⟨rfl, rfl⟩
/-- A get of one block that is back, or whose issuer has been reset, or which waits for an earlier block. -/
def getS (who : Who) (before : List Xfer) : State :=
  let q : CopyCmd := { cmd0 2 with op := 3, far := true, blks := [{ src := .none, dst := .chip .wb 64, mask := 0, fill := 0, hd := none }, { src := .none, dst := .chip .wb 0, mask := 0, fill := 0, hd := none }] }
  let s := lnS .running (fun u => { u with eng := { u.eng with cmds := [q] } })
  { s with work := { s.work with xfers := before ++ [{ xfer0 (.chip .sp 0) Blk.clear with k := 1, who := who }] } }
def behind0 : Xfer := { xfer0 (.chip .sp 0) Blk.clear with tx := 7 }
theorem wit_getResponse : (getS who0 []).arrived 9 = none ∧ (∃ x q, (getS who0 []).arrived 8 = some (x, q) ∧ (getS who0 []).ownOk x.who = true ∧ (getS who0 []).copyBehind q x.k = false ∧ q.op = 3 ∧ q.x = none ∧
      q.far = true ∧ (q.blks.map (·.dst)).getD 1 .none = .chip .wb 0 ∧ ((getS who0 []).unit x.from_).cmd? q.id = some q) ∧
    (∃ x q, (getS { who0 with own := 1 } []).arrived 8 = some (x, q) ∧ (getS { who0 with own := 1 } []).ownOk x.who = false) ∧
    (∃ x q, (getS who0 [behind0]).arrived 8 = some (x, q) ∧ (getS who0 [behind0]).ownOk x.who = true ∧ (getS who0 [behind0]).copyBehind q x.k = true) := by
  refine ⟨by decide +kernel, ⟨_, _, rfl, ?_⟩, ⟨_, _, rfl, ?_⟩, ⟨_, _, rfl, ?_⟩⟩ <;> decide +kernel
theorem wit_atomicReport : atomS.ownOk atom0.who = true ∧ (∀ m ∈ [Mem.wb, .ab, .sp], (xferS (.chip m 0) []).jobAt 9 0 0 = true) := by decide +kernel
/-- Column 0 with bank 0 open on row 5 and a window of one beat now, for what is asked of the vault. -/
def beatS (kind : WinKind) (f : VaultSt → VaultSt) (g : UnitSt → UnitSt := id) (h : Job → Job := id) : State :=
  let s := vltS (fun _ => f (openV [{ kind := kind, bank := 0, first := 4096, n := 1 }])) g
  { s with txns := [txn0 (.load (.lrec 1))], work := { s.work with jobs := [h job0] } }
def rq0 (k : ReqKind) (gen : Nat) : Req :=
  { id := 1, tx := 5, k := 0, who := { who0 with gen := gen }, part := 7, va := 0x40, pa := paOf 0 5 0, home := (0, 0), phc := 0, arrive := 4000, ret := 3, least := 0, sh := false, cow := false, kind := k }
/-- A declaration of n beats from the present cycle on, and a write of a COW block. -/
def cowBeatS (n : Nat) : State :=
  beatS .remote (fun v => { v with wins := [{ kind := .remote, bank := 0, first := 4096, n := n }], reqs := [{ rq0 (.write Blk.clear.whole) 0 with cow := true }] })
def rowS (kind : WinKind) (r : Req) : State := beatS kind (fun v => { v with reqs := [r] })
def beatOpen (s : State) (kind : WinKind) : Prop :=
  (s.vault 0).wins.find? (fun w => w.covers (s.now 0)) = some { kind := kind, bank := 0, first := 4096, n := 1 } ∧ ((s.vault 0).banks[(0 : Fin 16)]).row = some 5 ∧ (s.vault 0).keeperHolds 0 (s.now 0) = false
theorem wit_windowBeat_remote : (∀ r ∈ [rq0 .read 0, rq0 .read 1, rq0 (.write Blk.clear.whole) 0], beatOpen (rowS .remote r) .remote ∧
      oldest (((rowS .remote r).waiting 0 0 5).filter (fun q => (rowS .remote r).inTurn 0 q ((rowS .remote r).writtenAt 0 q))) = some r ∧ (rowS .remote r).ownOk r.who = true ∧ ((rowS .remote r).vault 0).served = []) ∧
    (rq0 .read 0).who.gen = ((z.dies[dieOf 0]).gen)[dieOf 0] ∧ (rq0 .read 1).who.gen ≠ ((z.dies[dieOf 0]).gen)[dieOf 0] ∧
    ((rowS .remote (rq0 .read 0)).vault 0).beatOk .rd 0 4096 = true ∧ ((rowS .remote (rq0 .read 0)).vault 0).beatOk (.wr false) 0 4096 = true ∧
    beatOpen (beatS .remote id) .remote ∧ (beatS .remote id).waiting 0 0 5 = [] ∧ (rowS .remote (rq0 .read 0)).txns = [txn0 (.load (.lrec 1))] ∧
    (txn0 (.load (.lrec 1))).id = (rq0 .read 0).tx ∧ (txn0 (.load (.lrec 1))).arrs[0]? = some (arr0 false) := by
  unfold beatOpen; decide +kernel
theorem wit_windowBeat_cow : ∀ n ∈ [1, 2], let s := cowBeatS n
    (∃ w, (s.vault 0).wins.find? (fun w => w.covers (s.now 0)) = some w ∧ w.last = 4095 + n ∧ w.kind = .remote ∧ w.bank = 0) ∧ s.now 0 = 4096 ∧ ((s.vault 0).banks[(0 : Fin 16)]).row = some 5 ∧
    oldest ((s.waiting 0 0 5).filter (fun q => s.inTurn 0 q (s.writtenAt 0 q))) = some { rq0 (.write Blk.clear.whole) 0 with cow := true } ∧ (s.vault 0).beatOk (.wr true) 0 4096 = true := by
  intro n h; simp only [List.mem_cons, List.not_mem_nil, or_false] at h
  rcases h with rfl | rfl <;> exact ⟨⟨_, rfl, by decide⟩, by decide +kernel⟩
/-- A move whose source is the open row, and an idle block of it for the fallow activity and for a drain. -/
def migS : State := beatS .mig id (fun u => { u with maps := { u.maps with active := true, moves := [{ move0 with spa := paOf 0 5 0 }], t0 := 0, lastRd := 0 } })
def sharedS (n : Nat) : State :=
  beatS .shared (fun v => { v with budget := { v.budget with left := [n, 1, 0, 0], fallow := [paOf 0 5 0 / 64] }, drain := [(9, paOf 0 5 1 / 64)] }) id (fun j => { j with storage := some 1 })
/-- A SHARED beat for the Gleaner, for telemetry, or without budget. -/
def bgS (left : List Nat) : State :=
  let s := beatS .shared (fun v => { v with budget := { v.budget with left := left, rewrites := [.gleanerRewrite 0 1 0 2 511 131071], tele := 1 } })
  { s with units := s.units.set 0 gleanS.my }
theorem wit_windowBeat_background : (∀ l ∈ [[0, 0, 1, 0], [0, 0, 0, 1], [0, 0, 0, 0]], beatOpen (bgS l) .shared ∧ ((bgS l).vault 0).budget.left = l ∧ ((bgS l).vault 0).budget.fallow = [] ∧
      ((bgS l).vault 0).drain = [] ∧ ((bgS l).vault 0).budget.rewrites.find? (bgS l).rewriteReady = some (.gleanerRewrite 0 1 0 2 511 131071) ∧ 0 < ((bgS l).vault 0).budget.tele) ∧
    (bgS []).my.maps.maps[(1 : Fin 16)] = some [flo0] ∧ (bgS []).my.maps.valid = false ∧ (bgS []).pkg.dielist.contains (dieOf 511) = true := by
  unfold beatOpen; and_intros <;> decide +kernel
theorem wit_windowBeat_others : beatOpen migS .mig ∧ (match migS.migJob 0 0 5 with | some (.read c va) => c == 0 && va == 0 | _ => false) = true ∧ (migS.vault 0).beatOk .rd 0 4096 = true ∧
    beatOpen (sharedS 1) .shared ∧ 0 < ((sharedS 1).vault 0).budget.left.getD 0 0 ∧ ((sharedS 1).vault 0).budget.fallow.find? (blkIn 0 5) = some (paOf 0 5 0 / 64) ∧
    ((sharedS 1).vault 0).beatOk (.wr false) 0 4096 = true ∧ beatOpen (sharedS 0) .shared ∧ ((sharedS 0).vault 0).budget.left.getD 0 0 = 0 ∧ 0 < ((sharedS 0).vault 0).budget.left.getD 1 0 ∧
    ((sharedS 0).vault 0).drain.find? (fun x => blkIn 0 5 (((sharedS 0).vault 0).snapBlk x.1 x.2) && (((sharedS 0).job x.1).bind (·.storage)).isSome) = some (9, paOf 0 5 1 / 64) ∧
    ((sharedS 0).vault 0).beatOk .rd 0 4096 = true := by
  unfold beatOpen; and_intros <;> decide +kernel
theorem wit_windowBeat_held : (let s := beatS .mig (fun v => v.onBank 0 (fun k => { k with keeper := some 5000 }))
    (s.vault 0).wins.find? (fun w => w.covers (s.now 0)) = some { kind := .mig, bank := 0, first := 4096, n := 1 } ∧ (s.vault 0).keeperHolds 0 (s.now 0) = true) := by decide +kernel
/-- A period of the budgets that began at tick 1: the last tick of it, and the first of the next. -/
theorem wit_budgetPeriod : let s := fun (tick : Nat) => { vltS (fun v => { v with budget := { v.budget with since := some 1, set := [1, 0, 0, 0] } }) with tick := tick }
    ((s 120000).vault 0).budget.since = some 1 ∧ (s 120000).tick < 1 + periodTicks ∧ ((s 120001).vault 0).budget.since = some 1 ∧ 1 + periodTicks ≤ (s 120001).tick := by decide +kernel

/-! ### Events of the launch layer -/

theorem wit_preempt : (lnS .running).work.bound.find? (fun b => b.id == 3 && !b.saved) = some bound0 ∧ bound0.cols = [0] ∧ ((lnS .running).slot 0).st = .running ∧
    ((lnS .stopping).slot 0).st = .stopping ∧ (lnS .stopping).my.ctl.dead = false := by decide +kernel
def stopS (prepped : Bool) : State := lnS .stopping (fun u => { u with ctl := { u.ctl with preempt := some 0, prepped := prepped } })
theorem wit_stops : ((stopS false).slot 0).st = .stopping ∧ (stopS false).my.ctl.prepped = false ∧ (stopS false).my.ctl.preempt.isSome = true ∧ (stopS false).my.ctl.haltAt = none ∧
    (stopS true).launchOf 0 = some bound0 ∧ (stopS true).my.ctl.prepped = true ∧ (stopS true).my.ctl.dead = false := by decide +kernel
def bound1 : Bound := { bound0 with saved := true }
def saved0 : SavedUnit := { launch := 3, page := 1, index := 0, unit := .reset, rows := [], wins := [], hcyc := 0, at_ := 0, forced := false, lost := [] }
/-- A saved launch, its image in page 1 of the vault. -/
def resumeS : State :=
  { busyS with slots := z.slots.set 0 { z.slot 0 with st := .free, saved := [saved0] }
               mems := z.mems.set 0 { z.mems[0] with vault := { Memory.empty with cells := [(4096, 0x56), (4097, 0x41), (4098, 0x53), (4099, 0x4B), (4100, 1)] } }
               work := { busyS.work with bound := [bound1] } }
theorem wit_resume : resumeS.work.bound.find? (fun b => b.id == 3 && b.saved) = some bound1 ∧ bound1.cols = [0] ∧ (resumeS.slot 0).st = .free ∧ SavedUnit.ofLaunch 3 (resumeS.slot 0) = some saved0 ∧
    resumeS.imageOk 0 1 = true := by decide +kernel
def req0 : LReq := { id := 2, die := 0, q := 1, part := 7, desc := 0x100, arg := 0, job := 9, pri := 0, deps := 0 }
/-- A request for a launch whose descriptor, at the job's address 0x100, asks for one unit anywhere. -/
def placeS (k : Queue) : State :=
  { busyS with work := { busyS.work with reqs := [req0], queues := [k] }
               mems := z.mems.set 0 { z.mems[0] with vault := { Memory.empty with cells := [(0x5100 + 64, 1), (0x5100 + 8 * 17 + 1, 0x80)] } } }
def item0 : Placed := { id := 1, desc := 0x100, arg := 0, job := 9, pri := 0, placed := 0, elig := none }
theorem wit_launchPlacement : (placeS queue0).work.reqs.find? (fun r => r.id == 2) = some req0 ∧ (placeS queue0).queue 0 1 = some queue0 ∧ (placeS queue0).job 9 = some job0 ∧ (placeS queue0).part 7 = some part0 ∧
    queue0.owner = 7 ∧ queue0.leader.isSome = true ∧ queue0.items.length < 1024 ∧ (placeS queue0).descBad job0 part0 0x100 = false ∧
    1024 ≤ ({ queue0 with items := .replicate 1024 item0 } : Queue).items.length ∧ ({ queue0 with leader := none } : Queue).leader = none := by decide +kernel
theorem wit_schedulingPass : busyS.queue 0 1 = some queue0 ∧ busyS.part queue0.owner = some part0 ∧ queue0.leader.isSome = true ∧ part0.closing = false ∧ part0.paused = false ∧ part0.cyc % 2048 = 0 ∧
    queue0.held = [] ∧ busyS.rivals queue0 = [] := by decide +kernel
theorem wit_sliceEnd : ({ busyS with work := { busyS.work with queues := [] } } : State).work.bound.find? (fun b => b.id == 3 && !b.saved) = some bound0 ∧ busyS.part bound0.part = some part0 := by decide +kernel
def root0 : JobReq := { handle := 10, part := 7, die := 0, q := 1, pri := 0, desc := 0x100, arg := 0, groups := 0, pkg := 0, map := [ext0] }
theorem wit_rootLaunchPlacement : busyS.pkg.session = true ∧ busyS.job root0.handle = none ∧ busyS.queue root0.die root0.q = some queue0 ∧ queue0.owner = root0.part := by decide +kernel
def form0 (floor : Nat) : FormReq := { num := 8, tenant := 1, cols := [511], floor := floor, queues := [], offs := [], start := 0 }
theorem wit_partitionFormation : busyS.pkg.session = true ∧ busyS.pkg.ready = true ∧ busyS.part 8 = none ∧ (600 ≤ (form0 600).floor ∧ (form0 1200).floor ≤ 1200) ∧ busyS.pkg.dielist.contains (dieOf 511) = true ∧
    busyS.partOf 511 = none ∧ (busyS.slot 511).st = .free ∧ busyS.work.loans = [] := by decide +kernel
def idleP (p : Part) : State := { busyS with parts := [p], work := { Work.reset with queues := [queue0] } }
theorem wit_partitionRelease : (idleP part0).pkg.session = true ∧ (idleP part0).part 7 = some part0 ∧ (idleP part0).work.bound = [] ∧ (idleP part0).work.reqs = [] ∧ (idleP part0).work.queues = [queue0] ∧ queue0.items = [] ∧
    part0.closing = false ∧ (idleP { part0 with closing := true }).part 7 = some { part0 with closing := true } := by decide +kernel
/-- An object of one section: kind 1, index 0, one word, at offset 0x40. -/
def obj0 : List Byte :=
  [0x4B, 0x58, 0x4F, 0x42, 1, 0, 0, 0, 0, 0, 0, 0, 1, 0, 0, 0] ++ .replicate 16 0 ++ [1, 0, 0, 0, 4, 0, 0, 0, 0x40, 0, 0, 0, 0, 0, 0, 0] ++ .replicate 20 0
theorem wit_handlerInstall : (listImg obj0).headBad = false ∧ ((listImg obj0).secs.map (fun x => (x.kind, x.index, x.size))) = [(1, 0, 4)] ∧ 4 % 4 = 0 ∧ 4 ≤ 2 ^ 14 ∧ 0 < 4 / 4 := by decide +kernel

/-! ### Events of the host and of the package -/

theorem wit_hostBar2Access : 2 ^ 38 - 1 + 1 ≤ 2 ^ 38 ∧ busyS.barServed (barCol (2 ^ 38 - 1)) = true ∧ barCol (2 ^ 38 - 1) = 511 ∧ busyS.barServed (barCol 0) = false ∧ 2 ^ 38 < 2 ^ 38 + 1 := by decide +kernel
theorem wit_hostRelease : busyS.pkg.session = true ∧ busyS.job 9 = some job0 ∧ (busyS.jobPlace job0 (offOf 0xFFF8)).isSome = true ∧ ext0.w = true ∧ ext0.cow = false ∧ (0xFFF8 : Dword).toNat % 8 = 0 ∧ tagOf 0xFFF8 = 0 ∧
    (busyS.vault 0).live = [] := by decide +kernel
theorem wit_loanGrant : busyS.pkg.session = true ∧ busyS.partOf 511 = none ∧ busyS.pkg.dielist.contains (dieOf 511) = true ∧ 0 < 1 ∧ 2 ^ 17 - 1 + 1 ≤ 2 ^ 17 ∧ busyS.work.loans = [] := by decide +kernel
def loan0 : Loan := { col := 511, page := 1, pages := 1, pkg := 1, recalled := some 0 }
/-- A page that is lent: the last of its blocks, and the first past them. -/
theorem wit_loanAccess : let s : State := { busyS with work := { busyS.work with loans := [{ loan0 with recalled := none }] } }
    s.lent 511 127 = true ∧ s.lent 511 128 = false ∧ s.lent 510 64 = false := by decide +kernel
theorem wit_loanRecall : [loan0].find? (fun l => l.col == 511 && l.page == 1) = some loan0 ∧ loan0.recalled = some 0 ∧ 0 ≤ z.tick := by decide +kernel
def snap0 (opened : Bool) : Snap := { job := 9, round := 1, opened := opened }
def held0 (round : BitVec 32) : HeldSnap := { col := 0, launch := 3, job := 9, round := round }
def snapS (l : List Snap) (held : List HeldSnap) : State := { busyS with work := { busyS.work with snaps := l, held := held } }
theorem wit_snapshots : (snapS [] [held0 1]).work.held.filter (fun x => x.col == 0) = [held0 1] ∧ (snapS [] []).reserveWaits job0 = false ∧ (snapS [] []).job 9 = some job0 ∧ (snapS [] []).work.snaps.find? (fun n => n.job == 9) = none ∧
    (snapS [] []).roundOver job0 1 = false ∧ (snapS [] []).cowExtents 9 = [] ∧ (snapS [snap0 false] []).work.snaps.find? (fun n => n.job == 9) = some (snap0 false) ∧
    (snapS [snap0 true] []).work.snaps.find? (fun n => n.job == 9) = some (snap0 true) ∧ ((snapS [snap0 true] []).vault 0).drain = [] := by decide +kernel
def boot0 : BootReq := let all := [true, true, true, true]; { trim := all, clock := all, links := [], fwOk := [true], timing := all, init := all }
theorem wit_powerGood : z.pkg.ready = false ∧ z.pkg.failed = false ∧ boot0.links = [] ∧
    (∀ d : Die, boot0.trim.getD d.val false = true ∧ boot0.clock.getD d.val false = true ∧ boot0.timing.getD d.val false = true ∧ boot0.init.getD d.val false = true) := by decide +kernel
theorem wit_dies : z.work.bound = [] ∧ (0 : Die) ≠ 3 ∧ dieOf 0 = 0 ∧ dieOf 511 ≠ 0 ∧ ((z.dies[(3 : Die)]).gen)[(0 : Die)] = 0 ∧ ((z.dies[(3 : Die)]).gen)[(0 : Die)] ≠ 1 ∧ z.txns = [] ∧ z.work.atoms = [] := by decide +kernel
def downS : State := { z with tick := 1200000, dies := z.dies.set 3 { z.dies[(3 : Die)] with downAt := (z.dies[(3 : Die)]).downAt.set 0 (some 0) } }
theorem wit_linkDownTimeout : ((downS.dies[(3 : Die)]).downAt)[(0 : Die)] = some 0 ∧ 0 + 1200000 ≤ downS.tick := by decide +kernel
theorem wit_vaultTemperatureRead : 81999 < z.limitC 0 * 1000 - 3000 ∧ ¬ 82000 < z.limitC 0 * 1000 - 3000 ∧ z.parts = [] := by decide +kernel
def partS (p : Part) : State := { busyS with parts := [p], tick := 1200000 }
def slowP : Part := { part0 with mhz := 1150, paused := true }
theorem wit_clock : (partS slowP).part 7 = some slowP ∧ slowP.cyc % 2048 = 0 ∧ (partS slowP).coolPart slowP = true ∧ slowP.atFloor = none ∧ (partS slowP).coolPause slowP = true ∧ (partS slowP).powerHolds slowP = false ∧ slowP.mhz < 1200 ∧ slowP.stepped + 1200000 ≤ (partS slowP).tick ∧
    1150 ≤ slowP.mhz ∧ slowP.paused = true ∧ ({ part0 with mhz := 600 } : Part).mhz ≤ part0.floor ∧ (partS slowP).pkg.plim < 3201 := by decide +kernel
def sleepS : State := { z with pkg := { Pkg.reset with ready := true, lattol := 200000, dielist := [0] }, tick := 12000000 }
theorem wit_idleStateEntry : (∀ st ∈ [IdleState.c1, .c2], sleepS.mayIdle 0 st = true ∧ (sleepS.vault 0).idleAt + IdleState.after st ≤ sleepS.tick) ∧ (sleepS.vault 0).deeper .c1 = true ∧
    ({ VaultSt.reset with idle := some .c1 } : VaultSt).deeper .c2 = true ∧ ({ VaultSt.reset with idle := some .c2 } : VaultSt).deeper .c2 = false := by decide +kernel

theorem wit_preempt_states : ((lnS .stopped).slot 0).st = .stopped ∧ ((lnS .held).slot 0).st = .held ∧ (lnS .held).my.ctl.haltAt = none ∧
    (lnS .held (fun u => { u with ctl := { u.ctl with haltAt := some 5 }, frm := { u.frm with queue := [(.l, flt .farLate)] } })).my.frm.queue ≠ [] := by decide +kernel
/-- A product of tile 1, which is recomputable, under way. -/
def lostS : State :=
  lnS .stopping (fun u => { u with
    regs := { u.regs with trs := u.regs.trs.set 0 0x8000000000000010 }
    eng := { u.eng with mmas := [{ mma0 false with tile := 1, sig := 5000 }] }
    pend := [{ at_ := 4200, stream := .m, eff := .mmaRow 1 0 }, { at_ := 4200, stream := .v, eff := .sreg 1 { data := 0, tail := 0 } }] })
theorem wit_preemptionRequest : (lostS.slot 0).st = .stopping ∧ lostS.my.ctl.dead = false ∧ ([1, 2, 3] : List (Fin 4)).filter lostS.my.regs.recomputable = [1] ∧ lostS.now 0 ≤ 5000 ∧
    (∀ p ∈ lostS.my.pend, lostS.now 0 < p.at_ ∨ p.beforeRequest = false) := by decide +kernel
theorem wit_forcedStop : (let s := vaultS VaultSt.reset 18001 (stopS false)
    (s.slot 0).st = .stopping ∧ s.my.ctl.dead = false ∧ s.my.ctl.prepped = false ∧ s.my.ctl.preempt = some 0 ∧ 0 + 18001 ≤ s.now 0 ∧ s.my.ctl.haltAt = none ∧ s.my.frm.insv = false) := by decide +kernel
def resumeIn (st : SlotState) (ok : Bool) : State :=
  { resumeS with slots := resumeS.slots.set 0 { resumeS.slot 0 with st := st, launch := 3 }, mems := if ok then resumeS.mems else z.mems }
theorem wit_resume_states : (∀ st ∈ [SlotState.free, .done, .loading], ((resumeIn st true).slot 0).st = st ∧ SavedUnit.ofLaunch 3 ((resumeIn st true).slot 0) = some saved0) ∧
    (resumeIn .done true).imageOk 0 1 = true ∧ (resumeIn .done false).imageOk 0 1 = false ∧ saved0.page = 1 ∧ (resumeIn .loading true).partOf 0 = some part0 := by
  refine ⟨fun st h => ?_, by decide +kernel, by decide +kernel, rfl, by decide +kernel⟩
  simp only [List.mem_cons, List.not_mem_nil, or_false] at h
  rcases h with rfl | rfl | rfl <;> exact ⟨by decide +kernel, rfl⟩
/-- The saved unit has a deferred fault in its queue. -/
theorem wit_resume_queue : (let k := { saved0 with unit := { UnitSt.reset with frm := { UnitSt.reset.frm with queue := [(.l, flt .farLate)] } } }
    let h : Handler := { bytes := [], size := 0, entry := 0 }
    let s : State := { resumeIn .loading true with slots := z.slots.set 0 { (resumeIn .loading true).slot 0 with saved := [k] }, parts := [{ part0 with handler := some h }] }
    SavedUnit.ofLaunch 3 (s.slot 0) = some k ∧ (s.slot 0).st = .loading ∧ s.partOf 0 = some { part0 with handler := some h } ∧ k.insv = false ∧ (flt .farLate).cause ≠ BitVec.ofNat 8 Cause.map.code) := by
  decide +kernel
/-- A queue with a launch whose one unit is to lie in column 0, which is free, or at work for another launch. -/
def passQ : Queue := { queue0 with items := [{ item0 with elig := some 0 }] }
def passS (busy : Bool) : State :=
  { busyS with slots := if busy then busyS.slots else z.slots
               mems := z.mems.set 0 { z.mems[0] with vault := { Memory.empty with cells := [(0x5100 + 64, 1)] } }
               dies := z.dies.set 0 { z.dies[(0 : Die)] with works := true }
               work := { busyS.work with queues := [passQ], bound := if busy then [bound0] else [] } }
theorem wit_schedulingPass_binds : (passS false).queue 0 1 = some passQ ∧ (passS false).part passQ.owner = some part0 ∧ passQ.leader.isSome = true ∧ passQ.held = [] ∧
    (∃ x l, sortCands ((passS false).rivals passQ) = x :: l ∧ x.of passQ = true ∧ x.saved = false ∧ (passS false).job x.job = some job0 ∧
      (passS false).fit x ((passS false).freeCols part0) ((passS false).free + 1000) = some [0] ∧ (passS false).floorBad part0 job0 x = false) := by
  refine ⟨by decide +kernel, by decide +kernel, by decide +kernel, by decide +kernel, _, _, rfl, ?_⟩; decide +kernel
theorem wit_schedulingPass_full : (passS true).freeCols part0 = [] ∧ (∀ x ∈ (passS true).rivals passQ, ∀ n, (passS true).fit x [] n = none) := by
  refine ⟨by decide +kernel, fun x h n => ?_⟩
  have e : (passS true).rivals passQ = [((passS true).rivals passQ).headD { id := 0, qdie := 0, q := 0, desc := 0, arg := 0, job := 0, pri := 0, eff := 0, elig := 0, rnd := 0, turns := 0, saved := false }] := rfl
  rw [e] at h; simp only [List.mem_singleton] at h; subst h; rfl
/-- A launch of higher priority waits in another queue of the same leader, whose pass is to come. -/
def passQ2 : Queue := { passQ with q := 2, items := [{ item0 with id := 2, pri := 7, elig := some 0 }] }
def bothS : State := { passS false with agenda := [.event (.schedulingPass 0 2)], work := { (passS false).work with queues := [passQ, passQ2] } }
theorem wit_schedulingPass_behind : bothS.queue 0 1 = some passQ ∧ passQ2.leader = passQ.leader ∧ (∃ x y, sortCands (bothS.rivals passQ) = [x, y] ∧ x.of passQ = false ∧ y.of passQ = true ∧
      bothS.fit x (bothS.freeCols part0) (bothS.free + 1000) = some [0] ∧ bothS.verdict part0 x = .go ∧ bothS.passComes x = true ∧
      bothS.fit y ((bothS.freeCols part0).filter (fun c => !([0] : List Col).contains c)) (bothS.free + 1000) = none) := by
  refine ⟨by decide +kernel, rfl, _, _, rfl, ?_⟩; decide +kernel
theorem wit_schedulingPass_leaderless : (let k := { queue0 with leader := none }
    let s : State := { busyS with work := { busyS.work with queues := [k] } }
    s.queue 0 1 = some k ∧ s.part k.owner = some part0 ∧ k.leader = none) := by decide +kernel
/-- A saved launch of column 0, which is free. -/
def savedS : State := { resumeS with dies := z.dies.set 0 { z.dies[(0 : Die)] with works := true }, work := { resumeS.work with queues := [queue0] } }
theorem wit_schedulingPass_resumes : savedS.queue 0 1 = some queue0 ∧ (∃ x l, sortCands (savedS.rivals queue0) = x :: l ∧ x.of queue0 = true ∧ x.saved = true ∧ x.id = 3 ∧
      savedS.fit x (savedS.freeCols part0) (savedS.free + 1000) = some [0] ∧ savedS.wheelTaken x.id part0 = false) := by
  refine ⟨by decide +kernel, _, _, rfl, ?_⟩; decide +kernel
/-- A slice ends while the queue's launch needs the column. -/
def sliceS (st : SlotState) : State := { passS true with slots := (slotS st).slots }
theorem wit_sliceEnd_wanted : ∀ st ∈ [SlotState.running, .stopped, .held, .loading], (sliceS st).work.bound.find? (fun b => b.id == 3 && !b.saved) = some bound0 ∧ (sliceS st).part bound0.part = some part0 ∧
    ((sliceS st).slot 0).st = st ∧ (sliceS st).my.ctl.dead = false ∧ passQ ∈ (sliceS st).work.queues ∧ passQ.owner = bound0.part ∧ passQ.leader.isSome = true ∧
    ∃ x ∈ (sliceS st).cands passQ, (sliceS st).needs part0 bound0 x = true := by
  intro st h; simp only [List.mem_cons, List.not_mem_nil, or_false] at h
  rcases h with rfl | rfl | rfl | rfl <;> exact ⟨by decide +kernel, by decide +kernel, by decide +kernel, by decide +kernel, by decide +kernel, by decide +kernel, by decide +kernel, _, .head _, by decide +kernel⟩
theorem wit_sliceEnd_renewed : ∀ k ∈ busyS.work.queues, busyS.cands k = [] := by decide +kernel
theorem wit_session : z.pkg.session = false ∧ busyS.pkg.session = true := by decide +kernel
theorem wit_hostBar2Access_bytes : (let s : State := z
    s.memWf) ∧ (let s : State := { z with pkg := busyS.pkg }
    2 ^ 38 - 2 + 2 ≤ 2 ^ 38 ∧ ∀ i, i < 2 → s.barServed (barCol (2 ^ 38 - 2 + i)) = true) := by
  refine ⟨wit_StepKeepsMemoriesCanonical.1, by decide, fun i h => ?_⟩
  match i, h with
  | 0, _ => decide +kernel
  | 1, _ => decide +kernel
theorem wit_hostRelease_refused : (∃ p, busyS.jobPlace job0 (offOf 0xFFF8) = some p ∧ p.isLoan = false ∧ (busyS.vault p.col).isLive (p.pa / 64) = false ∧ (busyS.placeBlk p).poisoned = false) ∧
    (∃ p, busyS.jobPlace job0 (offOf 0xFFFC) = some p ∧ (0xFFFC : Dword).toNat % 8 ≠ 0) ∧ tagOf 0x100000000000FFF8 ≠ 0 ∧
    (∃ p, (let s : State := { busyS with mems := z.mems.set 0 { z.mems[0] with vault := Memory.empty.setHead (0x5040 / 64) { fmt := 0, scl := 0xFF } } }
      s.jobPlace job0 (offOf 0x40) = some p ∧ (s.placeBlk p).poisoned = true)) ∧
    (∃ p, (let s : State := { busyS with vaults := z.vaults.set 0 { VaultSt.reset with live := [{ pa := 0x5040, users := [(0, 3)] }] } }
      s.jobPlace job0 (offOf 0x40) = some p ∧ p.isLoan = false ∧ (s.vault p.col).isLive (p.pa / 64) = true)) := by
  refine ⟨⟨_, rfl, ?_⟩, ⟨_, rfl, ?_⟩, by decide, ⟨_, rfl, ?_⟩, ⟨_, rfl, ?_⟩⟩ <;> decide +kernel
theorem wit_hostRelease_readonly : (let j := { job0 with map := [{ ext0 with w := false }] }
    ∃ p, busyS.jobPlace j (offOf 0x40) = some p ∧ p.ext.w = false) := ⟨_, rfl, by decide⟩
theorem wit_loanGrant_beside : (let s : State := { busyS with work := { busyS.work with loans := [loan0] } }
    ∀ l ∈ s.work.loans, l.col = 511 → l.page + l.pages ≤ 2 ∨ 2 + 4 ≤ l.page) := by decide +kernel
theorem wit_loanRecall_first : [{ loan0 with recalled := none }].find? (fun l => l.col == 511 && l.page == 1) = some { loan0 with recalled := none } := by decide
/-- A held SNAP where the engine has a snapshot of the job, where its round is over, and where a COW extent has no reserve. -/
theorem wit_snapAccept_known : ∀ n ∈ [1, 2], (snapS [snap0 true] [held0 (BitVec.ofNat 32 n)]).work.held.filter (fun x => x.col == 0) = [held0 (BitVec.ofNat 32 n)] ∧
    (snapS [snap0 true] [held0 (BitVec.ofNat 32 n)]).work.snaps.find? (fun n => n.job == 9) = some (snap0 true) := by decide +kernel
theorem wit_snapAccept_over : (let j := { job0 with placed := [0x100] }
    let s : State := { busyS with work := { busyS.work with jobs := [j], held := [held0 0] } }
    s.job 9 = some j ∧ s.work.snaps.find? (fun n => n.job == 9) = none ∧ s.roundOver j 0 = true) := by decide +kernel
def cowS : State :=
  { mapS (fun u => { u with maps := { u.maps with maps := u.maps.maps.set 0 (some [{ ext0 with cow := true }]) } }) with work := { busyS.work with held := [held0 1] } }
theorem wit_snapAccept_unreserved : cowS.job 9 = some job0 ∧ cowS.work.snaps = [] ∧ cowS.cowExtents 9 = [{ ext0 with cow := true }] ∧ job0.reserves = [] := by decide +kernel
/-- A block of the job's reserve for a COW extent is still to be cleared. -/
def resvJob : Job := { job0 with reserves := [({ ext0 with cow := true }, [(0, 100)])] }
theorem wit_snapAccept_reserves : let s : State := { cowS with vaults := z.vaults.set 0 { VaultSt.reset with budget := { VaultSt.reset.budget with fallow := [64 * 115 + 63] } }, work := { cowS.work with jobs := [resvJob] } }
    s.job 9 = some resvJob ∧ s.work.snaps = [] ∧ s.roundOver resvJob 1 = false ∧ (∀ e ∈ s.cowExtents 9, ∃ x ∈ resvJob.reserves, reserveFor x.1 e = true) ∧ s.reserveWaits resvJob = true := by decide +kernel
theorem wit_dieReset : ∀ p ∈ (z.unit 0).pend, ∀ b va h hp ph w tx k r, p.eff ≠ .loan b va h hp ph w tx k r := by
  intro p h; exact absurd h (by rw [show (z.unit 0).pend = [] by decide +kernel]; exact List.not_mem_nil)
/-- An atomic of package 1 that has asked at tick n. -/
def peerS (n : Nat) (l : List Atomic) : State := { z with tick := 12000000, pkg := { Pkg.reset with peers := [(1, n)] }, work := { Work.reset with atoms := l } }
/-- A partition at its floor, its power over the limit since tick 0 or 1; a vault a degree below its limit. -/
def floorP (t : Option Nat) : Part := { part0 with mhz := 600, atFloor := t }
theorem wit_powerLimitCheck : (∀ t ∈ [none, some 0, some 1], (partS (floorP t)).part 7 = some (floorP t) ∧ (floorP t).mhz ≤ (floorP t).floor) ∧ 0 + 1200000 ≤ (partS part0).tick ∧ (partS part0).tick < 1 + 1200000 ∧
    part0.floor < part0.mhz ∧ part0.paused = false ∧ (partS (floorP (some 0))).powerHolds (floorP (some 0)) = true ∧
    (partS part0).limitC 0 * 1000 - 1000 = 84000 ∧ (partS part0).limitC 0 * 1000 - 3000 = 82000 ∧ part0.cols.any (near 0) = true := by decide +kernel
theorem wit_peerPackageTimeout : (∀ n ∈ [0, 1], (peerS n [{ atom0 with pkg := 1 }]).pkg.peers.find? (fun x => x.1 == 1) = some (1, n)) ∧ (peerS 0 []).txns = [] ∧ (peerS 0 []).work.colls = [] ∧
    0 + 12000000 ≤ (peerS 0 []).tick ∧ (peerS 1 []).tick < 1 + 12000000 ∧ z.pkg.peers = [] := by decide +kernel
theorem wit_peerPackageTimeout_units : ∀ c : Col, ((peerS 0 []).unit c).eng.cmds = [] := by
  intro c; simp only [State.unit, peerS, z, State.reset, Fin.getElem_fin, Vector.getElem_replicate]; decide
theorem wit_vaultTemperature_step : (let p := { part0 with mhz := 650 }
    let s := partS p
    s.limitC 0 * 1000 - 3000 ≤ 99999 ∧ (99999 : Int) < 100000 ∧ s.parts = [p] ∧ p.cols.any (near 0) = true ∧ p.floor < p.mhz ∧ (s.vault 0).stepAt = none ∧ s.part 7 = some p ∧ p.cyc % 2048 = 0) := by decide +kernel

/-! ## Words that no decoder takes (R142, R144) -/

theorem test_refused_words : decode .k [0x01FC0000] = .ok (.undef h0 0) ∧ decode .k [0x01F40000] = .illegalInstruction ∧ decode .d [0x003C0000] = .illegalInstruction ∧ decode .k [0x00543041] = .illegalEncoding ∧
    decode .k [0x00183042] = .illegalEncoding ∧ decode .k [0x01803032] = .illegalEncoding := by decide +kernel

/-! ## Terms that are not well formed, one for each check of Instr.wf -/

def bads : List Instr → Bool := fun l => l.all (fun i => !i.wf)
theorem smoke_control : bads [.addi h0 3 1 32, .addi h0 3 1 (-33), .andi h0 3 1 64, .ori h0 3 1 (-1), .xori h0 3 1 64, .shli h0 3 1 64, .shri h0 3 1 64, .srai h0 3 1 64, .sext h0 3 1 64, .wtag h0 3 1 16,
    .li h0 3 (2 ^ 39), .brEq h0 3 2048, .brNe h0 3 2048, .brLt h0 3 2048, .brGe h0 3 2048, .brLe h0 3 2048, .brGt h0 3 (-2049), .loop h0 3 2048, .jmp h0 (2 ^ 17), .call h0 (2 ^ 17),
    .lset h0 0 12 5 12001, .srd h0 3 0x032, .swr h0 3 0x059] = true := by decide
theorem smoke_data : bads [.win h0 .mig 3 0 10, .wcls h0 .shared 1 true, .vld h0 3 { ax := 2, pi := true, y := 9, disp := 2 ^ 21 }, .vlds h0 3 { ax := 2, pi := true, y := 9, disp := 2 ^ 21 },
    .vldg h0 3 { ax := 2, pi := true, y := 9, disp := 2 ^ 21 } 4, .qld h0 3 { ax := 2, pi := true, y := 9, disp := 2 ^ 21 }, .ldh h0 3 { ax := 2, pi := true, y := 9, disp := 2 ^ 21 },
    .lrec h0 { ax := 2, pi := true, y := 9, disp := 2 ^ 21 }, .ltr h0 .opa { ax := 2, pi := true, y := 9, disp := -(2 ^ 21) - 1 }] = true := by decide
def mmOk : Mm := { dt := 1, msz := .m32, roff := 2, ya := 3, yb := 8, k := 16, bl := false, z := true }
theorem smoke_matrix : bads [.idleM { sync := 0, stamp := 1 } 0x3FFFF, .mma k0 { mmOk with roff := 1 } false, .mma k0 { mmOk with k := 0 } false, .mma k0 mmOk true, .mma k0 { mmOk with bl := true } false,
    .mmag k0 { mmOk with msz := .m64 }, .mmag k0 { mmOk with k := 0 }, .mmag k0 { mmOk with bl := true }, .mzero k0 1 .m64 2, .mmov k0 1 2 0 0 0, .mmov k0 1 2 0 0 65, .mmov k0 1 2 1 0 64,
    .mmov k0 1 2 0 1 64, .mrst k0 0 1, .mcls k0 0 true] = true := by decide
theorem smoke_lanes : bads [.vadd (vc .q4) 3 1 2 false, .vsub (vc .fp32) 63 1 2 true, .vmin (vc .q4) 3 1 2 false, .vmax (vc .fp32) 3 63 2 true, .vmul (vc .fx16) 3 1 2 false, .vmul (vc .fp32) 3 1 63 true,
    .vmulh (vc .fp32) 3 1 2, .vadds (vc .fp32) 3 1 2, .vsubs (vc .fx16) 3 1 2, .vabs (vc .q4) 3 1, .vneg (vc .q4) 3 1, .vaddi (vc .fp32) 3 1 0, .vaddi (vc .i8) 3 1 256, .vli (vc .q4) 3 0, .vli (vc .i8) 3 (-257),
    .vcls (vc .i8) 3 1 0, .vcls (vc .fp32) 0 1 0, .vcls (vc .fp32) 3 1 11, .vfma (vc .fx16) 3 1 2 4 false, .vfms (vc .fp32) 3 1 2 63 true, .vfnma (vc .q4) 3 1 2 4 false, .vfnms (vc .fp32) 63 1 2 4 true,
    .vshl (vc .fp32) 3 1 2, .vshr (vc .fp32) 3 1 2, .vsra (vc .fp32) 3 1 2, .vcmpEq (vc .fp32) 0 1 2, .vcmpNe (vc .q4) 3 1 2, .vcmpLt (vc .fp32) 0 1 2, .vcmpLe (vc .q4) 3 1 2, .vcmpUn (vc .i8) 3 1 2,
    .vcmpUn (vc .fp32) 0 1 2] = true := by decide
theorem smoke_predicates : bads [.pand (vc .i8) 0 1 2, .por (vc .i8) 0 1 2, .pxor (vc .i8) 0 1 2, .pandn (vc .i8) 0 1 2, .pnot (vc .i8) 0 1, .pmov (vc .i8) 0 1, .pset (vc .i8) 0 1] = true := by decide
theorem smoke_moves : bads [.vperm (vc .i8) 4 5 63, .vshuf (vc .fp32) 4 5 6 5, .vshuf (vc .fp32) 4 5 6 4, .vsld (vc .fp32) 4 5 6 128, .vbcst (vc .fp32) 4 5 128, .vrsum (vc .q4) 3,
    .vrmax (vc .q4) 3, .vrmin (vc .q4) 3, .vrmaxa (vc .i8) 3, .vmaxa (vc .i8) 3, .vcvt (vc .q4) 3 1 .fp32 0, .vcvt (vc .fx16) 3 1 .fp32 0, .vcvt (vc .fp32) 3 1 .bf16 2, .vfin (vc .i8) 3 1, .vtail (vc .i8) 3 1,
    .vtclr (vc .i8) 3 1, .vscl (vc .i8) 3 1 0, .vscl (vc .fp32) 3 1 256, .vqnt (vc .i8) 4 5 .fp32 0 0, .vqnt (vc .e4m3) 4 5 .fp32 1 0, .vqnt (vc .q4) 4 5 .e4m3 0 0, .vqnt (vc .e4m3) 4 5 .fp32 0 4,
    .vradd (vc .fp32) 4 4 5 0 false, .vradd (vc .fx16) 4 4 5 0xFF false, .vrsub (vc .fx32) 4 4 5 0 true, .vkmix (vc .i32) 3 1 2, .vrndn (vc .i64), .vmovt (vc .fp32) 4 63 0] = true := by decide
theorem smoke_functions : bads ([VTy.i8, .e4m3, .e5m2, .fx16, .q4].flatMap (fun t => [.vexp (vc t) 3, .vlog (vc t) 3, .vrcp (vc t) 3, .vrsq (vc t) 3, .vsqrt (vc t) 3, .vtanh (vc t) 3, .vsigm (vc t) 3,
    .verf (vc t) 3])) = true := by decide
theorem smoke_stores : bads [.vst h0 { sm0 with s := 0xFF }, .vsts h0 { sm0 with s := 0xFF }, .vstc h0 { sm0 with disp := 256 }, .vwr h0 1 5 0 0 true 0, .vwr h0 1 0 3 0 true 0, .vwr h0 1 0 0 0 false 1,
    .sth h0 2 true 9 0x07 0x7F, .push h0 7 .amf, .cas h0 { a := 1, b := 63, ax := 3, scope := .pkg, ord := .rel, size := .b64 } true,
    .supdSgd h0 { v := 4, ax := 2, pi := true, y := 9, a := 5, mode := .rne, disp := 4096 }, .supdMom h0 { v := 4, ax := 2, pi := true, y := 9, a := 5, mode := .rne, disp := -4097 } 6] = true := by decide

/-! ## Numbers: the tables of spec/04_numbers_commentary.md -/

def x0 : XNum := .fin false (2 ^ 30 + 2 ^ 26 + 2 ^ 18 + 1) (-30)
theorem test_rto_chain : rto x0 .fp32 = ({ v := 0x3F880800, t := 1 }, 0) ∧ (rto (image .fp32 { v := 0x3F880800, t := 1 }) .bf16).1 = { v := 0x3F88, t := 1 } ∧
    (rto (image .bf16 { v := 0x3F88, t := 1 }) .e4m3).1 = { v := 0x38, t := 3 } ∧ (finalRound .e4m3 0x7F (image .e4m3 { v := 0x38, t := 3 }) .rne).1 = 0x39 ∧
    (finalRound .e4m3 0x7F x0 .rne).1 = 0x39 := by decide +kernel
theorem test_compare_sees_tail : (image .fp32 { v := 0x3F880800, t := 0 }).lt (image .fp32 { v := 0x3F880800, t := 1 }) = true ∧
    (finalRound .fp32 0x7F (image .fp32 { v := 0x3F880800, t := 1 }) .rne).1 = 0x3F880800 := by decide +kernel
def fullX : XNum := image .fp16 { v := 0x7BFF, t := 3 }
theorem test_overflow : fpAdd .fp16 { v := 0x7B53, t := 0 } { v := 0x6DDC, t := 0 } = ({ v := 0x7BFF, t := 3 }, nFov) ∧ finalRound .fp16 0x7F fullX .rne = (0x7C00, nFsat) ∧
    finalRound .fp16 0x7F fullX .rtz = (0x7BFF, nFsat ||| nInx) ∧ finalRound .fp16 0x7F fullX .rdn = (0x7BFF, nFsat ||| nInx) ∧ finalRound .fp16 0x7F fullX .rup = (0x7C00, nFsat) ∧
    finalRound .e4m3 0x7F fullX .rne = (0x7E, nFsat ||| nInx) := by decide +kernel
theorem test_q4_decode : (decodeElem .q4 0x20 5).eq (.ofInt 5) = true ∧ (decodeElem .q4 0x20 0xB).eq (.ofInt (-5)) = true ∧ (decodeElem .q4 0x60 0xB).eq (.fin true 3 (-1)) = true ∧
    (decodeElem .q4 0xA0 0xB).eq (.fin true 1 (-1)) = true ∧ (decodeElem .q4 0xE0 5).eq (.ofInt 6) = true ∧ (decodeElem .q4 0x5D 0xB).eq (.fin true 3 (-4)) = true := by decide +kernel
theorem test_q4_round : finalRound .q4 0x60 (.fin false 5 (-1)) .rne = (4, nInx) ∧ finalRound .q4 0x60 (.fin false 5 (-1)) .odd = (5, nInx) ∧ finalRound .q4 0x60 (.ofInt 9) .rne = (7, nFsat ||| nInx) := by
  decide +kernel
theorem test_sheaf_bias : (fpAdd .fp32 { v := 0x41D80000, t := 0 } { v := 0x407F0000, t := 0 }).1 = { v := 0x41F7E000, t := 0 } ∧ (rto (image .fp32 { v := 0x41F7E000, t := 0 }) .bf16).1 = { v := 0x41F7, t := 3 } ∧
    (finalRound .e4m3 0x7F (image .bf16 { v := 0x41F7, t := 3 }) .rne).1 = 0x5F := by decide +kernel

/-- spec/14_compute_streams_commentary.md: lane 3 of line V 02, and the update of line S 05. -/
theorem test_residual : fpMul .bf16 { v := 0x422C, t := 0 } { v := 0x3FC1, t := 0 } = ({ v := 0x4281, t := 3 }, 0) ∧ roundInt (image .bf16 { v := 0x4281, t := 3 }) .rne = (65, true) ∧
    (finalRound .bf16 0x7F ((elemVal .bf16 0x3FC1).add (XNum.fin true 43 (-6))).1 .rne).1 = 0x3F56 := by decide +kernel

/-! ## One instruction at a time -/

/-- The state that an instruction leaves; reset where it does not complete. -/
def after (o : Out) : State := match o with
  | .next t => t
  | _ => z
/-- The write of a scalar register that column 0 has pending: its cycle and its value. -/
def wrote (t : State) (d : Fin 64) : Option (Int × Dword) := t.my.pend.findSome? (fun p => match p.eff with
  | .sreg r v => if r = d then some (p.at_, v.data) else none
  | _ => none)
def big : Dword := 0x8000000000000000
theorem test_add_wraps : wrote (after (exec (.add h0 3 1 2) (regS [(1, -1), (2, 1)]))) 3 = some (1, 0) := by decide +kernel
theorem test_mulh_signs : wrote (after (exec (.mulh h0 3 1 2) (regS [(1, -1), (2, 2)]))) 3 = some (1, -1) ∧ wrote (after (exec (.mulhn h0 3 1 2) (regS [(1, -1), (2, 2)]))) 3 = some (1, 1) := by decide +kernel
/-- spec/10_control_stream_commentary.md: only the low six bits of a shift count matter. -/
theorem test_shl_65 : wrote (after (exec (.shl h0 3 1 2) (regS [(1, 5), (2, 65)]))) 3 = some (1, 10) := by decide +kernel
theorem test_srai_63 : wrote (after (exec (.srai h0 3 1 63) (regS [(1, big)]))) 3 = some (1, -1) := by decide +kernel
theorem test_min_minn : wrote (after (exec (.min h0 3 1 2) (regS [(1, -1), (2, 1)]))) 3 = some (1, -1) ∧ wrote (after (exec (.minn h0 3 1 2) (regS [(1, -1), (2, 1)]))) 3 = some (1, 1) := by decide +kernel
theorem test_lih_keeps_low : wrote (after (exec (.lih h0 3 0x123456) (regS [(3, 0xFFFFFFFFFFFFFFFF)]))) 3 = some (1, 0x123456FFFFFFFFFF) := by decide +kernel
theorem test_clz_of_zero : wrote (after (exec (.clz h0 3 1) z)) 3 = some (1, 64) := by decide +kernel
/-- spec/10_control_stream_commentary.md: the corner cases of DIV and REM. -/
def xdOf (s : State) : List Nat := (s.my.latch .xd).map (fun e => e.img.data.toNat)
theorem test_div_corners : xdOf (after (exec (.div h0 1 2) (regS [(1, 7)]))) = [2 ^ 64 - 1] ∧ xdOf (after (exec (.rem h0 1 2) (regS [(1, -7)]))) = [2 ^ 64 - 7] ∧
    xdOf (after (exec (.div h0 1 2) (regS [(1, big), (2, -1)]))) = [2 ^ 63] ∧ xdOf (after (exec (.rem h0 1 2) (regS [(1, big), (2, -1)]))) = [0] := by decide +kernel
/-- spec/10_control_stream_commentary.md: WCHK past the end of SP, and of a count of zero. -/
theorem test_wchk : wrote (after (exec (.wchk h0 3 1 2) (regS [(1, 0x30000000000FFFC0), (2, 128)]))) 3 = some (1, 3) ∧
    wrote (after (exec (.wchk h0 3 1 2) (regS [(1, 0x30000000000FFFC0)]))) 3 = some (1, 0) := by decide +kernel
theorem test_xfer_empty : ((after (exec (.xfer h0 3 .xd) (slotS .running))).my.frm.faultf.toNat % 256) = 0x07 := by decide +kernel
theorem test_trap_stops : ((after (exec (.trap h0 5) (slotS .running))).slot 0).st = .stopped := by decide +kernel
/-- R375, R377: a trap in a unit whose handler is enabled enters it, in supervisor state, with K's program counter and the code saved. -/
def trapS : State := slotS .running (onU (fun u => { u with frm := { u.frm with en := true, entry := 0x3FF00 } }))
def trapT : State := after (exec (.trap h0 5) trapS)
theorem test_trap_enters : trapT.my.frm.insv = true ∧ (trapT.my.strm .k).pc = 0x3FF00 ∧ trapT.my.frm.finfo = 5 ∧ trapT.my.frm.faultf.toNat % 256 = 0x16 := by decide +kernel

/-- R420: a die that fails step 5 still counts at step 3: with dies 1 and 3 unlinked, and 1 without its timing, 3 goes by its number and 1 by its timing. -/
theorem test_boot_order : (after (exec .powerGood (evS (.powerGood { boot0 with links := [(1, 3)], timing := [true, false, true, true] })))).pkg.dielist = [0, 2] := by
  decide +kernel

/-! ## Words written out from the encoding tables of spec/07_encoding_rules.md -/

theorem test_words_KInteger_1 :
    decode .k [0x00043042] = .ok (.add h0 3 1 2) ∧
    decode .k [0x00083042] = .ok (.sub h0 3 1 2) ∧
    decode .k [0x000C3042] = .ok (.mul h0 3 1 2) ∧
    decode .k [0x00103042] = .ok (.mulh h0 3 1 2) ∧
    decode .k [0x00143042] = .ok (.mulhn h0 3 1 2) ∧
    decode .k [0x00283042] = .ok (.and h0 3 1 2) ∧
    decode .k [0x002C3042] = .ok (.or h0 3 1 2) ∧
    decode .k [0x00303042] = .ok (.xor h0 3 1 2) ∧
    decode .k [0x00343042] = .ok (.andn h0 3 1 2) ∧
    decode .k [0x00383042] = .ok (.shl h0 3 1 2) ∧
    decode .k [0x003C3042] = .ok (.shr h0 3 1 2) ∧
    decode .k [0x00403042] = .ok (.sra h0 3 1 2) ∧
    decode .k [0x00443042] = .ok (.min h0 3 1 2) ∧
    decode .k [0x00483042] = .ok (.max h0 3 1 2) ∧
    decode .k [0x004C3042] = .ok (.minn h0 3 1 2) ∧
    decode .k [0x00503042] = .ok (.maxn h0 3 1 2) := by decide +kernel
theorem test_words_KInteger_2 :
    decode .k [0x00643042] = .ok (.csel h0 3 1 2) ∧
    decode .k [0x00683042] = .ok (.lea h0 3 1 2) ∧
    decode .k [0x00703042] = .ok (.wchk h0 3 1 2) ∧
    decode .k [0x00180042] = .ok (.div h0 1 2) ∧
    decode .k [0x001C0042] = .ok (.divn h0 1 2) ∧
    decode .k [0x00200042] = .ok (.rem h0 1 2) ∧
    decode .k [0x00240042] = .ok (.remn h0 1 2) ∧
    decode .k [0x00543040] = .ok (.clz h0 3 1) ∧
    decode .k [0x00583040] = .ok (.ctz h0 3 1) ∧
    decode .k [0x005C3040] = .ok (.popc h0 3 1) := by decide +kernel
theorem test_words_KImmediate :
    decode .k [0x0080307F] = .ok (.addi h0 3 1 (-1)) ∧
    decode .k [0x0084307F] = .ok (.andi h0 3 1 (63)) ∧
    decode .k [0x00883045] = .ok (.ori h0 3 1 (5)) ∧
    decode .k [0x008C3046] = .ok (.xori h0 3 1 (6)) ∧
    decode .k [0x00903047] = .ok (.shli h0 3 1 (7)) ∧
    decode .k [0x00943048] = .ok (.shri h0 3 1 (8)) ∧
    decode .k [0x00983049] = .ok (.srai h0 3 1 (9)) ∧
    decode .k [0x0060305F] = .ok (.sext h0 3 1 (31)) ∧
    decode .k [0x006C3043] = .ok (.wtag h0 3 1 (3)) ∧
    decode .k [0x009C3FFF, 0x0FFFFFFF] = .ok (.li h0 3 (-1)) ∧
    decode .k [0x00A03000, 0x00123456] = .ok (.lih h0 3 0x123456) := by decide +kernel
theorem test_words_KFloat_1 :
    decode .k [0x00C03042] = .ok (.cmpEq h0 3 1 2) ∧
    decode .k [0x00C43042] = .ok (.cmpNe h0 3 1 2) ∧
    decode .k [0x00C83042] = .ok (.cmpLt h0 3 1 2) ∧
    decode .k [0x00CC3042] = .ok (.cmpLe h0 3 1 2) ∧
    decode .k [0x00D03042] = .ok (.cmpLtn h0 3 1 2) ∧
    decode .k [0x00D43042] = .ok (.cmpLen h0 3 1 2) ∧
    decode .k [0x00E03042] = .ok (.fcmpEq h0 3 1 2) ∧
    decode .k [0x00E43042] = .ok (.fcmpNe h0 3 1 2) ∧
    decode .k [0x00E83042] = .ok (.fcmpLt h0 3 1 2) ∧
    decode .k [0x00EC3042] = .ok (.fcmpLe h0 3 1 2) ∧
    decode .k [0x00F03042] = .ok (.fcmpUn h0 3 1 2) ∧
    decode .k [0x01003042] = .ok (.fadd h0 3 1 2) ∧
    decode .k [0x01043042] = .ok (.fsub h0 3 1 2) ∧
    decode .k [0x01083042] = .ok (.fmul h0 3 1 2) ∧
    decode .k [0x010C3042] = .ok (.ffma h0 3 1 2) ∧
    decode .k [0x01103042] = .ok (.fmin h0 3 1 2) := by decide +kernel
theorem test_words_KFloat_2 :
    decode .k [0x01143042] = .ok (.fmax h0 3 1 2) ∧
    decode .k [0x01D43042] = .ok (.kmix h0 3 1 2) ∧
    decode .k [0x01183041] = .ok (.fcvt h0 3 1 .fp32 .bf16) ∧
    decode .k [0x011C3050] = .ok (.ffin h0 3 1 .fp16 .rne) ∧
    decode .k [0x01203046] = .ok (.fcvti h0 3 1 .rne .i64) ∧
    decode .k [0x01243068] = .ok (.icvtf h0 3 1 .n32) ∧
    decode .k [0x01283060] = .ok (.fcls h0 3 1 .e5m2) ∧
    decode .k [0x012C3040] = .ok (.ftail h0 3 1) := by decide +kernel
theorem test_words_KMemoryAndControl :
    decode .k [0x01303058] = .ok (.ldsF h0 3 1 .e4m3) ∧
    decode .k [0x01343078] = .ok (.ldsI h0 3 1 .n64) ∧
    decode .k [0x01383048] = .ok (.stsF h0 3 1 .bf16 .rne) ∧
    decode .k [0x013C3050] = .ok (.stsI h0 3 1 .i16) ∧
    decode .k [0x01401FFE] = .ok (.brEq h0 1 (-2)) ∧
    decode .k [0x01441FFE] = .ok (.brNe h0 1 (-2)) ∧
    decode .k [0x01481FFE] = .ok (.brLt h0 1 (-2)) ∧
    decode .k [0x014C1FFE] = .ok (.brGe h0 1 (-2)) ∧
    decode .k [0x01501FFE] = .ok (.brLe h0 1 (-2)) ∧
    decode .k [0x01541FFE] = .ok (.brGt h0 1 (-2)) ∧
    decode .k [0x015BFFFF] = .ok (.jmp h0 (-1)) ∧
    decode .k [0x01600008] = .ok (.call h0 8) ∧
    decode .k [0x015C0040] = .ok (.jmpi h0 1) ∧
    decode .k [0x01640000] = .ok (.ret h0) ∧
    decode .k [0x016A0FFC] = .ok (.loop h0 2 (-4)) ∧
    decode .k [0x016C000C, 0x01407800] = .ok (.lset h0 0 12 5 120) := by decide +kernel
theorem test_words_KSystem_1 :
    decode .k [0x01700000] = .ok (.prep h0) ∧
    decode .k [0x01940000] = .ok (.align h0) ∧
    decode .k [0x019C0000] = .ok (.halt h0) ∧
    decode .k [0x01A40000] = .ok (.eret h0) ∧
    decode .k [0x01AC0000] = .ok (.lfence h0) ∧
    decode .k [0x01B00000] = .ok (.isync h0) ∧
    decode .k [0x01743800] = .ok (.xfer h0 3 .xd) ∧
    decode .k [0x01803009] = .ok (.srd h0 3 0x009) ∧
    decode .k [0x01843022] = .ok (.swr h0 3 0x022) ∧
    decode .k [0x01880005, 0x00000384] = .ok (.phpre h0 5 900) ∧
    decode .k [0x018C0005] = .ok (.phadv h0 5) ∧
    decode .k [0x01903005] = .ok (.phq h0 3 5) ∧
    decode .k [0x01980040] = .ok (.realign h0 1) ∧
    decode .k [0x01CC0040] = .ok (.snap h0 1) ∧
    decode .k [0x01A00FFF] = .ok (.trap h0 0xFFF) ∧
    decode .k [0x01D80001] = .ok (.bkpt h0 1) := by decide +kernel
theorem test_words_KSystem_2 :
    decode .k [0x01A90002] = .ok (.fence h0 .rel .pkg) ∧
    decode .k [0x01B40042] = .ok (.cpub h0 1 2) ∧
    decode .k [0x01B80042] = .ok (.iload h0 1 2) ∧
    decode .k [0x01C40042] = .ok (.waitg h0 1 2) ∧
    decode .k [0x01C01083, 0x0E00FFFF] = .ok (.launch h0 1 2 3 7 0xFFFF) ∧
    decode .k [0x01C90040] = .ok (.cancel h0 .graph 1) ∧
    decode .k [0x01D03000] = .ok (.rndn h0 3) ∧
    decode .k [0x00000005] = .ok (.idleK h0 5) ∧
    decode .k [0x01FFFFFF] = .ok (.undef h0 0x3FFFF) := by decide +kernel
theorem test_words_D :
    decode .d [0x0003FFFF] = .ok (.idleD h0 0x3FFFF) ∧
    decode .d [0x0004F267] = .ok (.act h0 3 4711) ∧
    decode .d [0x9404C005] = .ok (.actRegister { sync := 9, idle := 2 } 3 5) ∧
    decode .d [0x000BC000] = .ok (.pre h0 15) ∧
    decode .d [0x000C0000] = .ok (.prea h0) ∧
    decode .d [0x00104000] = .ok (.refb h0 1) ∧
    decode .d [0x8015310A] = .ok (.win { sync := 8, idle := 0 } .mig 3 4 10) ∧
    decode .d [0x001A0800] = .ok (.wcls h0 .shared 0 true) := by decide +kernel
theorem test_words_L :
    decode .l [0x00000007, 0x00000000] = .ok (.idleL h0 7) ∧
    decode .l [0x80047509, 0x103FFFFD] = .ok (.vld { sync := 9, idle := 0 } 7 { ax := 2, pi := true, y := 9, disp := -3 }) ∧
    decode .l [0x00087509, 0x003FFFFD] = .ok (.vlds h0 7 { ax := 2, pi := true, y := 9, disp := -3 }) ∧
    decode .l [0x000C7509, 0x02FFFFFD] = .ok (.vldg h0 7 { ax := 2, pi := true, y := 9, disp := -3 } 11) ∧
    decode .l [0x0010738C, 0x00000000] = .ok (.vrd h0 7 3 17 2) ∧
    decode .l [0x00100388, 0x0C000000] = .ok (.vrdBuf h0 3 17 4) ∧
    decode .l [0x00146509, 0x003FFFFD] = .ok (.qld h0 6 { ax := 2, pi := true, y := 9, disp := -3 }) ∧
    decode .l [0x00198500, 0x00000000] = .ok (.qcw h0 6 5) ∧
    decode .l [0x001C7509, 0x003FFFFD] = .ok (.ldh h0 7 { ax := 2, pi := true, y := 9, disp := -3 }) ∧
    decode .l [0x00200509, 0x003FFFFD] = .ok (.lrec h0 { ax := 2, pi := true, y := 9, disp := -3 }) ∧
    decode .l [0x00241509, 0x003FFFFD] = .ok (.ltr h0 .opb { ax := 2, pi := true, y := 9, disp := -3 }) ∧
    decode .l [0x00287100, 0x00000000] = .ok (.pop h0 7 .amf) ∧
    decode .l [0x00400408, 0x07000000] = .ok (.cpyL h0 { ys := 1, yd := 2, sa := 3, da := 4 }) ∧
    decode .l [0x00440408, 0x07050000] = .ok (.cpyx h0 { ys := 1, yd := 2, sa := 3, da := 4 } 5) ∧
    decode .l [0x00480408, 0x07050000] = .ok (.cpymL h0 { ys := 1, yd := 2, sa := 3, da := 4 } 5) ∧
    decode .l [0x004C0408, 0x07050000] = .ok (.get h0 { ys := 1, yd := 2, sa := 3, da := 4 } 5) := by decide +kernel
theorem test_words_M :
    decode .m [0x00000009, 0x00000000, 0x00000064] = .ok (.idleM { sync := 0, stamp := 100 } 9) ∧
    decode .m [0x00056000, 0x00801080, 0x08000064] = .ok (.mma { sync := 0, stamp := 100 } { dt := 1, msz := .m32, roff := 2, ya := 0, yb := 8, k := 16, bl := false, z := true } true) ∧
    decode .m [0x00093070, 0x00001040, 0x00000064] = .ok (.mmag { sync := 0, stamp := 100 } { dt := 1, msz := .m16, roff := 3, ya := 7, yb := 0, k := 16, bl := true, z := false }) ∧
    decode .m [0x000C7000, 0x00000000, 0x00000064] = .ok (.midx { sync := 0, stamp := 100 } 7) ∧
    decode .m [0x00110700, 0x00000000, 0x00000064] = .ok (.mldt { sync := 0, stamp := 100 } .opb 7) ∧
    decode .m [0x00161000, 0x00000000, 0x00000064] = .ok (.mzero { sync := 0, stamp := 100 } 2 .m16 1) ∧
    decode .m [0x00184800, 0x02000000, 0x00000064] = .ok (.mmov { sync := 0, stamp := 100 } 0 1 8 0 16) ∧
    decode .m [0x001FFFFF, 0x00000000, 0x00000064] = .ok (.mrst { sync := 0, stamp := 100 } 3 0xFFFF) ∧
    decode .m [0x00238000, 0x00000000, 0x00000064] = .ok (.mcls { sync := 0, stamp := 100 } 3 true) := by decide +kernel
theorem test_words_V_1 :
    decode .v [0x00000009, 0x00000000] = .ok (.idleV h0 9) ∧
    decode .v [0x00044146, 0x0800C001] = .ok (.vadd (vc .fp32) 4 5 6 true) ∧
    decode .v [0x00084146, 0x0800C001] = .ok (.vsub (vc .fp32) 4 5 6 true) ∧
    decode .v [0x000C4146, 0x0800C001] = .ok (.vmul (vc .fp32) 4 5 6 true) ∧
    decode .v [0x00144146, 0x0800C001] = .ok (.vmin (vc .fp32) 4 5 6 true) ∧
    decode .v [0x00184146, 0x0800C001] = .ok (.vmax (vc .fp32) 4 5 6 true) ∧
    decode .v [0x00104146, 0x0400C000] = .ok (.vmulh (vc .i32) 4 5 6) ∧
    decode .v [0x001C4140, 0x0800C000] = .ok (.vabs (vc .fp32) 4 5) ∧
    decode .v [0x00204140, 0x0800C000] = .ok (.vneg (vc .fp32) 4 5) ∧
    decode .v [0x00244146, 0x0100C000] = .ok (.vadds (vc .n8) 4 5 6) ∧
    decode .v [0x00284146, 0x0100C000] = .ok (.vsubs (vc .n8) 4 5 6) ∧
    decode .v [0x002C4140, 0x0200C100] = .ok (.vaddi (vc .i16) 4 5 (-256)) ∧
    decode .v [0x00304140, 0x0800C000] = .ok (.vmov (vc .fp32) 4 5) ∧
    decode .v [0x00344000, 0x0800C0FF] = .ok (.vli (vc .fp32) 4 255) ∧
    decode .v [0x00389140, 0x0800C00A] = .ok (.vcls (vc .fp32) 9 5 10) ∧
    decode .v [0x00404146, 0x081CC000] = .ok (.vfma (vc .fp32) 4 5 6 7 false) := by decide +kernel
theorem test_words_V_2 :
    decode .v [0x00444146, 0x081CC000] = .ok (.vfms (vc .fp32) 4 5 6 7 false) ∧
    decode .v [0x00484146, 0x081CC000] = .ok (.vfnma (vc .fp32) 4 5 6 7 false) ∧
    decode .v [0x004C4146, 0x081CC000] = .ok (.vfnms (vc .fp32) 4 5 6 7 false) ∧
    decode .v [0x00604146, 0x0F00C000] = .ok (.vand (vc .q4) 4 5 6) ∧
    decode .v [0x00644146, 0x0F00C000] = .ok (.vor (vc .q4) 4 5 6) ∧
    decode .v [0x00684146, 0x0F00C000] = .ok (.vxor (vc .q4) 4 5 6) ∧
    decode .v [0x006C4146, 0x0F00C000] = .ok (.vandn (vc .q4) 4 5 6) ∧
    decode .v [0x00704146, 0x0D00C000] = .ok (.vshl (vc .fx16) 4 5 6) ∧
    decode .v [0x00744146, 0x0D00C000] = .ok (.vshr (vc .fx16) 4 5 6) ∧
    decode .v [0x00784146, 0x0D00C000] = .ok (.vsra (vc .fx16) 4 5 6) ∧
    decode .v [0x007C4140, 0x0700C000] = .ok (.vnot (vc .n64) 4 5) ∧
    decode .v [0x00809042, 0x0900C000] = .ok (.vcmpEq (vc .bf16) 9 1 2) ∧
    decode .v [0x00849042, 0x0900C000] = .ok (.vcmpNe (vc .bf16) 9 1 2) ∧
    decode .v [0x00889042, 0x0900C000] = .ok (.vcmpLt (vc .bf16) 9 1 2) ∧
    decode .v [0x008C9042, 0x0900C000] = .ok (.vcmpLe (vc .bf16) 9 1 2) ∧
    decode .v [0x00909042, 0x0900C000] = .ok (.vcmpUn (vc .bf16) 9 1 2) := by decide +kernel
theorem test_words_V_3 :
    decode .v [0x00944146, 0x0824C000] = .ok (.vsel (vc .fp32) 4 5 6 9) ∧
    decode .v [0x00A09042, 0x0000C000] = .ok (.pand (vc .i8) 9 1 2) ∧
    decode .v [0x00A49042, 0x0000C000] = .ok (.por (vc .i8) 9 1 2) ∧
    decode .v [0x00A89042, 0x0000C000] = .ok (.pxor (vc .i8) 9 1 2) ∧
    decode .v [0x00AC9042, 0x0000C000] = .ok (.pandn (vc .i8) 9 1 2) ∧
    decode .v [0x00B09040, 0x0800C000] = .ok (.pnot (vc .fp32) 9 1) ∧
    decode .v [0x00B49000, 0x0800C1FF] = .ok (.pset (vc .fp32) 9 511) ∧
    decode .v [0x00B89040, 0x0800C000] = .ok (.pmov (vc .fp32) 9 1) ∧
    decode .v [0x00C04146, 0x0800C000] = .ok (.vperm (vc .fp32) 4 5 6) ∧
    decode .v [0x00C44146, 0x0800C003] = .ok (.vshuf (vc .fp32) 4 5 6 3) ∧
    decode .v [0x00C84146, 0x0800C07F] = .ok (.vsld (vc .fp32) 4 5 6 127) ∧
    decode .v [0x00CC4140, 0x0800C07F] = .ok (.vbcst (vc .fp32) 4 5 127) ∧
    decode .v [0x00E00140, 0x0800C000] = .ok (.vrsum (vc .fp32) 5) ∧
    decode .v [0x00E40140, 0x0800C000] = .ok (.vrmax (vc .fp32) 5) ∧
    decode .v [0x00E80140, 0x0800C000] = .ok (.vrmin (vc .fp32) 5) ∧
    decode .v [0x00EC0140, 0x0800C000] = .ok (.vrmaxa (vc .fp32) 5) := by decide +kernel
theorem test_words_V_4 :
    decode .v [0x01004140, 0x0800C019] = .ok (.vcvt (vc .fp32) 4 5 .bf16 1) ∧
    decode .v [0x01044140, 0x0800C000] = .ok (.vfin (vc .fp32) 4 5) ∧
    decode .v [0x01084140, 0x0A00C000] = .ok (.vtail (vc .fp16) 4 5) ∧
    decode .v [0x010C4140, 0x0800C000] = .ok (.vtclr (vc .fp32) 4 5) ∧
    decode .v [0x01104140, 0x0800C1FF] = .ok (.vscl (vc .fp32) 4 5 (-1)) ∧
    decode .v [0x01140140, 0x0800C000] = .ok (.vmaxa (vc .fp32) 5) ∧
    decode .v [0x01184140, 0x0F00C1F8] = .ok (.vqnt (vc .q4) 4 5 .fp32 3 7) ∧
    decode .v [0x01204105, 0x0D00C077] = .ok (.vradd (vc .fx16) 4 4 5 0x77 false) ∧
    decode .v [0x01244105, 0x0D00C177] = .ok (.vrsub (vc .fx16) 4 4 5 0x77 true) ∧
    decode .v [0x01400140, 0x0800C000] = .ok (.vexp (vc .fp32) 5) ∧
    decode .v [0x01440140, 0x0800C000] = .ok (.vlog (vc .fp32) 5) ∧
    decode .v [0x01480140, 0x0800C000] = .ok (.vrcp (vc .fp32) 5) ∧
    decode .v [0x014C0140, 0x0800C000] = .ok (.vrsq (vc .fp32) 5) ∧
    decode .v [0x01500140, 0x0800C000] = .ok (.vsqrt (vc .fp32) 5) ∧
    decode .v [0x01540140, 0x0800C000] = .ok (.vtanh (vc .fp32) 5) ∧
    decode .v [0x01580140, 0x0800C000] = .ok (.vsigm (vc .fp32) 5) := by decide +kernel
theorem test_words_V_5 :
    decode .v [0x015C0140, 0x0800C000] = .ok (.verf (vc .fp32) 5) ∧
    decode .v [0x01604146, 0x0700C000] = .ok (.vkmix (vc .n64) 4 5 6) ∧
    decode .v [0x01640000, 0x0700C000] = .ok (.vrndn (vc .n64) ) ∧
    decode .v [0x01684001, 0x0800C000] = .ok (.vxf (vc .fp32) 4 .xr) ∧
    decode .v [0x016C4FC2, 0x0800C000] = .ok (.vmovt (vc .fp32) 4 63 2) := by decide +kernel
theorem test_words_S_1 :
    decode .s [0x00000009, 0x00000000] = .ok (.idleS h0 9) ∧
    decode .s [0x00052004, 0x0B0FE000] = .ok (.vst h0 { v := 18, ax := 0, pi := false, y := 4, ty := .e4m3, mode := .rne, s := 127, p := 0, disp := 0 }) ∧
    decode .s [0x00092004, 0x0B0FE000] = .ok (.vsts h0 { v := 18, ax := 0, pi := false, y := 4, ty := .e4m3, mode := .rne, s := 127, p := 0, disp := 0 }) ∧
    decode .s [0x000D2004, 0x0B0FE000] = .ok (.vstc h0 { v := 18, ax := 0, pi := false, y := 4, ty := .e4m3, mode := .rne, s := 127, p := 0, disp := 0 }) ∧
    decode .s [0x00101518, 0x00000000] = .ok (.vwr h0 1 5 3 0 false 0) ∧
    decode .s [0x00140509, 0x0227F000] = .ok (.sth h0 2 true 9 0x22 0x7F) ∧
    decode .s [0x00187200, 0x00000000] = .ok (.push h0 7 .clf) ∧
    decode .s [0x00200408, 0x07050000] = .ok (.put h0 { ys := 1, yd := 2, sa := 3, da := 4 } 5) ∧
    decode .s [0x00500408, 0x07050000] = .ok (.cpymS h0 { ys := 1, yd := 2, sa := 3, da := 4 } 5) ∧
    decode .s [0x004C0408, 0x07000000] = .ok (.cpyS h0 { ys := 1, yd := 2, sa := 3, da := 4 }) ∧
    decode .s [0x0024109A, 0x08280000] = .ok (.sig h0 { a := 1, b := 2, ax := 3, scope := .pkg, ord := .rel, size := .b64 } .add) ∧
    decode .s [0x0028109A, 0x0B080000] = .ok (.amo h0 { a := 1, b := 2, ax := 3, scope := .pkg, ord := .rel, size := .b64 } .swap true) ∧
    decode .s [0x002C109A, 0x0A080000] = .ok (.cas h0 { a := 1, b := 2, ax := 3, scope := .pkg, ord := .rel, size := .b64 } true) ∧
    decode .s [0x00301019, 0x00080000] = .ok (.bardef h0 1 3 .die) ∧
    decode .s [0x00340019, 0x00080000] = .ok (.bararv h0 3 .die) ∧
    decode .s [0x00380019, 0x00080000] = .ok (.barwt h0 3 .die) := by decide +kernel
theorem test_words_S_2 :
    decode .s [0x00404509, 0x01401FFF] = .ok (.supdSgd h0 { v := 4, ax := 2, pi := true, y := 9, a := 5, mode := .rne, disp := -1 }) ∧
    decode .s [0x00444509, 0x01461FFF] = .ok (.supdMom h0 { v := 4, ax := 2, pi := true, y := 9, a := 5, mode := .rne, disp := -1 } 6) ∧
    decode .s [0x0048C109, 0x00800000] = .ok (.coll h0 .bcast 1 9 2) := by decide +kernel
end

/-! PROOF. Special registers that a write leaves as they are, and writes of one cycle (spec/01_execution_rules.md R29, R30, R41). -/
namespace Sys2Proof.Machine

/-! ## SWR, and the registers whose fields are all read-only (R9, R41, R215) -/

/-- The selectors of CYC, BASE, ZONE, LATT and XMODE. -/
def roClockSels : List (Fin 4096) := [0x000, 0x001, 0x002, 0x003, 0x006]

/-- None of them is reserved to supervisor state, raises a fault for the value written, or is NUMST. -/
theorem roClockSels_plain {sel : Fin 4096} (h : sel ∈ roClockSels) (v : Dword) :
    selSV sel = false ∧ swrFault sel v = none ∧ (sel == 0x009) = false := by
  simp only [roClockSels, List.mem_cons, List.not_mem_nil, or_false] at h
  obtain rfl | rfl | rfl | rfl | rfl := h <;> exact ⟨rfl, rfl, rfl⟩

theorem writeSpec_roClockSels {sel : Fin 4096} (h : sel ∈ roClockSels) (v : Dword) (u : UnitSt) : u.writeSpec sel v = u := by
  simp only [roClockSels, List.mem_cons, List.not_mem_nil, or_false] at h
  obtain rfl | rfl | rfl | rfl | rfl := h <;> rfl

theorem exec_swr (h : Hdr) (d : Fin 64) (sel : Fin 4096) (s : State) : exec (.swr h d sel) s = execSwr h d sel s := rfl

/-- SWR of a register without SV fields, other than NUMST, where the value raises no fault: its write is pending for issue + 1. -/
theorem execSwr_completes {s : State} {h : Hdr} {d : Fin 64} {sel : Fin 4096} (hc : s.clear .k h.sync) (hr : s.ready [d] none 0)
    (hsv : selSV sel = false) (hf : swrFault sel (s.my.sd d) = none) (hn : (sel == 0x009) = false) :
    execSwr h d sel s = .next (s.issued .k h.sync 1 { eff := [s.lands .k (.spec sel (s.my.sd d)) 1] }) := by
  have hpriv : (selSV sel && !s.my.frm.insv) = false := by simp only [hsv, Bool.false_and]
  refine issueAs_issues hc ⟨rfl, hpriv, hr, hf⟩ ?_
  simp only [hn]; rfl

/-- Settles O11: SWR of such a register completes, and the write that it leaves pending is the identity on every unit. -/
theorem readOnlyClockRegisters : Obligations.ReadOnlyClockRegisters := by
  intro s h d sel hsel hc hr
  obtain ⟨hsv, hf, hn⟩ := roClockSels_plain hsel (s.my.sd d)
  exact ⟨(exec_swr h d sel s).trans (execSwr_completes hc hr hsv hf hn), writeSpec_roClockSels hsel _⟩

/-! ## Effects on a unit's registers do not concern what is pending -/

/-- The unit with other pending effects. -/
def UnitSt.withPend (u : UnitSt) (l : List Pend) : UnitSt := { u with pend := l }
@[simp] theorem UnitSt.withPend_pend (u : UnitSt) (l : List Pend) : (u.withPend l).pend = l := rfl
@[simp] theorem UnitSt.withPend_withPend (u : UnitSt) (l k : List Pend) : (u.withPend l).withPend k = u.withPend k := rfl
@[simp] theorem UnitSt.withPend_self (u : UnitSt) : u.withPend u.pend = u := rfl

theorem ite_eq_withPend {b : Bool} {x y x' y' : UnitSt} {l : List Pend} (hx : x' = x.withPend l) (hy : y' = y.withPend l) :
    (if b then x' else y') = (if b then x else y).withPend l := by cases b <;> assumption

/-- One branch for each of the seven ranges of selectors, then one for each selector. -/
theorem writeSpec_withPend (u : UnitSt) (l : List Pend) (sel : Fin 4096) (v : Dword) :
    (u.withPend l).writeSpec sel v = (u.writeSpec sel v).withPend l := by
  unfold UnitSt.writeSpec
  iterate 7 refine ite_eq_withPend rfl ?_
  split <;> rfl

theorem applyEff_withPend (u : UnitSt) (l : List Pend) (e : Eff) : (u.withPend l).applyEff e = (u.applyEff e).withPend l := by
  cases e with
  | spec sel v => exact writeSpec_withPend u l sel v
  | latch x => cases x <;> rfl
  | _ => rfl

/-- The unit after effects, one after another. -/
def UnitSt.applyAll (u : UnitSt) (ps : List Pend) : UnitSt := ps.foldl (fun u p => u.applyEff p.eff) u
@[simp] theorem UnitSt.applyAll_nil (u : UnitSt) : u.applyAll [] = u := rfl
@[simp] theorem UnitSt.applyAll_cons (u : UnitSt) (p : Pend) (ps : List Pend) : u.applyAll (p :: ps) = (u.applyEff p.eff).applyAll ps := rfl
theorem UnitSt.applyAll_append (u : UnitSt) (ps qs : List Pend) : u.applyAll (ps ++ qs) = (u.applyAll ps).applyAll qs := List.foldl_append

theorem applyAll_withPend (u : UnitSt) (l ps : List Pend) : (u.withPend l).applyAll ps = (u.applyAll ps).withPend l := by
  induction ps generalizing u with
  | nil => rfl
  | cons p ps ih => rw [UnitSt.applyAll_cons, applyEff_withPend, ih, UnitSt.applyAll_cons]
@[simp] theorem applyAll_pend (u : UnitSt) (ps : List Pend) : (u.applyAll ps).pend = u.pend := by
  rw [← UnitSt.withPend_self u, applyAll_withPend]; rfl

/-! ## How register and row writes land (R29) -/

/-- The writes of R30: to a register or to a row. -/
def Eff.isWrite : Eff → Bool
  | .sreg .. | .row .. | .spec .. => true
  | _ => false
theorem captures_of_isWrite {e : Eff} (h : e.isWrite = true) : e.captures = false := by
  cases e with
  | sreg | row | spec => rfl
  | _ => cases h

theorem perform_landEff {c : Col} {p : Pend} (h : p.eff.isWrite = true) (s : State) :
    perform (landEff c p) s = perform (onUnit c (fun u => u.applyEff p.eff)) s := by
  obtain ⟨at_, x, e⟩ := p
  cases e with
  | sreg | row | spec => rfl
  | _ => cases h

theorem perform_each_landEff {c : Col} {ps : List Pend} (h : ∀ p ∈ ps, p.eff.isWrite = true) (s : State) :
    perform (Act.each ps (landEff c)) s = perform (onUnit c (fun u => u.applyAll ps)) s := by
  induction ps generalizing s with
  | nil => simp [perform_onUnit, State.unit]
  | cons p ps ih =>
    rw [perform_each_cons, perform_landEff (h p (by simp)), ih (fun q hq => h q (by simp [hq]))]
    simp [perform_onUnit, Vector.set_set]

theorem mem_of_mem_landOrder {ps : List Pend} {p : Pend} (h : p ∈ landOrder ps) : p ∈ ps := by
  simp only [landOrder, List.mem_append, List.mem_flatMap, List.mem_filter] at h
  obtain ⟨_, _, hp, _⟩ | ⟨hp, _⟩ := h <;> exact hp

/-- An effect of a class is due by a cycle. -/
def Pend.due (now : Int) (f : Pend → Bool) (p : Pend) : Bool := decide (p.at_ ≤ now) && f p
/-- A unit once the effects of a class that are due have taken place, in the order of the cycle. -/
def UnitSt.landed (u : UnitSt) (now : Int) (f : Pend → Bool) : UnitSt :=
  (u.withPend (u.pend.filter (fun p => !(p.due now f)))).applyAll (landOrder (u.pend.filter (Pend.due now f)))

/-- Where only writes are pending, landing concerns the unit alone. -/
theorem perform_landSome {c : Col} {s : State} (f : Pend → Bool) (h : ∀ p ∈ (s.unit c).pend, p.eff.isWrite = true) :
    perform (landSome c f) s = { s with units := s.units.set c ((s.unit c).landed (s.now c) f) } := by
  by_cases hd : ((s.unit c).pend.filter (Pend.due (s.now c) f)).isEmpty
  · have e : perform (landSome c f) s = s := congrArg (run · s) (if_pos hd)
    have hn : (s.unit c).landed (s.now c) f = s.unit c := by
      rw [List.isEmpty_iff] at hd
      have hk : (s.unit c).pend.filter (fun p => !(p.due (s.now c) f)) = (s.unit c).pend := by
        simpa [List.filter_eq_nil_iff] using hd
      rw [UnitSt.landed, hd, hk]; rfl
    rw [e, hn]
    simp [State.unit]
  · have e : perform (landSome c f) s = perform (Act.seq (onUnit c (fun u => u.withPend (u.pend.filter (fun p => !(p.due (s.now c) f)))))
      (Act.each (landOrder ((s.unit c).pend.filter (Pend.due (s.now c) f))) (landEff c))) s := congrArg (run · s) (if_neg hd)
    rw [e, perform_seq, perform_each_landEff (fun p hp => h p (List.mem_filter.mp (mem_of_mem_landOrder hp)).1)]
    simp [perform_onUnit, Vector.set_set, UnitSt.landed]

/-- The order in which writes that are all due on a cycle take place: those that nothing prevails over, then the row writes of M, V and S. -/
def writeOrder (ps : List Pend) : List Pend := landOrder (ps.filter (fun p => !p.prevails)) ++ landOrder (ps.filter (·.prevails))

/-- A cycle's landing performs all writes that are due, in that order. -/
theorem unit_landFirst_landLast {c : Col} {s : State} (hw : ∀ p ∈ (s.unit c).pend, p.eff.isWrite = true)
    (hd : ∀ p ∈ (s.unit c).pend, p.at_ ≤ s.now c) :
    (perform (Act.seq (landFirst c) (landLast c)) s).unit c = ((s.unit c).withPend []).applyAll (writeOrder (s.unit c).pend) := by
  have early : ∀ p ∈ (s.unit c).pend, p.due (s.now c) (fun p => !p.eff.captures && !p.prevails) = !p.prevails := fun p hp => by
    simp [Pend.due, hd p hp, captures_of_isWrite (hw p hp)]
  have late : ∀ p ∈ (s.unit c).pend.filter (·.prevails), p.due (s.now c) (fun _ => true) = true := fun p hp => by
    simp [Pend.due, hd p (List.mem_filter.mp hp).1]
  have first : (s.unit c).landed (s.now c) (fun p => !p.eff.captures && !p.prevails) =
      ((s.unit c).withPend ((s.unit c).pend.filter (·.prevails))).applyAll (landOrder ((s.unit c).pend.filter (fun p => !p.prevails))) := by
    rw [UnitSt.landed, List.filter_congr early, List.filter_congr (fun p hp => by rw [early p hp, Bool.not_not])]
  have last : ∀ u : UnitSt, u.pend = (s.unit c).pend.filter (·.prevails) →
      u.landed (s.now c) (fun _ => true) = (u.withPend []).applyAll (landOrder ((s.unit c).pend.filter (·.prevails))) := fun u hu => by
    rw [UnitSt.landed, hu, List.filter_eq_self.mpr late, List.filter_eq_nil_iff.mpr (fun p hp => by simp [late p hp])]
  rw [perform_seq, landFirst, landLast, perform_landSome _ hw, perform_landSome]
  · rw [unit_set_same, unit_set_same, first]
    refine (last _ (by simp)).trans ?_
    rw [← applyAll_withPend, UnitSt.withPend_withPend, writeOrder, UnitSt.applyAll_append]
  · intro p hp
    rw [unit_set_same, first, applyAll_pend, UnitSt.withPend_pend] at hp
    exact hw p (List.mem_filter.mp hp).1

/-! ## Two writes of one cycle (R30) -/

/-- Two writes to one special register, to one scalar register or to one row. -/
def SamePlace (e f : Eff) : Prop :=
  (∃ sel v w, e = .spec sel v ∧ f = .spec sel w) ∨ (∃ d v w, e = .sreg d v ∧ f = .sreg d w) ∨
    (∃ ix dm tm v dn tn w, e = .row ix dm tm v ∧ f = .row ix dn tn w)

theorem SamePlace.isWrite {e f : Eff} (h : SamePlace e f) : e.isWrite = true ∧ f.isWrite = true := by
  obtain ⟨_, _, _, rfl, rfl⟩ | ⟨_, _, _, rfl, rfl⟩ | ⟨_, _, _, _, _, _, _, rfl, rfl⟩ := h <;> exact ⟨rfl, rfl⟩

/-- A row write prevails from M on in the order of the streams. -/
theorem prevails_row (t : Int) (x : Stream) (ix : Fin 256) (dm : BitVec 4096) (tm : BitVec 1024) (v : Row) :
    ({ at_ := t, stream := x, eff := .row ix dm tm v } : Pend).prevails = decide (Stream.ix .m ≤ Stream.ix x) := by
  cases x <;> rfl

theorem SamePlace.prevails_of_lt {a b : Pend} (h : SamePlace a.eff b.eff) (hlt : Stream.ix a.stream < Stream.ix b.stream)
    (hp : a.prevails = true) : b.prevails = true := by
  obtain ⟨ta, x, e⟩ := a
  obtain ⟨tb, y, f⟩ := b
  obtain ⟨_, _, _, rfl, rfl⟩ | ⟨_, _, _, rfl, rfl⟩ | ⟨_, _, _, _, _, _, _, rfl, rfl⟩ := h
  · cases hp
  · cases hp
  · rw [prevails_row, decide_eq_true_iff] at hp ⊢
    exact hp.trans hlt.le

/-- Only the streams that have a write matter for the order of the writes. -/
theorem landOrder_writes {l : List Pend} (h : ∀ p ∈ l, p.eff.captures = false) (q : Stream → Bool) (hq : ∀ p ∈ l, q p.stream = true) :
    landOrder l = (streams.filter q).flatMap (fun x => l.filter (fun p => p.stream == x)) := by
  have hw : ∀ x, l.filter (fun p => p.stream == x && !p.eff.captures) = l.filter (fun p => p.stream == x) := fun x =>
    List.filter_congr (fun p hp => by simp [h p hp])
  have hz : ∀ x, q x = false → l.filter (fun p => p.stream == x) = [] := fun x hx =>
    List.filter_eq_nil_iff.mpr (fun p hp e => by simp [← eq_of_beq e, hq p hp] at hx)
  rw [landOrder, List.filter_eq_nil_iff.mpr (fun p hp => by simp [h p hp]), List.append_nil]
  simp only [hw]
  induction streams with
  | nil => rfl
  | cons x xs ih =>
    cases hx : q x with
    | true => simp [hx, ih]
    | false => simp [hx, ih, hz x hx]

theorem streams_filter_one (x : Stream) : streams.filter (· == x) = [x] := by cases x <;> rfl
theorem streams_filter_two (x y : Stream) : Stream.ix x < Stream.ix y → streams.filter (fun z => z == x || z == y) = [x, y] := by
  cases x <;> cases y <;> decide

theorem landOrder_one {a : Pend} (ha : a.eff.captures = false) : landOrder [a] = [a] := by
  rw [landOrder_writes (q := (· == a.stream)) (by simpa using ha) (by simp), streams_filter_one]
  simp
/-- Of two writes of different streams that of the earlier stream takes place first, in whichever order they were left pending. -/
theorem landOrder_two {a b : Pend} {l : List Pend} (ha : a.eff.captures = false) (hb : b.eff.captures = false)
    (hlt : Stream.ix a.stream < Stream.ix b.stream) (hl : l = [a, b] ∨ l = [b, a]) : landOrder l = [a, b] := by
  have hne : a.stream ≠ b.stream := fun e => absurd (e ▸ hlt) (lt_irrefl _)
  have hc : ∀ p ∈ l, p.eff.captures = false := by obtain rfl | rfl := hl <;> simp [ha, hb]
  have hq : ∀ p ∈ l, (p.stream == a.stream || p.stream == b.stream) = true := by obtain rfl | rfl := hl <;> simp
  rw [landOrder_writes hc (fun x => x == a.stream || x == b.stream) hq, streams_filter_two _ _ hlt]
  obtain rfl | rfl := hl <;> simp [hne, hne.symm]

/-- The two passes of a cycle keep that order: what the second pass takes is of a later stream than what the first one takes. -/
theorem writeOrder_two {a b : Pend} {l : List Pend} (h : SamePlace a.eff b.eff) (hlt : Stream.ix a.stream < Stream.ix b.stream)
    (hl : l = [a, b] ∨ l = [b, a]) : writeOrder l = [a, b] := by
  have ha := captures_of_isWrite h.isWrite.1
  have hb := captures_of_isWrite h.isWrite.2
  cases pa : a.prevails with
  | true =>
    have pb := h.prevails_of_lt hlt pa
    have hall : ∀ p ∈ l, p.prevails = true := by obtain rfl | rfl := hl <;> simp [pa, pb]
    rw [writeOrder, List.filter_eq_self.mpr hall, List.filter_eq_nil_iff.mpr (fun p hp => by simp [hall p hp]),
      landOrder_two ha hb hlt hl]; rfl
  | false =>
    cases pb : b.prevails with
    | true => obtain rfl | rfl := hl <;> simp [writeOrder, pa, pb, landOrder_one ha, landOrder_one hb]
    | false =>
      have hall : ∀ p ∈ l, p.prevails = false := by obtain rfl | rfl := hl <;> simp [pa, pb]
      rw [writeOrder, List.filter_eq_self.mpr (fun p hp => by simp [hall p hp]), List.filter_eq_nil_iff.mpr (fun p hp => by simp [hall p hp]),
        landOrder_two ha hb hlt hl]; rfl

/-- Settles O49: both writes are due and no others are pending, and the landing of the cycle performs that of the later stream last. -/
theorem laterStreamPrevails : Obligations.LaterStreamPrevails := by
  intro s c x y e f hlt hsame a b hl
  have place : SamePlace a.eff b.eff := hsame
  have hw : ∀ p ∈ (s.unit c).pend, p.eff.isWrite = true := by
    obtain hl | hl := hl <;> simp [hl, place.isWrite]
  have hd : ∀ p ∈ (s.unit c).pend, p.at_ ≤ s.now c := by
    obtain hl | hl := hl <;> simp [hl, a, b]
  rw [unit_landFirst_landLast hw hd, writeOrder_two place hlt hl]
  rfl

end Sys2Proof.Machine

/-! PROOF. An integer element of a product (spec/03_numbers_rules.md R86). -/
namespace Sys2Proof.Machine

/-! ## Integers modulo 2^w -/

theorem natCast_wrap (w : Nat) (i : Int) : (wrap w i : Int) = i % 2 ^ w := Int.toNat_of_nonneg (Int.emod_nonneg i (by positivity))

theorem wrap_lt (w : Nat) (i : Int) : wrap w i < 2 ^ w := by
  zify
  exact natCast_wrap w i ▸ Int.emod_lt_of_pos i (by positivity)

theorem wrap_congr {w : Nat} {i j : Int} (h : i ≡ j [ZMOD 2 ^ w]) : wrap w i = wrap w j := congrArg Int.toNat h

theorem wrap_natCast {w n : Nat} (h : n < 2 ^ w) : wrap w (n : Int) = n := by
  zify
  exact (natCast_wrap w n).trans (Int.emod_eq_of_lt (by positivity) (by exact_mod_cast h))

/-- Two's complement takes off a multiple of 2^w, or nothing. -/
theorem sInt_modEq (w n : Nat) : sInt w n ≡ n [ZMOD 2 ^ w] := by
  have hn : ((n % 2 ^ w : Nat) : Int) ≡ n [ZMOD 2 ^ w] := by exact_mod_cast Int.mod_modEq (n : Int) (2 ^ w)
  unfold sInt
  split
  · exact hn
  · exact (Int.sub_modulus_modEq_iff.mpr rfl).trans hn

theorem wrap_sInt {w n : Nat} (h : n < 2 ^ w) : wrap w (sInt w n) = n := (wrap_congr (sInt_modEq w n)).trans (wrap_natCast h)

/-- Wrapping a sum on the way does not change the sum modulo 2^w. -/
theorem wrap_sInt_wrap_add (w : Nat) (i j : Int) : wrap w (sInt w (wrap w i) + j) = wrap w (i + j) := by
  refine wrap_congr (Int.ModEq.add_right j ((sInt_modEq w _).trans ?_))
  exact natCast_wrap w i ▸ Int.mod_modEq i (2 ^ w)

/-! ## Lanes of a row that is made of lanes (R83) -/

theorem packNat_cons (w v : Nat) (l : List Nat) : packNat w (v :: l) = packNat w l * 2 ^ w + v % 2 ^ w := rfl

/-- Field k of packed fields. -/
theorem packNat_field (w : Nat) {l : List Nat} {k v : Nat} (h : l[k]? = some v) : packNat w l / 2 ^ (w * k) % 2 ^ w = v % 2 ^ w := by
  induction l generalizing k with
  | nil => cases h
  | cons x xs ih =>
    rw [packNat_cons, mul_comm (packNat w xs)]
    cases k with
    | zero =>
      obtain rfl : x = v := by simpa using h
      simp
    | succ k =>
      have drop : (2 ^ w * packNat w xs + x % 2 ^ w) / 2 ^ w = packNat w xs := by
        rw [Nat.mul_add_div (by positivity), Nat.div_eq_of_lt (Nat.mod_lt _ (by positivity)), add_zero]
      rw [mul_add, mul_one, add_comm (w * k), pow_add, ← Nat.div_div_eq_div_mul, drop]
      exact ih (by simpa using h)

/-- A field that lies in the N bits of a word is read from the word. -/
theorem ofNat_field {w k N : Nat} (x : Nat) (h : w * (k + 1) ≤ N) :
    (BitVec.ofNat N x).toNat / 2 ^ (w * k) % 2 ^ w = x / 2 ^ (w * k) % 2 ^ w := by
  rw [mul_add, mul_one] at h
  obtain ⟨m, rfl⟩ := Nat.exists_eq_add_of_le h
  rw [BitVec.toNat_ofNat, add_assoc, pow_add, Nat.mod_mul_right_div_self, Nat.mod_mod_of_dvd _ (pow_dvd_pow 2 (Nat.le_add_right w m))]

theorem lane_ofLanes {w k : Nat} {l : List Pair} {p : Pair} (hk : l[k]? = some p) (hw : w * (k + 1) ≤ 4096) :
    (Row.ofLanes w l).lane w k = p.v % 2 ^ w := by
  rw [Row.lane, Row.ofLanes, ofNat_field _ hw]
  exact packNat_field w (by simp [hk])

/-- The tail of a lane is the low pair of the lane's field in the tail plane. -/
theorem laneTail_ofLanes {w k : Nat} {l : List Pair} {p : Pair} (hk : l[k]? = some p) (h8 : 8 ≤ w) (hw : w * (k + 1) ≤ 4096) :
    (Row.ofLanes w l).laneTail w k = p.t % 4 := by
  have hlt : ¬ w < 8 := by omega
  have plane : 2 * (w / 8) * (k + 1) ≤ 1024 := by
    have := Nat.mul_le_mul_right (k + 1) (Nat.div_mul_le_self w 8)
    linarith
  have low : 4 ∣ 2 ^ (2 * (w / 8)) := pow_dvd_pow 2 (m := 2) (by omega)
  have field := packNat_field (2 * (w / 8)) (l := l.map (·.t)) (k := k) (v := p.t) (by simp [hk])
  rw [Row.laneTail, if_neg hlt, Row.ofLanes, if_neg hlt, ← Nat.mod_mod_of_dvd _ low, ofNat_field _ plane, field, Nat.mod_mod_of_dvd _ low]

theorem pair_ofLanes {w k : Nat} {l : List Pair} {p : Pair} (hk : l[k]? = some p) (h8 : 8 ≤ w) (hw : w * (k + 1) ≤ 4096) :
    (Row.ofLanes w l).pair w k = { v := p.v % 2 ^ w, t := p.t % 4 } := by
  rw [Row.pair, lane_ofLanes hk hw, laneTail_ofLanes hk h8 hw]

theorem pair_ofLanes_of_lt {w k : Nat} {l : List Pair} {p : Pair} (hk : l[k]? = some p) (h8 : 8 ≤ w) (hw : w * (k + 1) ≤ 4096)
    (hv : p.v < 2 ^ w) (ht : p.t < 4) : (Row.ofLanes w l).pair w k = p := by
  rw [pair_ofLanes hk h8 hw, Nat.mod_eq_of_lt hv, Nat.mod_eq_of_lt ht]

theorem lane_lt (r : Row) (w k : Nat) : r.lane w k < 2 ^ w := Nat.mod_lt _ (by positivity)

/-! ## Products one after another (R86) -/

/-- One product added to an I32 element: the element after it, and IOV where the sum is out of range. -/
def mulAddI32 (acc : Nat) (x y : XNum) : Nat × NumBits :=
  let sum := sInt 32 acc + xInt x * xInt y
  (wrap 32 sum, if sum < -(2 ^ 31) ∨ 2 ^ 31 ≤ sum then nIov else 0)

/-- The step of mmaInt: the element of mulAddI32, and its bits beside those from before. -/
def mulAddBits (r : Nat × NumBits) (x : XNum × XNum) : Nat × NumBits :=
  ((mulAddI32 r.1 x.1 x.2).1, r.2 ||| (mulAddI32 r.1 x.1 x.2).2)

theorem mmaInt_eq_foldl (a b : List XNum) (acc : Nat) : mmaInt a b acc = (a.zip b).foldl mulAddBits (acc, 0) := by
  unfold mmaInt
  congr 1
  funext r x
  simp only [mulAddBits, mulAddI32, Bool.or_eq_true, decide_eq_true_eq]
  split <;> simp

/-- Bits set before the first product stay set, and change nothing else. -/
theorem foldl_mulAddBits (l : List (XNum × XNum)) (acc : Nat) (f : NumBits) :
    l.foldl mulAddBits (acc, f) = ((l.foldl mulAddBits (acc, 0)).1, f ||| (l.foldl mulAddBits (acc, 0)).2) := by
  induction l generalizing acc f with
  | nil => simp
  | cons x xs ih =>
    simp only [List.foldl_cons, mulAddBits]
    rw [ih _ (f ||| _), ih _ (0 ||| _)]
    simp [BitVec.or_assoc]

@[simp] theorem mmaInt_nil (b : List XNum) (acc : Nat) : mmaInt [] b acc = (acc, 0) := rfl

theorem mmaInt_cons (x y : XNum) (a b : List XNum) (acc : Nat) :
    mmaInt (x :: a) (y :: b) acc =
      ((mmaInt a b (mulAddI32 acc x y).1).1, (mulAddI32 acc x y).2 ||| (mmaInt a b (mulAddI32 acc x y).1).2) := by
  simp only [mmaInt_eq_foldl, List.zip_cons_cons, List.foldl_cons]
  rw [mulAddBits, foldl_mulAddBits]
  simp

/-- The element after all products is the old one plus their sum, modulo 2^32, whatever bits were set before. -/
theorem foldl_mulAddBits_fst (l : List (XNum × XNum)) {acc : Nat} (h : acc < 2 ^ 32) (f : NumBits) :
    (l.foldl mulAddBits (acc, f)).1 = wrap 32 (sInt 32 acc + (l.map (fun x => xInt x.1 * xInt x.2)).sum) := by
  induction l generalizing acc f with
  | nil => simp [wrap_sInt h]
  | cons x xs ih =>
    let p := xInt x.1 * xInt x.2
    let rest := (xs.map (fun x => xInt x.1 * xInt x.2)).sum
    calc (xs.foldl mulAddBits (mulAddBits (acc, f) x)).1
      _ = wrap 32 (sInt 32 (wrap 32 (sInt 32 acc + p)) + rest) := ih (wrap_lt 32 _) _
      _ = wrap 32 (sInt 32 acc + p + rest) := wrap_sInt_wrap_add 32 _ _
      _ = wrap 32 (sInt 32 acc + (p + rest)) := by rw [add_assoc]

theorem mmaInt_fst (a b : List XNum) {acc : Nat} (h : acc < 2 ^ 32) :
    (mmaInt a b acc).1 = wrap 32 (sInt 32 acc + ((a.zip b).map (fun x => xInt x.1 * xInt x.2)).sum) := by
  rw [mmaInt_eq_foldl, foldl_mulAddBits_fst _ h]

/-- An element that is a 32-bit word stays one. -/
theorem mmaInt_fst_lt (a b : List XNum) {acc : Nat} (h : acc < 2 ^ 32) : (mmaInt a b acc).1 < 2 ^ 32 := mmaInt_fst a b h ▸ wrap_lt 32 _

/-! ## The elements of a destination row (R288, R289) -/

/-- An integer element as it is taken in: zero under z = 1, the old one else. -/
theorem newRow_pair_int {o : MmaOp} (hi : o.int = true) (j : Nat) (old : Row) {n : Nat} (hn : n < 128) :
    (o.newRow j old).1.pair 32 n =
      { v := (mmaInt (o.a.getD j []) (o.b.getD n []) (if o.zero then 0 else old.lane 32 n)).1, t := 0 } := by
  have start : (if o.zero then 0 else old.lane 32 n) < 2 ^ 32 := by
    split
    · positivity
    · exact lane_lt old 32 n
  exact pair_ofLanes_of_lt (by simp [hi, hn]) (by norm_num) (by omega) (mmaInt_fst_lt _ _ start) (by norm_num)

/-- Settles O28, by induction on the products: a sum that is wrapped on the way is the same modulo 2^32. -/
theorem integerProductWraps : Obligations.IntegerProductWraps := by
  refine ⟨mmaInt_nil [], mmaInt_cons, fun a b acc h => ?_, fun o j n old hi hn => newRow_pair_int hi j old hn⟩
  rw [← List.sum_eq_foldl]
  exact mmaInt_fst a b h

end Sys2Proof.Machine

/-! PROOF. PREA closes every active bank or none, and declared window beats forbid a closing or a refresh (spec/11_data_streams_rules.md R242). -/
namespace Sys2Proof.Machine

/-! ## What a fault leaves of the vaults (R51) -/

/-- An action that leaves every vault as it is. -/
def Act.KeepsVaults (a : Act) : Prop := ∀ s : State, (perform a s).vaults = s.vaults

theorem keepsVaults_onUnit (c : Col) (f : UnitSt → UnitSt) : (onUnit c f).KeepsVaults := fun _ => rfl
theorem keepsVaults_onSlot (c : Col) (f : Slot → Slot) : (onSlot c f).KeepsVaults := fun _ => rfl
theorem keepsVaults_free : Act.KeepsVaults (fun s => [.free (s.free + 2)]) := fun _ => rfl
theorem keepsVaults_escalate (c : Col) : (escalate c).KeepsVaults := fun _ => rfl
theorem keepsVaults_eventAtPart (n : BitVec 16) (x : Int) (e : Ev) : (eventAtPart n x e).KeepsVaults := by
  intro s
  simp only [perform, eventAtPart]
  split <;> rfl
theorem keepsVaults_all {l : List Act} (h : ∀ a ∈ l, a.KeepsVaults) : (Act.all l).KeepsVaults := by
  intro s
  induction l generalizing s with
  | nil => rfl
  | cons a l ih =>
    obtain ⟨ha, hl⟩ := List.forall_mem_cons.mp h
    rw [perform_all_cons, ih hl, ha s]

theorem keepsVaults_holdLaunch (c : Col) : (holdLaunch c).KeepsVaults := by
  intro s
  simp only [perform, holdLaunch]
  split
  · rw [← perform, perform_seq, keepsVaults_eventAtPart]; rfl
  · rfl

/-- What stops a unit, in order, and the action that ends it. -/
theorem keepsVaults_stop (c : Col) (f : UnitSt → UnitSt) (g : Slot → Slot) {a : Act} (h : a.KeepsVaults) :
    (Act.all [onUnit c f, onSlot c g, fun s => [.free (s.free + 2)], a]).KeepsVaults :=
  keepsVaults_all (by simp [keepsVaults_onUnit, keepsVaults_onSlot, keepsVaults_free, h])

/-- However a fault is taken, by a handler, by a stop or by escalation, no vault changes. -/
theorem keepsVaults_takeFault (c : Col) (x : Stream) (f : FaultRec) (defer : Bool) : (takeFault c x f defer).KeepsVaults := by
  intro s
  unfold takeFault perform
  dsimp only
  generalize (if f.cause == BitVec.ofNat 8 Cause.map.code && f.kind == 2 then Stream.k else x) = y
  split
  · exact keepsVaults_escalate c s
  split
  · exact keepsVaults_stop c _ _ (keepsVaults_holdLaunch c) s
  · exact keepsVaults_stop c _ _ (keepsVaults_escalate c) s

/-! ## What the guard answers (R103, R242) -/

/-- Whatever the guard answers is a fault of the cause GUARD. -/
theorem guard_cause {v : VaultSt} {cmd : Cmd} {b : Fin 16} {now : Int} {e : FaultRec} (h : v.guard cmd b now = some e) :
    e.cause = BitVec.ofNat 8 Cause.guard.code := by
  have raised : ∃ kind timing, e = guardFault kind timing b := by
    unfold VaultSt.guard at h
    dsimp only at h
    split_ifs at h <;> exact ⟨_, _, (Option.some.inj h).symm⟩
  obtain ⟨kind, timing, rfl⟩ := raised
  rfl

theorem beatsAfter_of_mem {v : VaultSt} {b : Fin 16} {now : Int} (h : ∃ w ∈ v.wins, w.bank = b ∧ now < w.last) : v.beatsAfter b now = true := by
  obtain ⟨w, hw, hb, hl⟩ := h
  exact List.any_eq_true.mpr ⟨w, hw, by simp [hb, hl]⟩

/-- Beats declared after the cycle forbid PRE of an active bank. -/
theorem guard_pre_beats {v : VaultSt} {b : Fin 16} {now : Int} (ha : (v.banks[b]).row.isSome = true) (hw : v.beatsAfter b now = true) :
    v.guard .pre b now = some (guardFault 1 false b) := by
  simp only [VaultSt.guard, ha, hw]; rfl
/-- They forbid REFB of an idle one. -/
theorem guard_refb_beats {v : VaultSt} {b : Fin 16} {now : Int} (ha : (v.banks[b]).row.isSome = false) (hw : v.beatsAfter b now = true) :
    v.guard .refb b now = some (guardFault 1 false b) := by
  simp only [VaultSt.guard, ha, hw]; rfl

/-! ## Banks in order (R242) -/

/-- The active banks, in bank order. -/
def VaultSt.activeBanks (v : VaultSt) : List (Fin 16) := allBanks.filter (fun b => (v.banks[b]).row.isSome)
@[simp] theorem mem_activeBanks {v : VaultSt} {b : Fin 16} : b ∈ v.activeBanks ↔ (v.banks[b]).row.isSome = true := by
  simp [VaultSt.activeBanks, allBanks]
theorem activeBanks_pairwise_lt (v : VaultSt) : v.activeBanks.Pairwise (· < ·) :=
  (List.sortedLT_finRange 16).pairwise.filter _

/-- In an ascending list the first answer is that of the least element that has one. -/
theorem findSome?_of_pairwise_lt {α : Type} {n : Nat} {f : Fin n → Option α} {l : List (Fin n)} (hl : l.Pairwise (· < ·)) {b : Fin n} {e : α}
    (hb : b ∈ l) (he : f b = some e) (first : ∀ c ∈ l, c < b → f c = none) : l.findSome? f = some e := by
  obtain ⟨pre, post, rfl⟩ := List.append_of_mem hb
  have hpre : ∀ c ∈ pre, f c = none := fun c hc =>
    first c (List.mem_append_left _ hc) ((List.pairwise_append.mp hl).2.2 c hc b List.mem_cons_self)
  simp [List.findSome?_append, List.findSome?_eq_none_iff.mpr hpre, he]

/-! ## Closing banks (R103) -/

/-- A bank after a PRE that the guard lets through: an idle bank stays as it is. -/
def Bank.precharged (k : Bank) (now : Int) : Bank := if k.row.isSome then { k with row := none, pre := some now } else k
@[simp] theorem Bank.precharged_precharged (k : Bank) (now : Int) : (k.precharged now).precharged now = k.precharged now := by
  unfold Bank.precharged
  split <;> simp_all

theorem command_pre_banks (v : VaultSt) (b d : Fin 16) (row : Fin 8192) (span now : Int) :
    ((v.command .pre b row span now).banks[d]) = if d = b then (v.banks[d]).precharged now else v.banks[d] := by
  by_cases h : d = b
  · subst h
    simp only [VaultSt.command, Bank.precharged, if_true]
    split
    · exact vget_set_same _ _ _
    · rfl
  · simp only [VaultSt.command, h, if_false]
    split
    · exact onBank_other h
    · rfl

/-- PRE of the banks of a list, one after another. -/
theorem foldl_command_pre_banks (l : List (Fin 16)) (v : VaultSt) (d : Fin 16) (row : Fin 8192) (span now : Int) :
    ((l.foldl (fun v b => v.command .pre b row span now) v).banks[d]) = if d ∈ l then (v.banks[d]).precharged now else v.banks[d] := by
  induction l generalizing v with
  | nil => rfl
  | cons b l ih =>
    rw [List.foldl_cons, ih, command_pre_banks]
    by_cases hb : d = b <;> by_cases hl : d ∈ l <;> simp [hb, hl]

/-! ## PRE, PREA and REFB (R241, R242) -/

theorem exec_pre (h : Hdr) (b : Fin 16) (s : State) : exec (.pre h b) s = done (bankCommand h .pre b (fun _ => 0)) s := rfl
theorem exec_refb (h : Hdr) (b : Fin 16) (s : State) : exec (.refb h b) s = done (bankCommand h .refb b (fun _ => 0)) s := rfl
theorem exec_prea (h : Hdr) (s : State) : exec (.prea h) s = execPrea h s := rfl

/-- The keeper holds no bank, so that PREA meets no BUSY. -/
theorem keeper_free {v : VaultSt} {now : Int} (hk : ∀ c : Fin 16, v.keeperHolds c now = false) :
    (if allBanks.any (fun b => v.keeperHolds b now) then some Miss.busy else none) = none := by
  simp [hk]

/-- Where every check passes, PREA completes and acts on the vault alone. -/
theorem execPrea_completes {s : State} {h : Hdr} (hc : s.clear .d h.sync) (hk : ∀ c : Fin 16, (s.vault s.me).keeperHolds c s.t = false)
    (hg : ∀ c : Fin 16, ((s.vault s.me).banks[c]).row.isSome = true → (s.vault s.me).guard .pre c s.t = none) :
    execPrea h s = .next (perform (onVault s.me (fun v => (s.vault s.me).activeBanks.foldl (fun v b => v.command .pre b 0 s.my.span s.t) v))
      (s.issued .d h.sync 1 {})) :=
  (issueAs_completes hc ⟨rfl, rfl, keeper_free hk, List.findSome?_eq_none_iff.mpr fun c hb => hg c (mem_activeBanks.mp hb)⟩).trans rfl

/-- PREA raises what the guard answers for the first active bank that fails. -/
theorem execPrea_faults {s : State} {h : Hdr} {b : Fin 16} {e : FaultRec} (hc : s.clear .d h.sync)
    (hk : ∀ c : Fin 16, (s.vault s.me).keeperHolds c s.t = false) (ha : ((s.vault s.me).banks[b]).row.isSome = true)
    (he : (s.vault s.me).guard .pre b s.t = some e)
    (first : ∀ c : Fin 16, c < b → ((s.vault s.me).banks[c]).row.isSome = true → (s.vault s.me).guard .pre c s.t = none) :
    execPrea h s = .next (perform (takeFault s.me .d e) s) :=
  issueAs_fault hc rfl rfl (keeper_free hk)
    (findSome?_of_pairwise_lt (activeBanks_pairwise_lt _) (mem_activeBanks.mpr ha) he fun c hb hlt => first c hlt (mem_activeBanks.mp hb))

/-- Settles O21: PREA acts on the active banks in order, once the guard has answered for all of them, and a fault leaves the vaults as they are. -/
theorem prechargeAll : Obligations.PrechargeAll := by
  intro s h b hc hk v active fails beats state first
  have raises : ∀ {i : Instr} {cmd : Cmd} {e : FaultRec}, v.guard cmd b s.t = some e → exec i s = .next (perform (takeFault s.me .d e) s) → fails i e :=
    fun hg hi => ⟨guard_cause hg, hi, keepsVaults_takeFault s.me .d _ false s⟩
  have prea : ∀ {e : FaultRec}, active b = true → v.guard .pre b s.t = some e → first → fails (.prea h) e :=
    fun ha hg hf => raises hg ((exec_prea h s).trans (execPrea_faults hc hk ha hg hf))
  refine ⟨fun hall => ?_, fun _ => prea, fun hw ha => ?_, fun hw ha => ?_⟩
  · refine ⟨_, (exec_prea h s).trans (execPrea_completes hc hk hall), rfl, fun c => ?_⟩
    rw [perform_onVault, vault_set_same, foldl_command_pre_banks]
    simp only [mem_activeBanks]
    show (if active c then (v.banks[c]).precharged s.t else v.banks[c]) = _
    split
    · next ha => exact if_pos ha
    · rfl
  · have hg : v.guard .pre b s.t = some state := guard_pre_beats ha (beatsAfter_of_mem hw)
    exact ⟨raises hg ((exec_pre h b s).trans (bankCommand_faults hc (hk b) hg)), prea ha hg⟩
  · have hg : v.guard .refb b s.t = some state := guard_refb_beats ha (beatsAfter_of_mem hw)
    exact raises hg ((exec_refb h b s).trans (bankCommand_faults hc (hk b) hg))

end Sys2Proof.Machine

/-! PROOF. What a step can do to the memories, and the memories after reset (spec/03_numbers_rules.md R63, R66; R420). -/
namespace Sys2Proof.Machine

/-! ## Every meaning is one action, or changes nothing, or is a fault -/

/-- A meaning that answers a next state has made it by one action. -/
def Acts (s : State) (o : Out) : Prop := ∀ t, o = .next t → ∃ a, t = perform a s
@[simp] theorem acts_done (a : Act) (s : State) : Acts s (done a s) := fun _ e => ⟨a, (Host.Outcome.next.inj e).symm⟩
@[simp] theorem acts_next (s : State) : Acts s (.next s) := fun _ e => ⟨Act.none, (Host.Outcome.next.inj e).symm⟩
@[simp] theorem acts_fault (f : Fault) (s : State) : Acts s (.fault f) := fun _ e => by cases e

/-- An instruction is an action as it stands; an event is one in each case of its operands and of the state. -/
theorem exec_acts (i : Instr) (s : State) : Acts s (exec i s) := by
  cases i with
  | tokenArrival | latchEntryArrival | scaleBypassEntryAvailable | realignmentCycle | stall | unitCompletion | workRecordCompletion
  | deferredFaultReport | refresh | keeperRefresh | farLate | phpreDueDeadline | wainBeat | wainReady | dualWrite | windowBeat | farPathDelivery
  | writeAcknowledgement | copyBlock | copyRetirement | incomingPut | incomingGet | getResponse | atomicPerform | atomicReport | barrierRelease
  | collectiveClose | gatherComplete | mmaBlockFault | frontierRefresh | codeRangeDiscard | bind | objectLoadComplete | preempt | preemptionRequest
  | forcedStop | saveImage | resume | hold | release | kill | fallow | fallowPassComplete | launchPlacement | schedulingPass | sliceEnd
  | leaderHandover | partitionFormation | partitionRelease | vaultPassComplete | rootLaunchPlacement | handlerInstall | loanGrant | loanRecall
  | snapshotReserve | snapshotStoragePath | noiseMode | hostRelease | dieDrain | attestationReport | plim | lattol | hostBar2Access | snapAccept
  | snapshotOpen | snapshotDrained | gleanerRewrite | scrub | budgetPeriod | powerGood | dieReset | linkRetrain | resetNotice | linkDownTimeout
  | peerPackageTimeout | vaultTemperatureRead | throttleStep | throttleRise | pause | pauseEnd | powerLimitCheck | thermalTrip | idleStateEntry
  | loggedWordsSupply | managementSession =>
    simp only [exec,
      execTokenArrival, execLatchEntryArrival, execScaleBypassEntryAvailable, execRealignmentCycle, execStall, execUnitCompletion,
      execWorkRecordCompletion, execDeferredFaultReport, execRefresh, execKeeperRefresh, execFarLate, execPhpreDueDeadline, execWainBeat,
      execWainReady, execDualWrite, execWindowBeat, execFarPathDelivery, execWriteAcknowledgement, execCopyBlock, execCopyRetirement,
      execIncomingPut, execIncomingGet, execGetResponse, execAtomicPerform, execAtomicReport, execBarrierRelease, execCollectiveClose,
      execGatherComplete, execMmaBlockFault, execFrontierRefresh, execCodeRangeDiscard, execBind, execObjectLoadComplete, execPreempt,
      execPreemptionRequest, execForcedStop, execSaveImage, execResume, execHold, execRelease, execKill, execFallow, execFallowPassComplete,
      execLaunchPlacement, execSchedulingPass, execSliceEnd, execLeaderHandover, execPartitionFormation, execPartitionRelease, execVaultPassComplete,
      execRootLaunchPlacement, execHandlerInstall, execLoanGrant, execLoanRecall, execSnapshotReserve, execSnapshotStoragePath, execNoiseMode,
      execHostRelease, execDieDrain, execAttestationReport, execPlim, execLattol, execHostBar2Access, execSnapAccept, execSnapshotOpen,
      execSnapshotDrained, execGleanerRewrite, execScrub, execBudgetPeriod, execPowerGood, execDieReset, execLinkRetrain, execResetNotice,
      execLinkDownTimeout, execPeerPackageTimeout, execVaultTemperatureRead, execThrottleStep, execThrottleRise, execPause, execPauseEnd,
      execPowerLimitCheck, execThermalTrip, execIdleStateEntry, execLoggedWordsSupply, execManagementSession]
    repeat' split
    all_goals simp only [acts_done, acts_next, acts_fault]
  | _ => exact acts_done _ s

theorem exec_memWf {i : Instr} {s t : State} (h : s.memWf) (e : exec i s = .next t) : t.memWf := by
  obtain ⟨a, rfl⟩ := exec_acts i s t e
  exact perform_memWf a h

/-! ## A turn -/

/-- The memories of the state that a turn leaves, or at which it executes its instruction or event, are in canonical form. -/
def Turn.MemWf : Turn → Prop
  | .rest t => t.memWf
  | .run _ t => t.memWf
theorem State.turn_memWf {s : State} (c : Col) (x : Stream) (h : s.memWf) : (s.turn c x).MemWf := by
  have hp : ∀ a, Turn.MemWf (.rest (perform a s)) := fun a => perform_memWf a h
  have hs : ∀ n, (perform (onUnit c (fun u => u.onStrm x (fun t => { t with due := some n }))) s).memWf := fun _ => perform_memWf _ h
  unfold State.turn
  dsimp only
  split
  · split
    · exact hp _
    · exact h
  · split
    · exact h
    · split
      · exact hp _
      · split
        · exact hp _
        · exact hp _
        · split
          · exact perform_memWf (eventNow (.stall c x)) (hs _)
          · exact hs _

theorem turn_memWf {s : State} (h : s.memWf) : (turn s).MemWf := by
  unfold turn
  split
  · exact perform_memWf _ h
  · exact run_memWf _ h
  · dsimp only
    split
    · exact perform_memWf _ h
    · exact run_memWf _ h
  · exact State.turn_memWf _ _ (run_memWf _ h)
  · exact perform_memWf _ (run_memWf _ h)
  · exact perform_memWf _ (run_memWf _ h)
  · exact perform_memWf _ h

/-- Settles O51: a step is a turn, which works on the machine itself or executes one meaning, and all of these are actions. -/
theorem stepKeepsMemoriesCanonical : Obligations.StepKeepsMemoriesCanonical := by
  intro s t h e
  have ht := turn_memWf h
  unfold step at e
  split at e
  · next u hu => rw [hu] at ht; exact Host.Outcome.next.inj e ▸ ht
  · next i u hu => rw [hu] at ht; exact exec_memWf ht e

/-- Settles O52: the memories after reset are empty, and an empty memory reads as its defaults. -/
theorem resetMemories : Obligations.ResetMemories := by
  refine ⟨⟨fun c => ?_, rfl⟩, fun c m b i => ?_⟩
  · simp [State.reset]; rfl
  · have e : State.reset.mem c m = .empty := by cases m <;> simp [State.mem, State.reset, Mems.get] <;> rfl
    rw [e]; constructor
    · rfl
    · have even : 2 * b % 2 = 0 := by omega
      have odd : (2 * b + 1) % 2 = 1 := by omega
      simp [Memory.head, Memory.empty, cellGet, headDefault, even, odd]

/-- Settles O45: the turn's own case distinction, at a stream that may issue. -/
theorem stepRunsTheDecodedInstruction : Obligations.StepRunsTheDecodedInstruction := by
  intro s c x n r l i e s0 t due
  have hdue : (s.agenda = .issue c x n :: r → turn s = s0.turn c x) := fun ha => by unfold turn; rw [ha]; rfl
  refine ⟨fun ha hact hf hd hl hto => ?_, fun ha hact hf hd => ?_, fun ha => ?_⟩
  · have late : ¬ s0.now c < due := Int.not_lt.mpr hd
    have stall : (!(s0.unit c).ctl.timed && decide (due + ((s0.unit c).ctl.limit.toNat : Int) < s0.now c)) = false := by
      rcases hto with ht | ht
      · simp [ht]
      · simp [Int.not_lt.mpr ht]
    have run : s0.turn c x = .run i { s0 with units := s0.units.set c ((s0.unit c).onStrm x (fun t => { t with due := some due })) } := by
      unfold State.turn
      simp only [hact, hf, Option.getD_some, hl]
      rw [if_neg (by decide), if_neg late, if_neg (by simpa using stall)]; rfl
    unfold step; rw [hdue ha, run]
  · have early : s0.turn c x = .rest s0 := by
      unfold State.turn
      simp only [hact, hf, Option.getD_some]
      rw [if_neg (by decide), if_pos hd]
    unfold step; rw [hdue ha, early]
  · unfold step turn; rw [ha]; rfl
end Sys2Proof.Machine

/-! PROOF. The encoder and the decoder agree (spec/07_encoding_rules.md R138 to R160). -/
namespace Sys2Proof
open Laws

/-! ## First words, and what a decoder is given -/

theorem ofNat_eq {n k : Nat} [NeZero n] {f : Fin n} (h : k = f.val) : Fin.ofNat n k = f := by subst h; simp
theorem bits_zero (hi lo : Nat) : bits 0 hi lo = 0 := by simp [bits]
theorem first_op {h : Hdr} {op o : Nat} (hp : op < 128) (ho : o < 2 ^ 18) : bits (first h op o) 24 18 = op := by
  unfold bits first; omega
theorem first_operands {h : Hdr} {op o : Nat} (ho : o < 2 ^ 18) : bits (first h op o) 17 0 = o := by
  unfold bits first; omega
theorem first_hdr {h : Hdr} {op o : Nat} (hp : op < 128) (ho : o < 2 ^ 18) : hdr (first h op o) [] = h := by
  have hs : bits (first h op o) 31 28 = h.sync.val := by unfold bits first; omega
  have hi : bits (first h op o) 27 25 = h.idle.val := by unfold bits first; omega
  simp only [hdr, List.foldl_nil, hs, hi, ofNat_eq (f := h.sync) rfl, ofNat_eq (f := h.idle) rfl]
theorem ext_sync {x : Nat} (hx : x < 2 ^ 28) : bits x 31 28 = 0 := by unfold bits; omega
theorem ext_payload {x : Nat} (hx : x < 2 ^ 28) : bits x 27 0 = x := by unfold bits; omega
theorem first_hdr_ext {h : Hdr} {op o x : Nat} (hp : op < 128) (ho : o < 2 ^ 18) (hx : x < 2 ^ 28) : hdr (first h op o) [x] = h := by
  have hs : bits (first h op o) 31 28 = h.sync.val := by unfold bits first; omega
  have hi : bits (first h op o) 27 25 = h.idle.val := by unfold bits first; omega
  simp only [hdr, List.foldl_cons, List.foldl_nil, ext_sync hx, Nat.or_zero, hs, hi, ofNat_eq (f := h.sync) rfl, ofNat_eq (f := h.idle) rfl]

theorem decode_k_one {h : Hdr} {op o : Nat} (hp : op < 128) (hn : wordCount .k op = 1) (ho : o < 2 ^ 18) :
    decode .k [first h op o] = decodeK op h o 0 := by
  simp only [decode, List.getD_cons_zero, List.getD_cons_succ, first_op hp ho, first_operands ho, hn, Nat.reduceBEq, Bool.false_eq_true, if_false, first_hdr hp ho, List.getD_nil, bits_zero]
theorem decode_k_two {h : Hdr} {op o x : Nat} (hp : op < 128) (hn : wordCount .k op = 2) (ho : o < 2 ^ 18) (hx : x < 2 ^ 28) :
    decode .k [first h op o, x] = decodeK op h o x := by
  simp only [decode, List.getD_cons_zero, List.getD_cons_succ, first_op hp ho, first_operands ho, hn, Nat.reduceBEq, if_true, first_hdr_ext hp ho hx, ext_payload hx]
theorem decode_d {h : Hdr} {op o : Nat} (hp : op < 128) (ho : o < 2 ^ 18) : decode .d [first h op o] = decodeD op h o := by
  simp only [decode, List.getD_cons_zero, first_op hp ho, first_operands ho, first_hdr hp ho]
theorem decode_l {h : Hdr} {op o x : Nat} (hp : op < 128) (ho : o < 2 ^ 18) (hx : x < 2 ^ 28) : decode .l [first h op o, x] = decodeL op h o x := by
  simp only [decode, List.getD_cons_zero, List.getD_cons_succ, first_op hp ho, first_operands ho, first_hdr_ext hp ho hx, ext_payload hx]
theorem decode_v {h : Hdr} {op o x : Nat} (hp : op < 128) (ho : o < 2 ^ 18) (hx : x < 2 ^ 28) : decode .v [first h op o, x] = decodeV op h o x := by
  simp only [decode, List.getD_cons_zero, List.getD_cons_succ, first_op hp ho, first_operands ho, first_hdr_ext hp ho hx, ext_payload hx]
theorem decode_s {h : Hdr} {op o x : Nat} (hp : op < 128) (ho : o < 2 ^ 18) (hx : x < 2 ^ 28) : decode .s [first h op o, x] = decodeS op h o x := by
  simp only [decode, List.getD_cons_zero, List.getD_cons_succ, first_op hp ho, first_operands ho, first_hdr_ext hp ho hx, ext_payload hx]
theorem decode_m {h : MHdr} {op o x z : Nat} (hp : op < 128) (ho : o < 2 ^ 18) (hx : x < 2 ^ 28) (hz : z < 2) :
    decode .m (mwords h op o x z) = decodeM op h 0 o x (z * 2 ^ 27 + h.stamp.val) := by
  have w1 : bits (h.sync.val * 2 ^ 28 + op * 2 ^ 18 + o) 24 18 = op := by unfold bits; omega
  have w2 : bits (h.sync.val * 2 ^ 28 + op * 2 ^ 18 + o) 17 0 = o := by unfold bits; omega
  have w3 : bits (h.sync.val * 2 ^ 28 + op * 2 ^ 18 + o) 27 25 = 0 := by unfold bits; omega
  have w4 : bits (h.sync.val * 2 ^ 28 + op * 2 ^ 18 + o) 31 28 = h.sync.val := by unfold bits; omega
  have t1 : bits (z * 2 ^ 27 + h.stamp.val) 27 0 = z * 2 ^ 27 + h.stamp.val := by unfold bits; omega
  have t2 : bits (z * 2 ^ 27 + h.stamp.val) 19 0 = h.stamp.val := by unfold bits; omega
  have t3 : bits (z * 2 ^ 27 + h.stamp.val) 31 28 = 0 := by unfold bits; omega
  have hh : mhdr (h.sync.val * 2 ^ 28 + op * 2 ^ 18 + o) x (z * 2 ^ 27 + h.stamp.val) = h := by
    simp only [mhdr, w4, ext_sync hx, t2, t3, Nat.or_zero, ofNat_eq (f := h.sync) rfl, ofNat_eq (f := h.stamp) rfl]
  simp only [decode, mwords, List.getD_cons_zero, List.getD_cons_succ, w1, w2, w3, t1, hh, ext_payload hx]

/-! ## Fields -/

theorem accept_same {r : Nat} {i j : Instr} (hr : r = 0) (hi : i = j) (hw : j.wf = true) : accept r i = .ok j := by
  subst hr hi; simp [accept, hw]
theorem coded_some {α : Type} {x : Option α} {a : α} {f : α → Decoded} {d : Decoded} (hx : x = some a) (h : f a = d) : coded x f = d := by
  subst hx; exact h
theorem reg_eq {k : Nat} {f : Fin 64} (h : k = f.val) : reg k = f := ofNat_eq h
theorem signed_unsigned {n : Nat} {i : Int} (hn : 0 < n) (hi : inSigned n i = true) : signed n (unsigned n i) = i := by
  obtain ⟨m, rfl⟩ : ∃ m, n = m + 1 := ⟨n - 1, by omega⟩
  simp only [inSigned, Bool.and_eq_true, decide_eq_true_eq, Nat.add_sub_cancel] at hi
  have hp : (2 : Int) ^ (m + 1) = 2 * 2 ^ m := by rw [pow_succ, mul_comm]
  have hc : ((2 ^ m : Nat) : Int) = 2 ^ m := by simp
  have hpos : (0 : Int) < 2 ^ m := by positivity
  simp only [signed, unsigned, Nat.add_sub_cancel, hp]
  by_cases h0 : 0 ≤ i
  · rw [Int.emod_eq_of_lt h0 (by omega), if_pos (by omega)]; omega
  · have e : i % (2 * 2 ^ m) = i + 2 * 2 ^ m := by
      rw [← Int.add_emod_right, Int.emod_eq_of_lt (by omega) (by omega)]
    rw [e, if_neg (by omega)]; omega
theorem signed_eq {n k : Nat} {i : Int} (h : k = unsigned n i) (hn : 0 < n) (hi : inSigned n i = true) : signed n k = i := by
  rw [h, signed_unsigned hn hi]

/-! ## Codes (R145 to R148) -/

theorem fmt_ofCode {k : Nat} {x : Fmt} (h : k = x.code) : Fmt.ofCode k = some x := by subst h; cases x <;> rfl
theorem iTy_ofCode {k : Nat} {x : ITy} (h : k = x.code) : ITy.ofCode k = some x := by subst h; cases x <;> rfl
theorem vTy_ofCode {k : Nat} {x : VTy} (h : k = x.code) : VTy.ofCode k = some x := by subst h; cases x <;> rfl
theorem mode_ofCode {k : Nat} {x : Mode} (h : k = x.code) : Mode.ofCode k = some x := by subst h; cases x <;> rfl
theorem tailMode_ofCode {k : Nat} {x : TailMode} (h : k = x.code) : TailMode.ofCode k = some x := by subst h; cases x <;> rfl
theorem scope_ofCode {k : Nat} {x : Scope} (h : k = x.code) : Scope.ofCode k = some x := by subst h; cases x <;> rfl
theorem ord_ofCode {k : Nat} {x : Ord} (h : k = x.code) : Ord.ofCode k = some x := by subst h; cases x <;> rfl
theorem fenceKind_ofCode {k : Nat} {x : FenceKind} (h : k = x.code) : FenceKind.ofCode k = some x := by subst h; cases x <;> rfl
theorem winKind_ofCode {k : Nat} {x : WinKind} (h : k = x.code) : WinKind.ofCode k = some x := by subst h; cases x <;> rfl
theorem level_ofCode {k : Nat} {x : Level} (h : k = x.code) : Level.ofCode k = some x := by subst h; cases x <;> rfl
theorem amoOp_ofCode {k : Nat} {x : AmoOp} (h : k = x.code) : AmoOp.ofCode k = some x := by subst h; cases x <;> rfl
theorem sigOp_ofCode {k : Nat} {x : SigOp} (h : k = x.code) : SigOp.ofCode k = some x := by subst h; cases x <;> rfl
theorem collOp_ofCode {k : Nat} {x : CollOp} (h : k = x.code) : CollOp.ofCode k = some x := by subst h; cases x <;> rfl
theorem size_ofCode {k : Nat} {x : Size} (h : k = x.code) : Size.ofCode k = some x := by subst h; cases x <;> rfl
theorem msz_ofCode {k : Nat} {x : Msz} (h : k = x.code) : Msz.ofCode k = some x := by subst h; cases x <;> rfl
theorem latch_ofCode {k : Nat} {x : Latch} (h : k = x.code) : Latch.ofCode k = some x := by subst h; cases x <;> rfl
theorem fifo_ofCode {k : Nat} {x : Fifo} (h : k = x.code) : Fifo.ofCode k = some x := by subst h; cases x <;> rfl
theorem opLat_ofCode {k : Nat} {x : OpLat} (h : k = x.code) : OpLat.ofCode k = some x := by subst h; cases x <;> rfl
theorem predCode_val {k : Nat} {p : Fin 16} (h : k = p.val) : predCode k = some p := by
  subst h; simp [predCode, p.isLt]
theorem flag_boolCode {k : Nat} {b : Bool} (h : k = boolCode b) : flag k = b := by subst h; cases b <;> rfl

/-! ## Instructions that their stream reads back -/

/-- Some stream reads the instruction from its own words. -/
def ReadBack (i : Instr) : Prop := i.wf = true → ∃ x, decode x (encode i) = .ok i

/-- An instruction of two words, by what its stream's decoder accepts from its operands and the payload of its second word. -/
theorem readBack_of {x : Stream} {i : Instr} {dec : Nat → Nat → Decoded} {o p : Nat} {r : Nat → Nat → Nat} {f : Nat → Nat → Instr}
    (hs : decode x (encode i) = dec o p) (hd : ∀ o p, dec o p = accept (r o p) (f o p)) (hr : r o p = 0) (hf : f o p = i) : ReadBack i := fun hw =>
  ⟨x, by rw [hs, hd]; exact accept_same hr hf hw⟩
theorem readBack_coded {α : Type} {x : Stream} {i : Instr} {dec : Nat → Nat → Decoded} {o p : Nat} {c : Nat → Nat → Option α} {r : Nat → Nat → α → Nat}
    {f : Nat → Nat → α → Instr} (a : α) (hs : decode x (encode i) = dec o p) (hd : ∀ o p, dec o p = coded (c o p) fun a => accept (r o p a) (f o p a))
    (hc : c o p = some a) (hr : r o p a = 0) (hf : f o p a = i) : ReadBack i := fun hw =>
  ⟨x, by rw [hs, hd]; exact coded_some hc (accept_same hr hf hw)⟩
/-- An instruction of M, with its third word as well. -/
theorem readBack_three {i : Instr} {dec : Nat → Nat → Nat → Decoded} {o p q : Nat} {r : Nat → Nat → Nat → Nat} {f : Nat → Nat → Nat → Instr}
    (hs : decode .m (encode i) = dec o p q) (hd : ∀ o p q, dec o p q = accept (r o p q) (f o p q)) (hr : r o p q = 0) (hf : f o p q = i) : ReadBack i := fun hw =>
  ⟨.m, by rw [hs, hd]; exact accept_same hr hf hw⟩
theorem readBack_three_coded {α : Type} {i : Instr} {dec : Nat → Nat → Nat → Decoded} {o p q : Nat} {c : Nat → Nat → Nat → Option α}
    {r : Nat → Nat → Nat → α → Nat} {f : Nat → Nat → Nat → α → Instr} (a : α) (hs : decode .m (encode i) = dec o p q)
    (hd : ∀ o p q, dec o p q = coded (c o p q) fun a => accept (r o p q a) (f o p q a)) (hc : c o p q = some a) (hr : r o p q a = 0)
    (hf : f o p q a = i) : ReadBack i := fun hw =>
  ⟨.m, by rw [hs, hd]; exact coded_some hc (accept_same hr hf hw)⟩

theorem rrr_d {d : Fin 64} {a b : Nat} (ha : a < 64) (hb : b < 64) : reg (bits (rrr d.val a b) 17 12) = d := reg_eq (by unfold bits rrr; omega)
theorem rrr_a {d b : Nat} {a : Fin 64} (hb : b < 64) : reg (bits (rrr d a.val b) 11 6) = a := reg_eq (by unfold bits rrr; omega)
theorem rrr_b {d a : Nat} {b : Fin 64} : reg (bits (rrr d a b.val) 5 0) = b := reg_eq (by unfold bits rrr; omega)
theorem rrr_no_d {a b : Nat} (ha : a < 64) (hb : b < 64) : bits (rrr 0 a b) 17 12 = 0 := by unfold bits rrr; omega
theorem rrr_no_a {d b : Nat} (hb : b < 64) : bits (rrr d 0 b) 11 6 = 0 := by unfold bits rrr; omega
theorem rrr_no_b {d a : Nat} : bits (rrr d a 0) 5 0 = 0 := by unfold bits rrr; omega
theorem zero_lt_64 : 0 < 64 := by decide
theorem ff_lt {d a : Fin 64} {f g : Nat} (hf : f < 8) (hg : g < 8) : ff d.val a.val f g < 2 ^ 18 := by unfold ff; omega
theorem ff_d {d a : Fin 64} {f g : Nat} (hf : f < 8) (hg : g < 8) : reg (bits (ff d.val a.val f g) 17 12) = d := reg_eq (by unfold bits ff; omega)
theorem ff_a {d a : Fin 64} {f g : Nat} (hf : f < 8) (hg : g < 8) : reg (bits (ff d.val a.val f g) 11 6) = a := reg_eq (by unfold bits ff; omega)
theorem ff_f {d a f g : Nat} (hf : f < 8) (hg : g < 8) : bits (ff d a f g) 5 3 = f := by unfold bits ff; omega
theorem ff_g {d a f g : Nat} (hg : g < 8) : bits (ff d a f g) 2 0 = g := by unfold bits ff; omega

/-! ## K (R151, R161) -/

section
variable {h : Hdr} {op : Nat} (hp : op < 128) (hn : wordCount .k op = 1)
include hp hn

theorem readBack_k_rrr {f : Fin 64 → Fin 64 → Fin 64 → Instr} {d a b : Fin 64} (he : encode (f d a b) = [first h op (rrr d.val a.val b.val)])
    (hd : ∀ o, decodeK op h o 0 = accept 0 (f (reg (bits o 17 12)) (reg (bits o 11 6)) (reg (bits o 5 0)))) : ReadBack (f d a b) := fun hw =>
  ⟨.k, by rw [he, decode_k_one hp hn (rrr_lt d a b), hd, rrr_d a.isLt b.isLt, rrr_a b.isLt, rrr_b]; exact accept_same rfl rfl hw⟩
theorem readBack_k_rr {f : Fin 64 → Fin 64 → Instr} {d a : Fin 64} (he : encode (f d a) = [first h op (rrr d.val a.val 0)])
    (hd : ∀ o, decodeK op h o 0 = accept (bits o 5 0) (f (reg (bits o 17 12)) (reg (bits o 11 6)))) : ReadBack (f d a) := fun hw =>
  ⟨.k, by rw [he, decode_k_one hp hn (rrr_lt' d.isLt a.isLt zero_lt_64), hd, rrr_d a.isLt zero_lt_64, rrr_a zero_lt_64]; exact accept_same rrr_no_b rfl hw⟩
theorem readBack_k_ab {f : Fin 64 → Fin 64 → Instr} {a b : Fin 64} (he : encode (f a b) = [first h op (rrr 0 a.val b.val)])
    (hd : ∀ o, decodeK op h o 0 = accept (bits o 17 12) (f (reg (bits o 11 6)) (reg (bits o 5 0)))) : ReadBack (f a b) := fun hw =>
  ⟨.k, by rw [he, decode_k_one hp hn (rrr_lt' zero_lt_64 a.isLt b.isLt), hd, rrr_a b.isLt, rrr_b]; exact accept_same (rrr_no_d a.isLt b.isLt) rfl hw⟩
theorem readBack_k_a {f : Fin 64 → Instr} {a : Fin 64} (he : encode (f a) = [first h op (rrr 0 a.val 0)])
    (hd : ∀ o, decodeK op h o 0 = accept (bits o 17 12 + bits o 5 0) (f (reg (bits o 11 6)))) : ReadBack (f a) := fun hw =>
  ⟨.k, by rw [he, decode_k_one hp hn (rrr_lt' zero_lt_64 a.isLt zero_lt_64), hd, rrr_a zero_lt_64]
          exact accept_same (by rw [rrr_no_d a.isLt zero_lt_64, rrr_no_b]) rfl hw⟩
theorem readBack_k_imm {f : Fin 64 → Fin 64 → Int → Instr} {d a : Fin 64} {i : Int} (he : encode (f d a i) = [first h op (rrr d.val a.val i.toNat)])
    (hd : ∀ o, decodeK op h o 0 = accept 0 (f (reg (bits o 17 12)) (reg (bits o 11 6)) (bits o 5 0 : Nat)))
    (hi : (f d a i).wf = true → 0 ≤ i ∧ i ≤ 63) : ReadBack (f d a i) := fun hw => by
  obtain ⟨h0, h1⟩ := hi hw
  obtain ⟨n, rfl⟩ : ∃ n : Fin 64, i = (n.val : Int) := ⟨⟨i.toNat, by omega⟩, by simp; omega⟩
  have hb : bits (rrr d.val a.val n.val) 5 0 = n.val := by unfold bits rrr; omega
  refine ⟨.k, ?_⟩
  rw [he, Int.toNat_natCast, decode_k_one hp hn (rrr_lt d a n), hd, rrr_d a.isLt n.isLt, rrr_a n.isLt, hb]; exact accept_same rfl rfl hw
theorem readBack_k_branch {f : Fin 64 → Int → Instr} {a : Fin 64} {off : Int} (he : encode (f a off) = [first h op (a.val * 2 ^ 12 + unsigned 12 off)])
    (hd : ∀ o, decodeK op h o 0 = accept 0 (f (reg (bits o 17 12)) (signed 12 (bits o 11 0)))) (hi : (f a off).wf = true → inSigned 12 off = true) :
    ReadBack (f a off) := fun hw => by
  have hu := unsigned_lt 12 off
  have ha : reg (bits (a.val * 2 ^ 12 + unsigned 12 off) 17 12) = a := reg_eq (by unfold bits; omega)
  have ho : signed 12 (bits (a.val * 2 ^ 12 + unsigned 12 off) 11 0) = off := signed_eq (by unfold bits; omega) (by decide) (hi hw)
  refine ⟨.k, ?_⟩
  rw [he, decode_k_one hp hn (by omega), hd, ha, ho]; exact accept_same rfl rfl hw
theorem readBack_k_jump {f : Int → Instr} {off : Int} (he : encode (f off) = [first h op (unsigned 18 off)])
    (hd : ∀ o, decodeK op h o 0 = accept 0 (f (signed 18 o))) (hi : (f off).wf = true → inSigned 18 off = true) : ReadBack (f off) := fun hw => by
  refine ⟨.k, ?_⟩
  rw [he, decode_k_one hp hn (unsigned_lt 18 off), hd, signed_unsigned (by decide) (hi hw)]; exact accept_same rfl rfl hw
theorem readBack_k_plain {i : Instr} (he : encode i = [first h op 0]) (hd : decodeK op h 0 0 = accept 0 i) : ReadBack i := fun hw =>
  ⟨.k, by rw [he, decode_k_one hp hn (by decide), hd]; exact accept_same rfl rfl hw⟩
theorem readBack_k_sel {f : Fin 64 → Fin 4096 → Instr} {d : Fin 64} {n : Fin 4096} (he : encode (f d n) = [first h op (d.val * 2 ^ 12 + n.val)])
    (hd : ∀ o, decodeK op h o 0 = accept 0 (f (reg (bits o 17 12)) (Fin.ofNat 4096 (bits o 11 0)))) : ReadBack (f d n) := fun hw => by
  have h1 : reg (bits (d.val * 2 ^ 12 + n.val) 17 12) = d := reg_eq (by unfold bits; omega)
  have h2 : Fin.ofNat 4096 (bits (d.val * 2 ^ 12 + n.val) 11 0) = n := ofNat_eq (by unfold bits; omega)
  refine ⟨.k, ?_⟩
  rw [he, decode_k_one hp hn (by omega), hd, h1, h2]; exact accept_same rfl rfl hw
theorem readBack_k_code {f : Fin 4096 → Instr} {n : Fin 4096} (he : encode (f n) = [first h op n.val])
    (hd : ∀ o, decodeK op h o 0 = accept (bits o 17 12) (f (Fin.ofNat 4096 (bits o 11 0)))) : ReadBack (f n) := fun hw => by
  have h2 : Fin.ofNat 4096 (bits n.val 11 0) = n := ofNat_eq (by unfold bits; omega)
  refine ⟨.k, ?_⟩
  rw [he, decode_k_one hp hn (by omega), hd, h2]; exact accept_same (by unfold bits; omega) rfl hw
/-- Two codes in the field of b. -/
theorem readBack_k_ff {α β : Type} {ca : α → Nat} {cb : β → Nat} {oa : Nat → Option α} {ob : Nat → Option β} {f : Fin 64 → Fin 64 → α → β → Instr}
    {d a : Fin 64} {x : α} {y : β} (he : encode (f d a x y) = [first h op (ff d.val a.val (ca x) (cb y))])
    (hx : ca x < 8) (hy : cb y < 8) (ox : ∀ {k}, k = ca x → oa k = some x) (oy : ∀ {k}, k = cb y → ob k = some y)
    (hd : ∀ o, decodeK op h o 0 = coded (oa (bits o 5 3)) fun x => coded (ob (bits o 2 0)) fun y => accept 0 (f (reg (bits o 17 12)) (reg (bits o 11 6)) x y)) :
    ReadBack (f d a x y) := fun hw => by
  refine ⟨.k, ?_⟩
  rw [he, decode_k_one hp hn (ff_lt hx hy), hd, ff_d hx hy, ff_a hx hy]
  exact coded_some (ox (ff_f hx hy)) (coded_some (oy (ff_g hy)) (accept_same rfl rfl hw))
/-- One code in the field of b. -/
theorem readBack_k_f {α : Type} {ca : α → Nat} {oa : Nat → Option α} {f : Fin 64 → Fin 64 → α → Instr}
    {d a : Fin 64} {x : α} (he : encode (f d a x) = [first h op (ff d.val a.val (ca x) 0)])
    (hx : ca x < 8) (ox : ∀ {k}, k = ca x → oa k = some x)
    (hd : ∀ o, decodeK op h o 0 = coded (oa (bits o 5 3)) fun x => accept (bits o 2 0) (f (reg (bits o 17 12)) (reg (bits o 11 6)) x)) :
    ReadBack (f d a x) := fun hw => by
  have h0 : 0 < 8 := by decide
  refine ⟨.k, ?_⟩
  rw [he, decode_k_one hp hn (ff_lt hx h0), hd, ff_d hx h0, ff_a hx h0]
  exact coded_some (ox (ff_f hx h0)) (accept_same (ff_g h0) rfl hw)
end

theorem readBack_idleK (h : Hdr) (n : Fin 262144) : ReadBack (.idleK h n) := fun hw =>
  ⟨.k, (decode_k_one (by decide) rfl n.isLt).trans (accept_same rfl (by rw [ofNat_eq rfl]) hw)⟩
theorem readBack_undef (h : Hdr) (o : Fin 262144) : ReadBack (.undef h o) := fun hw =>
  ⟨.k, (decode_k_one (by decide) rfl o.isLt).trans (accept_same rfl (by rw [ofNat_eq rfl]) hw)⟩
theorem readBack_addi (h : Hdr) (d a : Fin 64) (i : Int) : ReadBack (.addi h d a i) := fun hw => by
  have hi := unsigned_lt 6 i
  refine ⟨.k, (decode_k_one (by decide) rfl (rrr_lt' d.isLt a.isLt hi)).trans (accept_same rfl ?_ hw)⟩
  congr 1
  · exact reg_eq (by unfold bits rrr; omega)
  · exact reg_eq (by unfold bits rrr; omega)
  · exact signed_eq (by unfold bits rrr; omega) (by decide) hw
theorem readBack_li (h : Hdr) (d : Fin 64) (i : Int) : ReadBack (.li h d i) := fun hw => by
  have hi := unsigned_lt 40 i
  refine ⟨.k, (decode_k_two (by decide) rfl (by omega) (by omega)).trans (accept_same rfl ?_ hw)⟩
  congr 1
  · exact reg_eq (by unfold bits; omega)
  · exact signed_eq (by unfold bits; omega) (by decide) hw
theorem readBack_lih (h : Hdr) (d : Fin 64) (n : Fin 16777216) : ReadBack (.lih h d n) := fun hw => by
  refine ⟨.k, (decode_k_two (by decide) rfl (by omega) (by omega)).trans (accept_same (by unfold bits; omega) ?_ hw)⟩
  congr 1
  · exact reg_eq (by unfold bits; omega)
  · exact ofNat_eq (by unfold bits; omega)
theorem readBack_loop (h : Hdr) (lc : Fin 4) (off : Int) : ReadBack (.loop h lc off) := fun hw => by
  have hi := unsigned_lt 12 off
  refine ⟨.k, (decode_k_one (by decide) rfl (by omega)).trans (accept_same (by unfold bits; omega) ?_ hw)⟩
  congr 1
  · exact ofNat_eq (by unfold bits; omega)
  · exact signed_eq (by unfold bits; omega) (by decide) hw
theorem decodeK_lset (h : Hdr) (o x : Nat) : decodeK 0x5B h o x = accept (bits x 7 0)
    (.lset h (Fin.ofNat 4 (bits o 17 16)) (Fin.ofNat 65536 (bits o 15 0)) (reg (bits x 27 22)) (Fin.ofNat 16384 (bits x 21 8))) := rfl
theorem readBack_lset (h : Hdr) (lc : Fin 4) (label : Fin 65536) (a : Fin 64) (drain : Fin 16384) : ReadBack (.lset h lc label a drain) := fun hw => by
  refine ⟨.k, (decode_k_two (by decide) rfl (by omega) (by omega)).trans ((decodeK_lset _ _ _).trans (accept_same (by unfold bits; omega) ?_ hw))⟩
  congr 1
  · exact ofNat_eq (by unfold bits; omega)
  · exact ofNat_eq (by unfold bits; omega)
  · exact reg_eq (by unfold bits; omega)
  · exact ofNat_eq (by unfold bits; omega)
theorem readBack_xfer (h : Hdr) (d : Fin 64) (x : Latch) : ReadBack (.xfer h d x) := fun hw => by
  have hx := code_lt_latch x
  refine ⟨.k, (decode_k_one (by decide) rfl (by omega)).trans (coded_some (latch_ofCode (x := x) (by unfold bits; omega)) (accept_same (by unfold bits; omega) ?_ hw))⟩
  congr 1; exact reg_eq (by unfold bits; omega)
theorem readBack_phpre (h : Hdr) (n : Fin 16) (due : Fin 1048576) : ReadBack (.phpre h n due) := fun hw => by
  refine ⟨.k, (decode_k_two (by decide) rfl (by omega) (by omega)).trans (accept_same (by unfold bits; omega) ?_ hw)⟩
  congr 1
  · exact ofNat_eq (by unfold bits; omega)
  · exact ofNat_eq (by unfold bits; omega)
theorem readBack_phadv (h : Hdr) (n : Fin 16) : ReadBack (.phadv h n) := fun hw => by
  refine ⟨.k, (decode_k_one (by decide) rfl (by omega)).trans (accept_same (by unfold bits; omega) ?_ hw)⟩
  congr 1; exact ofNat_eq (by unfold bits; omega)
theorem readBack_phq (h : Hdr) (d : Fin 64) (n : Fin 16) : ReadBack (.phq h d n) := fun hw => by
  refine ⟨.k, (decode_k_one (by decide) rfl (by omega)).trans (accept_same (by unfold bits; omega) ?_ hw)⟩
  congr 1
  · exact reg_eq (by unfold bits; omega)
  · exact ofNat_eq (by unfold bits; omega)
theorem readBack_fence (h : Hdr) (k : FenceKind) (x : Scope) : ReadBack (.fence h k x) := fun hw => by
  have hk := code_lt_fenceKind k
  have hx := code_lt_scope x
  exact ⟨.k, (decode_k_one (by decide) rfl (by omega)).trans (coded_some (fenceKind_ofCode (x := k) (by unfold bits; omega))
    (coded_some (scope_ofCode (x := x) (by unfold bits; omega)) (accept_same (by unfold bits; omega) rfl hw)))⟩
theorem decodeK_launch (h : Hdr) (o x : Nat) : decodeK 0x70 h o x = accept (bits x 24 16)
    (.launch h (reg (bits o 17 12)) (reg (bits o 11 6)) (reg (bits o 5 0)) (Fin.ofNat 8 (bits x 27 25)) (Fin.ofNat 65536 (bits x 15 0))) := rfl
theorem readBack_launch (h : Hdr) (a b q : Fin 64) (pri : Fin 8) (deps : Fin 65536) : ReadBack (.launch h a b q pri deps) := fun hw => by
  refine ⟨.k, (decode_k_two (by decide) rfl (rrr_lt a b q) (by omega)).trans ((decodeK_launch _ _ _).trans (accept_same (by unfold bits; omega) ?_ hw))⟩
  rw [rrr_d b.isLt q.isLt, rrr_a q.isLt, rrr_b]
  congr 1
  · exact ofNat_eq (by unfold bits; omega)
  · exact ofNat_eq (by unfold bits; omega)
theorem readBack_cancel (h : Hdr) (l : Level) (a : Fin 64) : ReadBack (.cancel h l a) := fun hw => by
  have hl := code_lt_level l
  refine ⟨.k, (decode_k_one (by decide) rfl (by omega)).trans (coded_some (level_ofCode (x := l) (by unfold bits; omega)) (accept_same (by unfold bits; omega) ?_ hw))⟩
  congr 1; exact reg_eq (by unfold bits; omega)
theorem readBack_rndn (h : Hdr) (d : Fin 64) : ReadBack (.rndn h d) := fun hw => by
  refine ⟨.k, (decode_k_one (by decide) rfl (rrr_lt d 0 0)).trans (accept_same (by unfold bits rrr; omega) ?_ hw)⟩
  congr 1; exact reg_eq (by unfold bits rrr; omega)

theorem imm_range {i : Int} (n : Int) (hn : n ≤ 63) (hw : (decide (0 ≤ i) && decide (i ≤ n)) = true) : 0 ≤ i ∧ i ≤ 63 := by
  simp at hw; omega

/-! ## D (R154, R162) -/

theorem readBack_idleD (h : Hdr) (n : Fin 262144) : ReadBack (.idleD h n) := fun hw =>
  ⟨.d, (decode_d (by decide) n.isLt).trans (accept_same rfl (by rw [ofNat_eq rfl]) hw)⟩
theorem readBack_act (h : Hdr) (bank : Fin 16) (row : Fin 8192) : ReadBack (.act h bank row) := fun hw => by
  have hf : flag (bits (bank.val * 2 ^ 14 + 2 ^ 13 + row.val) 13 13) = true := flag_boolCode (b := true) (by unfold bits boolCode; rw [if_pos rfl]; omega)
  refine ⟨.d, (decode_d (by decide) (by omega)).trans ((if_pos hf).trans (accept_same rfl ?_ hw))⟩
  congr 1
  · exact ofNat_eq (by unfold bits; omega)
  · exact ofNat_eq (by unfold bits; omega)
theorem readBack_actRegister (h : Hdr) (bank : Fin 16) (a : Fin 64) : ReadBack (.actRegister h bank a) := fun hw => by
  have hf : flag (bits (bank.val * 2 ^ 14 + a.val) 13 13) = false := flag_boolCode (b := false) (by unfold bits boolCode; rw [if_neg (by decide)]; omega)
  refine ⟨.d, (decode_d (by decide) (by omega)).trans ((if_neg (Bool.eq_false_iff.mp hf)).trans (accept_same (by unfold bits; omega) ?_ hw))⟩
  congr 1
  · exact ofNat_eq (by unfold bits; omega)
  · exact reg_eq (by unfold bits; omega)
theorem readBack_bank {h : Hdr} {op : Nat} (hp : op < 128) {f : Fin 16 → Instr} {bank : Fin 16} (he : encode (f bank) = [first h op (bank.val * 2 ^ 14)])
    (hd : ∀ o, decodeD op h o = accept (bits o 13 0) (f (Fin.ofNat 16 (bits o 17 14)))) : ReadBack (f bank) := fun hw => by
  have hb : Fin.ofNat 16 (bits (bank.val * 2 ^ 14) 17 14) = bank := ofNat_eq (by unfold bits; omega)
  refine ⟨.d, ?_⟩
  rw [he, decode_d hp (by omega), hd, hb]; exact accept_same (by unfold bits; omega) rfl hw
theorem readBack_prea (h : Hdr) : ReadBack (.prea h) := fun hw =>
  ⟨.d, (decode_d (by decide) (by decide)).trans (accept_same rfl rfl hw)⟩
theorem readBack_win (h : Hdr) (k : WinKind) (bank : Fin 16) (beats delay : Fin 64) : ReadBack (.win h k bank beats delay) := fun hw => by
  have hk : k.code < 3 := by cases k <;> decide
  refine ⟨.d, (decode_d (by decide) (by omega)).trans (coded_some (winKind_ofCode (x := k) (by unfold bits; omega)) (accept_same rfl ?_ hw))⟩
  congr 1
  · exact ofNat_eq (by unfold bits; omega)
  · exact reg_eq (by unfold bits; omega)
  · exact reg_eq (by unfold bits; omega)
theorem readBack_wcls (h : Hdr) (k : WinKind) (bank : Fin 16) (all : Bool) : ReadBack (.wcls h k bank all) := fun hw => by
  have hk := code_lt_winKind k
  have ha := boolCode_lt all
  refine ⟨.d, (decode_d (by decide) (by omega)).trans (coded_some (winKind_ofCode (x := k) (by unfold bits; omega)) (accept_same (by unfold bits; omega) ?_ hw))⟩
  congr 1
  · exact ofNat_eq (by unfold bits; omega)
  · exact flag_boolCode (by unfold bits; omega)

/-! ## Formats MEM and CP (R155, R156) -/

theorem lmem_words {m : LMem} {v x : Nat} (hd : inSigned 22 m.disp = true) :
    lmem (v * 2 ^ 12 + m.ax.val * 2 ^ 9 + boolCode m.pi * 2 ^ 8 + m.y.val) (x * 2 ^ 22 + unsigned 22 m.disp) = m := by
  have hu := unsigned_lt 22 m.disp
  have hp := boolCode_lt m.pi
  obtain ⟨ax, pi, y, disp⟩ := m
  simp only [lmem] at *
  congr 1
  · exact ofNat_eq (by unfold bits; omega)
  · exact flag_boolCode (by unfold bits; omega)
  · exact ofNat_eq (by unfold bits; omega)
  · exact signed_eq (by unfold bits; omega) (by decide) hd
theorem lmem_first_lt {m : LMem} {v : Nat} (hv : v < 64) : v * 2 ^ 12 + m.ax.val * 2 ^ 9 + boolCode m.pi * 2 ^ 8 + m.y.val < 2 ^ 18 := by
  have := boolCode_lt m.pi; omega
theorem lmem_ext_lt {m : LMem} {x : Nat} (hx : x < 64) : x * 2 ^ 22 + unsigned 22 m.disp < 2 ^ 28 := by
  have := unsigned_lt 22 m.disp; omega
theorem lmem_v {m : LMem} {v : Nat} (hv : v < 64) : bits (v * 2 ^ 12 + m.ax.val * 2 ^ 9 + boolCode m.pi * 2 ^ 8 + m.y.val) 17 12 = v := by
  have := boolCode_lt m.pi; unfold bits; omega
theorem lmem_x {m : LMem} {x : Nat} (hx : x < 64) : bits (x * 2 ^ 22 + unsigned 22 m.disp) 27 22 = x := by
  have := unsigned_lt 22 m.disp; unfold bits; omega

/-- An instruction of L with format MEM, a register and no index. -/
theorem readBack_lmem {h : Hdr} {op : Nat} (hp : op < 128) {f : Fin 64 → LMem → Instr} {v : Fin 64} {m : LMem} (he : encode (f v m) = lmemWords h op v.val 0 m)
    (hd : ∀ o x, decodeL op h o x = accept (bits x 27 22) (f (reg (bits o 17 12)) (lmem o x))) (hi : (f v m).wf = true → inSigned 22 m.disp = true) :
    ReadBack (f v m) := fun hw => by
  refine ⟨.l, ?_⟩
  rw [he, lmemWords, decode_l hp (lmem_first_lt v.isLt) (lmem_ext_lt zero_lt_64), hd, lmem_words (hi hw), reg_eq (lmem_v v.isLt)]
  exact accept_same (lmem_x zero_lt_64) rfl hw

theorem cpf_words {c : Cp} {tg : Fin 64} : cpf (c.ys.val * 2 ^ 10 + c.yd.val * 2 ^ 2) (c.sa.val * 2 ^ 25 + c.da.val * 2 ^ 22 + tg.val * 2 ^ 16) = c := by
  obtain ⟨ys, yd, sa, da⟩ := c
  simp only [cpf]
  congr 1 <;> exact ofNat_eq (by unfold bits; omega)
theorem cp_res {c : Cp} {tg : Fin 64} : cpRes (c.ys.val * 2 ^ 10 + c.yd.val * 2 ^ 2) (c.sa.val * 2 ^ 25 + c.da.val * 2 ^ 22 + tg.val * 2 ^ 16) = 0 := by
  unfold cpRes bits; omega
theorem cp_tg {c : Cp} {tg : Fin 64} : bits (c.sa.val * 2 ^ 25 + c.da.val * 2 ^ 22 + tg.val * 2 ^ 16) 21 16 = tg.val := by
  unfold bits; omega
theorem cp_words_zero (h : Hdr) (op : Nat) (c : Cp) : cpWords h op 0 c = cpWords h op (0 : Fin 64).val c := rfl
theorem cp_first_lt (c : Cp) : c.ys.val * 2 ^ 10 + c.yd.val * 2 ^ 2 < 2 ^ 18 := by omega
theorem cp_ext_lt (c : Cp) (tg : Fin 64) : c.sa.val * 2 ^ 25 + c.da.val * 2 ^ 22 + tg.val * 2 ^ 16 < 2 ^ 28 := by omega

section
variable {h : Hdr} {op : Nat} (hp : op < 128) {c : Cp}
include hp
theorem readBack_l_cp {f : Cp → Instr} (he : encode (f c) = cpWords h op 0 c)
    (hd : ∀ o x, decodeL op h o x = accept (cpRes o x + bits x 21 16) (f (cpf o x))) : ReadBack (f c) := fun hw =>
  ⟨.l, by rw [he, cp_words_zero, cpWords, decode_l hp (cp_first_lt c) (cp_ext_lt c 0), hd, cpf_words]
          exact accept_same (by rw [cp_res, cp_tg]; rfl) rfl hw⟩
theorem readBack_l_cp_tg {f : Cp → Fin 64 → Instr} {tg : Fin 64} (he : encode (f c tg) = cpWords h op tg.val c)
    (hd : ∀ o x, decodeL op h o x = accept (cpRes o x) (f (cpf o x) (reg (bits x 21 16)))) : ReadBack (f c tg) := fun hw =>
  ⟨.l, by rw [he, cpWords, decode_l hp (cp_first_lt c) (cp_ext_lt c tg), hd, cpf_words, reg_eq cp_tg]; exact accept_same cp_res rfl hw⟩
theorem readBack_s_cp {f : Cp → Instr} (he : encode (f c) = cpWords h op 0 c)
    (hd : ∀ o x, decodeS op h o x = accept (cpRes o x + bits x 21 16) (f (cpf o x))) : ReadBack (f c) := fun hw =>
  ⟨.s, by rw [he, cp_words_zero, cpWords, decode_s hp (cp_first_lt c) (cp_ext_lt c 0), hd, cpf_words]
          exact accept_same (by rw [cp_res, cp_tg]; rfl) rfl hw⟩
theorem readBack_s_cp_tg {f : Cp → Fin 64 → Instr} {tg : Fin 64} (he : encode (f c tg) = cpWords h op tg.val c)
    (hd : ∀ o x, decodeS op h o x = accept (cpRes o x) (f (cpf o x) (reg (bits x 21 16)))) : ReadBack (f c tg) := fun hw =>
  ⟨.s, by rw [he, cpWords, decode_s hp (cp_first_lt c) (cp_ext_lt c tg), hd, cpf_words, reg_eq cp_tg]; exact accept_same cp_res rfl hw⟩
end

/-! ## L (R157, R163) -/

theorem readBack_idleL (h : Hdr) (n : Fin 262144) : ReadBack (.idleL h n) :=
  readBack_of (decode_l (by decide) n.isLt (by decide)) (fun _ _ => rfl) (bits_zero _ _) (by rw [ofNat_eq rfl])
theorem readBack_vldg (h : Hdr) (v : Fin 64) (m : LMem) (x : Fin 64) : ReadBack (.vldg h v m x) := fun hw =>
  readBack_of (decode_l (by decide) (lmem_first_lt v.isLt) (lmem_ext_lt x.isLt)) (fun _ _ => rfl) rfl
    (by rw [lmem_words hw, reg_eq (lmem_v v.isLt), reg_eq (lmem_x x.isLt)]) hw
theorem decodeL_vrd (h : Hdr) (o : Nat) : decodeL 0x04 h o 0 = accept (bits o 0 0 + bits 0 26 0)
    (.vrd h (reg (bits o 17 12)) (Fin.ofNat 16 (bits o 11 8)) (Fin.ofNat 32 (bits o 7 3)) (Fin.ofNat 4 (bits o 2 1))) := rfl
theorem readBack_vrd (h : Hdr) (v : Fin 64) (bank : Fin 16) (col : Fin 32) (q : Fin 4) : ReadBack (.vrd h v bank col q) := fun hw => by
  refine ⟨.l, (decode_l (by decide) (by omega) (by decide)).trans ((decodeL_vrd _ _).trans (accept_same ?_ ?_ hw))⟩
  · rw [bits_zero]; unfold bits; omega
  · congr 1
    · exact reg_eq (by unfold bits; omega)
    · exact ofNat_eq (by unfold bits; omega)
    · exact ofNat_eq (by unfold bits; omega)
    · exact ofNat_eq (by unfold bits; omega)
theorem decodeL_vrdBuf (h : Hdr) {o x : Nat} (hf : flag (bits x 27 27) = true) : decodeL 0x04 h o x =
    accept (bits o 17 12 + bits o 2 0 + bits x 23 0) (.vrdBuf h (Fin.ofNat 16 (bits o 11 8)) (Fin.ofNat 32 (bits o 7 3)) (Fin.ofNat 8 (bits x 26 24))) := if_pos hf
theorem readBack_vrdBuf (h : Hdr) (bank : Fin 16) (col : Fin 32) (ax : Fin 8) : ReadBack (.vrdBuf h bank col ax) := fun hw => by
  have hf : flag (bits (2 ^ 27 + ax.val * 2 ^ 24) 27 27) = true := flag_boolCode (b := true) (by unfold bits boolCode; rw [if_pos rfl]; omega)
  refine ⟨.l, (decode_l (by decide) (by omega) (by omega)).trans ((decodeL_vrdBuf h hf).trans (accept_same (by unfold bits; omega) ?_ hw))⟩
  congr 1
  · exact ofNat_eq (by unfold bits; omega)
  · exact ofNat_eq (by unfold bits; omega)
  · exact ofNat_eq (by unfold bits; omega)
theorem readBack_qld (h : Hdr) (n : Fin 16) (m : LMem) : ReadBack (.qld h n m) := fun hw => by
  have hp := boolCode_lt m.pi
  have hn : n.val < 64 := by omega
  refine readBack_of (decode_l (by decide) (lmem_first_lt hn) (lmem_ext_lt zero_lt_64)) (fun _ _ => rfl) ?_ ?_ hw
  · rw [lmem_x zero_lt_64]; unfold bits; omega
  · rw [lmem_words hw]; congr 1; exact ofNat_eq (by unfold bits; omega)
theorem readBack_qcw (h : Hdr) (n : Fin 16) (a : Fin 64) : ReadBack (.qcw h n a) := by
  refine readBack_of (decode_l (by decide) (by omega) (by decide)) (fun _ _ => rfl) ?_ ?_
  · rw [bits_zero]; unfold bits; omega
  · congr 1
    · exact ofNat_eq (by unfold bits; omega)
    · exact reg_eq (by unfold bits; omega)
theorem readBack_lrec (h : Hdr) (m : LMem) : ReadBack (.lrec h m) := fun hw =>
  readBack_of (decode_l (by decide) (lmem_first_lt zero_lt_64) (lmem_ext_lt zero_lt_64)) (fun _ _ => rfl)
    (by rw [lmem_v zero_lt_64, lmem_x zero_lt_64]) (by rw [lmem_words hw]) hw
theorem readBack_ltr (h : Hdr) (l : OpLat) (m : LMem) : ReadBack (.ltr h l m) := fun hw => by
  have hp := boolCode_lt m.pi
  have hl := code_lt_opLat l
  refine readBack_coded l (decode_l (by decide) (lmem_first_lt (by omega)) (lmem_ext_lt zero_lt_64)) (fun _ _ => rfl)
    (opLat_ofCode (by unfold bits; omega)) ?_ (by rw [lmem_words hw]) hw
  rw [lmem_x zero_lt_64]; unfold bits; omega
theorem readBack_pop (h : Hdr) (v : Fin 64) (f : Fifo) : ReadBack (.pop h v f) := by
  have hf := code_lt_fifo f
  refine readBack_coded f (decode_l (by decide) (by omega) (by decide)) (fun _ _ => rfl) (fifo_ofCode (by unfold bits; omega)) ?_ ?_
  · rw [bits_zero]; unfold bits; omega
  · congr 1; exact reg_eq (by unfold bits; omega)

/-! ## M (R158, R159, R164) -/

section
variable {h : MHdr} {z : Nat}
theorem third_reserved : bits (z * 2 ^ 27 + h.stamp.val) 26 20 + 0 = 0 := by unfold bits; omega
theorem third_rest_zero : bits (0 * 2 ^ 27 + h.stamp.val) 27 27 + (bits (0 * 2 ^ 27 + h.stamp.val) 26 20 + 0) = 0 := by unfold bits; omega
end
theorem mm_words {h : MHdr} {o : Mm} {al : Bool} :
    mm o.msz (o.dt.val * 2 ^ 16 + o.msz.code * 2 ^ 14 + o.roff.val * 2 ^ 12 + o.ya.val * 2 ^ 4)
      (o.yb.val * 2 ^ 20 + o.k.val * 2 ^ 8 + boolCode al * 2 ^ 7 + boolCode o.bl * 2 ^ 6) (boolCode o.z * 2 ^ 27 + h.stamp.val) = o := by
  have hm := code_lt_msz o.msz
  have ha := boolCode_lt al
  have hb := boolCode_lt o.bl
  have hz := boolCode_lt o.z
  obtain ⟨dt, msz, roff, ya, yb, k, bl, z⟩ := o
  simp only [mm] at *
  congr 1
  · exact ofNat_eq (by unfold bits; omega)
  · exact ofNat_eq (by unfold bits; omega)
  · exact ofNat_eq (by unfold bits; omega)
  · exact ofNat_eq (by unfold bits; omega)
  · exact ofNat_eq (by unfold bits; omega)
  · exact flag_boolCode (by unfold bits; omega)
  · exact flag_boolCode (by unfold bits; omega)

theorem readBack_idleM (h : MHdr) (n : Fin 262144) : ReadBack (.idleM h n) :=
  readBack_three (decode_m (by decide) n.isLt (by decide) (by decide)) (fun _ _ _ => rfl)
    (by rw [Nat.add_assoc, third_rest_zero, bits_zero]) (by rw [ofNat_eq rfl])
theorem readBack_mma (h : MHdr) (o : Mm) (al : Bool) : ReadBack (.mma h o al) := by
  have hm := code_lt_msz o.msz
  have ha := boolCode_lt al
  have hb := boolCode_lt o.bl
  have hz := boolCode_lt o.z
  refine readBack_three_coded o.msz (decode_m (by decide) (by omega) (by omega) hz) (fun _ _ _ => rfl) (msz_ofCode (by unfold bits; omega)) ?_ ?_
  · rw [third_reserved]; unfold bits; omega
  · rw [mm_words]; congr 1; exact flag_boolCode (by unfold bits; omega)
theorem readBack_mmag (h : MHdr) (o : Mm) : ReadBack (.mmag h o) := by
  have hm := code_lt_msz o.msz
  have hb := boolCode_lt o.bl
  have hz := boolCode_lt o.z
  refine readBack_three_coded o.msz (decode_m (by decide) (by omega) (by omega) hz) (fun _ _ _ => rfl) (msz_ofCode (by unfold bits; omega)) ?_ ?_
  · rw [third_reserved]; unfold bits; omega
  · exact congrArg (Instr.mmag h) (mm_words (al := false))
theorem readBack_midx (h : MHdr) (v : Fin 64) : ReadBack (.midx h v) := by
  refine readBack_three (decode_m (by decide) (by omega) (by decide) (by decide)) (fun _ _ _ => rfl) ?_ ?_
  · rw [Nat.add_assoc, third_rest_zero, bits_zero]; unfold bits; omega
  · congr 1; exact reg_eq (by unfold bits; omega)
theorem readBack_mldt (h : MHdr) (l : OpLat) (y : Fin 256) : ReadBack (.mldt h l y) := by
  have hl := code_lt_opLat l
  refine readBack_three_coded l (decode_m (by decide) (by omega) (by decide) (by decide)) (fun _ _ _ => rfl) (opLat_ofCode (by unfold bits; omega)) ?_ ?_
  · rw [Nat.add_assoc, third_rest_zero, bits_zero]; unfold bits; omega
  · congr 1; exact ofNat_eq (by unfold bits; omega)
theorem readBack_mzero (h : MHdr) (t : Fin 4) (s : Msz) (r : Fin 4) : ReadBack (.mzero h t s r) := by
  have hs := code_lt_msz s
  refine readBack_three_coded s (decode_m (by decide) (by omega) (by decide) (by decide)) (fun _ _ _ => rfl) (msz_ofCode (by unfold bits; omega)) ?_ ?_
  · rw [Nat.add_assoc, third_rest_zero, bits_zero]; unfold bits; omega
  · congr 1
    · exact ofNat_eq (by unfold bits; omega)
    · exact ofNat_eq (by unfold bits; omega)
theorem readBack_mmov (h : MHdr) (dt st : Fin 4) (drow srow : Fin 64) (n : Fin 128) : ReadBack (.mmov h dt st drow srow n) := by
  refine readBack_three (decode_m (by decide) (by omega) (by omega) (by decide)) (fun _ _ _ => rfl) ?_ ?_
  · rw [Nat.add_assoc, third_rest_zero]; unfold bits; omega
  · congr 1
    · exact ofNat_eq (by unfold bits; omega)
    · exact ofNat_eq (by unfold bits; omega)
    · exact reg_eq (by unfold bits; omega)
    · exact reg_eq (by unfold bits; omega)
    · exact ofNat_eq (by unfold bits; omega)
theorem readBack_mrst (h : MHdr) (t : Fin 4) (label : Fin 65536) : ReadBack (.mrst h t label) := by
  refine readBack_three (decode_m (by decide) (by omega) (by decide) (by decide)) (fun _ _ _ => rfl) ?_ ?_
  · rw [Nat.add_assoc, third_rest_zero, bits_zero]
  · congr 1
    · exact ofNat_eq (by unfold bits; omega)
    · exact ofNat_eq (by unfold bits; omega)
theorem readBack_mcls (h : MHdr) (t : Fin 4) (rc : Bool) : ReadBack (.mcls h t rc) := by
  have hr := boolCode_lt rc
  refine readBack_three (decode_m (by decide) (by omega) (by decide) (by decide)) (fun _ _ _ => rfl) ?_ ?_
  · rw [Nat.add_assoc, third_rest_zero, bits_zero]; unfold bits; omega
  · congr 1
    · exact ofNat_eq (by unfold bits; omega)
    · exact flag_boolCode (by unfold bits; omega)

/-! ## V (R160, R165) -/

/-- The second word of a V instruction. -/
def vext (c : VCtl) (e imm : Nat) : Nat := c.ty.code * 2 ^ 24 + e * 2 ^ 18 + c.p.val * 2 ^ 14 + c.mode.code * 2 ^ 11 + c.tm.code * 2 ^ 9 + imm

section
variable {c : VCtl} {e imm : Nat} (he : e < 64) (hi : imm < 512)
include he hi
theorem vext_lt : vext c e imm < 2 ^ 28 := by
  have := code_lt_vTy c.ty; have := code_lt_mode c.mode; have := code_lt_tailMode c.tm; unfold vext; omega
theorem vext_ty : VTy.ofCode (bits (vext c e imm) 27 24) = some c.ty := by
  have := code_lt_vTy c.ty; have := code_lt_mode c.mode; have := code_lt_tailMode c.tm
  exact vTy_ofCode (by unfold bits vext; omega)
omit he in
theorem vext_mode : Mode.ofCode (bits (vext c e imm) 13 11) = some c.mode := by
  have := code_lt_mode c.mode; have := code_lt_tailMode c.tm
  exact mode_ofCode (by unfold bits vext; omega)
omit he in
theorem vext_tm : TailMode.ofCode (bits (vext c e imm) 10 9) = some c.tm := by
  have := code_lt_tailMode c.tm
  exact tailMode_ofCode (by unfold bits vext; omega)
omit he in
theorem vext_p : bits (vext c e imm) 17 14 = c.p.val := by
  have := code_lt_mode c.mode; have := code_lt_tailMode c.tm; unfold bits vext; omega
theorem vext_e : bits (vext c e imm) 23 18 = e := by
  have := code_lt_mode c.mode; have := code_lt_tailMode c.tm; unfold bits vext; omega
omit he hi in
/-- A field of the low nine bits is one of the immediate. -/
theorem vext_low {hi lo : Nat} (hl : lo ≤ hi + 1) (h8 : hi ≤ 8) : bits (vext c e imm) hi lo = bits imm hi lo := by
  have split : ∀ n, bits n hi lo = n % 2 ^ (hi + 1) / 2 ^ lo := fun n => by
    unfold bits; rw [← Nat.mod_mul_right_div_self, ← pow_add, Nat.add_sub_cancel' hl]
  have hk : ∃ k, vext c e imm = imm + 2 ^ (hi + 1) * k := by
    obtain ⟨j, hj⟩ : 2 ^ (hi + 1) ∣ 2 ^ 9 := Nat.pow_dvd_pow 2 (by omega)
    refine ⟨j * (c.ty.code * 2 ^ 15 + e * 2 ^ 9 + c.p.val * 2 ^ 5 + c.mode.code * 2 ^ 2 + c.tm.code), ?_⟩
    rw [← Nat.mul_assoc, ← hj]; unfold vext; omega
  obtain ⟨k, hk⟩ := hk
  rw [split, split, hk, Nat.add_mul_mod_self_left]
theorem decode_vwords {op o : Nat} (hp : op < 128) (ha : vAssigned op = true) (ho : o < 2 ^ 18) : decode .v (vwords c op o e imm) = decodeVOp op c o (vext c e imm) := by
  have h0 : op ≠ 0 := by rintro rfl; simp [vAssigned] at ha
  have h7 : op ≠ 0x7F := by rintro rfl; simp [vAssigned] at ha
  have hv : decodeV op { sync := c.sync, idle := c.idle } o (vext c e imm) = decodeVOp op c o (vext c e imm) := by
    unfold decodeV
    split
    · contradiction
    · contradiction
    · rw [if_pos ha]
      refine coded_some (vext_ty he hi) (coded_some (vext_mode hi) (coded_some (vext_tm hi) ?_))
      simp only [vctl, vext_p hi, ofNat_eq (f := c.p) rfl]
  exact (decode_v hp ho (vext_lt he hi)).trans hv
end

theorem readBack_idleV (h : Hdr) (n : Fin 262144) : ReadBack (.idleV h n) :=
  readBack_of (decode_v (by decide) n.isLt (by decide)) (fun _ _ => rfl) (bits_zero _ _) (by rw [ofNat_eq rfl])

theorem vext_none {c : VCtl} : bits (vext c 0 0) 23 18 + bits (vext c 0 0) 8 0 = 0 := by
  rw [vext_e (by decide) (by decide), vext_low (by decide) (by decide), bits_zero]

section
variable {c : VCtl} {op : Nat} (hp : op < 128) (hn : vAssigned op = true)
include hp hn

theorem readBack_v_rrr {f : Fin 64 → Fin 64 → Fin 64 → Instr} {d a b : Fin 64} (he : encode (f d a b) = vwords c op (rrr d.val a.val b.val) 0 0)
    (hd : ∀ o x, decodeVOp op c o x = accept (bits x 23 18 + bits x 8 0) (f (reg (bits o 17 12)) (reg (bits o 11 6)) (reg (bits o 5 0)))) : ReadBack (f d a b) := fun hw =>
  ⟨.v, by rw [he, decode_vwords (by decide) (by decide) hp hn (rrr_lt d a b), hd, rrr_d a.isLt b.isLt, rrr_a b.isLt, rrr_b]; exact accept_same vext_none rfl hw⟩
theorem readBack_v_rrr_pair {f : Fin 64 → Fin 64 → Fin 64 → Bool → Instr} {d a b : Fin 64} {pair : Bool}
    (he : encode (f d a b pair) = vwords c op (rrr d.val a.val b.val) 0 (boolCode pair))
    (hd : ∀ o x, decodeVOp op c o x = accept (bits x 23 18 + bits x 8 1) (f (reg (bits o 17 12)) (reg (bits o 11 6)) (reg (bits o 5 0)) (flag (bits x 0 0)))) :
    ReadBack (f d a b pair) := fun hw => by
  have hb := boolCode_lt pair
  have hi : boolCode pair < 512 := by omega
  have hf : flag (bits (vext c 0 (boolCode pair)) 0 0) = pair := by
    rw [vext_low (by decide) (by decide)]; exact flag_boolCode (by unfold bits; omega)
  refine ⟨.v, ?_⟩
  rw [he, decode_vwords (by decide) hi hp hn (rrr_lt d a b), hd, rrr_d a.isLt b.isLt, rrr_a b.isLt, rrr_b, hf]
  refine accept_same ?_ rfl hw
  rw [vext_e (by decide) hi, vext_low (by decide) (by decide)]; unfold bits; omega
theorem readBack_v_fma {f : Fin 64 → Fin 64 → Fin 64 → Fin 64 → Bool → Instr} {d a b e : Fin 64} {pair : Bool}
    (he : encode (f d a b e pair) = vwords c op (rrr d.val a.val b.val) e.val (boolCode pair))
    (hd : ∀ o x, decodeVOp op c o x = accept (bits x 8 1) (f (reg (bits o 17 12)) (reg (bits o 11 6)) (reg (bits o 5 0)) (reg (bits x 23 18)) (flag (bits x 0 0)))) :
    ReadBack (f d a b e pair) := fun hw => by
  have hb := boolCode_lt pair
  have hi : boolCode pair < 512 := by omega
  have hf : flag (bits (vext c e.val (boolCode pair)) 0 0) = pair := by
    rw [vext_low (by decide) (by decide)]; exact flag_boolCode (by unfold bits; omega)
  refine ⟨.v, ?_⟩
  rw [he, decode_vwords e.isLt hi hp hn (rrr_lt d a b), hd, rrr_d a.isLt b.isLt, rrr_a b.isLt, rrr_b, hf, reg_eq (vext_e e.isLt hi)]
  refine accept_same ?_ rfl hw
  rw [vext_low (by decide) (by decide)]; unfold bits; omega
theorem readBack_v_rr {f : Fin 64 → Fin 64 → Instr} {d a : Fin 64} (he : encode (f d a) = vwords c op (rrr d.val a.val 0) 0 0)
    (hd : ∀ o x, decodeVOp op c o x = accept (bits o 5 0 + bits x 23 18 + bits x 8 0) (f (reg (bits o 17 12)) (reg (bits o 11 6)))) : ReadBack (f d a) := fun hw =>
  ⟨.v, by rw [he, decode_vwords (by decide) (by decide) hp hn (rrr_lt' d.isLt a.isLt zero_lt_64), hd, rrr_d a.isLt zero_lt_64, rrr_a zero_lt_64]
          exact accept_same (by rw [rrr_no_b, Nat.add_assoc, vext_none]) rfl hw⟩
theorem readBack_v_a {f : Fin 64 → Instr} {a : Fin 64} (he : encode (f a) = vwords c op (rrr 0 a.val 0) 0 0)
    (hd : ∀ o x, decodeVOp op c o x = accept (bits o 17 12 + bits o 5 0 + bits x 23 18 + bits x 8 0) (f (reg (bits o 11 6)))) : ReadBack (f a) := fun hw =>
  ⟨.v, by rw [he, decode_vwords (by decide) (by decide) hp hn (rrr_lt' zero_lt_64 a.isLt zero_lt_64), hd, rrr_a zero_lt_64]
          exact accept_same (by rw [rrr_no_d a.isLt zero_lt_64, rrr_no_b, Nat.add_assoc, vext_none]) rfl hw⟩
theorem readBack_v_rr_signed {f : Fin 64 → Fin 64 → Int → Instr} {d a : Fin 64} {i : Int} (he : encode (f d a i) = vwords c op (rrr d.val a.val 0) 0 (unsigned 9 i))
    (hd : ∀ o x, decodeVOp op c o x = accept (bits o 5 0 + bits x 23 18) (f (reg (bits o 17 12)) (reg (bits o 11 6)) (signed 9 (bits x 8 0))))
    (hi : (f d a i).wf = true → inSigned 9 i = true) : ReadBack (f d a i) := fun hw => by
  have hu : unsigned 9 i < 512 := unsigned_lt 9 i
  have hs : signed 9 (bits (vext c 0 (unsigned 9 i)) 8 0) = i := by
    rw [vext_low (by decide) (by decide)]; exact signed_eq (by unfold bits; omega) (by decide) (hi hw)
  refine ⟨.v, ?_⟩
  rw [he, decode_vwords (by decide) hu hp hn (rrr_lt' d.isLt a.isLt zero_lt_64), hd, rrr_d a.isLt zero_lt_64, rrr_a zero_lt_64, hs]
  exact accept_same (by rw [rrr_no_b, vext_e (by decide) hu]) rfl hw
/-- A compare writes a predicate. -/
theorem readBack_v_compare {f : Fin 16 → Fin 64 → Fin 64 → Instr} {d : Fin 16} {a b : Fin 64} (he : encode (f d a b) = vwords c op (rrr d.val a.val b.val) 0 0)
    (hd : ∀ o x, decodeVOp op c o x = coded (predCode (bits o 17 12)) fun d => accept (bits x 23 18 + bits x 8 0) (f d (reg (bits o 11 6)) (reg (bits o 5 0)))) :
    ReadBack (f d a b) := fun hw => by
  have ho : rrr d.val a.val b.val < 2 ^ 18 := rrr_lt' (by omega) a.isLt b.isLt
  refine ⟨.v, ?_⟩
  rw [he, decode_vwords (by decide) (by decide) hp hn ho, hd, rrr_a b.isLt, rrr_b]
  exact coded_some (predCode_val (p := d) (by unfold bits rrr; omega)) (accept_same vext_none rfl hw)
theorem readBack_v_ppp {f : Fin 16 → Fin 16 → Fin 16 → Instr} {d a b : Fin 16} (he : encode (f d a b) = vwords c op (rrr d.val a.val b.val) 0 0)
    (hd : ∀ o x, decodeVOp op c o x = coded (predCode (bits o 17 12)) fun d => coded (predCode (bits o 11 6)) fun a => coded (predCode (bits o 5 0)) fun b =>
      accept (bits x 23 18 + bits x 8 0) (f d a b)) : ReadBack (f d a b) := fun hw => by
  refine ⟨.v, ?_⟩
  rw [he, decode_vwords (by decide) (by decide) hp hn (rrr_lt' (by omega) (by omega) (by omega)), hd]
  exact coded_some (predCode_val (p := d) (by unfold bits rrr; omega)) (coded_some (predCode_val (p := a) (by unfold bits rrr; omega))
    (coded_some (predCode_val (p := b) (by unfold bits rrr; omega)) (accept_same vext_none rfl hw)))
theorem readBack_v_pp {f : Fin 16 → Fin 16 → Instr} {d a : Fin 16} (he : encode (f d a) = vwords c op (rrr d.val a.val 0) 0 0)
    (hd : ∀ o x, decodeVOp op c o x = coded (predCode (bits o 17 12)) fun d => coded (predCode (bits o 11 6)) fun a =>
      accept (bits o 5 0 + bits x 23 18 + bits x 8 0) (f d a)) : ReadBack (f d a) := fun hw => by
  refine ⟨.v, ?_⟩
  rw [he, decode_vwords (by decide) (by decide) hp hn (rrr_lt' (by omega) (by omega) (by omega)), hd]
  exact coded_some (predCode_val (p := d) (by unfold bits rrr; omega)) (coded_some (predCode_val (p := a) (by unfold bits rrr; omega))
    (accept_same (by rw [rrr_no_b, Nat.add_assoc, vext_none]) rfl hw))
theorem readBack_v_rrr_imm {f : Fin 64 → Fin 64 → Fin 64 → Fin 512 → Instr} {d a b : Fin 64} {i : Fin 512}
    (he : encode (f d a b i) = vwords c op (rrr d.val a.val b.val) 0 i.val)
    (hd : ∀ o x, decodeVOp op c o x = accept (bits x 23 18) (f (reg (bits o 17 12)) (reg (bits o 11 6)) (reg (bits o 5 0)) (Fin.ofNat 512 (bits x 8 0)))) :
    ReadBack (f d a b i) := fun hw => by
  have hi : Fin.ofNat 512 (bits (vext c 0 i.val) 8 0) = i := by rw [vext_low (by decide) (by decide)]; exact ofNat_eq (by unfold bits; omega)
  refine ⟨.v, ?_⟩
  rw [he, decode_vwords (by decide) i.isLt hp hn (rrr_lt d a b), hd, rrr_d a.isLt b.isLt, rrr_a b.isLt, rrr_b, hi]
  exact accept_same (vext_e (by decide) i.isLt) rfl hw
theorem readBack_v_residue {f : Fin 64 → Fin 64 → Fin 64 → Fin 256 → Bool → Instr} {d a b : Fin 64} {g : Fin 256} {alt : Bool}
    (he : encode (f d a b g alt) = vwords c op (rrr d.val a.val b.val) 0 (boolCode alt * 2 ^ 8 + g.val))
    (hd : ∀ o x, decodeVOp op c o x = accept (bits x 23 18) (f (reg (bits o 17 12)) (reg (bits o 11 6)) (reg (bits o 5 0)) (Fin.ofNat 256 (bits x 7 0)) (flag (bits x 8 8)))) :
    ReadBack (f d a b g alt) := fun hw => by
  have ha := boolCode_lt alt
  have hi : boolCode alt * 2 ^ 8 + g.val < 512 := by omega
  have hg : Fin.ofNat 256 (bits (vext c 0 (boolCode alt * 2 ^ 8 + g.val)) 7 0) = g := by rw [vext_low (by decide) (by decide)]; exact ofNat_eq (by unfold bits; omega)
  have hf : flag (bits (vext c 0 (boolCode alt * 2 ^ 8 + g.val)) 8 8) = alt := by rw [vext_low (by decide) (by decide)]; exact flag_boolCode (by unfold bits; omega)
  refine ⟨.v, ?_⟩
  rw [he, decode_vwords (by decide) hi hp hn (rrr_lt d a b), hd, rrr_d a.isLt b.isLt, rrr_a b.isLt, rrr_b, hg, hf]
  exact accept_same (vext_e (by decide) hi) rfl hw
end

theorem readBack_vli (c : VCtl) (d : Fin 64) (i : Int) : ReadBack (.vli c d i) := fun hw => by
  have hu : unsigned 9 i < 512 := unsigned_lt 9 i
  have hi : inSigned 9 i = true := (Bool.and_eq_true _ _ ▸ hw).2
  refine readBack_of (decode_vwords (by decide) hu (by decide) rfl (rrr_lt' d.isLt zero_lt_64 zero_lt_64)) (fun _ _ => rfl) ?_ ?_ hw
  · rw [rrr_no_a zero_lt_64, rrr_no_b, vext_e (by decide) hu]
  · rw [rrr_d zero_lt_64 zero_lt_64, vext_low (by decide) (by decide)]; congr 1; exact signed_eq (by unfold bits; omega) (by decide) hi
theorem readBack_vcls (c : VCtl) (d : Fin 16) (a : Fin 64) (i : Fin 512) : ReadBack (.vcls c d a i) := by
  refine readBack_coded d (decode_vwords (by decide) i.isLt (by decide) rfl (rrr_lt' (by omega) a.isLt zero_lt_64)) (fun _ _ => rfl)
    (predCode_val (by unfold bits rrr; omega)) ?_ ?_
  · rw [rrr_no_b, vext_e (by decide) i.isLt]
  · rw [rrr_a zero_lt_64, vext_low (by decide) (by decide)]; congr 1; exact ofNat_eq (by unfold bits; omega)
theorem readBack_vsel (c : VCtl) (d a b : Fin 64) (e : Fin 16) : ReadBack (.vsel c d a b e) := by
  have he : e.val < 64 := by omega
  refine readBack_coded e (decode_vwords he (by decide) (by decide) rfl (rrr_lt d a b)) (fun _ _ => rfl)
    (predCode_val (vext_e he (by decide))) ?_ ?_
  · rw [vext_low (by decide) (by decide), bits_zero]
  · rw [rrr_d a.isLt b.isLt, rrr_a b.isLt, rrr_b]
theorem readBack_pset (c : VCtl) (d : Fin 16) (i : Fin 512) : ReadBack (.pset c d i) := by
  refine readBack_coded d (decode_vwords (by decide) i.isLt (by decide) rfl (rrr_lt' (by omega) zero_lt_64 zero_lt_64)) (fun _ _ => rfl)
    (predCode_val (by unfold bits rrr; omega)) ?_ ?_
  · rw [rrr_no_a zero_lt_64, rrr_no_b, vext_e (by decide) i.isLt]
  · rw [vext_low (by decide) (by decide)]; congr 1; exact ofNat_eq (by unfold bits; omega)
theorem readBack_vbcst (c : VCtl) (d a : Fin 64) (i : Fin 512) : ReadBack (.vbcst c d a i) := by
  refine readBack_of (decode_vwords (by decide) i.isLt (by decide) rfl (rrr_lt' d.isLt a.isLt zero_lt_64)) (fun _ _ => rfl) ?_ ?_
  · rw [rrr_no_b, vext_e (by decide) i.isLt]
  · rw [rrr_d a.isLt zero_lt_64, rrr_a zero_lt_64, vext_low (by decide) (by decide)]; congr 1; exact ofNat_eq (by unfold bits; omega)
theorem readBack_vcvt (c : VCtl) (d a : Fin 64) (t : VTy) (j : Fin 8) : ReadBack (.vcvt c d a t j) := by
  have ht := code_lt_vTy t
  have hi : j.val * 2 ^ 4 + t.code < 512 := by omega
  refine readBack_coded t (decode_vwords (by decide) hi (by decide) rfl (rrr_lt' d.isLt a.isLt zero_lt_64)) (fun _ _ => rfl) (vTy_ofCode ?_) ?_ ?_
  · rw [vext_low (by decide) (by decide)]; unfold bits; omega
  · rw [rrr_no_b, vext_e (by decide) hi, vext_low (by decide) (by decide)]; unfold bits; omega
  · rw [rrr_d a.isLt zero_lt_64, rrr_a zero_lt_64, vext_low (by decide) (by decide)]; congr 1; exact ofNat_eq (by unfold bits; omega)
theorem readBack_vqnt (c : VCtl) (d a : Fin 64) (t : VTy) (q : Fin 4) (j : Fin 8) : ReadBack (.vqnt c d a t q j) := by
  have ht := code_lt_vTy t
  have hi : j.val * 2 ^ 6 + q.val * 2 ^ 4 + t.code < 512 := by omega
  refine readBack_coded t (decode_vwords (by decide) hi (by decide) rfl (rrr_lt' d.isLt a.isLt zero_lt_64)) (fun _ _ => rfl) (vTy_ofCode ?_) ?_ ?_
  · rw [vext_low (by decide) (by decide)]; unfold bits; omega
  · rw [rrr_no_b, vext_e (by decide) hi]
  · rw [rrr_d a.isLt zero_lt_64, rrr_a zero_lt_64, vext_low (by decide) (by decide), vext_low (by decide) (by decide)]; congr 1
    · exact ofNat_eq (by unfold bits; omega)
    · exact ofNat_eq (by unfold bits; omega)
theorem readBack_vrndn (c : VCtl) : ReadBack (.vrndn c) := by
  refine readBack_of (decode_vwords (by decide) (by decide) (by decide) rfl (by decide)) (fun _ _ => rfl) ?_ rfl
  rw [bits_zero, bits_zero, bits_zero, Nat.add_assoc, vext_none]
theorem readBack_vxf (c : VCtl) (d : Fin 64) (x : Latch) : ReadBack (.vxf c d x) := by
  have hx := code_lt_latch x
  have h64 : x.code < 64 := by omega
  refine readBack_coded x (decode_vwords (by decide) (by decide) (by decide) rfl (rrr_lt' d.isLt zero_lt_64 h64)) (fun _ _ => rfl)
    (latch_ofCode (by unfold bits rrr; omega)) ?_ ?_
  · rw [Nat.add_assoc, vext_none, rrr_no_a h64]; unfold bits rrr; omega
  · rw [rrr_d zero_lt_64 h64]
theorem readBack_vmovt (c : VCtl) (d r : Fin 64) (t : Fin 4) : ReadBack (.vmovt c d r t) := by
  have ht : t.val < 64 := by omega
  refine readBack_of (decode_vwords (by decide) (by decide) (by decide) rfl (rrr_lt' d.isLt r.isLt ht)) (fun _ _ => rfl) ?_ ?_
  · rw [Nat.add_assoc, vext_none]; unfold bits rrr; omega
  · rw [rrr_d r.isLt ht, rrr_a ht]; congr 1; exact ofNat_eq (by unfold bits rrr; omega)

/-! ## S (R155 to R157, R166) -/

theorem readBack_idleS (h : Hdr) (n : Fin 262144) : ReadBack (.idleS h n) :=
  readBack_of (decode_s (by decide) n.isLt (by decide)) (fun _ _ => rfl) (bits_zero _ _) (by rw [ofNat_eq rfl])
/-- A store of lanes. -/
theorem readBack_store {h : Hdr} {op : Nat} (hp : op < 128) {f : SMem → Instr} {m : SMem} (he : encode (f m) = smemWords h op m)
    (hd : ∀ o x, decodeS op h o x = storeForm o x f) (hi : (f m).wf = true → inSigned 9 m.disp = true) : ReadBack (f m) := fun hw => by
  have hs := hi hw
  have hpi := boolCode_lt m.pi
  have ht := code_lt_vTy m.ty
  have hm := code_lt_mode m.mode
  have hu := unsigned_lt 9 m.disp
  refine ⟨.s, ?_⟩
  rw [he, smemWords, decode_s hp (by omega) (by omega), hd]
  refine coded_some (vTy_ofCode (x := m.ty) (by unfold bits; omega)) (coded_some (mode_ofCode (x := m.mode) (by unfold bits; omega)) (accept_same rfl (congrArg f ?_) hw))
  obtain ⟨v, ax, pi, y, ty, mode, s, p, disp⟩ := m
  simp only [smem] at *
  congr 1
  · exact reg_eq (by unfold bits; omega)
  · exact ofNat_eq (by unfold bits; omega)
  · exact flag_boolCode (by unfold bits; omega)
  · exact ofNat_eq (by unfold bits; omega)
  · exact ofNat_eq (by unfold bits; omega)
  · exact ofNat_eq (by unfold bits; omega)
  · exact signed_eq (by unfold bits; omega) (by decide) hs
theorem umem_words {m : UMem} {b : Fin 64} (hd : inSigned 13 m.disp = true) : umem m.mode (m.v.val * 2 ^ 12 + m.ax.val * 2 ^ 9 + boolCode m.pi * 2 ^ 8 + m.y.val)
    (m.a.val * 2 ^ 22 + b.val * 2 ^ 16 + m.mode.code * 2 ^ 13 + unsigned 13 m.disp) = m := by
  have hpi := boolCode_lt m.pi
  have hm := code_lt_mode m.mode
  have hu := unsigned_lt 13 m.disp
  obtain ⟨v, ax, pi, y, a, mode, disp⟩ := m
  simp only [umem] at *
  congr 1
  · exact reg_eq (by unfold bits; omega)
  · exact ofNat_eq (by unfold bits; omega)
  · exact flag_boolCode (by unfold bits; omega)
  · exact ofNat_eq (by unfold bits; omega)
  · exact reg_eq (by unfold bits; omega)
  · exact signed_eq (by unfold bits; omega) (by decide) hd
theorem readBack_supdSgd (h : Hdr) (m : UMem) : ReadBack (.supdSgd h m) := fun hw => by
  have hpi := boolCode_lt m.pi
  have hm := code_lt_mode m.mode
  have hu := unsigned_lt 13 m.disp
  exact readBack_coded m.mode (decode_s (by decide) (by omega) (by omega)) (fun _ _ => rfl) (mode_ofCode (by unfold bits; omega))
    (by unfold bits; omega) (congrArg (Instr.supdSgd h) (umem_words (b := 0) hw)) hw
theorem readBack_supdMom (h : Hdr) (m : UMem) (b : Fin 64) : ReadBack (.supdMom h m b) := fun hw => by
  have hpi := boolCode_lt m.pi
  have hm := code_lt_mode m.mode
  have hu := unsigned_lt 13 m.disp
  refine readBack_coded m.mode (decode_s (by decide) (by omega) (by omega)) (fun _ _ => rfl) (mode_ofCode (by unfold bits; omega)) rfl ?_ hw
  rw [umem_words hw]; congr 1; exact reg_eq (by unfold bits; omega)
theorem readBack_vwr (h : Hdr) (v : Fin 64) (bank : Fin 16) (col : Fin 32) (q : Fin 4) (buf : Bool) (ax : Fin 8) : ReadBack (.vwr h v bank col q buf ax) := by
  have hb := boolCode_lt buf
  refine readBack_of (decode_s (by decide) (by omega) (by omega)) (fun _ _ => rfl) (by unfold bits; omega) ?_
  congr 1
  · exact reg_eq (by unfold bits; omega)
  · exact ofNat_eq (by unfold bits; omega)
  · exact ofNat_eq (by unfold bits; omega)
  · exact ofNat_eq (by unfold bits; omega)
  · exact flag_boolCode (by unfold bits; omega)
  · exact ofNat_eq (by unfold bits; omega)
theorem readBack_sth (h : Hdr) (ax : Fin 8) (pi : Bool) (y fmt s : Fin 256) : ReadBack (.sth h ax pi y fmt s) := by
  have hb := boolCode_lt pi
  refine readBack_of (decode_s (by decide) (by omega) (by omega)) (fun _ _ => rfl) (by unfold bits; omega) ?_
  congr 1
  · exact ofNat_eq (by unfold bits; omega)
  · exact flag_boolCode (by unfold bits; omega)
  · exact ofNat_eq (by unfold bits; omega)
  · exact ofNat_eq (by unfold bits; omega)
  · exact ofNat_eq (by unfold bits; omega)
theorem readBack_push (h : Hdr) (v : Fin 64) (f : Fifo) : ReadBack (.push h v f) := by
  have hf := code_lt_fifo f
  refine readBack_coded f (decode_s (by decide) (by omega) (by decide)) (fun _ _ => rfl) (fifo_ofCode (by unfold bits; omega)) ?_ ?_
  · rw [bits_zero]; unfold bits; omega
  · congr 1; exact reg_eq (by unfold bits; omega)
theorem readBack_coll (h : Hdr) (p : CollOp) (a : Fin 64) (y : Fin 256) (b : Fin 64) : ReadBack (.coll h p a y b) := by
  have hp := code_lt_collOp p
  refine readBack_coded p (decode_s (by decide) (by omega) (by omega)) (fun _ _ => rfl) (collOp_ofCode (by unfold bits; omega)) (by unfold bits; omega) ?_
  congr 1
  · exact reg_eq (by unfold bits; omega)
  · exact ofNat_eq (by unfold bits; omega)
  · exact reg_eq (by unfold bits; omega)

section
variable {h : Hdr} {op old p : Nat} (hp : op < 128) (t : At) (ho : old < 2) (hq : p < 16)
include hp ho hq
/-- Format AT gives its operands back to the form that reads them. -/
theorem decode_atWords {f : Nat → Nat → At → Decoded} (hd : ∀ o x, decodeS op h o x = atForm o x (f o x)) :
    ∃ o x, decode .s (atWords h op old p t) = f o x t ∧ bits x 25 25 = old ∧ bits x 24 21 = p ∧ bits x 18 0 = 0 := by
  have hs := code_lt_scope t.scope
  have hr := code_lt_ord t.ord
  have hz := code_lt_size t.size
  refine ⟨_, _, (decode_s hp ?_ ?_).trans ((hd _ _).trans (coded_some (scope_ofCode (x := t.scope) ?_) (coded_some (ord_ofCode (x := t.ord) ?_)
    (coded_some (size_ofCode (x := t.size) ?_) (congrArg (f _ _) ?_))))), ?_, ?_, ?_⟩
  · omega
  · omega
  · unfold bits; omega
  · unfold bits; omega
  · unfold bits; omega
  · obtain ⟨a, b, ax, scope, ord, size⟩ := t
    simp only at *
    congr 1
    · exact reg_eq (by unfold bits; omega)
    · exact reg_eq (by unfold bits; omega)
    · exact ofNat_eq (by unfold bits; omega)
  · unfold bits; omega
  · unfold bits; omega
  · unfold bits; omega
end
theorem readBack_sig (h : Hdr) (t : At) (p : SigOp) : ReadBack (.sig h t p) := fun hw => by
  have hp := code_lt_sigOp p
  obtain ⟨o, x, e, h1, h2, h3⟩ := decode_atWords (h := h) (op := 0x09) (old := 0) (p := p.code)
    (f := fun _ x t => coded (SigOp.ofCode (bits x 24 21)) fun p => accept (bits x 25 25 + bits x 18 0) (.sig h t p)) (by decide) t (by decide) (by omega) (fun _ _ => rfl)
  exact ⟨.s, e.trans (coded_some (sigOp_ofCode h2) (accept_same (by omega) rfl hw))⟩
theorem readBack_amo (h : Hdr) (t : At) (p : AmoOp) (old : Bool) : ReadBack (.amo h t p old) := fun hw => by
  obtain ⟨o, x, e, h1, h2, h3⟩ := decode_atWords (h := h) (op := 0x0A) (old := boolCode old) (p := p.code)
    (f := fun _ x t => coded (AmoOp.ofCode (bits x 24 21)) fun p => accept (bits x 18 0) (.amo h t p (flag (bits x 25 25)))) (by decide) t (boolCode_lt old) (code_lt_amoOp p) (fun _ _ => rfl)
  exact ⟨.s, e.trans (coded_some (amoOp_ofCode h2) (accept_same h3 (by rw [flag_boolCode h1]) hw))⟩
theorem readBack_cas (h : Hdr) (t : At) (old : Bool) : ReadBack (.cas h t old) := fun hw => by
  obtain ⟨o, x, e, h1, h2, h3⟩ := decode_atWords (h := h) (op := 0x0B) (old := boolCode old) (p := 0)
    (f := fun _ x t => accept (bits x 24 21 + bits x 18 0) (.cas h t (flag (bits x 25 25)))) (by decide) t (boolCode_lt old) (by decide) (fun _ _ => rfl)
  exact ⟨.s, e.trans (accept_same (by omega) (by rw [flag_boolCode h1]) hw)⟩

section
variable {h : Hdr} {ax : Fin 8} {sc : Scope}
/-- Format AT of the barrier forms, whose size is B64. -/
theorem bar_scope (a : Fin 64) : Scope.ofCode (bits (a.val * 2 ^ 12 + ax.val * 2 ^ 3 + sc.code) 2 0) = some sc := by
  have hs := code_lt_scope sc; exact scope_ofCode (by unfold bits; omega)
theorem bar_first_lt (a : Fin 64) : a.val * 2 ^ 12 + ax.val * 2 ^ 3 + sc.code < 2 ^ 18 := by
  have hs := code_lt_scope sc; omega
theorem bar_a (a : Fin 64) : bits (a.val * 2 ^ 12 + ax.val * 2 ^ 3 + sc.code) 17 12 = a.val := by
  have hs := code_lt_scope sc; unfold bits; omega
theorem bar_b (a : Fin 64) : bits (a.val * 2 ^ 12 + ax.val * 2 ^ 3 + sc.code) 11 6 = 0 := by
  have hs := code_lt_scope sc; unfold bits; omega
theorem bar_ax (a : Fin 64) : Fin.ofNat 8 (bits (a.val * 2 ^ 12 + ax.val * 2 ^ 3 + sc.code) 5 3) = ax := by
  have hs := code_lt_scope sc; exact ofNat_eq (by unfold bits; omega)
theorem bar_ext : (bits (Size.b64.code * 2 ^ 19) 20 19 == Size.b64.code) = true ∧ bits (Size.b64.code * 2 ^ 19) 27 21 = 0 ∧ bits (Size.b64.code * 2 ^ 19) 18 0 = 0 := by
  decide
end
theorem readBack_bardef (h : Hdr) (a : Fin 64) (ax : Fin 8) (sc : Scope) : ReadBack (.bardef h a ax sc) := fun hw => by
  obtain ⟨e1, e2, e3⟩ := bar_ext
  refine ⟨.s, (decode_s (by decide) (bar_first_lt a) (by decide)).trans (coded_some (bar_scope a) ((if_pos e1).trans (accept_same ?_ ?_ hw)))⟩
  · rw [bar_b, e2, e3]
  · rw [reg_eq (bar_a a), bar_ax]
theorem readBack_bararv (h : Hdr) (ax : Fin 8) (sc : Scope) : ReadBack (.bararv h ax sc) := fun hw => by
  obtain ⟨e1, e2, e3⟩ := bar_ext
  refine ⟨.s, (decode_s (by decide) (bar_first_lt 0) (by decide)).trans (coded_some (bar_scope 0) ((if_pos e1).trans (accept_same ?_ ?_ hw)))⟩
  · rw [bar_a, bar_b, e2, e3]; rfl
  · rw [bar_ax]
theorem readBack_barwt (h : Hdr) (ax : Fin 8) (sc : Scope) : ReadBack (.barwt h ax sc) := fun hw => by
  obtain ⟨e1, e2, e3⟩ := bar_ext
  refine ⟨.s, (decode_s (by decide) (bar_first_lt 0) (by decide)).trans (coded_some (bar_scope 0) ((if_pos e1).trans (accept_same ?_ ?_ hw)))⟩
  · rw [bar_a, bar_b, e2, e3]; rfl
  · rw [bar_ax]

/-! ## Every instruction -/

theorem wf_imm_range {i : Int} {n : Int} (hw : (decide (0 ≤ i) && decide (i ≤ n)) = true) (hn : n ≤ 63) : 0 ≤ i ∧ i ≤ 63 := by
  simp only [Bool.and_eq_true, decide_eq_true_eq] at hw; omega
theorem and_right_true {a b : Bool} (h : (a && b) = true) : b = true := (Bool.and_eq_true _ _ ▸ h).2

/-- Every instruction with words is read back by its stream; the forms of one format share a lemma. -/
theorem readBack (i : Instr) (hne : encode i ≠ []) : ReadBack i := by
  cases i with
  -- K
  | add h d a b | sub h d a b | mul h d a b | mulh h d a b | mulhn h d a b | and h d a b | or h d a b | xor h d a b | andn h d a b | shl h d a b | shr h d a b
  | sra h d a b | min h d a b | max h d a b | minn h d a b | maxn h d a b | csel h d a b | lea h d a b | wchk h d a b | cmpEq h d a b | cmpNe h d a b
  | cmpLt h d a b | cmpLe h d a b | cmpLtn h d a b | cmpLen h d a b | fcmpEq h d a b | fcmpNe h d a b | fcmpLt h d a b | fcmpLe h d a b | fcmpUn h d a b
  | fadd h d a b | fsub h d a b | fmul h d a b | ffma h d a b | fmin h d a b | fmax h d a b | kmix h d a b =>
    exact readBack_k_rrr (by decide) rfl rfl (fun _ => rfl)
  | clz h d a | ctz h d a | popc h d a | ftail h d a => exact readBack_k_rr (by decide) rfl rfl (fun _ => rfl)
  | div h a b | divn h a b | rem h a b | remn h a b | cpub h a b | iload h a b | waitg h a b => exact readBack_k_ab (by decide) rfl rfl (fun _ => rfl)
  | jmpi h a | realign h a | snap h a => exact readBack_k_a (by decide) rfl rfl (fun _ => rfl)
  | sext h d a i | andi h d a i | ori h d a i | xori h d a i | shli h d a i | shri h d a i | srai h d a i =>
    exact readBack_k_imm (by decide) rfl rfl (fun _ => rfl) (fun hw => wf_imm_range (n := 63) hw (by decide))
  | wtag h d a i => exact readBack_k_imm (by decide) rfl rfl (fun _ => rfl) (fun hw => wf_imm_range (n := 15) hw (by decide))
  | brEq h a off | brNe h a off | brLt h a off | brGe h a off | brLe h a off | brGt h a off => exact readBack_k_branch (by decide) rfl rfl (fun _ => rfl) id
  | jmp h off | call h off => exact readBack_k_jump (by decide) rfl rfl (fun _ => rfl) id
  | ret h | prep h | align h | halt h | eret h | lfence h | isync h => exact readBack_k_plain (by decide) rfl rfl rfl
  | srd h d sel | swr h d sel => exact readBack_k_sel (by decide) rfl rfl (fun _ => rfl)
  | trap h c | bkpt h c => exact readBack_k_code (by decide) rfl rfl (fun _ => rfl)
  | fcvt h d a f g => exact readBack_k_ff (by decide) rfl rfl (code_lt_fmt f) (code_lt_fmt g) fmt_ofCode fmt_ofCode (fun _ => rfl)
  | ffin h d a f g | stsF h d a f g => exact readBack_k_ff (by decide) rfl rfl (code_lt_fmt f) (code_lt_mode g) fmt_ofCode mode_ofCode (fun _ => rfl)
  | fcvti h d a f g => exact readBack_k_ff (by decide) rfl rfl (code_lt_mode f) (code_lt_iTy g) mode_ofCode iTy_ofCode (fun _ => rfl)
  | fcls h d a f | ldsF h d a f => exact readBack_k_f (by decide) rfl rfl (code_lt_fmt f) fmt_ofCode (fun _ => rfl)
  | icvtf h d a f | ldsI h d a f | stsI h d a f => exact readBack_k_f (by decide) rfl rfl (code_lt_iTy f) iTy_ofCode (fun _ => rfl)
  | idleK h n => exact readBack_idleK h n
  | addi h d a i => exact readBack_addi h d a i
  | li h d i => exact readBack_li h d i
  | lih h d n => exact readBack_lih h d n
  | loop h lc off => exact readBack_loop h lc off
  | lset h lc label a drain => exact readBack_lset h lc label a drain
  | xfer h d x => exact readBack_xfer h d x
  | phpre h n due => exact readBack_phpre h n due
  | phadv h n => exact readBack_phadv h n
  | phq h d n => exact readBack_phq h d n
  | fence h k x => exact readBack_fence h k x
  | launch h a b q pri deps => exact readBack_launch h a b q pri deps
  | cancel h l a => exact readBack_cancel h l a
  | rndn h d => exact readBack_rndn h d
  | undef h o => exact readBack_undef h o
  -- D
  | idleD h n => exact readBack_idleD h n
  | act h bank row => exact readBack_act h bank row
  | actRegister h bank a => exact readBack_actRegister h bank a
  | pre h bank | refb h bank => exact readBack_bank (by decide) rfl (fun _ => rfl)
  | prea h => exact readBack_prea h
  | win h k bank beats delay => exact readBack_win h k bank beats delay
  | wcls h k bank all => exact readBack_wcls h k bank all
  -- L
  | idleL h n => exact readBack_idleL h n
  | vld h v m | vlds h v m | ldh h v m => exact readBack_lmem (by decide) rfl (fun _ _ => rfl) id
  | vldg h v m x => exact readBack_vldg h v m x
  | vrd h v bank col q => exact readBack_vrd h v bank col q
  | vrdBuf h bank col ax => exact readBack_vrdBuf h bank col ax
  | qld h n m => exact readBack_qld h n m
  | qcw h n a => exact readBack_qcw h n a
  | lrec h m => exact readBack_lrec h m
  | ltr h l m => exact readBack_ltr h l m
  | pop h v f => exact readBack_pop h v f
  | cpyL h c => exact readBack_l_cp (by decide) rfl (fun _ _ => rfl)
  | cpyx h c tg | cpymL h c tg | get h c tg => exact readBack_l_cp_tg (by decide) rfl (fun _ _ => rfl)
  -- M
  | idleM h n => exact readBack_idleM h n
  | mma h o al => exact readBack_mma h o al
  | mmag h o => exact readBack_mmag h o
  | midx h v => exact readBack_midx h v
  | mldt h l y => exact readBack_mldt h l y
  | mzero h t s r => exact readBack_mzero h t s r
  | mmov h dt st drow srow n => exact readBack_mmov h dt st drow srow n
  | mrst h t label => exact readBack_mrst h t label
  | mcls h t rc => exact readBack_mcls h t rc
  -- V
  | idleV h n => exact readBack_idleV h n
  | vadd c d a b pair | vsub c d a b pair | vmul c d a b pair | vmin c d a b pair | vmax c d a b pair =>
    exact readBack_v_rrr_pair (by decide) rfl rfl (fun _ _ => rfl)
  | vfma c d a b e pair | vfms c d a b e pair | vfnma c d a b e pair | vfnms c d a b e pair => exact readBack_v_fma (by decide) rfl rfl (fun _ _ => rfl)
  | vmulh c d a b | vadds c d a b | vsubs c d a b | vand c d a b | vor c d a b | vxor c d a b | vandn c d a b | vshl c d a b | vshr c d a b | vsra c d a b
  | vperm c d a b | vkmix c d a b => exact readBack_v_rrr (by decide) rfl rfl (fun _ _ => rfl)
  | vabs c d a | vneg c d a | vmov c d a | vnot c d a | vfin c d a | vtail c d a | vtclr c d a => exact readBack_v_rr (by decide) rfl rfl (fun _ _ => rfl)
  | vrsum c a | vrmax c a | vrmin c a | vrmaxa c a | vmaxa c a | vexp c a | vlog c a | vrcp c a | vrsq c a | vsqrt c a | vtanh c a | vsigm c a | verf c a =>
    exact readBack_v_a (by decide) rfl rfl (fun _ _ => rfl)
  | vaddi c d a i | vscl c d a i => exact readBack_v_rr_signed (by decide) rfl rfl (fun _ _ => rfl) and_right_true
  | vcmpEq c d a b | vcmpNe c d a b | vcmpLt c d a b | vcmpLe c d a b | vcmpUn c d a b => exact readBack_v_compare (by decide) rfl rfl (fun _ _ => rfl)
  | pand c d a b | por c d a b | pxor c d a b | pandn c d a b => exact readBack_v_ppp (by decide) rfl rfl (fun _ _ => rfl)
  | pnot c d a | pmov c d a => exact readBack_v_pp (by decide) rfl rfl (fun _ _ => rfl)
  | vshuf c d a b i | vsld c d a b i => exact readBack_v_rrr_imm (by decide) rfl rfl (fun _ _ => rfl)
  | vradd c d a b g alt | vrsub c d a b g alt => exact readBack_v_residue (by decide) rfl rfl (fun _ _ => rfl)
  | vli c d i => exact readBack_vli c d i
  | vcls c d a i => exact readBack_vcls c d a i
  | vsel c d a b e => exact readBack_vsel c d a b e
  | pset c d i => exact readBack_pset c d i
  | vbcst c d a i => exact readBack_vbcst c d a i
  | vcvt c d a t j => exact readBack_vcvt c d a t j
  | vqnt c d a t q j => exact readBack_vqnt c d a t q j
  | vrndn c => exact readBack_vrndn c
  | vxf c d x => exact readBack_vxf c d x
  | vmovt c d r t => exact readBack_vmovt c d r t
  -- S
  | idleS h n => exact readBack_idleS h n
  | vst h m | vsts h m | vstc h m => exact readBack_store (by decide) rfl (fun _ _ => rfl) and_right_true
  | supdSgd h m => exact readBack_supdSgd h m
  | supdMom h m b => exact readBack_supdMom h m b
  | vwr h v bank col q buf ax => exact readBack_vwr h v bank col q buf ax
  | sth h ax pi y fmt s => exact readBack_sth h ax pi y fmt s
  | push h v f => exact readBack_push h v f
  | coll h p a y b => exact readBack_coll h p a y b
  | sig h t p => exact readBack_sig h t p
  | amo h t p old => exact readBack_amo h t p old
  | cas h t old => exact readBack_cas h t old
  | bardef h a ax sc => exact readBack_bardef h a ax sc
  | bararv h ax sc => exact readBack_bararv h ax sc
  | barwt h ax sc => exact readBack_barwt h ax sc
  | cpyS h c => exact readBack_s_cp (by decide) rfl (fun _ _ => rfl)
  | put h c tg | cpymS h c tg => exact readBack_s_cp_tg (by decide) rfl (fun _ _ => rfl)
  -- Events
  | _ => exact absurd rfl hne

/-- Settles O42, constructor by constructor, through the operand formats. -/
theorem decodeEncode : Obligations.DecodeEncode := fun i hw hne => readBack i hne hw

/-! ## What a decoder answers is well formed (R142) -/

/-- A refusal, or a well-formed instruction. -/
def Decoded.Wf : Decoded → Prop
  | .ok i => i.wf = true
  | _ => True
theorem wf_accept (r : Nat) (i : Instr) : (accept r i).Wf := by
  unfold accept
  split
  · next h => exact and_right_true h
  · trivial
theorem wf_coded {α : Type} {x : Option α} {f : α → Decoded} (h : ∀ a, (f a).Wf) : (coded x f).Wf := by
  cases x with
  | none => trivial
  | some a => exact h a
theorem wf_ite {c : Prop} [Decidable c] {d e : Decoded} (hd : d.Wf) (he : e.Wf) : (if c then d else e).Wf := by split <;> assumption
theorem wf_illegalInstruction : Decoded.Wf .illegalInstruction := trivial
theorem wf_illegalEncoding : Decoded.Wf .illegalEncoding := trivial
theorem decodeK_wf (op : Nat) (h : Hdr) (o x : Nat) : (decodeK op h o x).Wf := by
  unfold decodeK
  split
  all_goals solve_by_elim [wf_accept, wf_coded, wf_illegalInstruction]
theorem decodeD_wf (op : Nat) (h : Hdr) (o : Nat) : (decodeD op h o).Wf := by
  unfold decodeD
  split
  all_goals solve_by_elim [wf_accept, wf_coded, wf_ite, wf_illegalInstruction]
theorem decodeL_wf (op : Nat) (h : Hdr) (o x : Nat) : (decodeL op h o x).Wf := by
  unfold decodeL
  split
  all_goals solve_by_elim [wf_accept, wf_coded, wf_ite, wf_illegalInstruction]
theorem decodeM_wf (op : Nat) (h : MHdr) (i o x z : Nat) : (decodeM op h i o x z).Wf := by
  unfold decodeM
  split
  all_goals solve_by_elim [wf_accept, wf_coded, wf_illegalInstruction]
theorem wf_coded_three {α β γ : Type} {x : Option α} {y : α → Option β} {z : α → β → Option γ} {f : α → β → γ → Decoded} (h : ∀ a b c, (f a b c).Wf) :
    (coded x fun a => coded (y a) fun b => coded (z a b) (f a b)).Wf := wf_coded fun a => wf_coded fun b => wf_coded (h a b)
theorem decodeVOp_wf (op : Nat) (c : VCtl) (o x : Nat) : (decodeVOp op c o x).Wf := by
  unfold decodeVOp
  split
  all_goals solve_by_elim [wf_accept, wf_coded, wf_coded_three, wf_illegalInstruction]
theorem decodeV_wf (op : Nat) (h : Hdr) (o x : Nat) : (decodeV op h o x).Wf := by
  unfold decodeV
  split
  · exact wf_accept _ _
  · exact wf_accept _ _
  · exact wf_ite (wf_coded_three fun _ _ _ => decodeVOp_wf _ _ _ _) trivial
theorem storeForm_wf (o x : Nat) (f : SMem → Instr) : (storeForm o x f).Wf := wf_coded fun _ => wf_coded fun _ => wf_accept _ _
theorem atForm_wf {o x : Nat} {f : At → Decoded} (h : ∀ t, (f t).Wf) : (atForm o x f).Wf := wf_coded fun _ => wf_coded fun _ => wf_coded fun _ => h _
theorem decodeS_wf (op : Nat) (h : Hdr) (o x : Nat) : (decodeS op h o x).Wf := by
  unfold decodeS
  split
  all_goals solve_by_elim [wf_accept, wf_coded, wf_ite, storeForm_wf, atForm_wf, wf_illegalInstruction, wf_illegalEncoding]
theorem decode_wf (x : Stream) (ws : List Nat) : (decode x ws).Wf := by
  cases x
  · exact decodeK_wf _ _ _ _
  · exact decodeD_wf _ _ _
  · exact decodeL_wf _ _ _ _
  · exact decodeM_wf _ _ _ _ _ _
  · exact decodeV_wf _ _ _ _
  · exact decodeS_wf _ _ _ _
/-- Settles O43: every arm of the decoders ends in the one acceptance that checks `Instr.wf`, or in a refusal. -/
theorem decodedIsWellFormed : Obligations.DecodedIsWellFormed := by
  intro x ws i h
  have hw := decode_wf x ws
  rw [h] at hw
  exact hw

/-- Settles O41: the words of the listings, evaluated. -/
theorem encodedWords : Obligations.EncodedWords := by
  unfold Obligations.EncodedWords; decide
end Sys2Proof

/-! PROOF. Scalar results of K: integer forms, immediates, divisions, float forms (spec/09_control_stream_rules.md R187 to R198). -/
namespace Sys2Proof.Machine

/-! ## What an issue leaves of its unit -/

/-- The unit's own function of an attempt may be replaced by one that does the same to the unit that it is given. -/
theorem issued_unit_eq {s : State} {x : Stream} {sync : Fin 16} {len : Nat} {a : Attempt} {g : UnitSt → UnitSt}
    (h : a.unit ((s.my.codeOrder x sync).later a.eff) = g ((s.my.codeOrder x sync).later a.eff)) :
    s.issued x sync len a = s.issued x sync len { a with unit := g } := by
  have e : s.my.complete x sync len s.t a = s.my.complete x sync len s.t { a with unit := g } := by
    simp only [UnitSt.complete, h]; rfl
  have e' : (s.unit s.me).complete x sync len s.t a = (s.unit s.me).complete x sync len s.t { a with unit := g } := e
  simp only [State.issued, perform_onUnit, e']
theorem codeOrder_regs (u : UnitSt) (x : Stream) (sync : Fin 16) : (u.codeOrder x sync).regs = u.regs := rfl

/-! ## Integer forms (R187, R192, R193) -/

section
variable {s : State} {h : Hdr} {d a b : Fin 64}

/-- A form on two registers leaves pending the value that its function has at their data. -/
theorem intOp_result {f : Dword → Dword → Dword} {v : Dword} (hc : s.clear .k h.sync) (hr : s.ready [a, b] (some d) 1) (hv : f (s.my.sd a) (s.my.sd b) = v) :
    done (intOp h d a b f) s = .next (s.issued .k h.sync 1 { eff := [s.writes d { data := v, tail := 0 } 1] }) := hv ▸ intOp_completes hc hr
theorem intOp1_result {f : Dword → Dword} {v : Dword} (hc : s.clear .k h.sync) (hr : s.ready [a] (some d) 1) (hv : f (s.my.sd a) = v) :
    done (intOp1 h d a f) s = .next (s.issued .k h.sync 1 { eff := [s.writes d { data := v, tail := 0 } 1] }) := hv ▸ intOp1_completes hc hr
end

theorem slt_if {α : Type} (x y : Dword) (p q : α) : (if x.slt y then p else q) = if x.toInt < y.toInt then p else q := by simp [BitVec.slt]
theorem ult_if {α : Type} (x y : Dword) (p q : α) : (if x.ult y then p else q) = if x.toNat < y.toNat then p else q := by simp [BitVec.ult]

/-- Settles O1: each form is one function on the data of two registers. -/
theorem integerForms : Obligations.IntegerForms := by
  refine ⟨fun s h d a b hc hr => ?_, fun s h d a b hc => ⟨fun hr => ?_, fun hr => ?_⟩⟩
  · refine ⟨?_, ?_, ?_, ?_, ?_, ?_, ?_, ?_, ?_, ?_, ?_, ?_, ?_, ?_, ?_, ?_, ?_, ?_⟩
    case refine_13 => exact intOp_result hc hr (slt_if _ _ _ _)
    case refine_14 => exact intOp_result hc hr (slt_if _ _ _ _)
    case refine_15 => exact intOp_result hc hr (ult_if _ _ _ _)
    case refine_16 => exact intOp_result hc hr (ult_if _ _ _ _)
    all_goals exact intOp_result hc hr rfl
  · exact ⟨intOp_result hc hr rfl, intOp_result hc hr rfl, intOp_result hc hr rfl, intOp_result hc hr rfl, intOp_result hc hr rfl, intOp_result hc hr rfl⟩
  · have hv : (if s.my.sd d != 0 then s.my.s a else s.my.s b) = if s.my.sd d ≠ 0 then s.my.s a else s.my.s b := by
      simp only [bne_iff_ne]
    exact (scalar_completes hc hr).trans (by dsimp only; rw [hv]; rfl)

/-! ## Immediate forms and counts (R189 to R191, R193) -/

theorem leadingZeros_le (x : Dword) : leadingZeros x ≤ 64 := by unfold leadingZeros; split <;> omega
theorem trailingZeros_le (x : Dword) : trailingZeros x ≤ 64 := by
  unfold trailingZeros
  cases e : (List.range 64).find? (fun i => x.getLsbD i) with
  | none => exact Nat.le_refl 64
  | some i => exact Nat.le_of_lt (List.mem_range.mp (List.mem_of_find?_eq_some e))
theorem log2_lt_64 (x : Dword) (hx : x ≠ 0) : x.toNat.log2 < 64 := by
  have h0 : x.toNat ≠ 0 := fun e => hx (BitVec.eq_of_toNat_eq e)
  exact (Nat.log2_lt h0).mpr x.isLt
theorem leadingZeros_of_ne {x : Dword} (hx : x ≠ 0) : 63 - leadingZeros x = x.toNat.log2 := by
  have := log2_lt_64 x hx
  simp only [leadingZeros, beq_iff_eq, hx, if_false]; omega
theorem leadingZeros_bit {x : Dword} (hx : x ≠ 0) : x.getLsbD (63 - leadingZeros x) = true := by
  have h0 : x.toNat ≠ 0 := fun e => hx (BitVec.eq_of_toNat_eq e)
  rw [leadingZeros_of_ne hx, BitVec.getLsbD]
  exact Nat.testBit_log2 h0
theorem leadingZeros_above {x : Dword} {i : Nat} (hx : x ≠ 0) (hi : 63 - leadingZeros x < i) : x.getLsbD i = false := by
  rw [leadingZeros_of_ne hx] at hi
  exact Nat.testBit_lt_two_pow (Nat.lt_of_lt_of_le Nat.lt_log2_self (Nat.pow_le_pow_right (by decide) hi))
theorem trailingZeros_bit {x : Dword} (hx : x ≠ 0) : x.getLsbD (trailingZeros x) = true := by
  unfold trailingZeros
  cases e : (List.range 64).find? (fun i => x.getLsbD i) with
  | some i => simpa using List.find?_some e
  | none =>
    refine absurd (BitVec.eq_of_getLsbD_eq fun i hi => ?_) hx
    simpa using (List.find?_eq_none.mp e) i (List.mem_range.mpr hi)
theorem trailingZeros_below {x : Dword} {i : Nat} (hi : i < trailingZeros x) : x.getLsbD i = false := by
  have h64 : i < 64 := Nat.lt_of_lt_of_le hi (trailingZeros_le x)
  unfold trailingZeros at hi
  cases e : (List.range 64).find? (fun i => x.getLsbD i) with
  | some j =>
    rw [e] at hi
    simpa using (List.find?_range_eq_some.mp e).2.2 i hi
  | none => simpa using (List.find?_eq_none.mp e) i (List.mem_range.mpr h64)
theorem filter_length_eq_sum {α : Type} (p : α → Bool) (f : α → Nat) (hf : ∀ x, f x = if p x then 1 else 0) (l : List α) (n : Nat) :
    n + (l.filter p).length = (l.map f).foldl (· + ·) n := by
  induction l generalizing n with
  | nil => rfl
  | cons x l ih =>
    rw [List.map_cons, List.foldl_cons, ← ih, hf, List.filter_cons]
    split
    · simp; omega
    · simp
theorem onesCount_eq_sum (x : Dword) : onesCount x = ((List.range 64).map (fun i => x.toNat / 2 ^ i % 2)).foldl (· + ·) 0 := by
  have hb : ∀ i, x.toNat / 2 ^ i % 2 = if x.getLsbD i then 1 else 0 := fun i => by
    simp only [BitVec.getLsbD, Nat.testBit_eq_decide_div_mod_eq, decide_eq_true_eq]; split <;> omega
  have := filter_length_eq_sum (fun i => x.getLsbD i) (fun i => x.toNat / 2 ^ i % 2) hb (List.range 64) 0
  simpa [onesCount] using this

/-- Settles O2: the forms by their functions, and the counts by the bits that they count. -/
theorem immediateForms : Obligations.ImmediateForms := by
  refine ⟨fun s h d a k i w u hc => ⟨fun hr => ?_, fun hr => ?_, fun hr => ?_⟩, fun x => ?_⟩
  · refine ⟨?_, ?_, ?_, ?_, ?_, ?_, ?_, ?_, ?_, ?_, ?_, ?_⟩
    all_goals exact intOp1_result hc hr rfl
  · exact scalar_completes hc hr
  · exact scalar_completes hc hr
  · refine ⟨rfl, rfl, leadingZeros_le x, trailingZeros_le x, onesCount_eq_sum x, fun hx => ⟨leadingZeros_bit hx, trailingZeros_bit hx⟩, fun i hi _ hx => leadingZeros_above hx hi, fun i => trailingZeros_below⟩

/-! ## Float forms (R195 to R198) -/

/-- Settles O3. -/
theorem floatCompares : Obligations.FloatCompares := by
  intro s h d a b hc hr
  exact ⟨scalar_completes hc hr, scalar_completes hc hr, scalar_completes hc hr, scalar_completes hc hr, scalar_completes hc hr⟩

/-- Settles O4. -/
theorem floatForms : Obligations.FloatForms := by
  intro s h d a b f g mode t hc
  refine ⟨fun hr => ⟨?_, ?_, ?_⟩, fun hr => ?_, fun hr => ⟨?_, ?_⟩, fun hr => ⟨?_, ?_, ?_, ?_⟩, fun hr => ⟨?_, ?_⟩⟩
  all_goals exact scalar_completes hc hr

/-! ## Divisions (R188, R374) -/

theorem quotS_eq (x y : Dword) : quotS x y = if y = 0 then BitVec.allOnes 64 else BitVec.ofInt 64 (x.toInt.tdiv y.toInt) := by
  unfold quotS
  by_cases hy : y = 0
  · simp [hy]
  · have e : x.sdiv y = BitVec.ofInt 64 (x.toInt.tdiv y.toInt) := BitVec.eq_of_toInt_eq (by rw [BitVec.toInt_sdiv, BitVec.toInt_ofInt])
    simp [e]
theorem quotN_eq (x y : Dword) : quotN x y = if y = 0 then BitVec.allOnes 64 else BitVec.ofNat 64 (x.toNat / y.toNat) := by
  unfold quotN
  by_cases hy : y = 0
  · simp [hy]
  · simp [BitVec.udiv_def]
theorem remS_eq (x y : Dword) : remS x y = if y = 0 then x else BitVec.ofInt 64 (x.toInt.tmod y.toInt) := by
  unfold remS
  by_cases hy : y = 0
  · simp [hy]
  · have e : x.srem y = BitVec.ofInt 64 (x.toInt.tmod y.toInt) := by rw [← BitVec.toInt_srem, BitVec.ofInt_toInt]
    simp [e]
theorem remN_eq (x y : Dword) : remN x y = if y = 0 then x else BitVec.ofNat 64 (x.toNat % y.toNat) := by
  unfold remN
  by_cases hy : y = 0
  · simp [hy]
  · simp [BitVec.umod_def]

/-- A division form takes the youngest entry of XD with its result. -/
theorem divide_result {s : State} {h : Hdr} {a b : Fin 64} {f : Dword → Dword → Dword} {v : Dword} (hc : s.clear .k h.sync) (hi : s.my.frm.insv = false)
    (hr : s.ready [a, b] none 0) (hl : (s.my.latch .xd).length < 8) (hv : f (s.my.sd a) (s.my.sd b) = v) :
    done (divide h a b f) s = .next (s.issued .k h.sync 1
      { unit := fun u => u.setLatch .xd (u.latch .xd ++ [{ img := { data := v.zeroExtend 4096, tail := 0 }, valid := false, rem := 34 }]) }) := by
  have hf : s.my.latchFull .xd = false := decide_eq_false (Nat.not_le.mpr hl)
  rw [divide_completes hc hi hr hf]
  refine congrArg _ (issued_unit_eq ?_)
  have hd : ∀ r : Fin 64, ((s.my.codeOrder .k h.sync).later []).sd r = s.my.sd r := fun r => by
    simp only [UnitSt.sd, UnitSt.later, codeOrder_regs]
  simp only [hd, hv, UnitSt.pushLatch, scalarImg, SVal.ofData, latchLatency]
  simp

/-- Settles O5: the four forms by their functions, whose corners are those of R188. -/
theorem divisions : Obligations.Divisions := by
  intro s h a b hc
  refine ⟨fun hi hr hl => ⟨?_, ?_, ?_, ?_⟩, fun hi i hm => ?_⟩
  · exact divide_result hc hi hr hl (quotS_eq _ _)
  · exact divide_result hc hi hr hl (quotN_eq _ _)
  · exact divide_result hc hi hr hl (remS_eq _ _)
  · exact divide_result hc hi hr hl (remN_eq _ _)
  · have hp : ∀ f, done (divide h a b f) s = .next (perform (takeFault s.me .k (flt .priv)) s) := fun f => issueAs_priv rfl (sync_clear hc.1) hi
    simp only [List.mem_cons, List.not_mem_nil, or_false] at hm
    obtain rfl | rfl | rfl | rfl := hm <;> exact hp _
end Sys2Proof.Machine

/-! PROOF. Control flow of K, transports and noise (spec/09_control_stream_rules.md R204 to R214, R218). -/
namespace Sys2Proof.Machine

/-! ## Branches and jumps (R204, R205) -/

theorem branch_result {s : State} {h : Hdr} {a : Fin 64} {off : Int} {f : Dword → Bool} {b : Bool} (hc : s.clear .k h.sync) (hr : s.ready [a] none 0)
    (hb : f (s.my.sd a) = b) : done (branch h a off f) s =
      if b then .next (s.issued .k h.sync 1 { eff := [], pc := some ((s.my.strm .k).pc + BitVec.ofInt 64 (4 * off)) }) else .next (s.issued .k h.sync 1 {}) := by
  rw [branch_completes hc hr, hb]
  cases b <;> rfl

/-- Settles O7: the conditions as they read the signed data. -/
theorem branchesAndJumps : Obligations.BranchesAndJumps := by
  intro s h a off hc
  have zero : (0 : Dword).toInt = 0 := by decide
  refine ⟨fun hr => ⟨?_, ?_, ?_, ?_, ?_, ?_, ?_⟩, ?_, fun hr => ?_, fun hr => ?_⟩
  · exact branch_result hc hr (by rw [Bool.eq_iff_iff]; simp [← BitVec.toInt_inj])
  · exact branch_result hc hr (by rw [Bool.eq_iff_iff]; simp [← BitVec.toInt_inj])
  · exact branch_result hc hr (by rw [BitVec.slt, zero])
  · exact branch_result hc hr (by rw [BitVec.slt, zero, Bool.eq_iff_iff]; simp)
  · exact branch_result hc hr (by rw [BitVec.sle, zero])
  · exact branch_result hc hr (by rw [BitVec.sle, zero, Bool.eq_iff_iff]; simp)
  · exact issueAs_issues hc ⟨rfl, rfl, hr, rfl⟩ rfl
  · exact issueAs_issues hc ⟨rfl, rfl, rfl, rfl⟩ rfl
  · exact issueAs_issues hc ⟨rfl, rfl, hr, rfl⟩ rfl
  · exact issueAs_issues hc ⟨rfl, rfl, hr, rfl⟩ rfl

/-! ## Loops (R208, R209, R211) -/

theorem ofNat_pred_zeroExtend {n : BitVec 32} (h : n ≠ 0) : (n - 1).zeroExtend 64 = BitVec.ofNat 64 (n.toNat - 1) := by
  have h0 : n.toNat ≠ 0 := fun e => h (BitVec.eq_of_toNat_eq e)
  apply BitVec.eq_of_toNat_eq
  simp [BitVec.toNat_sub]
  omega
theorem clear_reg (w : Dword) : w &&& ~~~(1 <<< 63 : Dword) = w &&& 0x7FFFFFFFFFFFFFFF := by congr 1

/-- LOOP by whether it goes back and by what it leaves pending of its counter. -/
theorem execLoop_completes {s : State} {h : Hdr} {lc : Fin 4} {off : Int} {taken : Bool} {count : List Pend} (hc : s.clear .k h.sync)
    (ht : (s.my.regs.lc[lc] != 0 && s.my.regs.lc[lc] - 1 != 0) = taken)
    (hcount : (if s.my.regs.lc[lc] == 0 then [] else [s.lands .k (.spec (selLC lc) ((s.my.regs.lc[lc] - 1).zeroExtend 64)) 1]) = count) :
    let g := s.my.regs
    exec (.loop h lc off) s = .next (s.issued .k h.sync 1
      { eff := count ++ (if g.regd && g.lci == lc then
          [s.lands .k (.spec selVRB ((g.vrb - 1).zeroExtend 64)) 1, s.lands .k (.spec selPRB ((g.prb - 1).zeroExtend 64)) 1] ++
            (if !taken && !g.clamped then [s.lands .k (.spec selLREG (g.lreg &&& ~~~(1 <<< 63 : Dword))) 1] else []) else [])
        pc := if taken then some ((s.my.strm .k).target off) else none }) := by
  subst ht hcount; exact issueAs_issues hc ⟨rfl, rfl, rfl, rfl⟩ rfl

/-- Whether LOOP goes back. -/
theorem loop_taken (n : BitVec 32) : (n != 0 && n - 1 != 0) = decide (2 ≤ n.toNat) := by
  rw [Bool.eq_iff_iff]
  simp [← BitVec.toNat_inj, BitVec.toNat_sub]
  omega

/-! ## LREG of a loop that LSET registers (R209, R210) -/

/-- The fields of LREG below CLAMP. -/
def lregLow (lc : Fin 4) (drain : Fin 16384) (label : Fin 65536) : Nat := lc.val * 2 ^ 60 + drain.val * 2 ^ 46 + label.val
theorem lregLow_lt (lc : Fin 4) (drain : Fin 16384) (label : Fin 65536) : lregLow lc drain label < 2 ^ 62 := by
  unfold lregLow; omega
theorem lregWord_registered (lc : Fin 4) (drain : Fin 16384) (label : Fin 65536) :
    lregWord true false lc drain.val label.val = BitVec.ofNat 64 (2 ^ 63 + lc.val * 2 ^ 60 + drain.val * 2 ^ 46 + label.val) := by
  simp [lregWord, boolCode]
theorem lregWord_toNat (lc : Fin 4) (drain : Fin 16384) (label : Fin 65536) :
    (lregWord true false lc drain.val label.val).toNat = 2 ^ 63 + lregLow lc drain label := by
  have := lregLow_lt lc drain label
  rw [lregWord_registered, BitVec.toNat_ofNat]
  unfold lregLow at *; omega
theorem lregWord_bit63 (lc : Fin 4) (drain : Fin 16384) (label : Fin 65536) : (lregWord true false lc drain.val label.val).getLsbD 63 = true := by
  have := lregLow_lt lc drain label
  rw [BitVec.getLsbD, lregWord_toNat, Nat.testBit_eq_decide_div_mod_eq, decide_eq_true_eq]; omega
theorem lregWord_bit62 (lc : Fin 4) (drain : Fin 16384) (label : Fin 65536) : (lregWord true false lc drain.val label.val).getLsbD 62 = false := by
  have := lregLow_lt lc drain label
  rw [BitVec.getLsbD, lregWord_toNat, Nat.testBit_eq_decide_div_mod_eq, decide_eq_false_iff_not]; omega
theorem lregWord_lci (lc : Fin 4) (drain : Fin 16384) (label : Fin 65536) : Fin.ofNat 4 (bits (lregWord true false lc drain.val label.val).toNat 61 60) = lc := by
  rw [lregWord_toNat]
  apply Fin.ext
  simp only [lregLow, bits, Fin.ofNat]
  omega
theorem lregWord_clamped (lc : Fin 4) (drain : Fin 16384) (label : Fin 65536) : lregWord true false lc drain.val label.val ||| (1 <<< 62 : Dword) =
    BitVec.ofNat 64 (2 ^ 63 + 2 ^ 62 + lc.val * 2 ^ 60 + drain.val * 2 ^ 46 + label.val) := by
  have h := lregLow_lt lc drain label
  have one : (1 <<< 62 : Dword) = BitVec.twoPow 64 62 := by decide
  have apart : lregWord true false lc drain.val label.val &&& (1 <<< 62 : Dword) = 0#64 := by
    rw [one, BitVec.and_twoPow, lregWord_bit62, if_neg Bool.false_ne_true]
  rw [← BitVec.add_eq_or_of_and_eq_zero _ _ apart]
  apply BitVec.eq_of_toNat_eq
  rw [BitVec.toNat_add, lregWord_toNat, BitVec.toNat_ofNat]
  simp only [one, BitVec.toNat_twoPow, lregLow] at *
  omega

/-- The registers of a unit as a clamped LSET leaves them. -/
theorem clamp_registered {g : Regs} {lc : Fin 4} {drain : Fin 16384} {label : Fin 65536} (hg : g.lreg = lregWord true false lc drain.val label.val) :
    g.clamp = { g with
      lsav := g.lc[lc] - (if g.lc[lc] == 0 then 0 else 1), lc := g.lc.set lc (if g.lc[lc] == 0 then 0 else 1)
      lreg := BitVec.ofNat 64 (2 ^ 63 + 2 ^ 62 + lc.val * 2 ^ 60 + drain.val * 2 ^ 46 + label.val) } := by
  have hl : g.lci = lc := by rw [Regs.lci, hg, lregWord_lci]
  have ht : (g.regd && !g.clamped) = true := by rw [Regs.regd, Regs.clamped, hg, lregWord_bit63, lregWord_bit62]; rfl
  have hor : g.lreg ||| (1 <<< 62 : Dword) = BitVec.ofNat 64 (2 ^ 63 + 2 ^ 62 + lc.val * 2 ^ 60 + drain.val * 2 ^ 46 + label.val) := by
    rw [hg, lregWord_clamped]
  subst hl
  rw [Regs.clamp, if_pos ht, ← hor]

/-- The count of LSET, at most 2^32 − 1. -/
theorem lset_count (x : Dword) : (BitVec.ofNat 32 (min x.toNat 0xFFFFFFFF)).zeroExtend 64 = BitVec.ofNat 64 (min x.toNat 0xFFFFFFFF) := by
  apply BitVec.eq_of_toNat_eq
  simp only [BitVec.truncate_eq_setWidth, BitVec.toNat_setWidth, BitVec.toNat_ofNat]; omega
/-- The two counters of a clamped count. -/
theorem clamped_counts {c : Nat} (h : c ≤ 0xFFFFFFFF) : let n := BitVec.ofNat 32 c; let m : BitVec 32 := if n == 0 then 0 else 1
    (n - m).zeroExtend 64 = BitVec.ofNat 64 (c - 1) ∧ m.zeroExtend 64 = BitVec.ofNat 64 (min c 1) := by
  intro n m
  by_cases h0 : c = 0
  · subst h0; exact ⟨by decide, by decide⟩
  · have hn : n ≠ 0 := fun e => h0 (by have := congrArg BitVec.toNat e; simp [n] at this; omega)
    have hm : m = 1 := if_neg (by simpa using hn)
    refine ⟨?_, ?_⟩
    · rw [hm, ofNat_pred_zeroExtend hn]; simp [n]; congr 1; omega
    · rw [hm, Nat.min_eq_right (by omega)]; rfl

/-- The registers of a unit as LSET leaves them, before a clamp. -/
def Regs.registered (g : Regs) (lc : Fin 4) (label : Fin 65536) (drain : Fin 16384) (x : Dword) : Regs :=
  { g with lreg := lregWord true false lc drain.val label.val, lsav := 0, lc := g.lc.set lc (BitVec.ofNat 32 (min x.toNat 0xFFFFFFFF)) }
/-- What LSET leaves pending of the registers that it makes. -/
def State.lsetEffects (s : State) (lc : Fin 4) (g : Regs) : List Pend :=
  [s.lands .k (.spec selLREG g.lreg) 1, s.lands .k (.spec selLSAV (g.lsav.zeroExtend 64)) 1, s.lands .k (.spec (selLC lc) ((g.lc[lc]).zeroExtend 64)) 1]
theorem execLset_completes {s : State} {h : Hdr} {lc : Fin 4} {label : Fin 65536} {a : Fin 64} {drain : Fin 16384} (hc : s.clear .k h.sync)
    (hr : s.ready [a] none 0) :
    let g := s.my.regs.registered lc label drain (s.my.sd a)
    exec (.lset h lc label a drain) s = .next (s.issued .k h.sync 2 { eff := s.lsetEffects lc (if s.my.ctl.preempt.isSome then g.clamp else g) }) :=
  issueAs_issues hc ⟨rfl, rfl, hr, rfl⟩ rfl
theorem execPrep_completes {s : State} {h : Hdr} (hc : s.clear .k h.sync) :
    exec (.prep h) s = .next (perform (Act.when (s.my.ctl.preempt.isSome && s.my.regs.drained)
      (onUnit s.me (fun u => { u with ctl := { u.ctl with prepped := true, hcyc := s.t } }))) (s.issued .k h.sync 1 {})) :=
  issueAs_completes hc ⟨rfl, rfl, rfl, rfl⟩

/-- Settles O8: LOOP by its count, LSET by the clamp of the registers that it makes. -/
theorem loopsAndPreemptionPoints : Obligations.LoopsAndPreemptionPoints := by
  intro s h lc off label a drain hc g n at1 mine count bases ends
  have hcount : (if g.lc[lc] == 0 then [] else [at1 (selLC lc) ((g.lc[lc] - 1).zeroExtend 64)]) = count := by
    by_cases h0 : g.lc[lc] = 0
    · have : n = 0 := by simp [n, h0]
      simp [count, h0, this]
    · have : n ≠ 0 := fun e => h0 (BitVec.eq_of_toNat_eq e)
      have hb : (g.lc[lc] == 0) = false := by simpa using h0
      simp only [count, hb, this, if_false, Bool.false_eq_true, ofNat_pred_zeroExtend h0]; rfl
  have htaken : (g.lc[lc] != 0 && g.lc[lc] - 1 != 0) = decide (2 ≤ n) := loop_taken _
  refine ⟨fun h2 => ?_, fun h1 => ?_, fun hr hp => ?_, fun hr hp => ?_, ?_⟩
  · rw [execLoop_completes hc (htaken.trans (decide_eq_true h2)) hcount]
    simp only [Bool.not_true, Bool.false_and, Bool.false_eq_true, if_false, List.append_nil]
    rfl
  · have h2 : ¬ 2 ≤ n := by omega
    have hends : (if mine then [at1 selVRB ((g.vrb - 1).zeroExtend 64), at1 selPRB ((g.prb - 1).zeroExtend 64)] ++
        (if !g.clamped then [at1 selLREG (g.lreg &&& ~~~(1 <<< 63 : Dword))] else []) else []) = bases ++ ends := by
      simp only [bases, ends, clear_reg, h1, decide_true, Bool.and_true]
      cases mine <;> simp
    rw [execLoop_completes hc (htaken.trans (decide_eq_false h2)) hcount, List.append_assoc, ← hends]
    rfl
  · rw [execLset_completes hc hr, hp, ← lregWord_registered, ← lset_count]
    simp [State.lsetEffects, Regs.registered, at1]
  · intro c
    obtain ⟨h1, h2⟩ := clamped_counts (c := c) (by omega)
    rw [execLset_completes hc hr, hp, if_pos rfl, clamp_registered rfl, ← h1, ← h2]
    simp [State.lsetEffects, Regs.registered, at1, c]
  · rw [execPrep_completes hc]
    cases hd : s.my.ctl.preempt.isSome && s.my.regs.drained
    · rw [Act.when, if_neg Bool.false_ne_true, if_neg (by rw [← Regs.drained, hd]; exact Bool.false_ne_true)]; rfl
    · rw [Act.when, if_pos rfl, if_pos (by rw [← Regs.drained, hd])]
/-! ## Transports and mixing (R212 to R214, R218) -/

/-- What the noise log and the free values record of a draw leaves every unit as it is. -/
theorem logNoise_units (c : Col) (mode : BitVec 2) (first : Nat) (ws : List Dword) (s : State) : (perform (logNoise c mode first ws) s).units = s.units := by
  have e : perform (logNoise c mode first ws) s = perform (Act.seq (Act.when (mode != 2) (draw ws.length (fun _ => Act.none))) (Act.when (mode == 1)
    (onWork (fun w => { w with jobs := w.jobs.map (fun (j : Job) => if j.handle == s.jobOf c then
      { j with log := j.log ++ ((List.range ws.length).zip ws |>.map (fun x => (c, first + x.1, x.2))) } else j) })))) s := rfl
  rw [e, perform_seq]
  cases mode != 2 <;> cases mode == 1 <;> rfl

theorem scalarImg_ofData (w : Dword) : scalarImg (.ofData w) = { data := w.zeroExtend 4096, tail := 0 } := by
  simp [scalarImg, SVal.ofData]

/-- The oldest entry of a latch, where it has arrived. -/
theorem execXfer_completes {s : State} {h : Hdr} {d : Fin 64} {x : Latch} {e : LEntry} {l : List LEntry} (hc : s.clear .k h.sync)
    (hv : s.my.frm.insv = false) (hr : s.ready [] (some d) 1) (hx : s.my.latch x = e :: l) (ha : e.valid = true) :
    exec (.xfer h d x) s = .next (s.issued .k h.sync 1
      { eff := [s.writes d { data := e.img.data.truncate 64, tail := e.img.tail.truncate 2 } 1], unit := fun u => u.setLatch x l }) := by
  have hr' : kBusy s s.me s.my s.t [] (some d) 1 = none := hr
  refine issueAs_issues hc ⟨rfl, hv, ?_, ?_⟩ ?_
  · simp [hr', hx, ha]
  · simp [hx]
  · simp only [hx]; rfl

/-- RNDN in a turn before the draw of V. -/
theorem execRndn_completes {s : State} {h : Hdr} {d : Fin 64} (hc : s.clear .k h.sync)
    (hv : s.my.frm.insv = false) (hr : s.ready [] (some d) 1) (hl : (s.my.latch .xn).length < 8) (hn : s.my.noiseReady 1 = true)
    (hd : s.my.eng.vdrew.filter (fun v => v.at_ == s.t) = none) :
    exec (.rndn h d) s = .next (s.issuedWith .k h.sync 1
      { eff := [s.writes d { data := BitVec.ofNat 64 s.my.eng.drawn, tail := 0 } 1]
        unit := fun u => (u.pushLatch .xn (scalarImg (.ofData ((s.noiseWords s.my 1).getD 0 0)))).drawNoise 1
        more := logNoise s.me s.my.regs.noisec s.my.eng.drawn (s.noiseWords s.my 1) }) := by
  have hr' : kBusy s s.me s.my s.t [] (some d) 1 = none := hr
  have hf : s.my.latchFull .xn = false := by
    rw [UnitSt.latchFull, decide_eq_false_iff_not]
    exact Nat.not_le.2 hl
  refine (issueAs_completes hc ⟨rfl, hv, ?_, rfl⟩).trans ?_
  · simp [hr', hf, hn]
  · simp only [hd]; rfl

/-- Settles O6: the noise log is all that RNDN does outside its unit. -/
theorem transportsAndMixing : Obligations.TransportsAndMixing := by
  intro s h d a b x e l n hc
  refine ⟨fun hv hr hx ha => execXfer_completes hc hv hr hx ha, fun hr => scalar_completes hc hr, fun hr => issueAs_issues hc ⟨rfl, rfl, hr, rfl⟩ rfl,
    fun hv hr hl hn hd => ⟨_, execRndn_completes hc hv hr hl hn ?_, ?_⟩⟩
  · cases hv : s.my.eng.vdrew with
    | none => rfl
    | some t => simp [Option.filter, hd t hv]
  · rw [scalarImg_ofData]; exact logNoise_units ..
end Sys2Proof.Machine

/-! PROOF. Alignment, idles, bank commands and windows (spec/01_execution_rules.md R43 to R45, R54, spec/05_memory_rules.md R102 to R105,
spec/11_data_streams_rules.md R241 to R245). -/
namespace Sys2Proof.Machine

/-! ## A unit after an issue -/

theorem issued_my (s : State) (x : Stream) (sync : Fin 16) (len : Nat) (a : Attempt) :
    (s.issued x sync len a).unit s.me = s.my.complete x sync len s.t a := by
  rw [State.issued, perform_onUnit]; exact unit_set_same ..
@[simp] theorem stream_ix_inj {x y : Stream} : Stream.ix x = Stream.ix y ↔ x = y := by
  cases x <;> cases y <;> decide
@[simp] theorem onStrm_strm_same (u : UnitSt) (x : Stream) (f : Strm → Strm) : (u.onStrm x f).strm x = f (u.strm x) := vget_set_same ..
theorem onStrm_strm_other (u : UnitSt) {x y : Stream} (f : Strm → Strm) (h : y ≠ x) : (u.onStrm x f).strm y = u.strm y :=
  vget_set_other _ _ _ _ (by simpa using h)
@[simp] theorem noteSig_strms (u : UnitSt) (now : Int) (a : Attempt) : (u.noteSig now a).ctl.strms = u.ctl.strms := by
  unfold UnitSt.noteSig; split <;> rfl
@[simp] theorem noteSig_aligned (u : UnitSt) (now : Int) (a : Attempt) : (u.noteSig now a).ctl.aligned = u.ctl.aligned := by
  unfold UnitSt.noteSig; split <;> rfl
@[simp] theorem noteSig_timed (u : UnitSt) (now : Int) (a : Attempt) : (u.noteSig now a).ctl.timed = u.ctl.timed := by
  unfold UnitSt.noteSig; split <;> rfl

/-! ## ALIGN, REALIGN and HALT (R43, R45, R54) -/

/-- What ALIGN leaves of its unit. -/
theorem alignAt_complete (u : UnitSt) (sync : Fin 16) (len : Nat) (now : Int) :
    let v := u.complete .k sync len now { unit := fun u => u.alignAt now }
    v.ctl.aligned = true ∧ v.ctl.timed = !u.ctl.decl := ⟨noteSig_aligned .., noteSig_timed ..⟩
/-- ALIGN starts a held stream. -/
theorem alignAt_starts (u : UnitSt) (sync : Fin 16) (len : Nat) (now : Int) {x : Stream} (hx : x ≠ .k) (hs : (u.strm x).st = .held) :
    (u.complete .k sync len now { unit := fun u => u.alignAt now }).strm x = { u.strm x with st := .run, last := now } := by
  have e : (u.complete .k sync len now { unit := fun u => u.alignAt now }).strm x =
      ((u.ctl.strms.map (fun t => if t.st = .held then { t with st := .run, last := now } else t)))[Stream.ix x] := by
    rw [UnitSt.complete, onStrm_strm_other _ _ hx]
    exact congrArg (·[Stream.ix x]) (noteSig_strms ..)
  rw [e]
  simp only [Fin.getElem_fin, Vector.getElem_map]
  exact if_pos hs

/-- What ALIGN does beside its unit leaves the unit as the issue leaves it, and sets the column running. -/
theorem align_more (c : Col) (s : State) :
    let t := perform (Act.seq (onSlot c (fun k => { k with st := if k.st = .waitBase then .running else k.st })) (armVault c true)) s
    t.units = s.units ∧ (t.slot c).st = if (s.slot c).st = .waitBase then .running else (s.slot c).st := by
  intro t
  have e : t = perform (armVault c true) (perform (onSlot c (fun k => { k with st := if k.st = .waitBase then .running else k.st })) s) := perform_seq ..
  rw [e]
  exact ⟨rfl, congrArg Slot.st (slot_set_same ..)⟩

theorem execHalt_completes {s : State} {h : Hdr} (hc : s.clear .k h.sync) :
    exec (.halt h) s = .next (perform (Act.when s.my.frm.insv (escalate s.me))
      (s.issued .k h.sync 1 { unit := fun u => if u.frm.insv then u else { u with ctl := { u.ctl with haltAt := some s.t } } })) :=
  issueAs_completes hc ⟨rfl, rfl, rfl, rfl⟩

/-- The cycle that ALIGN fixes, in the mode that the launch declares. -/
theorem execAlign_completes {s : State} {h : Hdr} (hc : s.clear .k h.sync) (ha : s.my.ctl.aligned = false) (hb : s.t = s.baseAt s.me)
    (hd : (s.my.strm .k).due.getD s.t ≤ s.t - 1) :
    exec (.align h) s = .next (perform (Act.seq (onSlot s.me (fun k => { k with st := if k.st = .waitBase then .running else k.st })) (armVault s.me true))
      (s.issued .k h.sync 1 { unit := fun u => u.alignAt s.t })) := by
  refine (issueAs_completes hc ⟨?_, rfl, ?_, ?_⟩).trans rfl
  · simp [UnitSt.alignBad, ha]
  · simp [← hb]
  · simp only [← hb, Int.not_lt.2 hd, lt_self_iff_false, decide_false, Bool.or_self, Bool.false_eq_true, if_false]

/-- Settles O12: ALIGN, REALIGN and HALT as they complete. -/
theorem alignmentAndHalt : Obligations.AlignmentAndHalt := by
  intro s h a hc
  refine ⟨fun ha hb hd => ?_, fun ha hp hr hn => ?_, fun hv => ?_, fun hv => ?_⟩
  · obtain ⟨hu, hs⟩ := align_more s.me (s.issued .k h.sync 1 { unit := fun u => u.alignAt s.t })
    have e := (congrArg (·[s.me]) hu).trans (issued_my s .k h.sync 1 { unit := fun u => u.alignAt s.t })
    obtain ⟨h1, h2⟩ := alignAt_complete s.my h.sync 1 s.t
    refine ⟨_, execAlign_completes hc ha hb hd, (congrArg (·.ctl.aligned) e).trans h1, (congrArg (·.ctl.timed) e).trans h2,
      fun x hx hh => (congrArg (·.strm x) e).trans (alignAt_starts _ _ _ _ hx hh), hs⟩
  · refine issueAs_issues hc ⟨?_, rfl, hr, ?_⟩ rfl
    · simp [UnitSt.realignBad, ha, hp]
    · simp only [not_le.2 hn, if_false]
  · refine (execHalt_completes hc).trans ?_
    rw [hv, issued_unit_eq (g := fun u => { u with ctl := { u.ctl with haltAt := some s.t } }) (if_neg (by rw [Bool.not_eq_true]; exact hv))]
    rfl
  · refine (execHalt_completes hc).trans ?_
    rw [hv, issued_unit_eq (g := id) (if_pos hv)]
    rfl

/-! ## IDLE (R44, R45, R144) -/

/-- An IDLE that no product to be faulted holds the tokens of. -/
theorem idle_quiet {s : State} {x : Stream} {sync : Fin 16} {len : Nat} {n : Fin 262144} (hc : s.clear x sync) (hl : n.val = 0x3FFFF → (s.my.strm x).st ≠ .late)
    (hm : x = .m → s.my.eng.faulting s.t = none) :
    done (idle x sync len n) s = .next (s.issued x sync len
      (if n.val = 0x3FFFF then { unit := fun u => u.onStrm x (fun t => { t with st := .point s.t }) } else {})) := by
  by_cases hn : n.val = 0x3FFFF
  · have b : (if x == .m then s.my.eng.faulting s.t else none) = none := by
      by_cases k : x = .m
      · simp [hm k]
      · simp [k]
    rw [if_pos hn]
    have e : (n.val == 0x3FFFF) = true := by simpa using hn
    refine issueAs_issues hc ?_ ?_
    · simp only [e, b]; exact ⟨rfl, rfl, rfl, if_neg (hl hn)⟩
    · simp only [e, b]; rfl
  · rw [if_neg hn]; exact idle_completes hc hn hm
/-- An IDLE of M behind a product that a block is to fault. -/
theorem idle_behind {s : State} {sync : Fin 16} {len : Nat} {n : Fin 262144} {o} (hc : s.clear .m sync) (hl : n.val = 0x3FFFF → (s.my.strm .m).st ≠ .late)
    (ho : s.my.eng.faulting s.t = some o) :
    done (idle .m sync len n) s = .next (s.issued .m sync len
      { unit := fun u => if n.val = 0x3FFFF then (u.behindMma o sync).onStrm .m (fun t => { t with st := .point s.t }) else u.behindMma o sync, tag := o.id }) := by
  by_cases hn : n.val = 0x3FFFF
  · have e : (n.val == 0x3FFFF) = true := by simpa using hn
    refine issueAs_issues hc ?_ ?_
    · simp only [e, ho]; exact ⟨rfl, rfl, rfl, if_neg (hl hn)⟩
    · simp only [e, ho, if_pos hn]; rfl
  · have e : (n.val == 0x3FFFF) = false := by simpa using hn
    refine issueAs_issues hc ?_ ?_
    · simp only [e, ho]; exact ⟨rfl, rfl, rfl, rfl⟩
    · simp only [e, ho, if_neg hn]; rfl

/-- Settles O13: the idles of the six streams. -/
theorem idles : Obligations.Idles := by
  intro s h m n out point ok
  exact ⟨fun hk => idle_quiet hk.1 hk.2 (nomatch ·), fun hk => idle_quiet hk.1 hk.2 (nomatch ·), fun hk => idle_quiet hk.1 hk.2 (nomatch ·),
    fun hk hm => idle_quiet hk.1 hk.2 (fun _ => hm), fun o hk ho => idle_behind hk.1 hk.2 ho, fun hk => idle_quiet hk.1 hk.2 (nomatch ·),
    fun hk => idle_quiet hk.1 hk.2 (nomatch ·)⟩

/-! ## Bank commands (R241) -/

/-- Settles O20: a command of D that meets nothing. -/
theorem bankCommands : Obligations.BankCommands := by
  intro s h b row a hc v out opened hk
  have hrow : Fin.ofNat 8192 ((s.my.sd a).toNat % 2 ^ 13) = Fin.ofNat 8192 (s.my.sd a).toNat := Fin.ext (Nat.mod_mod ..)
  exact ⟨fun hg => ⟨bankCommand_completes hc hk hg, hrow ▸ bankCommand_completes hc hk hg⟩, fun hg => bankCommand_completes hc hk hg,
    fun hg => bankCommand_completes hc hk hg⟩
/-! ## Windows (R244, R245) -/

/-- WIN without a held cycle, and with one. -/
theorem execWin_answers {s : State} {h : Hdr} {kind : WinKind} {bank : Fin 16} {beats delay : Fin 64} {held : Bool} (hc : s.clear .d h.sync)
    (hl : ((s.vault s.me).openWins s.t).length < 32)
    (hh : (List.range beats.val).any (fun i => (s.vault s.me).portHeld (s.t + delay.val + i)) = held) :
    exec (.win h kind bank beats delay) s = if held then .next (perform (takeFault s.me .d (guardFault 9 true bank)) s) else
      .next (perform (Act.when (delay.val == 0) (eventNow (.windowBeat s.me))) (perform (onVault s.me (fun v =>
        { v with wins := (s.vault s.me).openWins s.t ++ [{ kind := kind, bank := bank, first := s.t + delay.val, n := beats.val }] })) (s.issued .d h.sync 1 {}))) := by
  cases held with
  | true => exact issueAs_fault hc rfl rfl (if_neg (Nat.not_le.2 hl)) (if_pos hh)
  | false =>
    refine (issueAs_completes hc ⟨rfl, rfl, if_neg (Nat.not_le.2 hl), if_neg (by rw [hh]; exact Bool.false_ne_true)⟩).trans ?_
    simp only [State.issuedWith, perform_seq, perform_none]
    rfl

/-- Settles O22: WIN by whether a cycle is held, and WCLS. -/
theorem windows : Obligations.Windows := by
  intro s h kind bank beats delay all hc v first left held
  refine ⟨fun hl hh => ?_, fun hl hh => (execWin_answers hc hl hh).trans (if_pos rfl), (issueAs_completes hc ⟨rfl, rfl, rfl, rfl⟩).trans rfl⟩
  refine (execWin_answers hc hl hh).trans ?_
  by_cases hd : delay.val = 0
  · have e : (delay.val == 0) = true := by simpa using hd
    rw [if_neg Bool.false_ne_true, e, if_pos hd]; rfl
  · have e : (delay.val == 0) = false := by simpa using hd
    rw [if_neg Bool.false_ne_true, e, if_neg hd]; rfl

/-! ## The guard (R102 to R105, R242) -/

theorem kept_iff {x : Option Int} {n now : Int} : kept x n now = true ↔ ∀ a, x = some a → a + n ≤ now := by
  cases x <;> simp [kept]
/-- No parameter is broken where every check of the list passes. -/
theorem firstBroken_eq_zero {l : List Bool} : (match l.findIdx? id with | some i => i + 1 | none => 0) = 0 ↔ ∀ c ∈ l, c = false := by
  cases h : l.findIdx? id with
  | none => simpa using h
  | some i =>
    simp only [Nat.add_one_ne_zero, false_iff]
    intro hl
    rw [List.findIdx?_eq_none_iff.2 (by simpa using hl)] at h
    cases h

theorem isSome_eq_false_iff_none {α : Type} {x : Option α} : x.isSome = false ↔ x = none := by
  cases x <;> simp
/-- A guarded answer is none. -/
theorem guardAnswer_eq_none {t : Nat} {b : Fin 16} : (if t != 0 then some (guardFault t true b) else none) = none ↔ t = 0 := by
  by_cases h : t = 0 <;> simp [h]
/-- A fault that comes first. -/
theorem faultFirst_eq_none {α : Type} {c : Bool} {f : α} {r : Option α} : (if c then some f else r) = none ↔ c = false ∧ r = none := by
  cases c <;> simp

section
variable {v : VaultSt} {b : Fin 16} {now : Int}

/-- The timers of row commands (R102). -/
theorem timing_row {cmd : Cmd} {near : List Int} (hc : cmd = .act ∨ cmd = .refb)
    (hn : v.acts.filter (fun a => now - Config.tFAW < a && a ≤ now) = near) : v.timing cmd b now = 0 ↔ kept v.banks[b].pre Config.tRP now = true ∧ kept v.banks[b].act Config.tRC now = true ∧
      kept v.banks[b].ref Config.tRFCb now = true ∧ near.length < 4 ∧ ∀ a ∈ near, a + Config.tRRD ≤ now := by
  refine firstBroken_eq_zero.trans ?_
  subst hn
  obtain rfl | rfl := hc <;> simp <;> tauto
/-- The timers of PRE. -/
theorem timing_pre : v.timing .pre b now = 0 ↔ kept v.banks[b].act Config.tRAS now = true ∧ kept v.banks[b].wr Config.tWR now = true ∧
    kept v.banks[b].rd Config.tRTP now = true := by
  refine firstBroken_eq_zero.trans ?_
  simp
/-- The timers of a read. -/
theorem timing_rd : v.timing .rd b now = 0 ↔ kept v.banks[b].act Config.tRCD now = true ∧ v.portHeld now = false ∧ kept v.lastWr Config.tWTR now = true := by
  refine firstBroken_eq_zero.trans ?_
  simp
/-- The timers of a write, which may hold the port for two cycles (R115). -/
theorem timing_wr {cow : Bool} : v.timing (.wr cow) b now = 0 ↔ kept v.banks[b].act Config.tRCD now = true ∧
    (v.portHeld now = false ∧ (cow = true → v.portHeld (now + 1) = false)) ∧ kept v.lastRd Config.tRTW now = true := by
  refine firstBroken_eq_zero.trans ?_
  simp

/-- A row command needs an idle bank. -/
theorem guard_act : v.guard .act b now = none ↔ (v.banks[b]).row = none ∧ v.timing .act b now = 0 := by
  rw [← isSome_eq_false_iff_none (x := (v.banks[b]).row)]
  exact faultFirst_eq_none.trans (and_congr_right' guardAnswer_eq_none)
theorem guard_refb : v.guard .refb b now = none ↔ (v.banks[b]).row = none ∧ v.beatsAfter b now = false ∧ v.timing .refb b now = 0 := by
  rw [← isSome_eq_false_iff_none (x := (v.banks[b]).row)]
  exact faultFirst_eq_none.trans (and_congr_right' (faultFirst_eq_none.trans (and_congr_right' guardAnswer_eq_none)))
/-- PRE of an idle bank is let through. -/
theorem guard_pre : v.guard .pre b now = none ↔ (v.banks[b]).row = none ∨ (v.beatsAfter b now = false ∧ v.timing .pre b now = 0) := by
  rw [← isSome_eq_false_iff_none (x := (v.banks[b]).row)]
  cases hr : (v.banks[b]).row.isSome with
  | false => simp only [VaultSt.guard, hr, true_or, iff_true]; rfl
  | true =>
    have e : v.guard .pre b now = if v.beatsAfter b now then some (guardFault 1 false b) else
        if v.timing .pre b now != 0 then some (guardFault (v.timing .pre b now) true b) else none := by simp only [VaultSt.guard, hr]; rfl
    rw [e, faultFirst_eq_none, guardAnswer_eq_none]
    simp
/-- A column command needs an active bank. -/
theorem guard_column {cmd : Cmd} (hc : cmd = .rd ∨ ∃ cow, cmd = .wr cow) :
    v.guard cmd b now = none ↔ (v.banks[b]).row ≠ none ∧ v.timing cmd b now = 0 := by
  have e : v.guard cmd b now = if !(v.banks[b]).row.isSome then some (guardFault 1 false b) else
      if v.timing cmd b now != 0 then some (guardFault (v.timing cmd b now) true b) else none := by
    obtain rfl | ⟨cow, rfl⟩ := hc <;> simp [VaultSt.guard]
  rw [e, faultFirst_eq_none, guardAnswer_eq_none]
  simp [Option.isSome_iff_ne_none]
end

/-- Settles O19: the guard command by command. -/
theorem guardLetsThrough : Obligations.GuardLetsThrough := by
  intro v b cow now k since recent rowOk portFree
  refine ⟨?_, ?_, ?_, ?_, ?_⟩
  · rw [guard_act, timing_row (.inl rfl) rfl]; simp only [kept_iff]; rfl
  · rw [guard_refb, timing_row (.inr rfl) rfl]; simp only [kept_iff]; rfl
  · rw [guard_pre, timing_pre]; simp only [kept_iff]; rfl
  · rw [guard_column (.inl rfl), timing_rd]; simp only [kept_iff]; rfl
  · rw [guard_column (.inr ⟨cow, rfl⟩), timing_wr]; simp only [kept_iff]; rfl
end Sys2Proof.Machine

/-! PROOF. What an issue changes, unmet tokens, fetches, fences and phases (spec/01_execution_rules.md R15 to R28, spec/07_encoding_rules.md R140, R141,
spec/09_control_stream_rules.md R217 to R221). -/
namespace Sys2Proof.Machine

/-! ## The frame of an issue (R15, R18, R23) -/

/-- The signal cycle that completion takes account of (R54), for a unit that has not issued HALT. -/
theorem complete_sigs {u : UnitSt} {x : Stream} {sync : Fin 16} {len : Nat} {now : Int} (hh : u.ctl.haltAt = none) :
    (u.complete x sync len now {}).ctl.sigs = (0, now + 1) :: u.ctl.sigs.filter (fun y => now < y.2) := by
  have e : (((u.codeOrder x sync).later []).noteSig now {}).ctl.sigs = (0, now + 1) :: u.ctl.sigs.filter (fun y => now < y.2) := by
    have hf : (((u.codeOrder x sync).later []).ctl.haltAt.isSome || false) = false := congrArg (fun y => y.isSome || false) hh
    unfold UnitSt.noteSig
    rw [if_neg (by rw [Bool.not_eq_true]; exact hf)]; rfl
  exact e

/-- Refutes O47: an issue notes its signal cycle in the unit (R54), so that `ctl` differs in `sigs`, not in `strms` alone. After reset no cycle is noted, and
after the issue of an instruction that does nothing one is. -/
theorem not_issueChangesOnlyItsUnit : ¬ Obligations.IssueChangesOnlyItsUnit := by
  intro h
  obtain ⟨-, -, hid⟩ := h .reset .k 0 1 {}
  obtain ⟨-, -, -, -, -, hctl, -⟩ := hid rfl
  have hmy : State.reset.my = .reset := by simp [State.my, State.unit, State.reset]
  have hsig : ((State.reset.issued .k 0 1 {}).unit State.reset.me).ctl.sigs = [] := (congrArg Ctl.sigs hctl).trans (congrArg (·.ctl.sigs) hmy)
  rw [issued_my, complete_sigs (congrArg (·.ctl.haltAt) hmy)] at hsig
  cases hsig

/-! ## Unmet tokens (R20, R26 to R28) -/

/-- Tokens that are not there, or counters that are full with no other stream left: a miss in timed mode, a wait in loose mode. -/
theorem issueAs_unmet {s : State} {x : Stream} {sync : Fin 16} {len : Nat} {f : State → Col → UnitSt → Int → Attempt} {m : Miss}
    (g1 : (f s s.me s.my s.t).illegal = none) (g2 : (f s s.me s.my s.t).priv = false) (hs : x = .k → s.my.frm.insv = true → sync = 0)
    (ht : s.my.tokenMiss x sync s.t = some m) (h : m = .token ∨ (s.others s.me = false ∧ s.together s.me s.my x sync s.t = false)) :
    done (issueAs x sync len f) s = .next (if s.my.ctl.timed then perform (takeFault s.me x (schedMiss m)) s else s) := by
  have g1' : (f s s.cur.col (s.unit s.cur.col) (s.now s.cur.col)).illegal = none := g1
  have g2' : (f s s.cur.col (s.unit s.cur.col) (s.now s.cur.col)).priv = false := g2
  have hs' := sync_clear hs
  have ht' : (s.unit s.cur.col).tokenMiss x sync (s.now s.cur.col) = some m := ht
  have alone : (m == .tokfull && s.together s.cur.col (s.unit s.cur.col) x sync (s.now s.cur.col)) = false ∧ (m == .tokfull && s.others s.cur.col) = false := by
    obtain rfl | ⟨ho, hg⟩ := h
    · exact ⟨rfl, rfl⟩
    · exact ⟨(congrArg (m == .tokfull && ·) hg).trans (Bool.and_false _), (congrArg (m == .tokfull && ·) ho).trans (Bool.and_false _)⟩
  have hm : s.missOf s.cur.col (s.unit s.cur.col) x sync (s.now s.cur.col) (f s s.cur.col (s.unit s.cur.col) (s.now s.cur.col)) = some m := by
    simp only [State.missOf, ht', alone.1, Bool.false_eq_true, if_false]
  simp only [done, perform, issueAs, g1', g2', hm, hs', alone.2, Bool.false_and, Bool.false_eq_true, if_false, ht', Option.isSome_some, if_true]
  cases htm : (s.unit s.cur.col).ctl.timed with
  | true =>
    have ht2 : s.my.ctl.timed = true := htm
    simp only [ht2]; rfl
  | false =>
    have ht2 : s.my.ctl.timed = false := htm
    simp only [ht2]; rfl
/-- A full counter, and other streams that have their turn. -/
theorem issueAs_yields {s : State} {x : Stream} {sync : Fin 16} {len : Nat} {f : State → Col → UnitSt → Int → Attempt}
    (g1 : (f s s.me s.my s.t).illegal = none) (g2 : (f s s.me s.my s.t).priv = false) (hs : x = .k → s.my.frm.insv = true → sync = 0)
    (ht : s.my.tokenMiss x sync s.t = some .tokfull) (ho : s.others s.me = true) (hn : s.cur.turn < 6) :
    done (issueAs x sync len f) s = .next (perform (secondTurn s.me x) s) := by
  have g1' : (f s s.cur.col (s.unit s.cur.col) (s.now s.cur.col)).illegal = none := g1
  have g2' : (f s s.cur.col (s.unit s.cur.col) (s.now s.cur.col)).priv = false := g2
  have hs' := sync_clear hs
  have ht' : (s.unit s.cur.col).tokenMiss x sync (s.now s.cur.col) = some .tokfull := ht
  have hg : s.together s.cur.col (s.unit s.cur.col) x sync (s.now s.cur.col) = false := by
    have : (s.cur.turn == ringTurn) = false := by simp [ringTurn, maxTurns]; omega
    simp only [State.together, this, Bool.false_and]
  have ho' : s.others s.cur.col = true := ho
  have hu : givesUp s.cur.turn = true := by simp [givesUp, maxTurns, hn]
  have hm : s.missOf s.cur.col (s.unit s.cur.col) x sync (s.now s.cur.col) (f s s.cur.col (s.unit s.cur.col) (s.now s.cur.col)) = some .tokfull := by
    simp only [State.missOf, ht', hg, Bool.and_false, Bool.false_eq_true, if_false]
  simp only [done, perform, issueAs, g1', g2', hm, hs', ho', hu]
  rfl

/-! What the conditions of a read leave of the checks that come before them. -/

theorem reads_checks (a : Attempt) (u : UnitSt) (now : Int) (rows : List (Fin 256)) (x : Int) :
    (a.reads u now rows x).illegal = a.illegal ∧ (a.reads u now rows x).priv = a.priv := by
  unfold Attempt.reads; split <;> exact ⟨rfl, rfl⟩
theorem readsV_checks (a : Attempt) (u : UnitSt) (now : Int) (rows : List (Fin 256)) (x : Int) :
    (a.readsV u now rows x).illegal = a.illegal ∧ (a.readsV u now rows x).priv = a.priv := by
  unfold Attempt.readsV; split <;> exact ⟨rfl, rfl⟩
theorem readsAt_checks (a : Attempt) (u : UnitSt) (now : Int) (rows : List (Fin 256 × Int)) :
    (a.readsAt u now rows).illegal = a.illegal ∧ (a.readsAt u now rows).priv = a.priv := by
  induction rows with
  | nil => exact ⟨rfl, rfl⟩
  | cons r rows ih =>
    obtain ⟨hi, hp⟩ := reads_checks (a.readsAt u now rows) u now [r.1] r.2
    exact ⟨hi.trans ih.1, hp.trans ih.2⟩

section
variable {s : State} {m : Miss}

theorem idle_unmet {x : Stream} {sync : Fin 16} {len : Nat} {n : Fin 262144} (hs : x = .k → s.my.frm.insv = true → sync = 0)
    (ht : s.my.tokenMiss x sync s.t = some m) (h : m = .token ∨ (s.others s.me = false ∧ s.together s.me s.my x sync s.t = false)) :
    done (idle x sync len n) s = .next (if s.my.ctl.timed then perform (takeFault s.me x (schedMiss m)) s else s) := by
  refine issueAs_unmet ?_ ?_ hs ht h <;> (dsimp only; split <;> rfl)
theorem scalar_unmet {h : Hdr} {len n : Nat} {l : List (Fin 64)} {d : Fin 64} {f : UnitSt → SVal × NumBits}
    (hs : Stream.k = .k → s.my.frm.insv = true → h.sync = 0)
    (ht : s.my.tokenMiss .k h.sync s.t = some m) (hm : m = .token ∨ (s.others s.me = false ∧ s.together s.me s.my .k h.sync s.t = false)) :
    done (scalar h len l d n f) s = .next (if s.my.ctl.timed then perform (takeFault s.me .k (schedMiss m)) s else s) :=
  issueAs_unmet rfl rfl hs ht hm
theorem vlanes_unmet {c : VCtl} {n : Nat} {pair : Bool} {d : Fin 64} {l : List (Fin 64)} {f : List Pair → Pair × NumBits}
    (hs : Stream.v = .k → s.my.frm.insv = true → c.sync = 0)
    (ht : s.my.tokenMiss .v c.sync s.t = some m) (hm : m = .token ∨ (s.others s.me = false ∧ s.together s.me s.my .v c.sync s.t = false)) :
    done (vlanes c n pair d l f) s = .next (if s.my.ctl.timed then perform (takeFault s.me .v (schedMiss m)) s else s) := by
  unfold vlanes issueV
  exact issueAs_unmet (readsV_checks ..).1 (readsV_checks ..).2 hs ht hm
end

/-- Settles O46: the attempt in general, then the instructions of the list by the checks that their attempts leave open. -/
theorem unmetTokens : Obligations.UnmetTokens := by
  refine ⟨fun s x sync len f m g1 g2 hs ht => ⟨fun h => issueAs_unmet g1 g2 hs ht h, fun hm ho hn => issueAs_yields g1 g2 hs (hm ▸ ht) ho hn⟩, ?_⟩
  rintro s h k c x m a b d n q t ⟨y, sync, i⟩ hi hs rfl ht hm
  simp only [List.mem_cons, Prod.mk.injEq, List.not_mem_nil, or_false] at hi
  obtain ⟨rfl, rfl, rfl⟩ | ⟨rfl, rfl, rfl⟩ | ⟨rfl, rfl, rfl⟩ | ⟨rfl, rfl, rfl⟩ | ⟨rfl, rfl, rfl⟩ | ⟨rfl, rfl, rfl⟩ | ⟨rfl, rfl, rfl⟩ | ⟨rfl, rfl, rfl⟩ |
    ⟨rfl, rfl, rfl⟩ | ⟨rfl, rfl, rfl⟩ | ⟨rfl, rfl, rfl⟩ | ⟨rfl, rfl, rfl⟩ := hi
  · exact scalar_unmet hs ht hm
  · refine issueAs_unmet ?_ ?_ hs ht hm <;> rfl
  · exact idle_unmet hs ht hm
  · refine issueAs_unmet ?_ ?_ hs ht hm <;> rfl
  · exact idle_unmet hs ht hm
  · refine issueAs_unmet ?_ ?_ hs ht hm <;> rfl
  · refine issueAs_unmet ?_ ?_ hs ht hm <;> rfl
  · exact issueAs_unmet (readsAt_checks ..).1 (readsAt_checks ..).2 hs ht hm
  · exact vlanes_unmet hs ht hm
  · refine issueAs_unmet ?_ ?_ hs ht hm <;> rfl
  · exact issueAs_unmet (reads_checks ..).1 (reads_checks ..).2 hs ht hm
  · exact idle_unmet hs ht hm

/-! ## Fetches (R140, R141) -/

/-- Outside the reach of an ILOAD a stream sees the words of the store (R222). -/
theorem codeWord_eq {s : State} {c : Col} {x : Stream} (h : (s.unit c).ord.stale.contains x = false) (a : Nat) :
    let b := fun (j : Nat) => ((s.mem c .store).byte (a + j)).toNat
    s.codeWord c x a = b 0 + 256 * (b 1 + 256 * (b 2 + 256 * b 3)) := by
  have hold : (s.unit c).ord.oldWords x a = [] := by
    have : (s.unit c).ord.oldCode.filter (fun g => g.stale.contains x) = [] := by
      simp [Ordr.stale] at h
      simpa [List.filter_eq_nil_iff] using h
    rw [Ordr.oldWords, this]; rfl
  rw [State.codeWord, hold]
  simp [Memory.bytes]
theorem wordCount_pos (x : Stream) (op : Nat) : 1 ≤ wordCount x op := by
  unfold wordCount
  split
  · split <;> decide
  all_goals decide

/-- Settles O44: the words of the store, as many as the first one asks for. -/
theorem fetches : Obligations.Fetches := by
  intro s c x u pc r at_ n hst
  have hw : ∀ i, s.codeWord c x (pc + 4 * i) = at_ i := fun i => codeWord_eq hst _
  have h0 : s.codeWord c x pc = at_ 0 := hw 0
  have hn : 1 ≤ n := wordCount_pos ..
  have hl : at_ 0 :: (List.range (n - 1)).map (fun i => s.codeWord c x (pc + 4 * (i + 1))) = (List.range n).map at_ := by
    obtain ⟨k, hk⟩ : ∃ k, n = k + 1 := ⟨n - 1, by omega⟩
    rw [hk, List.range_succ_eq_map]
    simp [hw, Function.comp_def]
  have hf : s.firstWord c x = if pc % 4 = 0 ∧ r.1 ≤ pc ∧ pc + 4 ≤ r.2 then some (at_ 0) else none := by
    rw [← h0]
    show (if pc % 4 != 0 || pc < r.1 || r.2 < pc + 4 then none else some (s.codeWord c x pc)) = _
    by_cases hp : pc % 4 = 0 ∧ r.1 ≤ pc ∧ pc + 4 ≤ r.2
    · rw [if_neg (by simpa [and_assoc] using hp), if_pos hp]
    · rw [if_pos (by simp; omega), if_neg hp]
  by_cases hp : pc % 4 = 0 ∧ r.1 ≤ pc ∧ pc + 4 ≤ r.2
  · rw [if_pos hp] at hf
    have e : s.fetch c x = if r.2 < pc + 4 * n then none else some (at_ 0 :: (List.range (n - 1)).map (fun i => s.codeWord c x (pc + 4 * (i + 1)))) := by
      rw [State.fetch, hf]; rfl
    rw [e, hl]
    by_cases hq : pc + 4 * n ≤ r.2
    · rw [if_neg (Nat.not_lt.2 hq), if_pos ⟨hp.1, hp.2.1, hp.2.2, hq⟩]
    · rw [if_pos (Nat.not_le.1 hq), if_neg (fun h => hq h.2.2.2)]
  · rw [if_neg hp] at hf
    have e : s.fetch c x = none := by rw [State.fetch, hf]
    rw [e, if_neg (fun h => hp ⟨h.1, h.2.1, h.2.2.1⟩)]

/-! ## Fences (R219 to R221) -/

/-- The condition that a turn is to be taken later: other streams have theirs. -/
theorem issueAs_laterTurn {s : State} {x : Stream} {sync : Fin 16} {len : Nat} {f : State → Col → UnitSt → Int → Attempt}
    (h : s.clear x sync) (g1 : (f s s.me s.my s.t).illegal = none) (g2 : (f s s.me s.my s.t).priv = false)
    (g3 : (f s s.me s.my s.t).miss = some .tokfull) (ho : s.others s.me = true) :
    done (issueAs x sync len f) s = .next (perform (secondTurn s.me x) s) := by
  obtain ⟨h1, h2, h3⟩ := h
  have g1' : (f s s.cur.col (s.unit s.cur.col) (s.now s.cur.col)).illegal = none := g1
  have g2' : (f s s.cur.col (s.unit s.cur.col) (s.now s.cur.col)).priv = false := g2
  have hs' := sync_clear h1
  have ht' : (s.unit s.cur.col).tokenMiss x sync (s.now s.cur.col) = none := h2
  have hm : s.missOf s.cur.col (s.unit s.cur.col) x sync (s.now s.cur.col) (f s s.cur.col (s.unit s.cur.col) (s.now s.cur.col)) = some .tokfull :=
    (missOf_clear _ h2 h3).trans g3
  have ho' : s.others s.cur.col = true := ho
  simp only [done, perform, issueAs, g1', g2', hm, hs', ho', ht', Option.isNone_none, Bool.or_true, Bool.true_or]
  rfl

/-- What FENCE waits for has come. -/
theorem fence_ready {kind : FenceKind} {w d : Bool} (hw : kind ≠ .acq → w = true) (hd : kind = .sc → d = true) :
    (kind != .acq && (!w || (kind == .sc && !d))) = false := by
  cases kind <;> simp_all
theorem fence_waits {kind : FenceKind} {w d : Bool} (hk : kind ≠ .acq) (h : w = false ∨ (kind = .sc ∧ d = false)) :
    (kind != .acq && (!w || (kind == .sc && !d))) = true := by
  cases kind <;> simp_all

/-- Settles O14: FENCE by what it waits for and by the turns that are left. -/
theorem fences : Obligations.Fences := by
  intro s h kind scope hc u holds
  refine ⟨fun hw hs => ⟨fun ho => ?_, fun ho => ?_⟩, fun hk hw => ?_, fun hr => ?_, fun hr => ?_, issueAs_issues hc ⟨rfl, rfl, rfl, rfl⟩ rfl⟩
  · refine issueAs_issues hc ⟨rfl, rfl, ?_, rfl⟩ ?_
    · exact (if_neg (by rw [Bool.not_eq_true]; exact fence_ready hw hs)).trans (if_neg (by rw [ho]; decide))
    · cases kind <;> rfl
  · refine issueAs_laterTurn hc rfl rfl ?_ ho
    exact (if_neg (by rw [Bool.not_eq_true]; exact fence_ready hw hs)).trans (if_pos ho)
  · exact issueAs_miss hc rfl rfl (if_pos (fence_waits hk hw)) (by decide)
  · exact issueAs_issues hc ⟨rfl, rfl, if_neg (by rw [Bool.not_eq_true]; exact hr), rfl⟩ rfl
  · exact issueAs_miss hc rfl rfl (if_pos hr) (by decide)

/-! ## Phases (R119 to R122, R217) -/

/-- PHPRE of a map that may be read: the Wain starts, and a deadline is kept. -/
theorem execPhpre_completes {s : State} {h : Hdr} {n : Fin 16} {due : Fin 1048576} (hc : s.clear .k h.sync) (hf : s.wainFault s.my n = none) :
    let d := if due.val != 0 && s.my.ctl.timed then some (s.t + (due.val : Int)) else none
    exec (.phpre h n due) s = .next (perform (Act.seq (startWain s.me n d) (match d with
      | some d => eventAt s.me d (.phpreDueDeadline s.me)
      | none => Act.none)) (s.issued .k h.sync 2 {})) :=
  (issueAs_completes hc ⟨rfl, rfl, rfl, hf⟩).trans rfl

/-- Settles O18: the Wain that PHPRE starts, and the conditions of PHADV. -/
theorem phaseChanges : Obligations.PhaseChanges := by
  intro s h n due hc
  have starts : s.my.maps.valid = true → s.my.maps.tgt = n → (!s.my.maps.valid || s.my.maps.tgt != n) = false := fun hv ht => by simp [hv, ht]
  refine ⟨fun hf => (execPhpre_completes hc hf).trans (congrArg Host.Outcome.next ?_), fun hv ht hr ha hd => ?_, fun hv ht hr => ?_⟩
  · have e : (if due.val != 0 && s.my.ctl.timed then some (s.t + (due.val : Int)) else none) =
        if due.val ≠ 0 ∧ s.my.ctl.timed = true then some (s.t + (due.val : Int)) else none := by simp
    rw [e, perform_seq]
    generalize (if due.val ≠ 0 ∧ s.my.ctl.timed = true then some (s.t + (due.val : Int)) else none) = d
    cases d <;> rfl
  · refine issueAs_issues hc ⟨rfl, rfl, ?_, ?_⟩ ?_ <;> simp only [starts hv ht, Bool.and_false, Bool.false_eq_true, if_false, hr, ha, hd]
    · rfl
    · rfl
  · refine (issueAs_miss hc rfl rfl (m := .phase) ?_ (by decide)).trans ?_ <;> simp only [starts hv ht, Bool.and_false, Bool.false_eq_true, if_false, hr]
    · rfl
    · rfl
end Sys2Proof.Machine

/-! PROOF. Faults, the frame and the handler: TRAP, BKPT, ERET and undefined opcodes (spec/09_control_stream_rules.md R228, spec/17_scheduling_rules.md
R375 to R379). -/
namespace Sys2Proof.Machine

/-! ## Actions of the launch layer -/

/-- An action that leaves the units, the slots, the vaults and every memory as they are. -/
def Act.LeavesColumns (a : Act) : Prop := ∀ s : State, (perform a s).units = s.units ∧ (perform a s).slots = s.slots ∧ (perform a s).vaults = s.vaults ∧
  (perform a s).mems = s.mems ∧ (perform a s).ext = s.ext

theorem leavesColumns_none : Act.none.LeavesColumns := fun _ => ⟨rfl, rfl, rfl, rfl, rfl⟩
theorem leavesColumns_seq {a b : Act} (ha : a.LeavesColumns) (hb : b.LeavesColumns) : (Act.seq a b).LeavesColumns := by
  intro s
  obtain ⟨a1, a2, a3, a4, a5⟩ := ha s
  obtain ⟨b1, b2, b3, b4, b5⟩ := hb (perform a s)
  rw [perform_seq]
  exact ⟨b1.trans a1, b2.trans a2, b3.trans a3, b4.trans a4, b5.trans a5⟩
theorem leavesColumns_when {a : Act} (b : Bool) (ha : a.LeavesColumns) : (Act.when b a).LeavesColumns := by
  cases b
  · exact leavesColumns_none
  · exact ha
theorem leavesColumns_onWork (f : Work → Work) : (onWork f).LeavesColumns := fun _ => ⟨rfl, rfl, rfl, rfl, rfl⟩
theorem leavesColumns_eventNow (e : Ev) : (eventNow e).LeavesColumns := fun _ => ⟨rfl, rfl, rfl, rfl, rfl⟩
theorem leavesColumns_eventAt (c : Col) (x : Int) (e : Ev) : (eventAt c x e).LeavesColumns := by
  intro s; simp only [perform, eventAt]; split <;> exact ⟨rfl, rfl, rfl, rfl, rfl⟩
theorem leavesColumns_eventAtPart (n : BitVec 16) (x : Int) (e : Ev) : (eventAtPart n x e).LeavesColumns := by
  intro s; simp only [perform, eventAtPart]; split <;> exact ⟨rfl, rfl, rfl, rfl, rfl⟩
theorem leavesColumns_escalate (c : Col) : (escalate c).LeavesColumns := fun _ => ⟨rfl, rfl, rfl, rfl, rfl⟩
theorem leavesColumns_holdLaunch (c : Col) : (holdLaunch c).LeavesColumns := by
  intro s
  unfold holdLaunch perform
  dsimp only
  split
  · exact leavesColumns_seq (leavesColumns_onWork _) (leavesColumns_eventAtPart _ _ _) s
  · exact leavesColumns_none s
theorem leavesColumns_releaseLaunch (c : Col) : (releaseLaunch c).LeavesColumns := by
  intro s
  unfold releaseLaunch perform
  dsimp only
  split
  · exact leavesColumns_seq (leavesColumns_onWork _) (leavesColumns_when _ (leavesColumns_eventAtPart _ _ _)) s
  · exact leavesColumns_none s

/-! ## A fault that is taken (R51, R375 to R379) -/

/-- MAP LOST, which no handler takes (R125). -/
def mapLost (f : FaultRec) : Bool := f.cause == BitVec.ofNat 8 Cause.map.code && f.kind == 2
/-- The unit that a fault of a stream meets, its frame filled and the unit stopped. -/
def State.faulted (s : State) (c : Col) (x : Stream) (f : FaultRec) (defer : Bool) : UnitSt :=
  (((s.unit c).pastRealign x f).fillFrame x f defer (s.now c) (s.cyc c) s.free).stop
/-- The state of a column that a fault stops. -/
def Slot.halted (k : Slot) : Slot := { k with st := if k.st = .stopping then .stopping else .stopped }
/-- A column with its unit as a fault leaves it. -/
def State.haltedWith (s : State) (c : Col) (u : UnitSt) : State :=
  { s with units := s.units.set c u, slots := s.slots.set c (s.slot c).halted, free := s.free + 2 }

/-- The cause lies in the lowest byte of FAULTF. -/
theorem faultfWord_cause (x : Stream) (f : FaultRec) (defer timed : Bool) (pend : Nat) : (faultfWord x f defer timed pend).truncate 8 = f.cause := by
  apply BitVec.eq_of_toNat_eq
  have := f.cause.isLt
  simp only [faultfWord, BitVec.truncate_eq_setWidth, BitVec.toNat_setWidth, BitVec.toNat_ofNat]
  omega
@[simp] theorem pastRealign_frm (u : UnitSt) (x : Stream) (f : FaultRec) : (u.pastRealign x f).frm = u.frm := by
  unfold UnitSt.pastRealign; split <;> rfl
@[simp] theorem pastRealign_pend (u : UnitSt) (x : Stream) (f : FaultRec) : (u.pastRealign x f).pend = u.pend := by
  unfold UnitSt.pastRealign; split <;> rfl
@[simp] theorem pastRealign_regs (u : UnitSt) (x : Stream) (f : FaultRec) : (u.pastRealign x f).regs = u.regs := by
  unfold UnitSt.pastRealign; split <;> rfl
@[simp] theorem pastRealign_maps (u : UnitSt) (x : Stream) (f : FaultRec) : (u.pastRealign x f).maps = u.maps := by
  unfold UnitSt.pastRealign; split <;> rfl
@[simp] theorem pastRealign_timed (u : UnitSt) (x : Stream) (f : FaultRec) : (u.pastRealign x f).ctl.timed = u.ctl.timed := by
  unfold UnitSt.pastRealign; split <;> rfl
@[simp] theorem pastRealign_pc (u : UnitSt) (x y : Stream) (f : FaultRec) : ((u.pastRealign x f).strm y).pc = (u.strm y).pc := by
  unfold UnitSt.pastRealign
  split
  · by_cases h : y = x
    · subst h; rw [onStrm_strm_same]
    · rw [onStrm_strm_other _ _ h]
  · rfl

@[simp] theorem stop_parts (u : UnitSt) : u.stop.frm = u.frm ∧ u.stop.regs = u.regs ∧ u.stop.maps = u.maps ∧ u.stop.pend = u.pend := ⟨rfl, rfl, rfl, rfl⟩
/-- A frame that is filled keeps its other registers, and a unit with another frame everything else. -/
theorem filled_parts (g : Frame) (a b e y z : Dword) (p : Vector (BitVec 18) 6) :
    let v : Frame := { g with faultf := a, faddr := b, finfo := e, fpc := p, fupc := y, fcyc := z }
    v.insv = g.insv ∧ v.entry = g.entry ∧ v.queue = g.queue := ⟨rfl, rfl, rfl⟩
theorem withFrm_parts (u : UnitSt) (g : Frame) : let v : UnitSt := { u with frm := g }
    v.frm = g ∧ v.regs = u.regs ∧ v.maps = u.maps ∧ v.pend = u.pend := ⟨rfl, rfl, rfl, rfl⟩
@[simp] theorem fillFrame_parts (u : UnitSt) (x : Stream) (f : FaultRec) (defer : Bool) (now : Int) (cyc : Dword) (free : Nat) :
    let v := u.fillFrame x f defer now cyc free
    v.frm.insv = u.frm.insv ∧ v.frm.entry = u.frm.entry ∧ v.frm.queue = u.frm.queue ∧ v.regs = u.regs ∧ v.maps = u.maps ∧ v.pend = u.pend := by
  obtain ⟨h1, h2, h3⟩ := filled_parts u.frm (faultfWord x f defer u.ctl.timed u.frm.queue.length) f.addr f.info (u.fupc now free) cyc
    (.ofFn (fun i => (u.ctl.strms[i]).pc.truncate 18))
  exact ⟨h1, h2, h3, (withFrm_parts u _).2⟩

section
variable {s : State} {c : Col} {x : Stream} {f : FaultRec} {defer : Bool}

/-- A fault outside supervisor state, of a unit that has not issued HALT. -/
theorem takeFault_stops (hv : (s.unit c).frm.insv = false) (hh : (s.unit c).ctl.haltAt = none) (hl : mapLost f = false) :
    takeFault c x f defer s = if (s.unit c).frm.en
      then Act.all [onUnit c (fun _ => (s.faulted c x f defer).enterHandler (s.now c)), onSlot c Slot.halted, fun s => [.free (s.free + 2)], holdLaunch c] s
      else Act.all [onUnit c (fun _ => s.faulted c x f defer), onSlot c Slot.halted, fun s => [.free (s.free + 2)], escalate c] s := by
  have hb : (s.unit c).backToHalt = s.unit c := by rw [UnitSt.backToHalt, hh]; rfl
  have hl' : (f.cause == BitVec.ofNat 8 Cause.map.code && f.kind == 2) = false := hl
  unfold takeFault
  simp only [hl', hb, pastRealign_frm, hv, Bool.false_eq_true, if_false, Bool.not_false, Bool.and_true]
  rfl
/-- With a handler the unit enters it, and its launch is to be held. -/
theorem takeFault_enters (hv : (s.unit c).frm.insv = false) (he : (s.unit c).frm.en = true) (hh : (s.unit c).ctl.haltAt = none) (hl : mapLost f = false) :
    perform (takeFault c x f defer) s = perform (holdLaunch c) (s.haltedWith c ((s.faulted c x f defer).enterHandler (s.now c))) := by
  rw [perform, takeFault_stops hv hh hl, he, if_pos rfl, ← perform]
  simp only [perform_all_cons, perform_all_nil]
  rfl
/-- Without one the fault escalates. -/
theorem takeFault_escalates (hv : (s.unit c).frm.insv = false) (he : (s.unit c).frm.en = false) (hh : (s.unit c).ctl.haltAt = none) (hl : mapLost f = false) :
    perform (takeFault c x f defer) s = perform (escalate c) (s.haltedWith c (s.faulted c x f defer)) := by
  rw [perform, takeFault_stops hv hh hl, he, if_neg Bool.false_ne_true, ← perform]
  simp only [perform_all_cons, perform_all_nil]
  rfl
/-- The unit and the column, with a handler and without one; the memories are as they were. -/
theorem takeFault_handled (hv : (s.unit c).frm.insv = false) (he : (s.unit c).frm.en = true) (hh : (s.unit c).ctl.haltAt = none) (hl : mapLost f = false) :
    let t := perform (takeFault c x f defer) s
    t.unit c = (s.faulted c x f defer).enterHandler (s.now c) ∧ t.slot c = (s.slot c).halted ∧ t.mems = s.mems ∧ t.ext = s.ext := by
  intro t
  have e : t = _ := takeFault_enters hv he hh hl
  obtain ⟨h1, h2, -, h4, h5⟩ := leavesColumns_holdLaunch c (s.haltedWith c ((s.faulted c x f defer).enterHandler (s.now c)))
  rw [e]
  exact ⟨(congrArg (·[c]) h1).trans (vget_set_same ..), (congrArg (·[c]) h2).trans (vget_set_same ..), h4, h5⟩
theorem takeFault_unhandled (hv : (s.unit c).frm.insv = false) (he : (s.unit c).frm.en = false) (hh : (s.unit c).ctl.haltAt = none) (hl : mapLost f = false) :
    let t := perform (takeFault c x f defer) s
    t.unit c = s.faulted c x f defer ∧ t.slot c = (s.slot c).halted ∧ t.mems = s.mems ∧ t.ext = s.ext ∧
      t.agenda = .event (.kill (s.slot c).qdie (s.slot c).qnum (some c)) :: s.agenda := by
  intro t
  have e : t = _ := takeFault_escalates hv he hh hl
  obtain ⟨h1, h2, -, h4, h5⟩ := leavesColumns_escalate c (s.haltedWith c (s.faulted c x f defer))
  have hs : (s.haltedWith c (s.faulted c x f defer)).slot c = (s.slot c).halted := vget_set_same ..
  rw [e]
  refine ⟨(congrArg (·[c]) h1).trans (vget_set_same ..), (congrArg (·[c]) h2).trans hs, h4, h5, ?_⟩
  show Task.event (.kill ((s.haltedWith c _).slot c).qdie ((s.haltedWith c _).slot c).qnum (some c)) :: s.agenda = _
  rw [hs]; rfl

/-! What the fault leaves in the frame and elsewhere in the unit. -/

@[simp] theorem faulted_faultf : (s.faulted c x f defer).frm.faultf = faultfWord x f defer (s.unit c).ctl.timed (s.unit c).frm.queue.length := by
  show faultfWord x f defer ((s.unit c).pastRealign x f).ctl.timed ((s.unit c).pastRealign x f).frm.queue.length = _
  simp
@[simp] theorem faulted_fpc (y : Stream) : (s.faulted c x f defer).frm.fpc[Stream.ix y] = (((s.unit c).strm y).pc).truncate 18 := by
  rw [← pastRealign_pc (s.unit c) x y f]
  exact Vector.getElem_ofFn ..
@[simp] theorem faulted_insv : (s.faulted c x f defer).frm.insv = (s.unit c).frm.insv := by simp [State.faulted]
@[simp] theorem faulted_entry : (s.faulted c x f defer).frm.entry = (s.unit c).frm.entry := by simp [State.faulted]
@[simp] theorem faulted_queue : (s.faulted c x f defer).frm.queue = (s.unit c).frm.queue := by simp [State.faulted]
@[simp] theorem faulted_regs : (s.faulted c x f defer).regs = (s.unit c).regs := by simp [State.faulted]
@[simp] theorem faulted_maps : (s.faulted c x f defer).maps = (s.unit c).maps := by simp [State.faulted]
@[simp] theorem faulted_pend : (s.faulted c x f defer).pend = (s.unit c).pend := by simp [State.faulted]
end

/-- The unit's program counter, and the cycle it is counted from, in the handler. -/
theorem enterHandler_strm (u : UnitSt) (last : Int) :
    ((u.enterHandler last).strm .k).pc = u.frm.entry.zeroExtend 64 ∧ ((u.enterHandler last).strm .k).last = last := by
  unfold UnitSt.enterHandler
  rw [onStrm_strm_same]
  exact ⟨rfl, rfl⟩
@[simp] theorem enterHandler_frm (u : UnitSt) (last : Int) : (u.enterHandler last).frm = { u.frm with insv := true } := rfl

theorem enterHandler_parts (u : UnitSt) (last : Int) :
    (u.enterHandler last).regs = u.regs ∧ (u.enterHandler last).maps = u.maps ∧ (u.enterHandler last).pend = u.pend ∧
      (u.enterHandler last).ctl.timed = u.ctl.timed := ⟨rfl, rfl, rfl, rfl⟩

/-! ## What an issue that does nothing in its unit leaves there -/

section
variable {u : UnitSt} {x : Stream} {sync : Fin 16} {len : Nat} {now : Int} {a : Attempt}

theorem noteSig_frame (v : UnitSt) : (v.noteSig now a).frm = v.frm ∧ (v.noteSig now a).regs = v.regs ∧ (v.noteSig now a).maps = v.maps ∧
    (v.noteSig now a).pend = v.pend ∧ (v.noteSig now a).ctl.haltAt = v.ctl.haltAt ∧ (v.noteSig now a).eng = v.eng := by
  unfold UnitSt.noteSig; split <;> exact ⟨rfl, rfl, rfl, rfl, rfl, rfl⟩
theorem idleIssue_frame : let v := u.complete x sync len now {}
    v.frm = u.frm ∧ v.regs = u.regs ∧ v.maps = u.maps ∧ v.ctl.haltAt = u.ctl.haltAt ∧ v.ctl.timed = u.ctl.timed := by
  obtain ⟨h1, h2, h3, -, h5, -⟩ := noteSig_frame (now := now) (a := {}) ((u.codeOrder x sync).later [])
  exact ⟨h1, h2, h3, h5, noteSig_timed ..⟩
theorem idleIssue_strm_other {y : Stream} (h : y ≠ x) : (u.complete x sync len now {}).strm y = u.strm y := by
  rw [UnitSt.complete, onStrm_strm_other _ _ h]
  exact congrArg (·[Stream.ix y]) (noteSig_strms ..)
theorem idleIssue_strm_same : (u.complete x sync len now {}).strm x = (u.strm x).advance now len none := by
  rw [UnitSt.complete, onStrm_strm_same]
  exact congrArg (fun v => Strm.advance v[Stream.ix x] now len none) (noteSig_strms ..)
end

/-! ## TRAP, BKPT and undefined opcodes -/

/-- The state after an instruction of K that has executed and then faults. -/
theorem trapped {s : State} {h : Hdr} {f : FaultRec} {cause code : Nat} (hv : s.my.frm.insv = false) (hh : s.my.ctl.haltAt = none)
    (hf : f = { cause := BitVec.ofNat 8 cause, kind := 0, acc := 0, addr := 0, info := BitVec.ofNat 64 code }) (hcause : cause = 0x16 ∨ cause = 0x17) :
    let t := perform (takeFault s.me .k f) (s.issued .k h.sync 1 {})
    let u := s.my
    let v := t.unit s.me
    v.frm.faultf = BitVec.ofNat 64 (cause + boolCode u.ctl.timed * 2 ^ 23 + u.frm.queue.length * 2 ^ 24) ∧
      v.frm.faddr = 0 ∧ v.frm.finfo = BitVec.ofNat 64 code ∧ v.frm.fcyc = s.cyc s.me ∧
      v.frm.fpc[Stream.ix .k] = ((u.strm .k).pc + 4).truncate 18 ∧
      (∀ y, y ≠ .k → v.frm.fpc[Stream.ix y] = ((u.strm y).pc).truncate 18) ∧
      v.ctl.timed = false ∧ v.regs = u.regs ∧ v.maps = u.maps ∧ t.mems = s.mems ∧ t.ext = s.ext ∧
      (u.frm.en = true → v.frm.insv = true ∧ (v.strm .k).pc = u.frm.entry.zeroExtend 64 ∧ (v.strm .k).last = s.t ∧
        (t.slot s.me).st = (if (s.slot s.me).st = .stopping then .stopping else .stopped)) ∧
      (u.frm.en = false → v.frm.insv = false ∧ t.agenda = .event (.kill (s.slot s.me).qdie (s.slot s.me).qnum (some s.me)) :: s.agenda) := by
  intro t u v
  have hu : (s.issued .k h.sync 1 {}).unit s.me = s.my.complete .k h.sync 1 s.t {} := issued_my ..
  obtain ⟨hfrm, hregs, hmaps, hhalt, htimed⟩ := idleIssue_frame (u := s.my) (x := .k) (sync := h.sync) (len := 1) (now := s.t)
  have hk := idleIssue_strm_same (u := s.my) (x := .k) (sync := h.sync) (len := 1) (now := s.t)
  rw [← hu] at hfrm hregs hmaps hhalt htimed hk
  have hv' : ((s.issued .k h.sync 1 {}).unit s.me).frm.insv = false := (congrArg Frame.insv hfrm).trans hv
  have hl : mapLost f = false := by obtain rfl | rfl := hcause <;> subst hf <;> rfl
  let w := (s.issued .k h.sync 1 {}).faulted s.me .k f false
  have hcause' : f.cause.toNat = cause := by obtain rfl | rfl := hcause <;> subst hf <;> rfl
  have hkind : f.kind = 0 ∧ f.acc = 0 := by subst hf; exact ⟨rfl, rfl⟩
  have w1 : w.frm.faultf = BitVec.ofNat 64 (cause + boolCode u.ctl.timed * 2 ^ 23 + u.frm.queue.length * 2 ^ 24) := by
    rw [faulted_faultf, htimed, hfrm, faultfWord, hcause', hkind.1, hkind.2]
    simp [Stream.ix, boolCode]; rfl
  have w2 : w.frm.fpc[Stream.ix .k] = ((u.strm .k).pc + 4).truncate 18 := by rw [faulted_fpc, hk]; rfl
  have w3 : ∀ y, y ≠ .k → w.frm.fpc[Stream.ix y] = ((u.strm y).pc).truncate 18 := fun y hy => by rw [faulted_fpc, hu, idleIssue_strm_other hy]
  have w4 : w.regs = u.regs ∧ w.maps = u.maps := ⟨(faulted_regs ..).trans hregs, (faulted_maps ..).trans hmaps⟩
  have w5 : w.frm.faddr = 0 ∧ w.frm.finfo = BitVec.ofNat 64 code := by subst hf; exact ⟨rfl, rfl⟩
  cases hen : u.frm.en with
  | true =>
    obtain ⟨h1, h2, h3, h4⟩ := takeFault_handled (x := .k) (defer := false) hv' ((congrArg Frame.en hfrm).trans hen) (hhalt.trans hh) hl
    obtain ⟨p1, p2, -, p4⟩ := enterHandler_parts w s.t
    obtain ⟨q1, q2⟩ := enterHandler_strm w s.t
    have e : v = w.enterHandler s.t := h1
    rw [e, p1, p2, p4, q1, q2, enterHandler_frm]
    refine ⟨w1, w5.1, w5.2, rfl, w2, w3, rfl, w4.1, w4.2, h3, h4, fun _ => ⟨rfl, ?_, rfl, ?_⟩, nofun⟩
    · rw [faulted_entry, hfrm]
    · rw [h2]; rfl
  | false =>
    obtain ⟨h1, h2, h3, h4, h5⟩ := takeFault_unhandled (x := .k) (defer := false) hv' ((congrArg Frame.en hfrm).trans hen) (hhalt.trans hh) hl
    have e : v = w := h1
    rw [e]
    refine ⟨w1, w5.1, w5.2, rfl, w2, w3, rfl, w4.1, w4.2, h3, h4, nofun, fun _ => ⟨(faulted_insv ..).trans hv', h5⟩⟩

/-- An undefined opcode enters the handler with its own place in the frame. -/
theorem undefined_faults {s : State} {x : Stream} (hv : s.my.frm.insv = false) (he : s.my.frm.en = true) (hh : s.my.ctl.haltAt = none) :
    let t := perform (takeFault s.me x { flt .illegalInstruction with addr := (s.my.strm x).pc }) s
    let v := t.unit s.me
    v.frm.insv = true ∧ v.frm.faultf.truncate 8 = (0x03 : BitVec 8) ∧ v.frm.faddr = (s.my.strm x).pc ∧
      v.frm.fpc[Stream.ix x] = ((s.my.strm x).pc).truncate 18 ∧ v.regs = s.my.regs ∧ v.pend = s.my.pend ∧ t.mems = s.mems := by
  intro t v
  obtain ⟨h1, -, h3, -⟩ := takeFault_handled (x := x) (f := { flt .illegalInstruction with addr := (s.my.strm x).pc }) (defer := false) hv he hh rfl
  let w := s.faulted s.me x { flt .illegalInstruction with addr := (s.my.strm x).pc } false
  obtain ⟨p1, -, p3, -⟩ := enterHandler_parts w s.t
  have e : v = w.enterHandler s.t := h1
  rw [e, p1, p3, enterHandler_frm]
  refine ⟨rfl, ?_, rfl, faulted_fpc (defer := false) x, faulted_regs, faulted_pend, h3⟩
  rw [show ({ w.frm with insv := true } : Frame).faultf = w.frm.faultf from rfl, faulted_faultf, faultfWord_cause]
  rfl

/-- Settles O15: TRAP and BKPT fault after their issue, an undefined opcode in place of it. -/
theorem trapsEnterTheHandler : Obligations.TrapsEnterTheHandler := by
  refine ⟨fun s h code hc hv hh x hx => ?_, fun s h o hv he hh => ⟨_, issueAs_illegal rfl, undefined_faults hv he hh⟩⟩
  simp only [List.mem_cons, List.not_mem_nil, or_false] at hx
  obtain rfl | rfl := hx
  · exact ⟨_, issueAs_completes hc ⟨rfl, rfl, rfl, rfl⟩, trapped hv hh rfl (.inl rfl)⟩
  · exact ⟨_, issueAs_completes hc ⟨rfl, rfl, rfl, rfl⟩, trapped hv hh rfl (.inr rfl)⟩

/-! ## ERET (R228, R376, R378) -/

/-- A column whose unit has returned from the handler. -/
def State.returned (s : State) (c : Col) : State :=
  { s with units := s.units.set c ((s.unit c).leaveHandler (s.now c))
           slots := s.slots.set c { s.slot c with st := if (s.slot c).st = .stopped then .running else (s.slot c).st } }

section
variable {s : State} {c : Col}

theorem returned_unit : (s.returned c).unit c = (s.unit c).leaveHandler (s.now c) := vget_set_same ..
/-- What follows the return: the release of the launch, or a queued fault. -/
def afterReturn (c : Col) : Act := fun s => if (s.unit c).frm.queue.isEmpty then releaseLaunch c s else deliverQueued c s
theorem perform_afterReturn_empty (h : (s.unit c).frm.queue.isEmpty = true) : perform (afterReturn c) s = perform (releaseLaunch c) s :=
  congrArg (run · s) (if_pos h)
theorem perform_afterReturn_queued (h : (s.unit c).frm.queue.isEmpty = false) : perform (afterReturn c) s = perform (deliverQueued c) s :=
  congrArg (run · s) (if_neg (by rw [h]; exact Bool.false_ne_true))
theorem perform_returnFromHandler : perform (returnFromHandler c) s = perform (afterReturn c) (s.returned c) := by
  have e : perform (returnFromHandler c) s = run (Act.all [onUnit c (fun u => u.leaveHandler (s.now c)),
      onSlot c (fun k => { k with st := if k.st = .stopped then .running else k.st }), afterReturn c] s) s := rfl
  rw [e, ← perform, perform_all_cons, perform_all_cons, perform_all_cons, perform_all_nil]
  rfl
/-- The oldest queued fault is taken. -/
theorem perform_deliverQueued {x : Stream} {f : FaultRec} {q : List (Stream × FaultRec)} (hq : (s.unit c).frm.queue = (x, f) :: q) :
    perform (deliverQueued c) s = perform (takeFault c x f true) { s with units := s.units.set c { s.unit c with frm := { (s.unit c).frm with queue := q } } } := by
  rw [perform, deliverQueued]
  simp only [hq]
  rw [← perform, perform_seq]
  rfl
end

/-- What the return leaves of a unit. -/
theorem leaveHandler_parts (u : UnitSt) (now : Int) : let v := u.leaveHandler now
    v.frm = { u.frm with insv := false } ∧ v.ctl.timed = false ∧ v.ctl.haltAt = u.ctl.haltAt ∧ v.regs = u.regs := ⟨rfl, rfl, rfl, rfl⟩
theorem leaveHandler_strm (u : UnitSt) (now : Int) (y : Stream) :
    (u.leaveHandler now).strm y = { u.strm y with pc := (u.frm.fpc[Stream.ix y]).zeroExtend 64, last := now, due := none } := Vector.getElem_ofFn ..
theorem stream_ix_surjective (i : Fin 6) : ∃ y, Stream.ix y = i := by
  fin_cases i
  exacts [⟨.k, rfl⟩, ⟨.d, rfl⟩, ⟨.l, rfl⟩, ⟨.m, rfl⟩, ⟨.v, rfl⟩, ⟨.s, rfl⟩]
/-- A unit that has returned with its program counters puts the same ones in the frame of the fault that is delivered. -/
theorem fpc_ext {p q : Vector (BitVec 18) 6} (h : ∀ y, p[Stream.ix y] = q[Stream.ix y]) : p = q := by
  apply Vector.ext
  intro i hi
  obtain ⟨y, hy⟩ := stream_ix_surjective ⟨i, hi⟩
  have e := h y
  simp only [hy] at e
  exact e

/-- A unit with another queue. -/
theorem withQueue_parts (u : UnitSt) (q : List (Stream × FaultRec)) : let v : UnitSt := { u with frm := { u.frm with queue := q } }
    v.frm.insv = u.frm.insv ∧ v.frm.en = u.frm.en ∧ v.frm.entry = u.frm.entry ∧ v.frm.queue = q ∧ v.ctl = u.ctl := ⟨rfl, rfl, rfl, rfl, rfl⟩

/-- The delivery of a queued fault at the return. -/
theorem delivered {s : State} {x : Stream} {f : FaultRec} {q : List (Stream × FaultRec)} {c : Col} (he : (s.unit c).frm.en = true)
    (hh : (s.unit c).ctl.haltAt = none) (hq : (s.unit c).frm.queue = (x, f) :: q) (hl : mapLost f = false) :
    let t := perform (returnFromHandler c) s
    let v := t.unit c
    v.frm.insv = true ∧ v.frm.queue = q ∧ v.frm.fpc = (s.unit c).frm.fpc ∧ v.frm.faddr = f.addr ∧ v.frm.finfo = f.info ∧
      v.frm.faultf.truncate 8 = f.cause ∧ (v.strm .k).pc = (s.unit c).frm.entry.zeroExtend 64 := by
  intro t v
  let u := (s.unit c).leaveHandler (s.now c)
  let s' : State := { s.returned c with units := (s.returned c).units.set c { u with frm := { u.frm with queue := q } } }
  have hu : s'.unit c = { u with frm := { u.frm with queue := q } } := vget_set_same ..
  obtain ⟨q1, q2, q3, q4, q5⟩ := withQueue_parts u q
  rw [← hu] at q1 q2 q3 q4 q5
  have ht : t = perform (takeFault c x f true) s' := by
    have hqr : ((s.returned c).unit c).frm.queue = (x, f) :: q := by rw [returned_unit]; exact hq
    show perform (returnFromHandler c) s = _
    rw [perform_returnFromHandler, perform_afterReturn_queued (by rw [hqr]; rfl), perform_deliverQueued hqr, returned_unit]
  obtain ⟨h1, -⟩ := takeFault_handled (s := s') (x := x) (defer := true) q1 (q2.trans he) ((congrArg Ctl.haltAt q5).trans hh) hl
  let w := s'.faulted c x f true
  have e : v = w.enterHandler (s'.now c) := by rw [← h1, ← ht]
  obtain ⟨r1, -⟩ := enterHandler_strm w (s'.now c)
  rw [e, r1, enterHandler_frm]
  have wq : w.frm.queue = q := faulted_queue.trans q4
  have wf : w.frm.fpc = (s.unit c).frm.fpc := fpc_ext fun y => by
    have hs : (s'.unit c).strm y = u.strm y := congrArg (fun v : Ctl => v.strms[Stream.ix y]) q5
    rw [faulted_fpc, hs, leaveHandler_strm]
    simp
  have wc : w.frm.faultf.truncate 8 = f.cause := by rw [faulted_faultf, faultfWord_cause]
  have we : w.frm.entry = (s.unit c).frm.entry := faulted_entry.trans q3
  exact ⟨rfl, wq, wf, rfl, rfl, wc, by rw [we]⟩

/-- Settles O16: with no fault queued the launch may be released, with one the handler is entered anew. -/
theorem eretReturns : Obligations.EretReturns := by
  intro s h hc
  have hu : (s.issued .k h.sync 1 {}).unit s.me = s.my.complete .k h.sync 1 s.t {} := issued_my ..
  obtain ⟨hfrm, hregs, -, hhalt, -⟩ := idleIssue_frame (u := s.my) (x := .k) (sync := h.sync) (len := 1) (now := s.t)
  rw [← hu] at hfrm hregs hhalt
  have run : s.my.frm.insv = true → exec (.eret h) s = .next (perform (returnFromHandler s.me) (s.issued .k h.sync 1 {})) :=
    fun hv => (issueAs_completes hc ⟨rfl, by simp [hv], rfl, rfl⟩).trans rfl
  refine ⟨fun hv hq => ⟨_, run hv, ?_⟩, fun hv he hh x f q hq hl => ⟨_, run hv, ?_⟩, fun hv => issueAs_priv rfl (sync_clear hc.1) ?_⟩
  · have hq1 : ((s.issued .k h.sync 1 {}).unit s.me).frm.queue.isEmpty = true := by rw [hfrm, hq]; rfl
    obtain ⟨h1, h2, -, h4, -⟩ := leavesColumns_releaseLaunch s.me ((s.issued .k h.sync 1 {}).returned s.me)
    rw [perform_returnFromHandler, perform_afterReturn_empty (by rw [returned_unit]; exact hq1)]
    have hv1 : State.unit _ s.me = _ := (congrArg (·[s.me]) h1).trans (returned_unit (s := s.issued .k h.sync 1 {}) (c := s.me))
    have hs1 : State.slot _ s.me = { s.slot s.me with st := if (s.slot s.me).st = .stopped then .running else (s.slot s.me).st } :=
      (congrArg (·[s.me]) h2).trans (vget_set_same ..)
    rw [hv1, hs1]
    obtain ⟨p1, p2, -, p4⟩ := leaveHandler_parts ((s.issued .k h.sync 1 {}).unit s.me) ((s.issued .k h.sync 1 {}).now s.me)
    refine ⟨congrArg Frame.insv p1, p2, p4.trans hregs, fun y => ?_, rfl, h4⟩
    rw [leaveHandler_strm, hfrm]
    exact ⟨rfl, rfl, rfl⟩
  · have hl' : mapLost f = false := by
      rw [mapLost, Bool.and_eq_false_iff]
      by_cases hcause : f.cause = BitVec.ofNat 8 0x0E
      · right; simpa using fun hk => hl ⟨hcause, hk⟩
      · left; exact beq_eq_false_iff_ne.2 hcause
    obtain ⟨h1, h2, h3, h4, h5, h6, h7⟩ := delivered (s := s.issued .k h.sync 1 {}) (c := s.me) ((congrArg Frame.en hfrm).trans he) (hhalt.trans hh)
      ((congrArg Frame.queue hfrm).trans hq) hl'
    exact ⟨h1, h2, h3.trans (congrArg Frame.fpc hfrm), h4, h5, h6, h7.trans (congrArg (·.entry.zeroExtend 64) hfrm)⟩
  · simp [hv]
end Sys2Proof.Machine

/-! PROOF. The requests that K sends (spec/09_control_stream_rules.md R222 to R227, spec/05_memory_rules.md R116, R125). -/
namespace Sys2Proof.Machine

/-! ## Translation that is served at once (R116, R125) -/

theorem translated_of_mapped {a : Attempt} {c : Col} {u : UnitSt} {addrs : List Dword} (h : u.mapped addrs = true) :
    a.translated c u addrs = { a with unit := fun v => a.unit { v with maps := v.maps.mend v.maps.cur (u.walked addrs).contains } } := by
  rw [UnitSt.mapped, Bool.and_eq_true, Bool.not_eq_true'] at h
  obtain ⟨hm, hl⟩ := h
  unfold Attempt.translated
  simp only [hl, hm, Bool.false_eq_true, if_false, Bool.not_true, Bool.and_false, if_true]

theorem noteSig_snapHeld (u : UnitSt) (now : Int) (a : Attempt) : (u.noteSig now a).ctl.snapHeld = u.ctl.snapHeld := by
  unfold UnitSt.noteSig; split <;> rfl

/-! ## LAUNCH, CANCEL and SNAP -/

/-- An event of a cycle to come is a timer. -/
theorem eventAt_later {s : State} {c : Col} {x : Int} {e : Ev} (h : s.now c < x) :
    eventAt c x e s = [.timers (s.timers ++ [{ part := (s.partOf c).map (·.num), at_ := x, ev := e }])] := if_neg (Int.not_le.2 h)
theorem perform_fresh (f : Nat → Act) (s : State) : perform (fresh f) s = run (f (s.nextId + 1) s) { s with nextId := s.nextId + 1 } := rfl

section
variable {s : State} {h : Hdr} {a b q : Fin 64} {pri : Fin 8} {deps : Fin 65536}

/-- A queue of the partition. -/
theorem execLaunch_completes {p : Part} (hc : s.clear .k h.sync) (hp : s.partOf s.me = some p) (hq : p.queues.contains (dieOf s.me, q) = true)
    (hr : s.ready [a, b] none 0) :
    ∃ t, exec (.launch h a b q pri deps) s = .next t ∧ t.units = (s.issued .k h.sync 2 {}).units ∧ t.nextId = s.nextId + 1 ∧
      t.work.reqs = s.work.reqs ++ [{ id := s.nextId + 1, die := dieOf s.me, q := q, part := s.partNum s.me, desc := s.my.sd a, arg := s.my.sd b,
                                      job := s.jobOf s.me, pri := pri, deps := BitVec.ofNat 16 deps.val }] ∧
      t.timers = s.timers ++ [{ part := some p.num, at_ := s.t + 1, ev := .launchPlacement (s.nextId + 1) }] := by
  let r : LReq := { id := s.nextId + 1, die := dieOf s.me, q := q, part := s.partNum s.me, desc := s.my.sd a, arg := s.my.sd b,
                    job := s.jobOf s.me, pri := pri, deps := BitVec.ofNat 16 deps.val }
  let s1 := s.issued .k h.sync 2 {}
  have later : eventAt s.me (s.t + 1) (.launchPlacement r.id) { s1 with work := { s1.work with reqs := s1.work.reqs ++ [r] } } = _ :=
    eventAt_later (Int.lt_add_one_iff.2 (Int.le_refl _))
  have e : exec (.launch h a b q pri deps) s = .next (run ([.work { s1.work with reqs := s1.work.reqs ++ [r] }] ++
      eventAt s.me (s.t + 1) (.launchPlacement r.id) { s1 with work := { s1.work with reqs := s1.work.reqs ++ [r] } }) { s1 with nextId := s.nextId + 1 }) := by
    refine (issueAs_completes hc ⟨rfl, rfl, ?_, ?_⟩).trans rfl
    · exact hr
    · simp only [hp, hq, if_true]
  rw [later] at e
  refine ⟨_, e, rfl, rfl, rfl, ?_⟩
  exact congrArg (fun x : Option Part => s.timers ++ [{ part := x.map (·.num), at_ := s.t + 1, ev := .launchPlacement r.id }]) hp
/-- A queue of another partition. -/
theorem execLaunch_priv (hc : s.clear .k h.sync) (hr : s.ready [a, b] none 0) (hp : ∀ p, s.partOf s.me = some p → p.queues.contains (dieOf s.me, q) = false) :
    exec (.launch h a b q pri deps) s = .next (perform (takeFault s.me .k (flt .priv)) s) := by
  refine issueAs_fault hc rfl rfl hr ?_
  cases he : s.partOf s.me with
  | none => rfl
  | some p => simp only [hp p he, Bool.false_eq_true, if_false]
/-- A handle of the unit's own job, and another one. -/
theorem execCancel_completes {j : Job} {level : Level} (hc : s.clear .k h.sync) (hj : s.job (s.jobOf s.me) = some j) (hr : s.ready [a] none 0)
    (hk : s.handleKnown j level (s.my.sd a) = true) :
    exec (.cancel h level a) s = .next (perform (cancelWork j level (s.my.sd a)) (s.issued .k h.sync 1 {})) := by
  refine (issueAs_completes hc ⟨rfl, rfl, ?_, ?_⟩).trans ?_
  · exact hr
  · simp only [hj, hk, if_true]
  · simp only [hj]; rfl
theorem execCancel_priv {j : Job} {level : Level} (hc : s.clear .k h.sync) (hj : s.job (s.jobOf s.me) = some j) (hr : s.ready [a] none 0)
    (hk : s.handleKnown j level (s.my.sd a) = false) : exec (.cancel h level a) s = .next (perform (takeFault s.me .k (flt .priv)) s) := by
  refine issueAs_fault hc rfl rfl ?_ ?_
  · exact hr
  · simp only [hj, hk, Bool.false_eq_true, if_false]
/-- SNAP with no earlier one held. -/
theorem execSnap_completes (hc : s.clear .k h.sync) (hr : s.ready [a] none 0) (hs : s.my.ctl.snapHeld = false) :
    ∃ t, exec (.snap h a) s = .next t ∧ (t.unit s.me).ctl.snapHeld = true ∧
      t.work.held = s.work.held ++ [{ col := s.me, launch := (s.slot s.me).launch, job := s.jobOf s.me, round := (s.my.sd a).truncate 32 }] := by
  have hr' : kBusy s s.me s.my s.t [a] none 0 = none := hr
  let s1 := s.issued .k h.sync 1 { unit := fun u => { u with ctl := { u.ctl with snapHeld := true } } }
  let w : Work := { s1.work with held := s1.work.held ++ [{ col := s.me, launch := (s.slot s.me).launch, job := s.jobOf s.me, round := (s.my.sd a).truncate 32 }] }
  have later : eventAt s.me (s.t + 1) (.snapAccept s.me) { s1 with work := w } = _ := eventAt_later (Int.lt_add_one_iff.2 (Int.le_refl _))
  have e : exec (.snap h a) s = .next (run ([.work w] ++ eventAt s.me (s.t + 1) (.snapAccept s.me) { s1 with work := w }) s1) := by
    refine (issueAs_completes hc ⟨rfl, rfl, ?_, rfl⟩).trans rfl
    simp only [hr', hs, Bool.false_eq_true, if_false]
  rw [later] at e
  refine ⟨_, e, ?_, rfl⟩
  have hu : s1.unit s.me = _ := issued_my ..
  exact (congrArg (·.ctl.snapHeld) hu).trans (noteSig_snapHeld ..)

/-- WAITG whose counter has come far enough, and one whose has not. -/
theorem execWaitg_goes {n : Nat} (hc : s.clear .k h.sync) (hr : s.ready [a, b] none 0) (hm : s.my.mapped [s.my.sd a] = true)
    (hg : s.graphCounter s.me s.my (s.my.sd a) = some n) (hn : (s.my.sd b).toNat ≤ n) :
    exec (.waitg h a b) s = .next (perform (refreshFrontier s.me) (s.issued .k h.sync 1
      { unit := fun u => { u with maps := u.maps.mend u.maps.cur (s.my.walked [s.my.sd a]).contains } })) := by
  have hr' : kBusy s s.me s.my s.t [a, b] none 0 = none := hr
  refine (issueAs_completes hc ?_).trans ?_ <;> rw [translated_of_mapped hm]
  · refine ⟨rfl, rfl, ?_, rfl⟩
    simp only [hr', hg, hn, if_true]
  · rfl
theorem execWaitg_waits {n : Nat} (hc : s.clear .k h.sync) (hr : s.ready [a, b] none 0) (hm : s.my.mapped [s.my.sd a] = true)
    (hg : s.graphCounter s.me s.my (s.my.sd a) = some n) (hn : n < (s.my.sd b).toNat) :
    exec (.waitg h a b) s = .next (if s.my.ctl.timed then perform (takeFault s.me .k (schedMiss .busy)) s else s) := by
  have hr' : kBusy s s.me s.my s.t [a, b] none 0 = none := hr
  refine (issueAs_miss hc ?_ ?_ (m := .busy) ?_ (by decide)).trans ?_ <;> rw [translated_of_mapped hm]
  · simp only [hr', hg, Nat.not_le.2 hn, if_false]
  · rfl
end

/-! ## ILOAD and CPUB -/

/-- A range of GLOBAL blocks that no check refuses (R92, R222, R223). -/
theorem codeRange_none {a : Dword} {n : Nat} (hn : 1 ≤ n) (ht : tagOf a = 0) (ha : a.toNat % 64 = 0) (hl : a.toNat + 64 * n ≤ 2 ^ 48) :
    codeRange a n false false = none := by
  have hk : windowKind a (64 * max 1 n) = 0 := by
    have hoff : offOf a = a.toNat := Nat.mod_eq_of_lt (by omega)
    have hlast : (a.toNat + (max (64 * max 1 n) 1 - 1)) / 2 ^ 60 = 0 := Nat.div_eq_of_lt (by omega)
    have hsize : ¬ windowSize 0 < a.toNat + max (64 * max 1 n) 1 := by simp only [windowSize]; omega
    simp only [windowKind, ht, hoff, hlast, hsize]; rfl
  simp only [codeRange, hk, ha, ht]; rfl

theorem execIload_completes {s : State} {h : Hdr} {a b : Fin 64} {n off : Nat} (hc : s.clear .k h.sync) (hr : s.ready [a, b] none 0) (hoff : (s.my.sd b).toNat % 2 ^ 18 = off)
    (hn : (s.my.sd b).toNat / 2 ^ 20 % 2 ^ 13 = n) (h1 : (s.my.sd b).toNat / 2 ^ 18 % 4 = 0) (h2 : (s.my.sd b).toNat < 2 ^ 33) (h3 : 1 ≤ n) (h4 : n ≤ 4096) (h5 : off + 64 * n ≤ 2 ^ 18)
    (h6 : off % 64 = 0) (h7 : tagOf (s.my.sd a) = 0) (h8 : (s.my.sd a).toNat % 64 = 0) (h9 : (s.my.sd a).toNat + 64 * n ≤ 2 ^ 48)
    (hf : (s.farLoad s.my s.me .k s.t 2 (codeTile (s.my.sd a) n) (.code off)).free) :
    let go := s.farLoad s.my s.me .k s.t 2 (codeTile (s.my.sd a) n) (.code off)
    exec (.iload h a b) s = .next (s.issuedWith .k h.sync 1
      { go with sig := 1, tag := 0, held := false, unit := fun u => { go.unit u with ctl := { (go.unit u).ctl with iload := true } } }) := by
  intro go
  have hr' : kBusy s s.me s.my s.t [a, b] none 0 = none := hr
  have ho : bits (s.my.sd b).toNat 17 0 = off := by simp [bits, ← hoff]
  have hN : bits (s.my.sd b).toNat 32 20 = n := hn
  have hb : bits (s.my.sd b).toNat 19 18 = 0 := h1
  have hw : (s.my.sd b).toNat / 2 ^ 33 = 0 := Nat.div_eq_of_lt h2
  have hout : (bits (s.my.sd b).toNat 19 18 != 0 || (s.my.sd b).toNat / 2 ^ 33 != 0 || n == 0 || decide (4096 < n) || decide (2 ^ 18 < off + 64 * n)) = false := by
    rw [hb, hw, decide_eq_false (Nat.not_lt.2 h4), decide_eq_false (Nat.not_lt.2 h5), beq_eq_false_iff_ne.2 (by omega)]; rfl
  have hrange : codeRange (s.my.sd a) n (off % 64 != 0) false = none := by rw [h6]; exact codeRange_none h3 h7 h8 h9
  obtain ⟨f1, f2, f3, f4⟩ := hf
  refine (issueAs_completes hc ?_).trans ?_
  · simp only [ho, hN, hout, hrange, hr', Option.isSome_none, Bool.false_eq_true, if_false]
    exact ⟨f1, f2, f3, f4⟩
  · simp only [ho, hN, hout, hrange, hr', Option.isSome_none, Bool.false_eq_true, if_false]
    rfl

/-- Blocks of code that are not poisoned raise nothing (R222, R223). -/
theorem code_fault_none {k : Nat} {hds : List Head} {addrs : List Dword} (h : ∀ x ∈ hds, x.fmt = 0x20 ∧ x.scl ≠ 0xFF) : LoadDst.fault (.code k) hds addrs = none := by
  refine List.findSome?_eq_none_iff.2 fun x hx => ?_
  obtain ⟨h1, h2⟩ := h x.1 (List.of_mem_zip hx).1
  have : ¬ x.1.scl = 255#8 := h2
  simp [h1, this]

/-- An event is put on the agenda or among the timers. -/
theorem eventAt_updates (c : Col) (x : Int) (e : Ev) (s : State) : (∃ l, eventAt c x e s = [.agenda l]) ∨ ∃ l, eventAt c x e s = [.timers l] := by
  unfold eventAt
  split
  · exact .inl ⟨_, rfl⟩
  · exact .inr ⟨_, rfl⟩
/-- What the publication leaves of the units and of the partitions. -/
theorem cpub_frame (c : Col) (s : State) (m : BitVec 16) (keys : List Nat) (x : Int) :
    let t := perform (fresh (fun id => Act.all [refreshFrontier c, onPart m (fun p => { p with pubs := p.pubs ++ [{ id := id, keys := keys }] }),
      eventAt c x (.codeRangeDiscard m id)])) s
    t.units = s.units ∧ t.parts = s.parts.map (fun p => if p.num == m then { p with pubs := p.pubs ++ [{ id := s.nextId + 1, keys := keys }] } else p) := by
  intro t
  let g := fun (p : Part) => if p.num == m then { p with pubs := p.pubs ++ [{ id := s.nextId + 1, keys := keys }] } else p
  have e : t = run (refreshFrontier c s ++ (.parts ((run (refreshFrontier c s) s).parts.map g) ::
      eventAt c x (.codeRangeDiscard m (s.nextId + 1)) (run [.parts ((run (refreshFrontier c s) s).parts.map g)] (run (refreshFrontier c s) s)) ++ []))
      { s with nextId := s.nextId + 1 } := rfl
  obtain ⟨l, h1⟩ | ⟨l, h1⟩ : (∃ l, refreshFrontier c s = [.agenda l]) ∨ ∃ l, refreshFrontier c s = [.timers l] := eventAt_updates ..
  all_goals
    rw [h1] at e
    obtain ⟨l', h2⟩ | ⟨l', h2⟩ := eventAt_updates c x (.codeRangeDiscard m (s.nextId + 1)) (run [.parts ((run (refreshFrontier c s) s).parts.map g)] (run (refreshFrontier c s) s))
    all_goals
      rw [h1] at h2
      rw [h2] at e
      exact ⟨(congrArg State.units e).trans rfl, (congrArg State.parts e).trans rfl⟩

/-- CPUB at a position of the unit, of blocks of code. -/
theorem execCpub_completes {s : State} {h : Hdr} {a b : Fin 64} {n : Nat} {ps : List Place} (hc : s.clear .k h.sync) (hr : s.ready [a, b] none 0) (hn : (s.my.sd b).toNat / 64 = n)
    (h1 : (s.my.sd b).toNat % 64 = 0) (h2 : 1 ≤ n) (h3 : n ≤ 4096) (h4 : tagOf (s.my.sd a) = 0) (h5 : (s.my.sd a).toNat % 64 = 0)
    (h6 : (s.my.sd a).toNat + 64 * n ≤ 2 ^ 48) (hsm : s.syncMiss s.me s.my s.t = none) (hsf : s.syncFault s.me s.my s.t = none)
    (hx : s.xlate s.my 1 (codeTile (s.my.sd a) n).addrs = .ok ps) (hp : ∀ p ∈ ps, (s.headAt p).fmt = 0x20 ∧ (s.headAt p).scl ≠ 0xFF)
    (hm : s.my.mapped (codeTile (s.my.sd a) n).addrs = true) :
    let o : Outst := { id := 0, stream := .k, issue := s.t, written := some (s.t + s.bdly), isRead := false, sync := true, wide := true, host := true }
    exec (.cpub h a b) s = .next (perform (fresh (fun id => Act.all [refreshFrontier s.me,
        onPart (s.partNum s.me) (fun p => { p with pubs := p.pubs ++ [{ id := id, keys := ps.map Place.key }] }),
        eventAt s.me (s.t + s.bdly) (.codeRangeDiscard (s.partNum s.me) id)]))
      (s.issued .k h.sync 1 { eff := [syncEff .k s.t], unit := fun u =>
        (({ u with maps := u.maps.mend u.maps.cur (s.my.walked (codeTile (s.my.sd a) n).addrs).contains }).synced s.t).addOutst o })) := by
  intro o
  have hr' : kBusy s s.me s.my s.t [a, b] none 0 = none := hr
  have hlen : ((s.my.sd b).toNat % 64 != 0 || decide ((s.my.sd b).toNat < 64) || decide (2 ^ 18 < (s.my.sd b).toNat)) = false := by
    rw [h1, decide_eq_false (by omega), decide_eq_false (by omega)]; rfl
  have hrange := codeRange_none h2 h4 h5 h6
  have hfault : LoadDst.fault (.code 0) (ps.map s.headAt) (codeTile (s.my.sd a) n).addrs = none := code_fault_none (by simpa using hp)
  refine (issueAs_completes hc ?_).trans ?_ <;>
    simp only [hn, hlen, hrange, hsf, hx, Option.isSome_none, Bool.or_self, Bool.false_eq_true, if_false, translated_of_mapped hm]
  · refine ⟨rfl, rfl, ?_, hfault⟩
    simp only [hr', hsm]
  · rfl

/-- Settles O17: the requests one by one. -/
theorem requests : Obligations.Requests := by
  intro s h a b q pri deps level hc mend priv
  refine ⟨fun p hp hq hr => execLaunch_completes hc hp hq hr, fun hr hp => execLaunch_priv hc hr hp, fun j hj hr => ⟨fun hk => ?_, fun hk => ?_⟩,
    fun hr hs => ?_, fun n hr hm hg => ⟨fun hn => ?_, fun hn => ?_⟩, ?_, ?_⟩
  · exact execCancel_completes hc hj hr hk
  · exact execCancel_priv hc hj hr hk
  · exact execSnap_completes hc hr hs
  · exact execWaitg_goes hc hr hm hg hn
  · exact execWaitg_waits hc hr hm hg hn
  · intro w off n go hr h1 h2 h3 h4 h5 h6 h7 h8 h9 hf
    exact execIload_completes hc hr rfl rfl h1 h2 h3 h4 h5 h6 h7 h8 h9 hf
  · intro n ps hr h1 h2 h3 h4 h5 h6 hsm hsf hx hp hm o
    obtain ⟨h1', h2'⟩ := cpub_frame s.me (s.issued .k h.sync 1 { eff := [syncEff .k s.t], unit := fun u => ((mend (codeTile (s.my.sd a) n).addrs u).synced s.t).addOutst o })
      (s.partNum s.me) (ps.map Place.key) (s.t + s.bdly)
    exact ⟨_, execCpub_completes hc hr rfl h1 h2 h3 h4 h5 h6 hsm hsf hx hp hm, h1', h2'⟩
end Sys2Proof.Machine

/-! PROOF. Scalar loads and stores (spec/09_control_stream_rules.md R200 to R202). -/
namespace Sys2Proof.Machine

/-! ## STS.F rounds the FP32 value of its register (R202) -/

/-- S1 holds an address of SP, S3 the FP32 number 1; the block that S1 addresses has the format FP16. -/
def stsS : State :=
  let g : Regs := { Regs.reset with s := (Regs.reset.s.set 1 { data := 0x300000000000003C, tail := 0 }).set 3 { data := 0x3F800000, tail := 0 } }
  { State.reset with
    units := State.reset.units.set 0 { UnitSt.reset with regs := g }
    mems := State.reset.mems.set 0 { Mems.reset with sp := Memory.empty.setHead 0 { fmt := BitVec.ofNat 8 Fmt.fp16.toVTy.blockCode, scl := 0x7F } } }
/-- The access that O9 gives to STS.F of FP16 there: it takes the low half of the register for an FP16 code, which is 0. -/
def stsTold : Attempt :=
  let r := roundFloat .fp16 (image .fp16 ((stsS.my.s 3).pair .fp16)) .rne
  stsS.store stsS.my stsS.me .k stsS.t 3 [(60, 2)] [(0x3000000000000000, { bytesWrite 60 2 r.1 with need := some { fmt := BitVec.ofNat 8 Fmt.fp16.toVTy.blockCode, scl := 0x7F } })] r.2
/-- What an outcome leaves pending in the unit of the turn. -/
def pendOf (c : Col) : Out → List Pend
  | .next t => (t.unit c).pend
  | _ => []

theorem stsS_meets : stsS.clear .k 0 ∧ checkAccess (stsS.my.sd 1) 2 2 [0, 1, 2, 3] = none ∧ stsS.ready [1, 3] none 0 ∧ stsTold.free := by
  unfold State.clear State.ready Attempt.free; decide +kernel
/-- STS.F stores 0x3C00 and not 0. -/
theorem stsS_differs : pendOf 0 (exec (.stsF { sync := 0, idle := 0 } 3 1 .fp16 .rne) stsS) ≠ pendOf 0 (.next (stsS.issuedWith .k 0 1 stsTold)) := by
  decide +kernel

/-- Refutes O9: STS.F takes register d as FP32 (R202), where the statement takes it in the stored format. S3 = 1.0 in FP32 is stored as FP16 1.0, 0x3C00; the
statement has 0 stored, the low half of the register. -/
theorem not_scalarMemory : ¬ Obligations.ScalarMemory := by
  intro h
  obtain ⟨hc, ha, hr, hf⟩ := stsS_meets
  obtain ⟨-, -, hsts, -⟩ := h stsS { sync := 0, idle := 0 } 3 1 .fp16 .i8 .rne hc
  exact stsS_differs (congrArg (pendOf 0) (hsts ha hr hf).1)
end Sys2Proof.Machine

/-! PROOF. Special registers: what a write changes, and SRD and SWR (spec/01_execution_rules.md R22, spec/09_control_stream_rules.md R206, R209, R215). -/
namespace Sys2Proof.Machine

/-! ## What a write leaves of the other registers -/

/-- Two units whose special register n reads the same. -/
structure SameReading (u u' : UnitSt) (n : Nat) : Prop where
  part : u'.ctl.part = u.ctl.part := by rfl
  base : u'.ctl.base = u.ctl.base := by rfl
  fpos : u'.ord.fpos = u.ord.fpos := by rfl
  xmode : u'.xmodeWord = u.xmodeWord := by rfl
  phase : u'.phaseWord = u.phaseWord := by rfl
  mapv : u'.mapvWord = u.mapvWord := by rfl
  epoch : u'.ord.epoch = u.ord.epoch := by rfl
  scpos : u'.ord.scpos = u.ord.scpos := by rfl
  faultf : u'.frm.faultf = u.frm.faultf := by rfl
  faddr : u'.frm.faddr = u.frm.faddr := by rfl
  finfo : u'.frm.finfo = u.frm.finfo := by rfl
  fupc : u'.frm.fupc = u.frm.fupc := by rfl
  fcyc : u'.frm.fcyc = u.frm.fcyc := by rfl
  qsc : u'.regs.qsc = u.regs.qsc := by rfl
  al : 0x020 ≤ n → n ≤ 0x027 → u'.regs.al[Fin.ofNat 8 (n - 0x020)] = u.regs.al[Fin.ofNat 8 (n - 0x020)] := by intros; rfl
  as : 0x028 ≤ n → n ≤ 0x02F → u'.regs.as[Fin.ofNat 8 (n - 0x028)] = u.regs.as[Fin.ofNat 8 (n - 0x028)] := by intros; rfl
  qc : 0x040 ≤ n → n ≤ 0x04F → u'.regs.qc[Fin.ofNat 16 (n - 0x040)] = u.regs.qc[Fin.ofNat 16 (n - 0x040)] := by intros; rfl
  lc : 0x014 ≤ n → n ≤ 0x017 → u'.regs.lc[Fin.ofNat 4 (n - 0x014)] = u.regs.lc[Fin.ofNat 4 (n - 0x014)] := by intros; rfl
  trs : 0x035 ≤ n → n ≤ 0x037 → u'.regs.trs[Fin.ofNat 3 (n - 0x035)] = u.regs.trs[Fin.ofNat 3 (n - 0x035)] := by intros; rfl
  fpc : 0x052 ≤ n → n ≤ 0x057 → u'.frm.fpc[Fin.ofNat 6 (n - 0x052)] = u.frm.fpc[Fin.ofNat 6 (n - 0x052)] := by intros; rfl
  sscr : 0x05A ≤ n → n ≤ 0x05D → u'.frm.sscr[Fin.ofNat 4 (n - 0x05A)] = u.frm.sscr[Fin.ofNat 4 (n - 0x05A)] := by intros; rfl
  limit : n = 0x007 → u'.ctl.limit = u.ctl.limit := by intros; rfl
  tok : n = 0x008 → u'.tokWord = u.tokWord := by intros; rfl
  numst : n = 0x009 → u'.regs.numst = u.regs.numst := by intros; rfl
  trapv : n = 0x00F → u'.trapvWord = u.trapvWord := by intros; rfl
  vrb : n = 0x010 → u'.regs.vrb = u.regs.vrb := by intros; rfl
  prb : n = 0x011 → u'.regs.prb = u.regs.prb := by intros; rfl
  noisec : n = 0x012 → u'.regs.noisec = u.regs.noisec := by intros; rfl
  lreg : n = 0x018 → u'.regs.lreg = u.regs.lreg := by intros; rfl
  lsav : n = 0x019 → u'.regs.lsav = u.regs.lsav := by intros; rfl
  erc : n = 0x030 → u'.regs.erc = u.regs.erc := by intros; rfl
  netb : n = 0x031 → u'.regs.netb = u.regs.netb := by intros; rfl

theorem readSpec_congr {s : State} {c : Col} {u' : UnitSt} {r : Fin 4096} (h : SameReading (s.unit c) u' r.val) :
    State.readSpec { s with units := s.units.set c u' } c r = s.readSpec c r := by
  have hu : State.unit { s with units := s.units.set c u' } c = u' := unit_set_same ..
  have hfr : ∀ k, State.frontier { s with units := s.units.set c u' } c k = s.frontier c k := by
    intro k
    unfold State.frontier
    rw [hu, h.fpos]; rfl
  have hz : State.zoneWord { s with units := s.units.set c u' } c = s.zoneWord c := by
    unfold State.zoneWord
    rw [hu, h.part]
  have hcyc : State.cyc { s with units := s.units.set c u' } c = s.cyc c := rfl
  have hsn : State.snapstWord { s with units := s.units.set c u' } c = s.snapstWord c := rfl
  have hl : ∀ d, State.lattWord { s with units := s.units.set c u' } d = s.lattWord d := fun _ => rfl
  have hg : ∀ d, State.genWord { s with units := s.units.set c u' } d = s.genWord d := fun _ => rfl
  unfold State.readSpec
  simp only [hu, hfr, hz, hcyc, hsn, hl, hg, h.base, h.xmode, h.phase, h.mapv, h.epoch, h.scpos, h.faultf, h.faddr, h.finfo, h.fupc, h.fcyc, h.qsc, Bool.and_eq_true, decide_eq_true_eq]
  refine ite_congr rfl (fun _ => rfl) fun _ => ite_congr rfl (fun hr => h.al hr.1 hr.2) fun _ => ite_congr rfl (fun hr => h.as hr.1 hr.2) fun _ =>
    ite_congr rfl (fun hr => congrArg QCtl.word (h.qc hr.1 hr.2)) fun _ => ite_congr rfl (fun hr => congrArg (BitVec.zeroExtend 64) (h.lc hr.1 hr.2)) fun _ =>
    ite_congr rfl (fun hr => h.trs hr.1 hr.2) fun _ => ite_congr rfl (fun hr => congrArg (BitVec.zeroExtend 64) (h.fpc hr.1 hr.2)) fun _ =>
    ite_congr rfl (fun hr => h.sscr hr.1 hr.2) fun _ => ?_
  have h07 := h.limit
  have h08 := h.tok
  have h09 := h.numst
  have h0F := h.trapv
  have h10 := h.vrb
  have h11 := h.prb
  have h12 := h.noisec
  have h18 := h.lreg
  have h19 := h.lsav
  have h30 := h.erc
  have h31 := h.netb
  clear h hu hfr hz hcyc hsn hl hg
  generalize r.val = n at *
  split <;> simp_all only [forall_const]

theorem ofNat_ne {m : Nat} [NeZero m] {a b k : Nat} (ha : k ≤ a) (ha' : a < k + m) (hb : k ≤ b) (hb' : b < k + m) (h : a ≠ b) : Fin.ofNat m (a - k) ≠ Fin.ofNat m (b - k) := by
  intro e
  have e' : (a - k) % m = (b - k) % m := congrArg Fin.val e
  rw [Nat.mod_eq_of_lt (by omega), Nat.mod_eq_of_lt (by omega)] at e'
  omega

theorem writeSpec_same (u : UnitSt) {sel r : Fin 4096} (v : Dword) (h : r ≠ sel) : SameReading u (u.writeSpec sel v) r.val := by
  have hn : r.val ≠ sel.val := fun e => h (Fin.ext e)
  generalize r.val = n at hn
  unfold UnitSt.writeSpec
  dsimp only
  simp only [Bool.and_eq_true, decide_eq_true_eq]
  split_ifs with h1 h2 h3 h4 h5 h6 h7
  · exact { al := fun a b => vget_set_other _ _ _ _ (ofNat_ne a (by omega) h1.1 (by omega) hn) }
  · exact { as := fun a b => vget_set_other _ _ _ _ (ofNat_ne a (by omega) h2.1 (by omega) hn) }
  · exact { qc := fun a b => vget_set_other _ _ _ _ (ofNat_ne a (by omega) h3.1 (by omega) hn) }
  · exact { lc := fun a b => vget_set_other _ _ _ _ (ofNat_ne a (by omega) h4.1 (by omega) hn) }
  · exact { trs := fun a b => vget_set_other _ _ _ _ (ofNat_ne a (by omega) h5.1 (by omega) hn) }
  · exact { fpc := fun a b => vget_set_other _ _ _ _ (ofNat_ne a (by omega) h6.1 (by omega) hn) }
  · exact { sscr := fun a b => vget_set_other _ _ _ _ (ofNat_ne a (by omega) h7.1 (by omega) hn) }
  split
  · next e => exact { limit := fun a => absurd (a.trans e.symm) hn }
  · next e => exact { tok := fun a => absurd (a.trans e.symm) hn }
  · next e => exact { numst := fun a => absurd (a.trans e.symm) hn }
  · next e => exact { trapv := fun a => absurd (a.trans e.symm) hn }
  · next e => exact { vrb := fun a => absurd (a.trans e.symm) hn }
  · next e => exact { prb := fun a => absurd (a.trans e.symm) hn }
  · next e => exact { noisec := fun a => absurd (a.trans e.symm) hn }
  · next e => exact { lreg := fun a => absurd (a.trans e.symm) hn }
  · next e => exact { lsav := fun a => absurd (a.trans e.symm) hn }
  · next e => exact { erc := fun a => absurd (a.trans e.symm) hn }
  · next e => exact { netb := fun a => absurd (a.trans e.symm) hn }
  · exact {}

/-! ## What a register reads after its own write -/

/-- The state after a write to a special register has taken effect. -/
def State.afterSpec (s : State) (c : Col) (sel : Fin 4096) (v : Dword) : State := { s with units := s.units.set c ((s.unit c).applyEff (.spec sel v)) }
theorem afterSpec_unit {s : State} {c : Col} {sel : Fin 4096} {v : Dword} : (s.afterSpec c sel v).unit c = (s.unit c).writeSpec sel v := unit_set_same ..

section
variable {s : State} {c : Col} {sel : Fin 4096} {v : Dword}

theorem readSpec_al (h1 : 0x020 ≤ sel.val) (h2 : sel.val ≤ 0x027) : (s.afterSpec c sel v).readSpec c sel = v := by
  simp (disch := omega) only [State.readSpec, afterSpec_unit, UnitSt.writeSpec, Bool.and_eq_true, decide_eq_true_eq, if_pos, if_neg, vget_set_same]
theorem readSpec_as (h1 : 0x028 ≤ sel.val) (h2 : sel.val ≤ 0x02F) : (s.afterSpec c sel v).readSpec c sel = v := by
  simp (disch := omega) only [State.readSpec, afterSpec_unit, UnitSt.writeSpec, Bool.and_eq_true, decide_eq_true_eq, if_pos, if_neg, vget_set_same]
theorem readSpec_sscr (h1 : 0x05A ≤ sel.val) (h2 : sel.val ≤ 0x05D) : (s.afterSpec c sel v).readSpec c sel = v := by
  simp (disch := omega) only [State.readSpec, afterSpec_unit, UnitSt.writeSpec, Bool.and_eq_true, decide_eq_true_eq, if_pos, if_neg, vget_set_same]
theorem readSpec_lc (h1 : 0x014 ≤ sel.val) (h2 : sel.val ≤ 0x017) : (s.afterSpec c sel v).readSpec c sel = (v.truncate 32).zeroExtend 64 := by
  simp (disch := omega) only [State.readSpec, afterSpec_unit, UnitSt.writeSpec, Bool.and_eq_true, decide_eq_true_eq, if_pos, if_neg, vget_set_same]
theorem readSpec_fpc (h1 : 0x052 ≤ sel.val) (h2 : sel.val ≤ 0x057) : (s.afterSpec c sel v).readSpec c sel = (v.truncate 18).zeroExtend 64 := by
  simp (disch := omega) only [State.readSpec, afterSpec_unit, UnitSt.writeSpec, Bool.and_eq_true, decide_eq_true_eq, if_pos, if_neg, vget_set_same]
theorem readSpec_trs (h1 : 0x035 ≤ sel.val) (h2 : sel.val ≤ 0x037) : (s.afterSpec c sel v).readSpec c sel = v &&& 0x800000000000FFFF := by
  simp (disch := omega) only [State.readSpec, afterSpec_unit, UnitSt.writeSpec, Bool.and_eq_true, decide_eq_true_eq, if_pos, if_neg, vget_set_same]; rfl
theorem readSpec_qc (h1 : 0x040 ≤ sel.val) (h2 : sel.val ≤ 0x04F) : (s.afterSpec c sel v).readSpec c sel = (QCtl.ofWord v).word := by
  simp (disch := omega) only [State.readSpec, afterSpec_unit, UnitSt.writeSpec, Bool.and_eq_true, decide_eq_true_eq, if_pos, if_neg, vget_set_same]
theorem readSpec_limit (h : sel = 0x007) : (s.afterSpec c sel v).readSpec c sel = (v.truncate 32).zeroExtend 64 := by
  subst h; rw [State.readSpec, afterSpec_unit]; rfl
theorem readSpec_lsav (h : sel = 0x019) : (s.afterSpec c sel v).readSpec c sel = (v.truncate 32).zeroExtend 64 := by
  subst h; rw [State.readSpec, afterSpec_unit]; rfl
theorem readSpec_vrb (h : sel = 0x010) : (s.afterSpec c sel v).readSpec c sel = (v.truncate 5).zeroExtend 64 := by
  subst h; rw [State.readSpec, afterSpec_unit]; rfl
theorem readSpec_prb (h : sel = 0x011) : (s.afterSpec c sel v).readSpec c sel = (v.truncate 3).zeroExtend 64 := by
  subst h; rw [State.readSpec, afterSpec_unit]; rfl
theorem readSpec_noisec (h : sel = 0x012) : (s.afterSpec c sel v).readSpec c sel = (v.truncate 2).zeroExtend 64 := by
  subst h; rw [State.readSpec, afterSpec_unit]; rfl
theorem readSpec_netb (h : sel = 0x031) : (s.afterSpec c sel v).readSpec c sel = (v.truncate 16).zeroExtend 64 := by
  subst h; rw [State.readSpec, afterSpec_unit]; rfl
theorem readSpec_lreg (h : sel = 0x018) : (s.afterSpec c sel v).readSpec c sel = v &&& 0xFFFFC0000000FFFF := by
  subst h; rw [State.readSpec, afterSpec_unit]; rfl
theorem readSpec_erc (h : sel = 0x030) : (s.afterSpec c sel v).readSpec c sel = if v.getLsbD 0 then 1 else 0 := by
  subst h; rw [State.readSpec, afterSpec_unit]; rfl
theorem readSpec_tok (h : sel = 0x008) : (s.afterSpec c sel v).readSpec c sel = ((s.unit c).writeSpec 0x008 v).tokWord := by
  subst h; rw [State.readSpec, afterSpec_unit]; rfl
theorem readSpec_trapv (h : sel = 0x00F) : (s.afterSpec c sel v).readSpec c sel = ((s.unit c).writeSpec 0x00F v).trapvWord := by
  subst h; rw [State.readSpec, afterSpec_unit]; rfl
/-- A register without a writable field (R215). -/
theorem writeSpec_readOnly {u : UnitSt} (h : sel.val ∈ [0x000, 0x001, 0x002, 0x003, 0x004, 0x005, 0x006, 0x00A, 0x00B, 0x00C, 0x00D, 0x00E, 0x013, 0x038, 0x03A, 0x050, 0x051, 0x058, 0x05E] ∨
    (0x200 ≤ sel.val ∧ sel.val ≤ 0x3FF)) : u.writeSpec sel v = u := by
  simp only [List.mem_cons, List.not_mem_nil, or_false] at h
  simp (disch := omega) only [UnitSt.writeSpec, Bool.and_eq_true, decide_eq_true_eq, if_neg]
end

/-! The words of the fields. -/

theorem zeroExtend_truncate (v : Dword) (k : Nat) : (v.truncate k).zeroExtend 64 = BitVec.ofNat 64 (v.toNat % 2 ^ k) := by
  apply BitVec.eq_of_toNat_eq; simp
theorem queueWord (v : Dword) : (QCtl.ofWord v).word = BitVec.ofNat 64 (v.toNat / 2 ^ 12 % 2 ^ 28 * 2 ^ 12 + v.toNat / 2 ^ 28 % 2 ^ 12 * 2 ^ 40) := by
  have e : (QCtl.ofWord v).word = BitVec.ofNat 64 (bits v.toNat 39 28 * 2 ^ 40 + bits v.toNat 39 28 * 2 ^ 28 + bits v.toNat 27 26 % 4 * 2 ^ 26 + bits v.toNat 25 12 * 2 ^ 12 + 0) := rfl
  rw [e]
  refine congrArg (BitVec.ofNat 64) ?_
  simp only [bits]
  omega
theorem lowBit (v : Dword) : (if v.getLsbD 0 then 1 else 0 : Dword) = BitVec.ofNat 64 (v.toNat % 2) := by
  rw [BitVec.getLsbD, Nat.testBit_zero]
  rcases Nat.mod_two_eq_zero_or_one v.toNat with h | h <;> simp [h]
theorem writeSpec_trapv (u : UnitSt) (v : Dword) :
    u.writeSpec 0x00F v = { u with frm := { u.frm with en := v.getLsbD 63, entry := v.truncate 18 } } := rfl
theorem writeSpec_tok (u : UnitSt) (v : Dword) : u.writeSpec 0x008 v =
    { u with ord := { u.ord with tok := .ofFn (fun i => Fin.ofNat 16 (bits v.toNat (4 * i.val + 3) (4 * i.val))) } } := rfl
theorem topBit (v : Dword) : boolCode (v.getLsbD 63) = v.toNat / 2 ^ 63 := by
  have := v.isLt
  rw [BitVec.getLsbD, Nat.testBit_eq_decide_div_mod_eq, boolCode]
  split <;> rename_i h <;> simp at h <;> omega
theorem trapvWord_written (u : UnitSt) (v : Dword) :
    (u.writeSpec 0x00F v).trapvWord = BitVec.ofNat 64 (v.toNat / 2 ^ 63 * 2 ^ 63 + boolCode u.frm.insv * 2 ^ 62 + v.toNat % 2 ^ 18) := by
  rw [writeSpec_trapv, UnitSt.trapvWord]
  simp only [topBit, BitVec.truncate_eq_setWidth, BitVec.toNat_setWidth]
/-- Fields of four bits are the word below the last of them. -/
theorem nibbles (x n : Nat) : (List.range n).foldl (fun a i => a + bits x (4 * i + 3) (4 * i) % 16 * 16 ^ i) 0 = x % 16 ^ n := by
  induction n with
  | zero => simp [Nat.mod_one]
  | succ n ih =>
    have hb : bits x (4 * n + 3) (4 * n) % 16 = x / 16 ^ n % 16 := by
      have e : 4 * n + 3 + 1 - 4 * n = 4 := by omega
      rw [bits, e, Nat.pow_mul]
      exact Nat.mod_mod ..
    rw [List.range_succ, List.foldl_append, ih, List.foldl_cons, List.foldl_nil, hb, Nat.pow_succ, Nat.mod_mul, Nat.mul_comm (16 ^ n)]
theorem tokWord_written (u : UnitSt) (v : Dword) : (u.writeSpec 0x008 v).tokWord = BitVec.ofNat 64 (v.toNat % 2 ^ 48) := by
  have e : v.toNat % 2 ^ 48 = v.toNat % 16 ^ 12 := rfl
  rw [e, ← nibbles, writeSpec_tok, UnitSt.tokWord]
  refine congrArg (BitVec.ofNat 64) (List.foldl_ext _ _ _ fun a i hi => ?_)
  have hi' : i % 12 = i := Nat.mod_eq_of_lt (List.mem_range.1 hi)
  simp [hi']

/-- The parts of a unit that no special register stands for. -/
theorem writeSpec_registers (u : UnitSt) (sel : Fin 4096) (v : Dword) : let w := u.writeSpec sel v
    w.pend = u.pend ∧ w.regs.s = u.regs.s ∧ w.regs.tiles = u.regs.tiles ∧ w.regs.p = u.regs.p := by
  unfold UnitSt.writeSpec
  dsimp only
  split_ifs
  iterate 7 exact ⟨rfl, rfl, rfl, rfl⟩
  split <;> exact ⟨rfl, rfl, rfl, rfl⟩
theorem afterSpec_readOnly {s : State} {c : Col} {sel : Fin 4096} {v : Dword} (h : (s.unit c).writeSpec sel v = s.unit c) : s.afterSpec c sel v = s := by
  have e : s.units.set c ((s.unit c).writeSpec sel v) = s.units := by rw [h]; exact Vector.set_getElem_self ..
  exact congrArg (fun us => ({ s with units := us } : State)) e

/-! ## SRD and SWR -/

section
variable {s : State} {h : Hdr} {d : Fin 64} {sel : Fin 4096}

theorem execSrd_completes (hc : s.clear .k h.sync) (hv : selSV sel = false ∨ s.my.frm.insv = true) (hr : s.ready [] (some d) 1) :
    exec (.srd h d sel) s = .next (s.issued .k h.sync 1 { eff := [s.writes d { data := s.srdWord s.me sel, tail := 0 } 1] }) :=
  issueAs_issues hc ⟨rfl, by obtain e | e := hv <;> simp [e], hr, rfl⟩ rfl
/-- A turn that was not put off reads the register, a later one what was kept. -/
theorem srdWord_first (h : s.cur.turn = 0 ∨ s.my.eng.srd = none) : s.srdWord s.me sel = s.readSpec s.me sel := by
  have e : s.my.eng.srd.filter (fun x => x.1 == s.now s.me && 0 < s.cur.turn) = none := by
    obtain e | e := h
    · simp [e]
    · rw [e]; rfl
  have e' : (s.unit s.me).eng.srd.filter (fun x => x.1 == s.now s.me && 0 < s.cur.turn) = none := e
  rw [State.srdWord, e']
theorem srdWord_kept {w : Dword} (ht : 0 < s.cur.turn) (h : s.my.eng.srd = some (s.t, w)) : s.srdWord s.me sel = w := by
  have e : (s.unit s.me).eng.srd.filter (fun x => x.1 == s.now s.me && 0 < s.cur.turn) = some (s.t, w) := by
    have h' : (s.unit s.me).eng.srd = some (s.t, w) := h
    rw [h', Option.filter_some, if_pos]
    simp [ht, State.t]
  rw [State.srdWord, e]
theorem swrFault_eq (v : Dword) : swrFault sel v =
    if 0x040 ≤ sel.val ∧ sel.val ≤ 0x04F ∧ 2 ^ 20 < 64 * (QCtl.ofWord v).base + (QCtl.ofWord v).depth * (QCtl.ofWord v).slotBytes then some (windowFault 3 0)
    else if sel = 0x012 ∧ v.toNat % 4 = 3 then some (flt .illegalEncoding) else none := by
  simp only [swrFault, QCtl.passes, Bool.and_eq_true, decide_eq_true_eq, beq_iff_eq, and_assoc, gt_iff_lt]
theorem execSwr_answers (hc : s.clear .k h.sync) (hv : selSV sel = false ∨ s.my.frm.insv = true) (hr : s.ready [d] none 0) :
    exec (.swr h d sel) s = match swrFault sel (s.my.sd d) with
      | some e => .next (perform (takeFault s.me .k e) s)
      | none => .next (s.issued .k h.sync 1
          { eff := [s.lands .k (if sel = 0x009 then .numstClear ((s.my.sd d).truncate 7 &&& 0x7D) else .spec sel (s.my.sd d)) 1] }) := by
  have hp : (selSV sel && !s.my.frm.insv) = false := by obtain e | e := hv <;> simp [e]
  split
  · next e he => exact issueAs_fault hc rfl hp hr he
  · next he =>
    refine issueAs_issues hc ⟨rfl, hp, hr, he⟩ ?_
    by_cases h9 : sel = 0x009 <;> simp only [h9, beq_iff_eq, if_true, if_false] <;> rfl
end

/-- Settles O10: the register written by its field map, the others by `SameReading`. -/
theorem specialRegisters : Obligations.SpecialRegisters := by
  refine ⟨fun s c sel v => ?_, fun s h d sel hc => ⟨fun hv => ⟨fun hr => ⟨execSrd_completes hc hv hr, srdWord_first, fun w => srdWord_kept⟩, fun hr => ?_⟩, fun hsv hi i hm => ?_⟩⟩
  · intro u t n x reads among
    have ht : t = s.afterSpec c sel v := rfl
    clear_value t
    subst ht
    obtain ⟨p1, p2, p3, p4⟩ := writeSpec_registers (s.unit c) sel v
    rw [← afterSpec_unit] at p1 p2 p3 p4
    refine ⟨?_, ?_, fun hn => (readSpec_qc hn.1 hn.2).trans (queueWord v), fun hn => readSpec_trs hn.1 hn.2, fun hn => readSpec_lreg (Fin.ext hn),
      fun hn => (readSpec_fpc hn.1 hn.2).trans (zeroExtend_truncate ..), fun hn => (readSpec_tok (Fin.ext hn)).trans (tokWord_written ..),
      fun hn => (readSpec_trapv (Fin.ext hn)).trans (trapvWord_written ..), fun hn => (readSpec_vrb (Fin.ext hn)).trans (zeroExtend_truncate ..),
      fun hn => (readSpec_prb (Fin.ext hn)).trans (zeroExtend_truncate ..), fun hn => (readSpec_noisec (Fin.ext hn)).trans (zeroExtend_truncate ..),
      fun hn => (readSpec_erc (Fin.ext hn)).trans (lowBit v), fun hn => (readSpec_netb (Fin.ext hn)).trans (zeroExtend_truncate ..),
      fun hn => afterSpec_readOnly (writeSpec_readOnly hn), fun r hr => readSpec_congr (writeSpec_same _ v hr), p1, p2, p3, p4⟩
    · rintro (⟨h1, h2⟩ | ⟨h1, h2⟩)
      · by_cases hn : n ≤ 0x027
        · exact readSpec_al h1 hn
        · exact readSpec_as (by omega) h2
      · exact readSpec_sscr h1 h2
    · rintro (⟨h1, h2⟩ | hn | hn)
      · exact (readSpec_lc h1 h2).trans (zeroExtend_truncate ..)
      · exact (readSpec_limit (Fin.ext hn)).trans (zeroExtend_truncate ..)
      · exact (readSpec_lsav (Fin.ext hn)).trans (zeroExtend_truncate ..)
  · rw [execSwr_answers hc hv hr, swrFault_eq]
    split_ifs <;> rfl
  · have hp : (selSV sel && !s.my.frm.insv) = true := by simp [hsv, hi]
    simp only [List.mem_cons, List.not_mem_nil, or_false] at hm
    obtain rfl | rfl := hm
    · exact issueAs_priv rfl (sync_clear hc.1) hp
    · exact issueAs_priv rfl (sync_clear hc.1) hp
end Sys2Proof.Machine

/-! PROOF. Loads of L, queues, records and the engine FIFOs (spec/11_data_streams_rules.md R234 to R237, R247 to R255). -/
namespace Sys2Proof.Machine

/-! ## Tile loads (R234 to R237, R247, R251, R253) -/

/-- A load of L whose record and addresses are in order is the access of its tile with its post-increment. -/
theorem tileLoad_ok {s : State} {c : Col} {u : UnitSt} {now : Int} {m : LMem} {f : LForm}
    (hb : (layoutOf u.regs.ly[m.y]).fieldBad = false) (hs : f.shape (layoutOf u.regs.ly[m.y]) = false)
    (hk : (layoutOf u.regs.ly[m.y]).checkRows (f.rows (layoutOf u.regs.ly[m.y]))
      (fun r => (layoutOf u.regs.ly[m.y]).rowAddr (u.memAddr false m.ax m.pi m.disp) (f.index r)) [0, 2, 3] = none) :
    let w := u.regs.ly[m.y]
    let l := layoutOf w
    let go := s.load u c .l now (l.tile (f.rows l) (fun r => l.rowAddr (u.memAddr false m.ax m.pi m.disp) (f.index r))) f.extra (f.dst w) (f.dest l)
    s.tileLoad c u now m f = { go with eff := go.eff ++ u.postInc .l false m.ax m.pi m.disp now } := by
  simp only [State.tileLoad, hb, hs, hk, Bool.false_eq_true, if_false]

/-- In a buffer window a load takes the port from issue + 1 and its destination after it. -/
theorem load_chip {s : State} {c : Col} {u : UnitSt} {now : Int} {x : Stream} {t : Tile} {extra : Nat} {dst : LoadDst} {dest : Option (Port × Nat)} {k : Mem}
    (h : winMem t.window = some k) : s.load u c x now t extra dst dest = s.chipLoad u c x now k t (occOf k t.spans) extra dst dest := by
  rw [State.load, h]

/-- What such a load leaves pending, and its signal cycle. -/
theorem load_chip_effect {s : State} {t : Tile} {extra : Nat} {dst : LoadDst} {port : Option (Port × Nat)} {k : Mem} (hk : winMem t.window = some k) :
    let n := 4 + occOf k t.spans + extra
    let blks := t.addrs.map blkOf
    (s.load s.my s.me .l s.t t extra dst port).sig = n ∧
      (s.load s.my s.me .l s.t t extra dst port).eff = [s.lands .l (.capture k (((blks.zip (blks.map (fun b => (s.mem s.me k).head b))).zip
        (portCycles k (occOf k t.spans) t.addrs)).map (fun y => (y.1.1, y.1.2, s.t + 1 + (y.2 : Int)))) [] dst (s.t + n)) 1] := by
  rw [load_chip hk]
  exact ⟨rfl, rfl⟩

/-- An attempt that is known. -/
theorem issueAs_completes_of {s : State} {x : Stream} {sync : Fin 16} {len : Nat} {f : State → Col → UnitSt → Int → Attempt} {a : Attempt}
    (h : s.clear x sync) (e : f s s.me s.my s.t = a) (g : a.free) : done (issueAs x sync len f) s = .next (s.issuedWith x sync len a) := by
  subst e; exact issueAs_completes h g

/-- VLDG reads its indices through the row port of T0 (R247). -/
theorem execVldg_completes {s : State} {h : Hdr} {v x : Fin 64} {m : LMem} (hc : s.clear .l h.sync)
    (hb : (layoutOf s.my.regs.ly[m.y]).fieldBad = false)
    (hs : (decide (256 < (layoutOf s.my.regs.ly[m.y]).rows) || decide ((layoutOf s.my.regs.ly[m.y]).ltype.lanes < (layoutOf s.my.regs.ly[m.y]).elems)) = false)
    (hk : (layoutOf s.my.regs.ly[m.y]).checkRows (layoutOf s.my.regs.ly[m.y]).rows
      (fun r => (layoutOf s.my.regs.ly[m.y]).rowAddr (s.my.memAddr false m.ax m.pi m.disp) ((s.my.v x).lane 16 r)) [0, 2, 3] = none)
    (hp : s.my.portFree (.tileR 0) s.t 1 = true) (hr : s.my.rowsClear s.t (s.my.vRows [x]) = true) :
    let w := s.my.regs.ly[m.y]
    let l := layoutOf w
    let go := s.load s.my s.me .l s.t (l.tile l.rows (fun r => l.rowAddr (s.my.memAddr false m.ax m.pi m.disp) ((s.my.v x).lane 16 r))) 0
      (.vec (s.my.regs.physV v) w false) (some (.tileW 0, 1))
    go.free → exec (.vldg h v m x) s = .next (s.issuedWith .l h.sync 2
      { go with eff := go.eff ++ s.my.postInc .l false m.ax m.pi m.disp s.t, unit := fun u => (go.unit u).takePort (.tileR 0) s.t 1 }) := by
  intro w l go hf
  have e : s.tileLoad s.me s.my s.t m
      { rows := (·.rows), index := fun r => (s.my.v x).lane 16 r, shape := fun l => 256 < l.rows || l.ltype.lanes < l.elems,
        dst := fun rec => .vec (s.my.regs.physV v) rec false, dest := regPort } = { go with eff := go.eff ++ s.my.postInc .l false m.ax m.pi m.disp s.t } :=
    tileLoad_ok hb hs hk
  clear_value go
  obtain ⟨f1, f2, f3, f4⟩ := hf
  refine issueAs_completes_of hc ?_ ⟨f1, f2, f3, f4⟩
  dsimp only
  rw [e, Attempt.reads_clear hr, hp]
  rfl

/-- LTR where no gather holds OPA (R253, R292). -/
theorem execLtr_completes {s : State} {h : Hdr} {lat : OpLat} {m : LMem} (hc : s.clear .l h.sync)
    (hb : (layoutOf s.my.regs.ly[m.y]).fieldBad = false) (hs : decide (65536 < (layoutOf s.my.regs.ly[m.y]).latchBytes) = false)
    (hk : (layoutOf s.my.regs.ly[m.y]).checkRows (layoutOf s.my.regs.ly[m.y]).rows ((layoutOf s.my.regs.ly[m.y]).rowAddr (s.my.memAddr false m.ax m.pi m.disp)) [0, 2, 3] = none)
    (hg : (lat == .opa && s.my.eng.gather.isSome) = false) :
    let w := s.my.regs.ly[m.y]
    let l := layoutOf w
    let go := s.load s.my s.me .l s.t (l.tile l.rows (l.rowAddr (s.my.memAddr false m.ax m.pi m.disp))) 2 (.latch lat w) none
    go.free → exec (.ltr h lat m) s = .next (s.issuedWith .l h.sync 2 { go with eff := go.eff ++ s.my.postInc .l false m.ax m.pi m.disp s.t }) := by
  intro w l go hf
  have e : s.tileLoad s.me s.my s.t m { rows := (·.rows), shape := fun l => 65536 < l.latchBytes, extra := 2, dst := fun rec => .latch lat rec } =
      { go with eff := go.eff ++ s.my.postInc .l false m.ax m.pi m.disp s.t } := tileLoad_ok hb hs hk
  clear_value go
  obtain ⟨f1, f2, f3, f4⟩ := hf
  refine issueAs_completes_of hc ?_ ⟨f1, f2, f3, f4⟩
  dsimp only
  rw [e, hg]
  rfl

/-- Settles O23: the tile's access, then its cycles in a buffer window. -/
theorem tileLoads : Obligations.TileLoads := by
  intro s h v x m lat hc u w l addr inc own ix reg loads
  refine ⟨fun h1 hb hk hf => ⟨?_, fun k hw => load_chip_effect hw⟩, fun h1 hb hk hf => ⟨?_, fun k hw => load_chip_effect hw⟩, fun h1 h2 h3 h4 hb hk hf => ⟨?_, fun k hw => load_chip_effect hw⟩,
    fun h1 hb hk hf => ⟨?_, fun k hw => load_chip_effect hw⟩, fun h1 h2 hb hk hf => ⟨?_, fun k hw => load_chip_effect hw⟩⟩ <;> obtain ⟨f1, f2, f3, f4⟩ := hf
  · exact issueAs_completes_of hc (tileLoad_ok hb (decide_eq_false (Nat.not_lt.2 h1)) hk) ⟨f1, f2, f3, f4⟩
  · exact issueAs_completes_of hc (tileLoad_ok hb (decide_eq_false (Nat.not_lt.2 h1)) hk) ⟨f1, f2, f3, f4⟩
  · have hs : (decide (256 < l.rows) || decide (l.ltype.lanes < l.elems)) = false := by
      rw [decide_eq_false (Nat.not_lt.2 h1), decide_eq_false (Nat.not_lt.2 h2)]; rfl
    exact execVldg_completes hc hb hs hk h3 h4 ⟨f1, f2, f3, f4⟩
  · exact issueAs_completes_of hc (tileLoad_ok hb (decide_eq_false (Nat.not_lt.2 h1)) hk) ⟨f1, f2, f3, f4⟩
  · have hg : (lat == .opa && u.eng.gather.isSome) = false := by
      cases lat
      · rw [h2 rfl]; rfl
      · rfl
    exact execLtr_completes hc hb (decide_eq_false (Nat.not_lt.2 h1)) hk hg ⟨f1, f2, f3, f4⟩

/-! ## Queues, records and FIFOs (R249, R250, R252, R255) -/

/-- QLD takes the tail slot of a queue that has one. -/
theorem execQld_completes {s : State} {h : Hdr} {n : Fin 16} {m : LMem} {q : QCtl} (hq : s.my.regs.qc[n] = q) (hc : s.clear .l h.sync) (hd : q.depth ≠ 0) (hfree : 0 < q.free)
    (hb : (layoutOf s.my.regs.ly[m.y]).fieldBad = false) (hs : (layoutOf s.my.regs.ly[m.y]).blks * 64 = q.slotBytes)
    (hk : (layoutOf s.my.regs.ly[m.y]).checkRows (layoutOf s.my.regs.ly[m.y]).rows ((layoutOf s.my.regs.ly[m.y]).rowAddr (s.my.memAddr false m.ax m.pi m.disp)) [0, 2, 3] = none) :
    let w := s.my.regs.ly[m.y]
    let l := layoutOf w
    let addr := s.my.memAddr false m.ax m.pi m.disp
    let go := s.load s.my s.me .l s.t (l.tile l.rows (l.rowAddr addr)) 0 (.slot q.tail w) (some (.spW, slotOcc q.tail l.blks))
    let far := tagOf addr == 0
    let id := s.nextId + 1
    let blks := (List.range (q.slotBytes / 64)).map (fun i =>
      ({ id := if far then id else 0, mem := some .sp, blk := q.tail / 64 + i, far := far, due := if far then none else some (s.t + go.sig), place := none } : PendBlk))
    go.free → exec (.qld h n m) s = .next (s.issuedWith .l h.sync 2 { go with
      eff := go.eff ++ s.my.postInc .l false m.ax m.pi m.disp s.t
      more := Act.seq go.more (Act.when far (reserveLoad id))
      unit := fun u =>
        let u := if far then (go.unit u).trackFar id .l s.t false false false else (go.unit u).track .l s.t (s.t + go.sig) false
        { u with ord := { u.ord with pblks := u.ord.pblks ++ blks }, regs := { u.regs with qc := u.regs.qc.set n { q with free := q.free - 1 } } } }) := by
  intro w l addr go far id blks hf
  subst hq
  have e : s.tileLoad s.me s.my s.t m
      { rows := (·.rows), shape := fun l => l.blks * 64 != (s.my.regs.qc[n]).slotBytes, dst := fun rec => .slot (s.my.regs.qc[n]).tail rec,
        dest := fun l => some (.spW, slotOcc (s.my.regs.qc[n]).tail l.blks) } = { go with eff := go.eff ++ s.my.postInc .l false m.ax m.pi m.disp s.t } :=
    tileLoad_ok hb (by rw [bne_eq_false_iff_eq]; exact hs) hk
  have hd' : ((s.my.regs.qc[n]).depth == 0) = false := beq_eq_false_iff_ne.2 hd
  have hf' : ((s.my.regs.qc[n]).free == 0) = false := beq_eq_false_iff_ne.2 (Nat.ne_of_gt hfree)
  clear_value go
  obtain ⟨f1, f2, f3, f4⟩ := hf
  refine issueAs_completes_of hc ?_ ⟨f1, f2, f3, f4⟩
  dsimp only
  rw [hd', e, hf']
  rfl

section
variable {s : State} {h : Hdr} {m : LMem}

/-- LREC from the REC window, and from another one. -/
theorem execLrec_rec (hc : s.clear .l h.sync) (ht : tagOf (s.my.memAddr false m.ax m.pi m.disp) = 5)
    (hk : checkAccess (s.my.memAddr false m.ax m.pi m.disp) 64 64 [0, 2, 3, 5] = none) (ha : s.accessHeld s.my s.t = false) :
    exec (.lrec h m) s = .next (s.issued .l h.sync 2
      { eff := s.lands .l (.recCopy (Fin.ofNat 256 (offOf (s.my.memAddr false m.ax m.pi m.disp) / 64)) m.y (s.t + 5)) 1 :: s.my.postInc .l false m.ax m.pi m.disp s.t
        unit := fun u => u.track .l s.t (s.t + 5) true
        sig := 5 }) := by
  refine issueAs_issues hc ?_ ?_ <;> simp only [hk, ht, ha, beq_self_eq_true, if_true, Bool.false_eq_true, if_false]
  · exact ⟨rfl, rfl, rfl, rfl⟩
  · rfl
theorem execLrec_load (hc : s.clear .l h.sync) (ht : tagOf (s.my.memAddr false m.ax m.pi m.disp) ≠ 5)
    (hk : checkAccess (s.my.memAddr false m.ax m.pi m.disp) 64 64 [0, 2, 3, 5] = none) :
    let addr := s.my.memAddr false m.ax m.pi m.disp
    let a := s.load s.my s.me .l s.t { addrs := [addr], skips := [false], spans := [(offOf addr, 64)] } 0 (.lrec m.y) none
    a.free → exec (.lrec h m) s = .next (s.issuedWith .l h.sync 2 { a with eff := a.eff ++ s.my.postInc .l false m.ax m.pi m.disp s.t }) := by
  intro addr a ⟨f1, f2, f3, f4⟩
  refine issueAs_completes_of hc ?_ ⟨f1, f2, f3, f4⟩
  simp only [hk, beq_eq_false_iff_ne.2 ht, Bool.false_eq_true, if_false]
  rfl

/-- QCW by whether its queue passes the end of SP (R98). -/
theorem execQcw_answers {n : Fin 16} {a : Fin 64} (hc : s.clear .l h.sync) : let q := QCtl.ofWord (s.my.sd a)
    exec (.qcw h n a) s = if 2 ^ 20 < 64 * q.base + q.depth * q.slotBytes then .next (perform (takeFault s.me .l (windowFault 3 0)) s)
      else .next (s.issued .l h.sync 2 { eff := [s.lands .l (.queue n q) 1] }) := by
  intro q
  by_cases hp : 2 ^ 20 < 64 * q.base + q.depth * q.slotBytes
  · have hq : q.passes = true := decide_eq_true hp
    rw [if_pos hp]
    exact issueAs_fault hc rfl rfl rfl (if_pos hq)
  · have hq : q.passes = false := decide_eq_false hp
    rw [if_neg hp]
    exact issueAs_issues hc ⟨rfl, rfl, rfl, if_neg (by rw [hq]; exact Bool.false_ne_true)⟩ rfl
theorem laterFifo (u : UnitSt) (x : Stream) (sync : Fin 16) (ps : List Pend) (f : Fifo) : ((u.codeOrder x sync).later ps).fifo f = u.fifo f := by
  cases f <;> rfl
/-- POP of a word that has been delivered. -/
theorem execPop_completes {v : Fin 64} {f : Fifo} {e : FifoEnt} {l : List FifoEnt} {w : Dword} (hc : s.clear .l h.sync) (hf : s.my.fifo f = e :: l) (he : e.word = some w)
    (hp : s.my.portFree (.tileW 0) (s.t + 2) 1 = true) :
    exec (.pop h v f) s = .next (s.issued .l h.sync 2
      { eff := [s.lands .l (.row (vRow (s.my.regs.physV v)) allData allTail { data := w.zeroExtend 4096, tail := 0 }) 2]
        unit := fun u => (u.setFifo f l).takePort (.tileW 0) (s.t + 2) 1
        sig := 2 }) := by
  have hw : (s.my.fifo f).head?.bind (·.word) = some w := by rw [hf]; exact he
  rw [← scalarImg_ofData]
  refine issueAs_issues hc ⟨rfl, rfl, ?_, rfl⟩ ?_
  · simp only [hw, hp]; rfl
  · rw [issuedWith_quiet rfl rfl, issued_unit_eq (g := fun u => (u.setFifo f l).takePort (.tileW 0) (s.t + 2) 1)]
    · simp only [hw]; rfl
    · have e' : ∀ ps, (((s.my.codeOrder .l h.sync).later ps).fifo f).drop 1 = l := fun ps => by
        rw [laterFifo, hf]; rfl
      simp only [e']
end

/-- Settles O24: the forms one by one. -/
theorem slotAndRecordLoads : Obligations.SlotAndRecordLoads := by
  refine ⟨fun s h n m hc => ⟨fun hd hfree hb hs hk hf => execQld_completes rfl hc hd hfree hb hs hk hf, fun ht hk ha => execLrec_rec hc ht hk ha,
    fun ht hk hf => execLrec_load hc ht hk hf⟩, fun s h n a v f e l w hc => ⟨execQcw_answers hc, fun hf he hp => execPop_completes hc hf he hp⟩⟩
end Sys2Proof.Machine

/-! PROOF. Reads and writes of an open row (R246). -/
namespace Sys2Proof.Machine

section
variable {s : State} {h : Hdr}

/-- A block of an extent that is not shared raises no race, and leaves its shadow word (R343). -/
theorem vrdRace_quiet {c : Col} {x : Option (Extent × Nat)} (hx : ∀ y, x = some y → y.1.sh = false) (t : State) (pa : Nat) : t.vrdRace c x pa = .ok none := by
  cases x with
  | none => rfl
  | some y => simp only [State.vrdRace, hx y rfl, Bool.false_eq_true, if_false]
theorem vrdBlock_quiet {c : Col} {x : Option (Extent × Nat)} (hx : ∀ y, x = some y → y.1.sh = false) (pa i : Nat) : vrdBlock c x pa i = Act.none := by
  funext t
  rw [vrdBlock, vrdRace_quiet hx]
  rfl

/-- What a VRD that nothing holds off does: the row command, the port, and one landing effect. -/
def vrdIssue (s : State) (bank : Fin 16) (row : Fin 8192) (p : Port) (e : Eff) (w : Bool) : Attempt :=
  { eff := [s.lands .l e 15]
    unit := fun u => if w then ((u.takePort p (s.t + 15) 1).track .l s.t (s.t + 15) true).track .l s.t (s.t + 15) false
      else (u.takePort p (s.t + 15) 1).track .l s.t (s.t + 15) true
    more := Act.all [onVault s.me (fun v => v.command .rd bank row 0 s.t), Act.none, Act.none, Act.none]
    sig := 15 }

/-- A VRD that nothing holds off: the row command and one landing effect, from the two blocks as they stand at issue. -/
theorem vaultRead_completes {bank : Fin 16} {col : Fin 32} {row : Fin 8192} {p : Port} {bad : UnitSt → Option FaultRec} {land : UnitSt → Option Blk → Option Blk → Eff}
    {w : Bool} (hc : s.clear .l h.sync) (hbad : bad s.my = none)
    (hk : (s.vault s.me).keeperHolds bank s.t = false) (ha : s.accessHeld s.my s.t = false) (hp : s.my.portFree p (s.t + 15) 1 = true)
    (hg : (s.vault s.me).guard .rd bank s.t = none) (hr : ((s.vault s.me).banks[bank]).row = some row)
    (hgate : s.my.gate s.t (some .vault) (s.pendingAt s.me s.my (paOf bank row col)) = Gate.ok)
    (hx : ∀ x, s.mappedAt s.my s.me (paOf bank row col) = some x → x.1.sh = false)
    (h0 : ((s.mem s.me .vault).blk (paOf bank row col / 64)).poisoned = false) (h1 : ((s.mem s.me .vault).blk (paOf bank row col / 64 + 1)).poisoned = false) :
    done (vaultRead h bank col p bad land w) s = .next (perform (onVault s.me (fun v => v.command .rd bank row 0 s.t)) (s.issued .l h.sync 2
      { eff := [s.lands .l (land s.my (some ((s.mem s.me .vault).blk (paOf bank row col / 64))) (some ((s.mem s.me .vault).blk (paOf bank row col / 64 + 1)))) 15]
        unit := fun u => if w then ((u.takePort p (s.t + 15) 1).track .l s.t (s.t + 15) true).track .l s.t (s.t + 15) false
          else (u.takePort p (s.t + 15) 1).track .l s.t (s.t + 15) true
        sig := 15 })) := by
  have hrow : ((s.vault s.me).banks[bank]).row.getD 0 = row := by rw [hr]; rfl
  have hkeep : ((s.vault s.me).keeperHolds bank s.t || s.accessHeld s.my s.t || !s.my.portFree p (s.t + 15) 1) = false := by rw [hk, ha, hp]; rfl
  refine (issueAs_completes_of hc (a := vrdIssue s bank row p
      (land s.my (some ((s.mem s.me .vault).blk (paOf bank row col / 64))) (some ((s.mem s.me .vault).blk (paOf bank row col / 64 + 1)))) w) ?_ ⟨rfl, rfl, rfl, rfl⟩).trans ?_
  · dsimp only
    simp only [hrow, vrdRace_quiet hx, vrdBlock_quiet hx, hkeep, hgate, hbad, hg, Bool.false_eq_true, if_false, Nat.add_zero, List.findSome?_cons, h0, h1, List.findSome?_nil]
    rfl
  · rw [State.issuedWith, vrdIssue, perform_all_cons, perform_all_cons, perform_all_cons, perform_all_cons]
    rfl

/-- A VWR that nothing holds off. -/
theorem execVwr_register {v : Fin 64} {bank : Fin 16} {col : Fin 32} {q : Fin 4} {ax : Fin 8} {row : Fin 8192} (hc : s.clear .s h.sync)
    (hk : (s.vault s.me).keeperHolds bank s.t = false) (ha : s.accessHeld s.my s.t = false) (hp : s.my.portFree (.tileR 0) s.t 1 = true)
    (hv : s.my.rowsClear s.t (s.my.vRows [v]) = true) (hr : ((s.vault s.me).banks[bank]).row = some row) (hg : (s.vault s.me).guard (.wr false) bank s.t = none)
    (hm : s.mappedAt s.my s.me (paOf bank row col) = none) (h0 : (s.vault s.me).isLive (paOf bank row col / 64) = false)
    (h1 : (s.vault s.me).isLive (paOf bank row col / 64 + 1) = false) :
    let write := fun (i : Nat) => (paOf bank row col / 64 + i, ({ mask := BitVec.allOnes 512, data := (s.my.v v).part (2 * q.val + i)
                                                                  hd := if ((s.mem s.me .vault).blk (paOf bank row col / 64 + i)).poisoned then some .raw else none, need := none } : BlkWrite))
    exec (.vwr h v bank col q false ax) s = .next (perform (fun _ => [.mem s.me .vault [write 0, write 1]])
      (perform (onVault s.me (fun w => w.command (.wr false) bank 0 0 s.t)) (s.issued .s h.sync 2
        { unit := fun u => (u.takePort (.tileR 0) s.t 1).track .s s.t s.t false }))) := by
  intro write
  have hrow : ((s.vault s.me).banks[bank]).row.getD 0 = row := by rw [hr]; rfl
  have hkeep : ((s.vault s.me).keeperHolds bank s.t || s.accessHeld s.my s.t || !s.my.portFree (.tileR 0) s.t 1) = false := by rw [hk, ha, hp]; rfl
  refine issueAs_completes_of hc (a := { unit := fun u => (u.takePort (.tileR 0) s.t 1).track .s s.t s.t false
                                         more := onVault s.me (fun w => w.command (.wr false) bank 0 0 s.t), after := fun _ => [.mem s.me .vault [write 0, write 1]] }) ?_ ⟨rfl, rfl, rfl, rfl⟩
  simp only [Attempt.reads_clear hv, hr, Option.getD_some, hkeep, hm, hg, h0, h1, Option.isSome_some, if_true, Bool.or_false, Bool.false_eq_true, if_false]
  rfl

/-- The buffer form of VWR has no path (R246). -/
theorem execVwr_buffer {v : Fin 64} {bank : Fin 16} {col : Fin 32} {q : Fin 4} {ax : Fin 8} (hc : s.clear .s h.sync)
    (hk : (s.vault s.me).keeperHolds bank s.t = false) (ha : s.accessHeld s.my s.t = false) (hp : s.my.portFree (.tileR 0) s.t 1 = true)
    (hv : s.my.rowsClear s.t (s.my.vRows [v]) = true) : exec (.vwr h v bank col q true ax) s = .next (perform (takeFault s.me .s (flt .window 5)) s) := by
  have hkeep : ((s.vault s.me).keeperHolds bank s.t || s.accessHeld s.my s.t || !s.my.portFree (.tileR 0) s.t 1) = false := by rw [hk, ha, hp]; rfl
  refine issueAs_fault hc ?_ ?_ ?_ ?_ <;> simp only [Attempt.reads_clear hv]
  · simp only [hkeep, Bool.false_eq_true, if_false]
  · rfl

/-- Settles O25: the vault's part of each form is one row command; what it reads stands at issue, and what it writes lands there. -/
theorem vaultReadsAndWrites : Obligations.VaultReadsAndWrites := by
  refine ⟨fun s h v bank col q ax row hc => ⟨?_, ?_⟩, fun s h v bank col q ax row hc => ?_⟩
  · rintro ⟨hk, ha, hp, hg, hr, hgate, hx, h0, h1⟩
    exact vaultRead_completes hc rfl hk ha hp hg hr hgate hx h0 h1
  · rintro ⟨hk, ha, hp, hg, hr, hgate, hx, h0, h1⟩ hbad
    exact vaultRead_completes hc hbad hk ha hp hg hr hgate hx h0 h1
  · exact fun hk ha hp hv => ⟨fun hr hg hm h0 h1 => execVwr_register hc hk ha hp hv hr hg hm h0 h1, execVwr_buffer hc hk ha hp hv⟩

end

/-! ## Copy pushes (R256 to R264) -/

/-- Ports taken one after another change the unit's reservations alone. -/
theorem foldl_takePort (l : List (Port × Int × Nat)) (u : UnitSt) :
    ∃ r, l.foldl (fun u x => u.takePort x.1 x.2.1 x.2.2) u = { u with eng := { u.eng with resv := r } } := by
  induction l generalizing u with
  | nil => exact ⟨_, rfl⟩
  | cons x l ih =>
    obtain ⟨r, hr⟩ := ih (u.takePort x.1 x.2.1 x.2.2)
    refine ⟨r, ?_⟩
    rw [List.foldl_cons, hr, UnitSt.takePort]
    split <;> rfl

/-- Translation changes an attempt's miss, fault and stall, and of the unit its maps. -/
theorem translated_unit (a : Attempt) (c : Col) (u : UnitSt) (l : List Dword) (v : UnitSt) : ∃ m, (a.translated c u l).unit v = a.unit { v with maps := m } := by
  unfold Attempt.translated
  extract_lets ws gone
  split
  · exact ⟨v.maps, rfl⟩
  · exact ⟨_, rfl⟩
theorem translated_keeps (a : Attempt) (c : Col) (u : UnitSt) (l : List Dword) :
    (a.translated c u l).sig = a.sig ∧ (a.translated c u l).eff = a.eff ∧ (a.translated c u l).pc = a.pc := by
  unfold Attempt.translated
  extract_lets ws gone
  split <;> exact ⟨rfl, rfl, rfl⟩
theorem miss_of_translated {a : Attempt} {c : Col} {u : UnitSt} {l : List Dword} (h : (a.translated c u l).miss = none) : a.miss = none := by
  unfold Attempt.translated at h
  extract_lets ws gone at h
  split at h
  · exact h
  · cases hm : a.miss with
    | none => rfl
    | some m => simp [hm] at h

/-- A unit that has pushed a command: one entry of CPF, one command from cycle b on. -/
def Pushed (s : State) (p : Push) (u v : UnitSt) : Prop :=
  v.eng.cpf = u.eng.cpf ++ [{ id := s.nextId + 1, word := none }] ∧ v.regs = u.regs ∧ v.frm = u.frm ∧ v.eng.pushed = u.eng.pushed + 1 ∧
    ∃ c : CopyCmd, v.eng.cmds = u.eng.cmds ++ [c] ∧ c.op = p.op ∧ c.seq = u.eng.pushed ∧ c.targets = p.targets ∧ c.stat = 0 ∧
      c.start = max (s.t + 2) u.eng.cpyEnd ∧ v.eng.cpyEnd = c.start + c.m

/-- A push whose plan raises nothing is an attempt that pushes, before its GLOBAL addresses are translated. -/
theorem pushCopy_of_plan {s : State} {u : UnitSt} {x : Stream} {p : Push} {pl : Plan} (hp : s.plan s.me u p = .ok pl) :
    ∃ a l, s.pushCopy s.me u x s.t p = Attempt.translated a s.me u l ∧ a.sig = 1 ∧ a.eff = [] ∧ a.pc = none ∧
      (a.miss = none → u.fifoFull .cpf = false) ∧ ∀ m, Pushed s p u (a.unit { u with maps := m }) := by
  unfold State.pushCopy
  extract_lets b held
  simp only [hp]
  refine ⟨_, _, rfl, rfl, rfl, rfl, fun hm => ?_, fun m => ?_⟩
  · have hb : held = false := by
      cases hh : held with
      | false => rfl
      | true => simp only [hh, if_true] at hm; cases hm
    simp only [held, Bool.or_eq_false_iff] at hb
    exact hb.1.1
  · dsimp only
    obtain ⟨r, hr⟩ := foldl_takePort (pl.ports p b
      (p.op != 3 && (tagOf ((u.ly p.ys).rowAddr p.src 0) == 0 || (p.op = 1 && tagOf p.tgt == 0)) || p.op = 3)) (
        if p.op = 2 || p.op = 4 || (pl.blks.any (fun k => k.dst.isGlob) && p.pkg == 0) then
          ((({ u with maps := m } : UnitSt).reserve .cpf (s.nextId + 1)).trackFar (s.nextId + 1) x s.t true false false).trackFar (s.nextId + 1 + 2) x s.t false false (p.wide pl) (p.pkg == 0xFFFFF)
        else ((({ u with maps := m } : UnitSt).reserve .cpf (s.nextId + 1)).trackFar (s.nextId + 1) x s.t true false false))
    rw [hr]
    split <;> exact ⟨rfl, rfl, rfl, rfl, _, rfl, rfl, rfl, rfl, rfl, rfl, rfl⟩

/-- What a push that meets nothing does in its unit. -/
theorem pushCopy_unit {s : State} {u : UnitSt} {x : Stream} {p : Push} (h : (s.pushCopy s.me u x s.t p).free) :
    (s.pushCopy s.me u x s.t p).sig = 1 ∧ (s.pushCopy s.me u x s.t p).eff = [] ∧ (s.pushCopy s.me u x s.t p).pc = none ∧ u.eng.cpf.length < 64 ∧
      Pushed s p u ((s.pushCopy s.me u x s.t p).unit u) := by
  obtain ⟨-, -, hmiss, hfault⟩ := h
  cases hp : s.plan s.me u p with
  | error e => simp only [State.pushCopy, hp] at hfault; cases hfault
  | ok pl =>
    obtain ⟨a, l, e, hsig, heff, hpc, hfull, hu⟩ := pushCopy_of_plan (x := x) hp
    rw [e] at hmiss ⊢
    obtain ⟨ksig, keff, kpc⟩ := translated_keeps a s.me u l
    obtain ⟨m, hm⟩ := translated_unit a s.me u l u
    refine ⟨ksig.trans hsig, keff.trans heff, kpc.trans hpc, ?_, hm ▸ hu m⟩
    exact Nat.lt_of_not_le (of_decide_eq_false (hfull (miss_of_translated hmiss)))

/-- Settles O26: each form pushes its command, and a push that meets nothing leaves one command and one entry. -/
theorem copyPushes : Obligations.CopyPushes := by
  intro s h k tg u pushes
  have settle : ∀ (i : Instr) (x : Stream) (op : Fin 5) (o : Option (Fin 64)) (w : Dword), exec i s = done (copyPush x h op k o) s →
      s.pushOf s.me u x op k o = { op := op, ys := k.ys, yd := k.yd, src := u.areg (x == .s) k.sa, dst := u.areg (x == .s) k.da, tgt := w } → pushes i x op w := by
    intro i x op o w hi hp hc hf
    obtain ⟨hsig, heff, hpc, hfull, hcpf, hregs, hfrm, hn, hcmd⟩ := pushCopy_unit hf
    exact ⟨hi.trans (copyPush_completes hc (by rw [hp]) hf), hsig, heff, hpc, hfull, hcpf, hregs, hfrm, hn, hcmd⟩
  exact ⟨settle _ _ _ none _ rfl rfl, settle _ _ _ (some tg) _ rfl rfl, settle _ _ _ (some tg) _ rfl rfl, settle _ _ _ (some tg) _ rfl rfl,
    settle _ _ _ none _ rfl rfl, settle _ _ _ (some tg) _ rfl rfl, settle _ _ _ (some tg) _ rfl rfl⟩
end Sys2Proof.Machine

/-! PROOF. Rows, restart registers, gathers and latches of M (R291 to R296). -/
namespace Sys2Proof.Machine

/-! ## Rows and restart registers (R294 to R296) -/

section
variable {s : State} {h : MHdr}

/-- MZERO with its port and rows free. -/
theorem execMzero_completes {t : Fin 4} {msz : Msz} {roff : Fin 4} (hc : s.clear .m h.sync) (hm : s.my.eng.mbusy ≤ s.t)
    (hp : s.my.portFree (.tileW t) (s.t + 1) msz.rows = true) (hr : s.my.rowsFree t (16 * roff.val) msz.rows none (some (s.t + 1)) = true) :
    exec (.mzero h t msz roff) s = .next (s.issued .m h.sync 3
      { eff := (List.range msz.rows).map (fun (j : Nat) => { at_ := s.t + 1 + (j : Int), stream := .m, eff := rowWrite (tileRow t (16 * roff.val + j)) .zero })
        unit := fun u => (u.takePort (.tileW t) (s.t + 1) msz.rows).holdEngine (s.t + 1)
        sig := msz.rows }) := by
  refine issueAs_issues hc ⟨rfl, rfl, ?_, rfl⟩ rfl
  dsimp only
  rw [hp, hr, decide_eq_false (Int.not_lt.mpr hm)]
  rfl

/-- The cycle on which MMOV reads a row, in the words of R295. -/
theorem mmovRead_eq (d t : Fin 4) (drow srow n j : Nat) :
    mmovRead (d == t) drow srow n j = if d = t ∧ drow ≤ srow + j ∧ srow + j < drow + n then min j (1 + (srow + j - drow)) else j := by
  have e : (d == t && decide (drow ≤ srow + j) && decide (srow + j < drow + n)) = decide (d = t ∧ drow ≤ srow + j ∧ srow + j < drow + n) := by
    by_cases h1 : d = t <;> by_cases h2 : drow ≤ srow + j <;> by_cases h3 : srow + j < drow + n <;> simp [h1, h2, h3]
  rw [mmovRead, e]
  by_cases hd : d = t ∧ drow ≤ srow + j ∧ srow + j < drow + n
  · rw [decide_eq_true hd, if_pos rfl, if_pos hd]
  · rw [decide_eq_false hd, if_neg Bool.false_ne_true, if_neg hd]

/-- MMOV with its ports and rows free. -/
theorem execMmov_completes {d t : Fin 4} {drow srow : Fin 64} {n : Fin 128} (hc : s.clear .m h.sync) (hm : s.my.eng.mbusy ≤ s.t)
    (hp : s.my.portFree (.tileR t) s.t n.val = true) (hq : s.my.portFree (.tileW d) (s.t + 2) n.val = true)
    (hr : s.my.rowsFree t srow.val n.val (some s.t) none = true) (hw : s.my.rowsFree d drow.val n.val none (some (s.t + 2)) = true)
    (hs : s.my.rowsClearAt s.t ((List.range n.val).map (fun (j : Nat) => (tileRow t (srow.val + j), s.t + (j : Int)))) = true) :
    exec (.mmov h d t drow srow n) s = .next (s.issued .m h.sync 3
      { eff := (List.range n.val).map (fun (j : Nat) =>
          if mmovRead (d == t) drow.val srow.val n.val j = 0 then { at_ := s.t + 2 + (j : Int), stream := .m, eff := rowWrite (tileRow d (drow.val + j)) s.my.regs.tiles[tileRow t (srow.val + j)] }
          else { at_ := s.t + (mmovRead (d == t) drow.val srow.val n.val j : Int), stream := .m, eff := .copyRow (tileRow t (srow.val + j)) (tileRow d (drow.val + j)) allData allTail none (s.t + 2 + (j : Int)) })
        unit := fun u => ((u.takePort (.tileR t) s.t n.val).takePort (.tileW d) (s.t + 2) n.val).holdEngine (s.t + (n.val : Int))
        sig := n.val + 1 }) := by
  have free : (decide (s.t < s.my.eng.mbusy) || !s.my.portFree (.tileR t) s.t n.val || !s.my.portFree (.tileW d) (s.t + 2) n.val ||
      !s.my.rowsFree t srow.val n.val (some s.t) none || !s.my.rowsFree d drow.val n.val none (some (s.t + 2))) = false := by
    rw [hp, hq, hr, hw, decide_eq_false (Int.not_lt.mpr hm)]; rfl
  refine issueAs_issues hc ?_ ?_
  · rw [Attempt.readsAt_clear hs, free]
    exact ⟨rfl, rfl, rfl, rfl⟩
  · rw [Attempt.readsAt_clear hs, issuedWith_quiet rfl rfl]
    simp only [beq_iff_eq]
    rfl

end

/-- Settles O29: the rows are written one a cycle, and a row of MMOV's source is read before the move writes it. -/
theorem tileRows : Obligations.TileRows := by
  intro s h t d msz roff drow srow n label rc hc hm u m first trs restart
  refine ⟨execMzero_completes hc hm, fun hp hq hr hw hs => ?_, restartWrite_completes hc hm, restartWrite_completes hc hm⟩
  rw [execMmov_completes hc hm hp hq hr hw hs]
  simp only [mmovRead_eq]
  rfl

/-! ## The gather that O30 tells of (R291) -/

/-- V5 holds the index 1 in lane 64 and 0 in the others; record 7 is a row of 16 bytes of AB, clipped from row 1 on; an MMAG of record 7 follows the MIDX. -/
def gatherS : State :=
  let g : Regs := { Regs.reset with
    ly := Regs.reset.ly.set 7 (BitVec.ofNat 512 (2 ^ 416 + 16 * 2 ^ 400 + 2 ^ 384 + 16 * 2 ^ 368 + 2 ^ 352 + 64 * 2 ^ 192 + 2 * 2 ^ 60))
    tiles := Regs.reset.tiles.set (vRow 5) { data := BitVec.ofNat 4096 (2 ^ 1024), tail := 0 } }
  let u : UnitSt := { UnitSt.reset with regs := g, ctl := { UnitSt.reset.ctl with strms := UnitSt.reset.ctl.strms.set 3 { Strm.reset with hi := 24 } } }
  let code : Memory := Memory.empty.write 0
    { mask := BitVec.allOnes 512, data := BitVec.ofNat 512 (packNat 32 [(0x00093070 : Nat), 0x00001040, 0x00000064] * 2 ^ 96), hd := none, need := none }
  { State.reset with units := State.reset.units.set 0 u, mems := State.reset.mems.set 0 { Mems.reset with store := code } }
def gatherO : Mm := { dt := 1, msz := .m16, roff := 3, ya := 7, yb := 0, k := 16, bl := true, z := false }
/-- What the gather's destination makes of 65 blocks, and the payload of the last one. -/
def gatherBlks : List Blk := List.replicate 65 { hd := { fmt := 0, scl := 0 }, pay := 1 }
def lastPayload (l : List Pend) : BitVec 512 := match l with
  | [{ eff := .gather _ o, .. }] => o.blks.getD 64 0
  | _ => 0

theorem gatherS_meets : gatherS.clear .m 0 ∧ gatherS.my.eng.mbusy ≤ gatherS.t ∧ gatherS.accessHeld gatherS.my gatherS.t = false ∧ gatherS.my.portFree (.tileR 0) gatherS.t 1 = true ∧
    gatherS.my.rowReadBusy (vRow (gatherS.my.regs.physV 5)) gatherS.t = false ∧
    nextMmag (gatherS.mem gatherS.me .store) (gatherS.my.strm .m).hi 21846 ((gatherS.my.strm .m).pc.toNat + 12) = some gatherO := by
  unfold State.clear; and_intros <;> decide +kernel
theorem gatherS_record : let l := gatherS.my.ly gatherO.ya
    let row := fun (i : Nat) => l.ownRow ((gatherS.my.v 5).lane 16 i)
    l.fieldBad = false ∧ l.wcl < 3 ∧ l.t = false ∧ (∀ i, i < 64 → (gatherS.my.v 5).lane 16 i < l.rows) ∧ (gatherO.k.val * l.w + 511) / 512 = 1 ∧ 1 ≤ l.rowBlks ∧ l.checkRows 16 row [2] = none ∧
      gatherS.my.portFree .abR (gatherS.t + 1) 16 = true ∧ gatherS.my.ord.pblks = [] := by
  intro l row; and_intros <;> decide +kernel

/-- The blocks that are gathered have one header. -/
theorem gatherS_heads : ∀ i < 16, ∀ j < 1,
    ((gatherS.my.ly 7).clip ((gatherS.my.v 5).lane 16 i) j ((gatherS.mem gatherS.me .ab).blk (blkOf ((gatherS.my.ly 7).ownRow ((gatherS.my.v 5).lane 16 i) + BitVec.ofNat 64 (64 * j))))).hd =
      ((gatherS.my.ly 7).clip ((gatherS.my.v 5).lane 16 0) 0 ((gatherS.mem gatherS.me .ab).blk (blkOf ((gatherS.my.ly 7).ownRow ((gatherS.my.v 5).lane 16 0) + BitVec.ofNat 64 (64 * 0))))).hd := by
  decide +kernel
/-- Each of the 65 blocks, clipped by the lane of its number, has the header 0x00, 0x00. -/
theorem gatherBlks_heads : ∀ n < 65, ((gatherS.my.ly 7).clip ((gatherS.my.v 5).lane 16 (n / 1)) (n % 1) (gatherBlks.getD n .clear)).hd = { fmt := 0, scl := 0 } := by
  decide +kernel
/-- The destination clips block 64 by row 0, as the indices of a gather are 64; lane 64 of V5 is none of them. -/
theorem gatherBlks_differ : let dst := LoadDst.gather (gatherS.t + 20) 16 1 16 gatherS.my.regs.ly[(7 : Fin 256)] ((List.range 64).map (fun i => (gatherS.my.v 5).lane 16 i))
    lastPayload (dst.pend (dst.clip gatherBlks) .m (gatherS.t + 20)) ≠
      ((List.range gatherBlks.length).map (fun n => ((gatherS.my.ly 7).clip ((gatherS.my.v 5).lane 16 (n / 1)) (n % 1) (gatherBlks.getD n .clear)).pay)).getD 64 0 := by
  decide +kernel

/-- Refutes O30: its clause on the payloads holds for block lists of any length, and so clips a 65th row by lane 64 of the register, which is no index of the gather (R291). -/
theorem not_gatherAndLatchLoads : ¬ Obligations.GatherAndLatchLoads := by
  intro h
  obtain ⟨hc, hm, ha, hp, hr, hn⟩ := gatherS_meets
  obtain ⟨hb, hw, ht, hi, hr1, hrow, hk, hport, hpb⟩ := gatherS_record
  obtain ⟨-, hg, -⟩ := h gatherS { sync := 0, stamp := 0 } 5 .opa 0 hc hm ha
  have hg := hg gatherO hp hr hn
  simp only [hr1] at hg
  obtain ⟨t, x, -, -, -, -, -, -, hgot, -⟩ := hg hb hw ht hi hrow (by decide) hk hport hpb (fun i j hi hj => gatherS_heads i hi j hj)
  have := congrArg lastPayload (hgot gatherBlks { fmt := 0, scl := 0 } (by decide) gatherBlks_heads)
  exact gatherBlks_differ this

end Sys2Proof.Machine

/-! PROOF. The vector unit: lane forms, predicates, moves, conversions and latch forms (R299 to R325). -/
namespace Sys2Proof.Machine

/-! ## Lane forms -/

section
variable {s : State} {c : VCtl} {n : Nat} {d : Fin 64} {srcs : List (Fin 64)} {f : List Pair → Pair × NumBits}

/-- The registers that a lane form works on, by PAIR (R304). -/
def pairOffs (two : Bool) : List Nat := if two then [0, 1] else [0]
/-- A lane form that meets nothing leaves its lane writes and their sticky bits, with PAIR or without. -/
theorem vlanes_issues (two : Bool) (hc : s.clear .v c.sync)
    (hb : s.my.vReady s.t n ((pairOffs two).flatMap (fun o => srcs.map (regUp · o))) ((pairOffs two).map (regUp d)) [c.p] []) :
    done (vlanes c n two d srcs f) s = .next (s.issued .v c.sync 2
      { eff := (pairOffs two).map (fun o => s.lands .v (laneEff s.my c.ty (regUp d o) (s.my.gov c) ((laneResults s.my c srcs f o).map (·.1))) n) ++
          numstAt (s.t + n) .v ((pairOffs two).foldl (fun a o => a ||| laneFlags (laneResults s.my c srcs f o)) 0), sig := n }) := by
  cases two with
  | false => exact vlanes_completes hc (by simpa [pairOffs] using hb)
  | true => exact vlanes_pair_completes hc (by simpa [pairOffs] using hb)
end

/-- A lane's result, from lane k of each source. -/
theorem laneResults_eq (u : UnitSt) (c : VCtl) (srcs : List (Fin 64)) (f : List Pair → Pair × NumBits) (o : Nat) :
    laneResults u c srcs f o = (List.range c.ty.lanes).map (fun k => if u.gov c k then f (srcs.map (fun r => (u.v (regUp r o)).pair c.ty.width k)) else intLane 0) := by
  simp only [laneResults, List.map_map, Function.comp_def]

/-- Settles O31: each form is a lane form of its lane result. -/
theorem laneForms : Obligations.LaneForms := by
  intro s c d a b e pair imm g alt hc u w form float val modulo two fma sat bit n2
  have lanes : ∀ {i : Instr} {n : Nat} {q : Bool} {srcs : List (Fin 64)} {f g : List Pair → Pair × NumBits}, exec i s = done (vlanes c n q d srcs f) s → f = g → form i n q srcs g :=
    fun {i n q srcs f g} hi hfg hb => by
      rw [hi, vlanes_issues q hc hb, hfg]
      simp only [laneResults_eq]
      rfl
  clear_value form
  have h2 : ∀ ff fi, arith2 c ff fi = two ff fi := fun ff fi => funext fun l => by
    simp only [arith2, two, float, modulo, val]; cases c.ty.fmt? <;> rfl
  have hf : ∀ np ne, fmaForm c np ne = fma np ne := fun np ne => funext fun l => by
    simp only [fmaForm, fma, float, modulo, val]; cases c.ty.fmt? <;> rfl
  have hli : (fun (_ : List Pair) => match c.ty.fmt? with
      | some f => narrow c f (XNum.ofInt imm, 0)
      | none => intLane (wrap c.ty.width imm)) = fun _ => float (fun t => narrow c t (XNum.ofInt imm, 0)) (modulo imm) := funext fun _ => by
    simp only [float, modulo]; cases c.ty.fmt? <;> rfl
  have hfin : (fun (l : List Pair) => match c.ty.fmt? with
      | some f => let r := roundFloat f (image f (lane1 l)) c.mode; ({ v := r.1, t := 0 }, r.2)
      | none => intLane 0) = fun l => float (fun t => ({ v := (roundFloat t (image t (lane1 l)) c.mode).1, t := 0 }, (roundFloat t (image t (lane1 l)) c.mode).2)) (intLane 0) :=
    funext fun _ => by simp only [float] <;> cases c.ty.fmt? <;> rfl
  have hscl : (fun (l : List Pair) => match c.ty.fmt? with
      | some f => narrow c f ((image f (lane1 l)).scale imm, 0)
      | none => intLane 0) = fun l => float (fun t => narrow c t ((image t (lane1 l)).scale imm, 0)) (intLane 0) :=
    funext fun _ => by simp only [float] <;> cases c.ty.fmt? <;> rfl
  refine ⟨⟨lanes rfl (h2 _ _), lanes rfl (h2 _ _), lanes rfl (h2 _ _), lanes rfl (h2 _ _), lanes rfl rfl, lanes rfl rfl, lanes rfl rfl, lanes rfl rfl⟩,
    ⟨lanes rfl rfl, lanes rfl rfl, lanes rfl rfl, lanes rfl rfl, lanes rfl hli⟩, ⟨lanes rfl (hf _ _), lanes rfl (hf _ _), lanes rfl (hf _ _), lanes rfl (hf _ _)⟩,
    ⟨lanes rfl rfl, lanes rfl rfl, lanes rfl rfl, lanes rfl rfl, lanes rfl rfl, lanes rfl rfl, lanes rfl rfl, lanes rfl rfl⟩,
    lanes rfl hfin, lanes rfl rfl, lanes rfl rfl, lanes rfl hscl, lanes rfl rfl, lanes rfl rfl, lanes rfl rfl⟩

/-! ## Predicates and moves -/

/-- Settles O33: a compare's bit is that of its lane, and a predicate form works on whole predicates. -/
theorem predicates : Obligations.Predicates := by
  intro s c d p q a b imm hc u w out pack lane cmp
  refine ⟨fun hb => ⟨vpred_completes hc hb, vpred_completes hc hb, vpred_completes hc hb, vpred_completes hc hb, vpred_completes hc hb⟩, fun hb => vpred_completes hc hb,
    fun hb => ⟨pform_completes hc hb, pform_completes hc hb, pform_completes hc hb, pform_completes hc hb⟩, fun hb => ⟨pform_completes hc hb, pform_completes hc hb⟩, fun hb => ?_⟩
  refine (pform_completes hc hb).trans ?_
  simp only [beq_iff_eq]
  rfl

section
variable {s : State} {c : VCtl} {d : Fin 64}

/-- VXF of an entry that has arrived (R318). -/
theorem execVxf_completes {x : Latch} {y : LEntry} {l : List LEntry} (hc : s.clear .v c.sync) (hb : s.my.vBusy s.t 1 [] [d] [c.p] [] = none) (hx : s.xferWaits s.me x = false)
    (hl : s.my.latch x = y :: l) (hy : y.valid = true) :
    exec (.vxf c d x) s = .next (s.issued .v c.sync 2
      { eff := [s.lands .v (.row (vRow (s.my.regs.physV d)) (laneMask c.ty.width c.ty.lanes (s.my.gov c)) (tailMask c.ty.width c.ty.lanes (s.my.gov c))
          (Row.ofLanes c.ty.width ((List.range c.ty.lanes).map (y.img.pair c.ty.width)))) 1]
        unit := fun u => u.setLatch x l }) := by
  refine issueAs_issues hc ⟨rfl, rfl, ?_, ?_⟩ ?_
  · simp only [hx, hb, hl, List.head?_cons, hy, if_true, Bool.false_eq_true, if_false]
  · simp only [hl, List.isEmpty_cons, Bool.false_eq_true, if_false]
  · rw [issuedWith_quiet rfl rfl]
    simp only [hl, List.head?_cons, List.drop_succ_cons, List.drop_zero]
    rfl
/-- VMOVT with the tile's port free and its row in place (R319). -/
theorem execVmovt_completes {row : Fin 64} {t : Fin 4} (hc : s.clear .v c.sync) (hb : s.my.vBusy s.t 2 [] [d] [c.p] [] = none)
    (hp : s.my.portFree (.tileR t) (s.t + 1) 1 = true) (hr : s.my.rowsStand s.t [tileRow t row.val] (s.t + 1) = true) :
    exec (.vmovt c d row t) s = .next (s.issued .v c.sync 2
      { eff := [s.lands .v (.copyRow (tileRow t row.val) (vRow (s.my.regs.physV d)) (laneMask c.ty.width c.ty.lanes (s.my.gov c))
          (tailMask c.ty.width c.ty.lanes (s.my.gov c)) (some c.ty) (s.t + 2)) 1]
        unit := fun u => u.takePort (.tileR t) (s.t + 1) 1
        sig := 2 }) := by
  refine issueAs_issues hc ?_ ?_
  · rw [Attempt.readsV_stand hr]
    exact ⟨rfl, rfl, by simp only [hb, hp, if_true], rfl⟩
  · rw [Attempt.readsV_stand hr, issuedWith_quiet rfl rfl]
    rfl
end

/-- Settles O34: the moves by the lane that each names, VXF and VMOVT by their row. -/
theorem laneMoves : Obligations.LaneMoves := by
  intro s c d a b e imm x y l row t hc u w n out dm tm
  exact ⟨fun hb => vmove_completes hc hb, fun hb => vmove_completes hc hb, fun hb => vmove_completes hc hb, fun hb => vmove_completes hc hb, fun hb => vmove_completes hc hb,
    fun hb hx hl hy => execVxf_completes hc hb hx hl hy, fun hb hp hr => execVmovt_completes hc hb hp hr⟩

/-! ## Conversions and the scale bypass -/

section
variable {s : State} {c : VCtl} {d a : Fin 64} {src : VTy}

/-- VMAXA of a float type, with an entry free (R320). -/
theorem execVmaxa_completes {f : Fmt} (hf : c.ty.fmt? = some f) (hc : s.clear .v c.sync) (hb : s.my.vReady s.t 1 [a] [] [c.p] []) (hs : s.my.eng.sb.length < 8) :
    let x := (rto (image f (extreme f true ((s.my.taken c a).map (absPair f)))) .fp32).1
    exec (.vmaxa c a) s = .next (s.issued .v c.sync 2
      { unit := fun u => { u with eng := { u.eng with sb := u.eng.sb ++ [{ v := x.v, t := x.t, rem := 8, issued := s.t }] } } }) := by
  refine issueV_issues hc hb.2 ⟨rfl, rfl, ?_, rfl⟩ ?_
  · simp only [hb.1, Nat.not_le.mpr hs, if_false]
  · rw [issuedWith_quiet rfl rfl]
    simp only [hf]
    rfl
/-- VCVT by the source lane of each destination lane (R314). -/
theorem execVcvt_completes {j : Fin 8} (hc : s.clear .v c.sync) (hb : s.my.vReady s.t 4 [a] [d] [c.p] []) :
    let at_ := fun k => if s.my.gov c k then cvtSource src.lanes c.ty.lanes j.val k else none
    let r := (List.range c.ty.lanes).map (fun k => match at_ k with
      | some i => cvtLane c src ((s.my.v a).pair src.width i)
      | none => intLane 0)
    exec (.vcvt c d a src j) s = .next (s.issued .v c.sync 2
      { eff := s.lands .v (laneEff s.my c.ty d (fun k => (at_ k).isSome) (r.map (·.1))) 4 :: numstAt (s.t + 4) .v (r.foldl (fun a x => a ||| x.2) 0), sig := 4 }) := by
  intro at_ r
  refine issueV_issues hc hb.2 ⟨rfl, rfl, hb.1, rfl⟩ ?_
  rw [issuedWith_quiet rfl rfl]
  rfl

/-- VQNT of an entry that has arrived, exactly eight cycles old in timed mode (R321, R322). -/
theorem execVqnt_completes {f : Fmt} {qt : Fin 4} {j : Fin 8} {e : SbEntry} {l : List SbEntry} (hf : src.fmt? = some f) (hc : s.clear .v c.sync)
    (hb : s.my.vReady s.t 4 [a] [d] [c.p] []) (he : s.my.eng.sb = e :: l) (hv : (if s.my.ctl.timed then e.issued + 8 == s.t else e.rem == 0) = true) :
    let sb := scaleByte c.ty qt.val (image .fp32 { v := e.v, t := e.t })
    let lo := j.val * src.lanes
    let in_ := fun k => lo ≤ k && k < lo + src.lanes && s.my.gov c (k - lo)
    let r := (List.range c.ty.lanes).map (fun k =>
      let r := finalRound c.ty sb (image f ((s.my.v a).pair src.width (k - lo))) c.mode
      if in_ k then ({ v := r.1, t := 0 }, r.2) else intLane 0)
    exec (.vqnt c d a src qt j) s = .next (s.issued .v c.sync 2
      { eff := s.lands .v (laneEff s.my c.ty d in_ (r.map (·.1))) 4 :: s.lands .v (.qsc j (BitVec.ofNat 8 sb)) 4 :: numstAt (s.t + 4) .v (r.foldl (fun a x => a ||| x.2) 0)
        unit := fun u => { u with eng := { u.eng with sb := l } }, sig := 4 }) := by
  intro sb lo in_ r
  refine issueV_issues hc hb.2 ⟨rfl, rfl, ?_, rfl⟩ ?_
  · simp only [hb.1, he, List.head?_cons, hv, if_true]
  · rw [issuedWith_quiet rfl rfl, issued_unit_eq (g := fun u => { u with eng := { u.eng with sb := l } })]
    · simp only [he, List.head?_cons, hf]
      rfl
    · have e' : ∀ ps, ((s.my.codeOrder .v c.sync).later ps).eng.sb.drop 1 = l := fun ps => by
        change s.my.eng.sb.drop 1 = l
        rw [he]; rfl
      simp only [e']
end

/-- Settles O35: each form by its lanes; the entry of the scale bypass has arrived by the rule of the unit's mode. -/
theorem conversions : Obligations.Conversions := by
  intro s c d a src qt j e l hc u n out
  refine ⟨fun hb => execVcvt_completes hc hb, fun f hf hb hs => ?_, fun f hf hb he ht hl => ?_⟩
  · have e : ((List.range n).filter (u.gov c)).map (fun k => absPair f ((u.v a).pair c.ty.width k)) = (s.my.taken c a).map (absPair f) := by
      simp only [UnitSt.taken, List.map_map, Function.comp_def]; rfl
    intro lanes x
    simp only [x, lanes, e]
    exact execVmaxa_completes hf hc hb hs
  · refine execVqnt_completes hf hc hb he ?_
    cases htm : s.my.ctl.timed with
    | true => simpa using ht htm
    | false => simpa using hl htm

/-! ## Latch forms -/

section
variable {s : State} {c : VCtl}

/-- A latch form puts its row into the youngest entry, which arrives after the latch's latency (R34). -/
theorem vlatch_puts {x : Latch} {rv : List (Fin 64)} {f : State → UnitSt → Row × NumBits} (hc : s.clear .v c.sync) (hb : s.my.vReady s.t 1 rv [] [c.p] [])
    (hl : s.my.latchFull x = false) :
    done (vlatch c x rv f (fun _ => true) (fun _ _ _ => Act.none)) s = .next (s.issued .v c.sync 2
      { eff := numstAt (s.t + 1) .v (f s s.my).2, unit := fun u => u.setLatch x (u.latch x ++ [{ img := (f s s.my).1, valid := false, rem := latchLatency x }]) }) :=
  (vlatch_completes hc hb hl rfl).trans (by rw [issuedWith_quiet rfl rfl]; rfl)

theorem rowsStand_nil (u : UnitSt) (now : Int) : u.rowsStand now (u.vRows []) = true := by
  cases ht : u.ctl.timed <;> simp [UnitSt.rowsStand, UnitSt.rowsClear, UnitSt.gate, UnitSt.vRows, accBlks, ht]
/-- VRNDN draws 64 words, which the entry holds on the selected lanes (R325). -/
theorem execVrndn_completes (hc : s.clear .v c.sync) (hb : s.my.vBusy s.t 1 [] [] [c.p] [] = none) (hl : (s.my.latch .xn).length < 8) (hn : s.my.noiseReady 64 = true) :
    let ws := s.noiseWords s.my 64
    ∃ t, exec (.vrndn c) s = .next t ∧ t.units = (s.issued .v c.sync 2 { unit := fun u =>
      ((u.setLatch .xn (u.latch .xn ++ [{ img := noiseRow (s.my.p c.p) ws, valid := false, rem := 40 }])).drawNoise 64).noteDraw { at_ := s.t, first := s.my.eng.drawn, words := ws, sel := s.my.p c.p } }).units := by
  intro ws
  have hfull : s.my.latchFull .xn = false := decide_eq_false (Nat.not_le.mpr hl)
  refine ⟨_, vlatch_completes hc ⟨hb, rowsStand_nil ..⟩ hfull hn, ?_⟩
  rw [State.issuedWith]
  refine (logNoise_units ..).trans ?_
  rfl
end

/-- Settles O36: a reduction and a special function put one row into their latch; VRNDN draws its words, too. -/
theorem latchForms : Obligations.LatchForms := by
  intro s c a hc u w lanes ints put int red fn
  have puts : ∀ {i : Instr} {x : Latch} {size cycles : Nat} {rv : List (Fin 64)} {f : State → UnitSt → Row × NumBits} {r : Row × NumBits},
      exec i s = done (vlatch c x rv f (fun _ => true) (fun _ _ _ => Act.none)) s → latchEntries x = size → latchLatency x = cycles → f s s.my = r → put i x size cycles rv r := by
    intro i x size cycles rv f r hi hd hl hf hb hn
    have hfull : s.my.latchFull x = false := decide_eq_false (Nat.not_le.mpr (hd ▸ hn))
    rw [hi, vlatch_puts hc hb hfull, hf, hl]
  clear_value put
  refine ⟨puts rfl rfl rfl rfl, puts rfl rfl rfl rfl, puts rfl rfl rfl rfl, puts rfl rfl rfl rfl, puts rfl rfl rfl rfl, puts rfl rfl rfl rfl, puts rfl rfl rfl rfl,
    puts rfl rfl rfl rfl, puts rfl rfl rfl rfl, puts rfl rfl rfl rfl, puts rfl rfl rfl rfl, puts rfl rfl rfl rfl, ?_⟩
  intro hb hl hn ws r
  exact execVrndn_completes hc hb hl hn
end Sys2Proof.Machine

/-! PROOF. The write of a lane form merges its lanes into a register (R83, R300). -/
namespace Sys2Proof.Machine

/-! ## Fields of a merge -/

section
variable {N lo w : Nat} {a v m : BitVec N}

theorem field_eq_extract (x : BitVec N) (lo w : Nat) : x.toNat / 2 ^ lo % 2 ^ w = (x.extractLsb' lo w).toNat := by
  rw [BitVec.extractLsb'_toNat, Nat.shiftRight_eq_div_pow]

theorem field_zero (N lo w : Nat) : (0 : BitVec N).toNat / 2 ^ lo % 2 ^ w = 0 := by simp
/-- Where the mask's field is all ones, the merge has the new field. -/
theorem field_merge_ones (hm : m.toNat / 2 ^ lo % 2 ^ w = 2 ^ w - 1) :
    ((a &&& ~~~m) ||| (v &&& m)).toNat / 2 ^ lo % 2 ^ w = v.toNat / 2 ^ lo % 2 ^ w := by
  have ones : m.extractLsb' lo w = BitVec.allOnes w := by
    apply BitVec.eq_of_toNat_eq
    rw [← field_eq_extract, hm, BitVec.toNat_allOnes]
  rw [field_eq_extract, field_eq_extract]
  refine congrArg _ (BitVec.eq_of_getLsbD_eq fun i hi => ?_)
  have hb : m.getLsbD (lo + i) = true := by simpa [hi] using congrArg (·.getLsbD i) ones
  simp [hi, hb]
/-- Where it is zero, the merge has the old one. -/
theorem field_merge_zero (h : lo + w ≤ N) (hm : m.toNat / 2 ^ lo % 2 ^ w = 0) :
    ((a &&& ~~~m) ||| (v &&& m)).toNat / 2 ^ lo % 2 ^ w = a.toNat / 2 ^ lo % 2 ^ w := by
  have zeros : m.extractLsb' lo w = 0#w := by
    apply BitVec.eq_of_toNat_eq
    rw [← field_eq_extract, hm]; rfl
  rw [field_eq_extract, field_eq_extract]
  refine congrArg _ (BitVec.eq_of_getLsbD_eq fun i hi => ?_)
  have hn : lo + i < N := by omega
  have hb : m[lo + i] = false := by simpa [hi, BitVec.getLsbD_eq_getElem hn] using congrArg (·.getLsbD i) zeros
  simp [hi, hb, hn]
/-- A merge by a mask whose field is all ones or zero. -/
theorem field_merge {b : Bool} (h : lo + w ≤ N) (hm : m.toNat / 2 ^ lo % 2 ^ w = if b then 2 ^ w - 1 else 0) :
    ((a &&& ~~~m) ||| (v &&& m)).toNat / 2 ^ lo % 2 ^ w = if b then v.toNat / 2 ^ lo % 2 ^ w else a.toNat / 2 ^ lo % 2 ^ w := by
  cases b with
  | true => exact field_merge_ones hm
  | false => exact field_merge_zero h hm
end

/-- A pair of bits within a field. -/
theorem field_pair {n p k j : Nat} (h : 2 * j + 2 ≤ p) : n / 2 ^ (p * k + 2 * j) % 4 = n / 2 ^ (p * k) % 2 ^ p / 2 ^ (2 * j) % 4 := by
  rw [pow_add _ _ (2 * j), ← Nat.div_div_eq_div_mul]
  generalize n / 2 ^ (p * k) = x
  obtain ⟨r, rfl⟩ := Nat.exists_eq_add_of_le h
  rw [show 2 * j + 2 + r = 2 * j + (2 + r) by ring, pow_add 2 (2 * j), Nat.mod_mul_right_div_self, Nat.mod_mod_of_dvd _ (⟨2 ^ r, pow_add 2 2 r⟩ : 4 ∣ 2 ^ (2 + r))]

/-- A pair of bits within a field of ones. -/
theorem ones_pair {p j : Nat} (h : 2 * j + 2 ≤ p) : (2 ^ p - 1) / 2 ^ (2 * j) % 4 = 3 := by
  obtain ⟨r, rfl⟩ := Nat.exists_eq_add_of_le h
  have ha := Nat.two_pow_pos (2 * j)
  have hb := Nat.two_pow_pos r
  have e : 2 ^ (2 * j + 2 + r) - 1 = 2 ^ (2 * j) * (4 * 2 ^ r - 1) + (2 ^ (2 * j) - 1) := by
    rw [show 2 ^ (2 * j + 2 + r) = 2 ^ (2 * j) * (4 * 2 ^ r) by rw [pow_add, pow_add]; ring, Nat.mul_sub_one]
    have : 2 ^ (2 * j) ≤ 2 ^ (2 * j) * (4 * 2 ^ r) := Nat.le_mul_of_pos_right _ (by omega)
    omega
  rw [e, Nat.mul_add_div ha, Nat.div_eq_of_lt (by omega)]
  omega

/-! ## Masks of lanes -/

/-- A lane type's lanes fill the 4,096 data bits; but for the 4-bit ones a lane has whole bytes. -/
theorem lanes_fill (ty : VTy) : ty.width * ty.lanes = 4096 ∧ (ty.width = 4 ∨ 8 ∣ ty.width) ∧ 0 < ty.width := by cases ty <;> decide

section
variable {ty : VTy} {k : Nat} (hk : k < ty.lanes)
include hk

theorem lane_fits : ty.width * k + ty.width ≤ 4096 := by
  have := Nat.mul_le_mul_left ty.width (Nat.succ_le_of_lt hk)
  rw [(lanes_fill ty).1, Nat.mul_succ] at this
  exact this
theorem plane_fits (h8 : 8 ∣ ty.width) : 2 * (ty.width / 8) * k + 2 * (ty.width / 8) ≤ 1024 := by
  have h := lane_fits hk
  obtain ⟨b, hb⟩ := h8
  rw [hb] at h ⊢
  rw [Nat.mul_div_cancel_left _ (by decide)]
  nlinarith
theorem laneMask_field (p : Nat → Bool) : (laneMask ty.width ty.lanes p).toNat / 2 ^ (ty.width * k) % 2 ^ ty.width = if p k then 2 ^ ty.width - 1 else 0 := by
  rw [laneMask, ofNat_field _ (by rw [Nat.mul_succ]; exact lane_fits hk), packNat_field (v := if p k then 2 ^ ty.width - 1 else 0) _ (by simp [hk])]
  exact Nat.mod_eq_of_lt (by split <;> have := Nat.two_pow_pos ty.width <;> omega)
theorem tailMask_field (h8 : 8 ∣ ty.width) (p : Nat → Bool) :
    (tailMask ty.width ty.lanes p).toNat / 2 ^ (2 * (ty.width / 8) * k) % 2 ^ (2 * (ty.width / 8)) = if p k then 2 ^ (2 * (ty.width / 8)) - 1 else 0 := by
  have hw : ¬ ty.width < 8 := Nat.not_lt.mpr (Nat.le_of_dvd (lanes_fill ty).2.2 h8)
  rw [tailMask, if_neg hw, ofNat_field _ (by rw [Nat.mul_succ]; exact plane_fits hk h8), packNat_field (v := if p k then 2 ^ (2 * (ty.width / 8)) - 1 else 0) _ (by simp [hk])]
  exact Nat.mod_eq_of_lt (by split <;> have := Nat.two_pow_pos (2 * (ty.width / 8)) <;> omega)
end
/-- The pairs of 4-bit lanes, one to a byte. -/
theorem tailMask_nibbles {ty : VTy} (h4 : ty.width = 4) {i : Nat} (hi : i < 512) (p : Nat → Bool) :
    (tailMask ty.width ty.lanes p).toNat / 2 ^ (2 * i) % 2 ^ 2 = if p (2 * i) || p (2 * i + 1) then 3 else 0 := by
  have hl : ty.lanes / 2 = 512 := by
    have := (lanes_fill ty).1
    rw [h4] at this
    omega
  rw [tailMask, if_pos (by rw [h4]; decide), ofNat_field _ (by omega), packNat_field (v := if p (2 * i) || p (2 * i + 1) then 3 else 0) _ (by simp [hl, hi])]
  split <;> rfl

/-- The tail plane of a row of lanes: the lane's tail in the pair of its lowest byte, 0b00 in the others. -/
theorem tail_ofLanes {ty : VTy} {k j : Nat} {l : List Pair} {x : Pair} (hk : k < ty.lanes) (hx : l[k]? = some x) (ht : x.t < 4) (h8 : 8 ∣ ty.width) (hj : j < ty.width / 8) :
    (Row.ofLanes ty.width l).tail.toNat / 2 ^ (2 * (ty.width / 8 * k + j)) % 4 = if j = 0 then x.t else 0 := by
  have hw : ¬ ty.width < 8 := Nat.not_lt.mpr (Nat.le_of_dvd (lanes_fill ty).2.2 h8)
  have hlt : x.t < 2 ^ (2 * (ty.width / 8)) := lt_of_lt_of_le (show x.t < 2 ^ 2 from ht) (pow_le_pow_right₀ (by decide) (by omega))
  rw [show 2 * (ty.width / 8 * k + j) = 2 * (ty.width / 8) * k + 2 * j by ring, field_pair (by omega), Row.ofLanes, if_neg hw,
    ofNat_field _ (by rw [Nat.mul_succ]; exact plane_fits hk h8), packNat_field (v := x.t) _ (by simp [hx]), Nat.mod_eq_of_lt hlt]
  by_cases h0 : j = 0
  · rw [if_pos h0, h0]
    simpa using Nat.mod_eq_of_lt ht
  · have : x.t / 2 ^ (2 * j) = 0 := Nat.div_eq_of_lt (lt_of_lt_of_le (show x.t < 2 ^ 2 from ht) (pow_le_pow_right₀ (by decide) (by omega)))
    rw [if_neg h0, this]

/-- The mask's pairs within a selected lane are ones. -/
theorem tailMask_pair {ty : VTy} {k j : Nat} (hk : k < ty.lanes) (h8 : 8 ∣ ty.width) (hj : j < ty.width / 8) (p : Nat → Bool) :
    (tailMask ty.width ty.lanes p).toNat / 2 ^ (2 * (ty.width / 8 * k + j)) % 2 ^ 2 = if p k then 2 ^ 2 - 1 else 0 := by
  rw [show 2 * (ty.width / 8 * k + j) = 2 * (ty.width / 8) * k + 2 * j by ring]
  refine (field_pair (by omega)).trans ?_
  rw [tailMask_field hk h8]
  split
  · exact ones_pair (by omega)
  · rw [Nat.zero_div]

/-- Settles O32: lane by lane the mask's field is all ones or zero, and so is each pair of its tail. -/
theorem laneWritesMerge : Obligations.LaneWritesMerge := by
  intro u ty d sel lanes hlen ix v pair
  have htile : v.regs.tiles[ix] = (u.regs.tiles[ix]).merge (laneMask ty.width ty.lanes sel) (tailMask ty.width ty.lanes sel) (Row.ofLanes ty.width lanes) := by
    simp [v, laneEff, UnitSt.applyEff, ix]
  have lt_lanes : ∀ {k x}, lanes[k]? = some x → k < ty.lanes := fun h => hlen ▸ (List.getElem?_eq_some_iff.mp h).1
  refine ⟨fun k x hx => ?_, fun k x j hx ht hj => ?_, fun h4 i hi => ?_, fun j hj => ?_, rfl, rfl, rfl, rfl, rfl⟩
  · rw [htile]
    exact (field_merge (lane_fits (lt_lanes hx)) (laneMask_field (lt_lanes hx) sel)).trans
      (by rw [← Row.lane, ← Row.lane, lane_ofLanes hx (by rw [Nat.mul_succ]; exact lane_fits (lt_lanes hx))])
  · have h8 : 8 ∣ ty.width := (lanes_fill ty).2.1.resolve_left (by omega)
    have hfit := plane_fits (lt_lanes hx) h8
    have hlo : 2 * (ty.width / 8 * k + j) + 2 ≤ 1024 := by
      rw [show 2 * (ty.width / 8 * k + j) = 2 * (ty.width / 8) * k + 2 * j by ring]; omega
    simp only [pair, htile]
    exact (field_merge hlo (tailMask_pair (lt_lanes hx) h8 hj sel)).trans (by rw [← tail_ofLanes (lt_lanes hx) hx ht h8 hj]; rfl)
  · simp only [pair, htile]
    refine (field_merge (N := 1024) (w := 2) (b := sel (2 * i) || sel (2 * i + 1)) (by omega) (tailMask_nibbles h4 hi sel)).trans ?_
    have hz : (Row.ofLanes ty.width lanes).tail = 0 := by rw [h4]; rfl
    rw [hz, field_zero]
    rfl
  · simp only [v, laneEff, UnitSt.applyEff]
    exact vget_set_other _ _ _ _ hj
end Sys2Proof.Machine

/-! PROOF. Pushes into the engine FIFOs, and the stores of S (R261, R265 to R268, R276, R277). -/
namespace Sys2Proof.Machine

/-! ## A unit after an issue -/

section
variable (u : UnitSt) (x : Stream) (sync : Fin 16) (len : Nat) (now : Int) (a : Attempt)

/-- What an issue leaves of the unit's registers, pending effects and engines is what the attempt's own effect leaves. -/
theorem complete_pend : (u.complete x sync len now a).pend = (a.unit ((u.codeOrder x sync).later a.eff)).pend := by
  unfold UnitSt.complete UnitSt.noteSig
  split <;> rfl
theorem complete_regs : (u.complete x sync len now a).regs = (a.unit ((u.codeOrder x sync).later a.eff)).regs := by
  unfold UnitSt.complete UnitSt.noteSig
  split <;> rfl
theorem complete_eng : (u.complete x sync len now a).eng = (a.unit ((u.codeOrder x sync).later a.eff)).eng := by
  unfold UnitSt.complete UnitSt.noteSig
  split <;> rfl
end

section
variable {s : State} {x : Stream} {sync : Fin 16} {len : Nat} {a : Attempt}

/-- The same for the unit of the turn, where the attempt's own effect keeps a part. -/
theorem issued_pend (h : ∀ v, (a.unit v).pend = v.pend) : ((s.issued x sync len a).unit s.me).pend = s.my.pend ++ a.eff := by
  rw [issued_my, complete_pend, h]; rfl
theorem issued_regs (h : ∀ v, (a.unit v).regs = v.regs) : ((s.issued x sync len a).unit s.me).regs = s.my.regs := by
  rw [issued_my, complete_regs, h]; rfl
theorem issued_mems : (s.issued x sync len a).mems = s.mems := rfl
end

/-! ## Rows that a store reads -/

section
variable {a : Attempt} {u : UnitSt} {now : Int} {v : Fin 64}

/-- An attempt that reads a register through the row port of T0, where the port and the row are free. -/
def Attempt.withRow (a : Attempt) (now : Int) : Attempt := { a with unit := fun u => (a.unit u).takePort (.tileR 0) now 1 }
theorem Attempt.readsRow_clear (hp : u.portFree (.tileR 0) now 1 = true) (hr : u.rowsClear now (u.vRows [v]) = true) : a.readsRow u now v = a.withRow now := by
  simp only [Attempt.readsRow, Attempt.reads_clear hr, hp, if_true, Attempt.withRow]
theorem Attempt.withRow_free (h : a.free) : (a.withRow now).free := h
end

/-! ## Collectives and PUSH -/

/-- A unit that has joined a collective: one entry of CLF. -/
def Joined (s : State) (u v : UnitSt) : Prop :=
  v.eng.clf = u.eng.clf ++ [{ id := s.nextId + 1, word := none }] ∧ v.eng.xcoll = u.eng.xcoll + 1 ∧ v.regs = u.regs

section
variable {s : State} {u : UnitSt} {q : CollCmd} {push : Bool}

/-- A collective's push that meets nothing is an attempt that joins, before its GLOBAL addresses are translated. -/
theorem pushColl_shape (h : (s.pushColl s.me u s.t q push).free) :
    ∃ a l, s.pushColl s.me u s.t q push = Attempt.translated a s.me u l ∧ a.eff = [] ∧ (a.miss = none → u.fifoFull .clf = false) ∧ ∀ m, Joined s u (a.unit { u with maps := m }) := by
  obtain ⟨-, -, hm, hf⟩ := h
  unfold State.pushColl at *
  extract_lets l at_ j members isIn held bad t glob places m at *
  cases hb : bad with
  | some e => simp only [hb] at hf; cases hf
  | none =>
    cases hp : places with
    | error e => simp only [hb, hp] at hf; cases hf
    | ok ps =>
      simp only [hb, hp] at hm ⊢
      refine ⟨_, _, rfl, rfl, fun hm => ?_, fun m => ⟨rfl, rfl, rfl⟩⟩
      have hheld : held = false := by
        cases hh : held with
        | false => rfl
        | true => simp only [hh, if_true] at hm; cases hm
      simp only [held, Bool.or_eq_false_iff] at hheld
      exact hheld.1.2
theorem pushColl_unit (h : (s.pushColl s.me u s.t q push).free) :
    u.eng.clf.length < 16 ∧ (s.pushColl s.me u s.t q push).eff = [] ∧ Joined s u ((s.pushColl s.me u s.t q push).unit u) := by
  obtain ⟨a, l, e, heff, hfull, hu⟩ := pushColl_shape h
  have hm := h.2.2.1
  rw [e] at hm ⊢
  obtain ⟨m, hu'⟩ := translated_unit a s.me u l u
  exact ⟨Nat.lt_of_not_le (of_decide_eq_false (hfull (miss_of_translated hm))), (translated_keeps a s.me u l).2.1.trans heff, hu' ▸ hu m⟩
end

/-- A word of a register's data is its field of 64 bits. -/
theorem ofNat_field64 (n lo : Nat) : BitVec.ofNat 64 (n / 2 ^ lo % 2 ^ 64) = BitVec.ofNat 64 (n / 2 ^ lo) := by
  apply BitVec.eq_of_toNat_eq
  simp

section
variable {s : State} {h : Hdr} {v : Fin 64}

/-- PUSH to CPF of a command whose fields are in range. -/
theorem execPush_copy (hc : s.clear .s h.sync) (hp : s.my.portFree (.tileR 0) s.t 1 = true) (hr : s.my.rowsClear s.t (s.my.vRows [v]) = true) {n : Nat}
    (hn : (s.my.v v).data.toNat = n) (ho : bits n 63 56 < 5) (hz : bits n 39 0 = 0) :
    let g := s.pushCopy s.me s.my .s s.t { op := Fin.ofNat 5 (bits n 63 56), ys := Fin.ofNat 256 (bits n 55 48), yd := Fin.ofNat 256 (bits n 47 40),
                                           src := BitVec.ofNat 64 (n / 2 ^ 192), dst := BitVec.ofNat 64 (n / 2 ^ 128)
                                           tgt := if bits n 63 56 = 3 || bits n 63 56 = 4 then s.homeWord s.me (BitVec.ofNat 64 (n / 2 ^ 64)) else BitVec.ofNat 64 (n / 2 ^ 64) }
    g.free → exec (.push h v .cpf) s = .next (s.issuedWith .s h.sync 2 (g.withRow s.t)) := by
  intro g hf
  refine issueAs_completes_of hc ?_ (Attempt.withRow_free hf)
  dsimp only
  rw [Attempt.readsRow_clear hp hr, hn, decide_eq_false (Nat.not_le.mpr ho), hz]
  rfl
/-- PUSH to CLF of a command whose fields are in range. -/
theorem execPush_coll (hc : s.clear .s h.sync) (hp : s.my.portFree (.tileR 0) s.t 1 = true) (hr : s.my.rowsClear s.t (s.my.vRows [v]) = true) {n : Nat} {op : CollOp}
    (hn : (s.my.v v).data.toNat = n) (ho : CollOp.ofCode (bits n 63 56) = some op) (hz : bits n 127 64 = 0) (hy : bits n 47 0 = 0) :
    let g := s.pushColl s.me s.my s.t { op := op, addr := BitVec.ofNat 64 (n / 2 ^ 192), hand := BitVec.ofNat 64 (n / 2 ^ 128), y := Fin.ofNat 256 (bits n 55 48) } true
    g.free → exec (.push h v .clf) s = .next (s.issuedWith .s h.sync 2 (g.withRow s.t)) := by
  intro g hf
  refine issueAs_completes_of hc ?_ (Attempt.withRow_free hf)
  dsimp only
  rw [Attempt.readsRow_clear hp hr, hn, hz, hy, ho]
  rfl
end

/-- Settles O40: PUSH reads its command from the register, and either form makes the attempt of its engine. -/
theorem fifoPushes : Obligations.FifoPushes := by
  intro s h v a b y op hc u n field word row copy joins
  refine ⟨fun hf => ?_, fun hp hr ho hz hf => ?_, fun hp hr ho hz hy => ?_⟩
  · obtain ⟨hfull, heff, hclf, hx, hregs⟩ := pushColl_unit hf
    exact ⟨issueAs_completes hc hf, hfull, heff, hclf, hx, hregs⟩
  · have ec : copy = s.pushCopy s.me s.my .s s.t
        { op := Fin.ofNat 5 (bits n 63 56), ys := Fin.ofNat 256 (bits n 55 48), yd := Fin.ofNat 256 (bits n 47 40),
          src := BitVec.ofNat 64 (n / 2 ^ 192), dst := BitVec.ofNat 64 (n / 2 ^ 128)
          tgt := if bits n 63 56 = 3 || bits n 63 56 = 4 then s.homeWord s.me (BitVec.ofNat 64 (n / 2 ^ 64)) else BitVec.ofNat 64 (n / 2 ^ 64) } := by
      simp only [copy, word, field, ofNat_field64, Bool.or_eq_true, decide_eq_true_eq]
      rfl
    rw [ec] at hf ⊢
    exact execPush_copy hc hp hr rfl ho hz hf
  · intro hf
    simp only [word, field, ofNat_field64] at hf ⊢
    obtain ⟨hfull, heff, hclf, hx, hregs⟩ := pushColl_unit hf
    exact ⟨execPush_coll hc hp hr rfl ho hz hy hf, hfull, heff, hclf, hx, hregs⟩

/-! ## Stores (R265 to R267) -/

section
variable {s : State} {h : Hdr} {m : SMem}

/-- A vector store whose record, addresses and types are in order is the access of its elements with its post-increment. -/
theorem vectorStore_completes {sel : LaneOf} (hc : s.clear .s h.sync) (hb : (s.my.ly m.y).fieldBad = false) (he : (s.my.ly m.y).elems ≤ (s.my.ly m.y).ltype.lanes)
    (hk : (s.my.ly m.y).checkRows (s.my.ly m.y).rows ((s.my.ly m.y).rowAddr (s.my.memAddr true m.ax m.pi m.disp)) [0, 2, 3] = none)
    (hw : m.ty.width = (s.my.ly m.y).w) (hs : storePair (s.my.ly m.y).ltype m.ty = true) (hp : s.my.portFree (.tileR 0) s.t 1 = true) (hr : s.my.rowsClear s.t (s.my.vRows [m.v]) = true) :
    let l := s.my.ly m.y
    let t := l.tile l.rows (l.rowAddr (s.my.memAddr true m.ax m.pi m.disp))
    let els := (l.stored sel (s.my.p m.p)).map (fun e => (e.1, e.2.1, storeCode l.ltype m.ty m.s.val m.mode ((s.my.v m.v).pair l.ltype.width e.2.2)))
    let ws := storeWrites l.w l.perBlk t.addrs (els.map (fun e => (e.1, e.2.1, e.2.2.1))) { fmt := BitVec.ofNat 8 m.ty.blockCode, scl := if m.ty.isI then 0x7F else BitVec.ofNat 8 m.s.val }
    let go := s.store s.my s.me .s s.t t.window t.spans ws (els.foldl (fun a e => a ||| e.2.2.2) 0)
    go.free → done (vectorStore h m sel) s = .next (s.issuedWith .s h.sync 2
      { go with eff := go.eff ++ s.my.postInc .s true m.ax m.pi m.disp s.t, unit := fun u => (go.unit u).takePort (.tileR 0) s.t 1 }) := by
  intro l t els ws go hf
  have hlanes : ¬ (s.my.ly m.y).ltype.lanes < (s.my.ly m.y).elems := Nat.not_lt.mpr he
  have hwidth : (m.ty.width != (s.my.ly m.y).w) = false := bne_eq_false_iff_eq.mpr hw
  refine issueAs_completes_of hc (a := { go with eff := go.eff ++ s.my.postInc .s true m.ax m.pi m.disp s.t, unit := fun u => (go.unit u).takePort (.tileR 0) s.t 1 }) ?_ hf
  simp only [hb, hlanes, hk, hwidth, hs, Bool.not_true, Bool.false_eq_true, if_false]
  exact Attempt.readsRow_clear hp hr
/-- On chip a store takes the port from issue + 1 and writes at its end. -/
theorem store_chip_effect {t : Tile} {ws : List (Dword × BlkWrite)} {flags : NumBits} {k : Mem} (hk : winMem t.window = some k) :
    (s.store s.my s.me .s s.t t.window t.spans ws flags).sig = 1 + occOf k t.spans ∧
      (s.store s.my s.me .s s.t t.window t.spans ws flags).eff =
        s.lands .s (.blocks k (ws.map (fun x => (blkOf x.1, x.2)))) (1 + occOf k t.spans) :: numstAt (s.t + ((1 + occOf k t.spans : Nat) : Int)) .s flags := by
  rw [State.store, hk]
  exact ⟨rfl, rfl⟩

/-- STH of a tile that is in order: a write of headers alone. -/
theorem execSth_completes {ax : Fin 8} {pi : Bool} {y fmt sc : Fin 256} {go : Attempt} (hc : s.clear .s h.sync) (hb : (s.my.ly y).fieldBad = false) (hn : (s.my.ly y).blks ≤ 256)
    (hk : (s.my.ly y).checkRows (s.my.ly y).rows ((s.my.ly y).rowAddr (s.my.memAddr true ax pi 0)) [0, 2, 3] = none) :
    let t := (s.my.ly y).tile (s.my.ly y).rows ((s.my.ly y).rowAddr (s.my.memAddr true ax pi 0))
    let ws := t.addrs.map (fun a => (a, ({ mask := 0, data := 0, hd := some { fmt := BitVec.ofNat 8 fmt.val, scl := BitVec.ofNat 8 sc.val }, need := none } : BlkWrite)))
    (match winMem t.window with
      | some m => s.chipStore s.my s.me .s s.t m ws 1 0
      | none => s.farStore s.my s.me .s s.t ws 0) = go → go.free →
    exec (.sth h ax pi y fmt sc) s = .next (s.issuedWith .s h.sync 2 { go with eff := go.eff ++ s.my.postInc .s true ax pi 0 s.t }) := by
  intro t ws e hf
  refine issueAs_completes_of hc (a := { go with eff := go.eff ++ s.my.postInc .s true ax pi 0 s.t }) ?_ hf
  simp only [hb, Nat.not_lt.mpr hn, hk, Bool.false_eq_true, if_false]
  rw [← e] <;> rfl
/-- A write that names no header to be judged by faults nowhere on chip. -/
theorem chipStore_free {k : Mem} {ws : List (Dword × BlkWrite)} {occ : Nat} {flags : NumBits} (ha : s.accessHeld s.my s.t = false) (hp : s.my.portFree (writePort k) (s.t + 1) occ = true)
    (hn : ∀ w ∈ ws, w.2.need = none) : (s.chipStore s.my s.me .s s.t k ws occ flags).free := by
  refine ⟨rfl, rfl, ?_, ?_⟩
  · simp only [State.chipStore, ha, hp, Bool.false_eq_true, if_false, if_true]
  · refine List.findSome?_eq_none_iff.mpr fun w hw => ?_
    rw [hn w hw]
end

/-- Settles O37: each store is the access of its blocks, with its post-increment. -/
theorem stores : Obligations.Stores := by
  intro s h m ax pi y fmt sc hc u l addr own t row hd stores k hat ht hw
  have store : ∀ {i : Instr} {sel : LaneOf}, exec i s = done (vectorStore h m sel) s → stores i sel := fun hi hb he hk hty hs hp hr hf =>
    ⟨hi.trans (vectorStore_completes hc hb he hk hty hs hp hr hf), fun k hk => store_chip_effect hk⟩
  refine ⟨store rfl, store rfl, store rfl, fun hb hn hk => ⟨fun x hx ha hp => ?_, fun hx hf => ?_⟩⟩
  · have hfree := chipStore_free (ws := ht.addrs.map (fun a => (a, hw))) (flags := 0) ha hp (by simp [hw])
    rw [execSth_completes hc hb hn hk (go := s.chipStore s.my s.me .s s.t x (ht.addrs.map (fun a => (a, hw))) 1 0) (by rw [hx]) hfree, issuedWith_quiet rfl rfl]
    simp only [State.chipStore, List.map_map]
    rfl
  · exact execSth_completes hc hb hn hk (go := s.farStore u s.me .s s.t (ht.addrs.map (fun a => (a, hw))) 0) (by rw [hx]) hf

/-! ## Weights in place (R268) -/

/-- Nothing is pending on blocks where no block is. -/
theorem gate_of_none_pending {u : UnitSt} (h : u.ord.pblks = []) (now : Int) (m : Option Mem) (blks : List Nat) (x : Int) : u.gate now m blks x = .ok := by
  unfold UnitSt.gate
  extract_lets pending
  have hp : ∀ b, pending b = [] := fun b => by simp only [pending, h, List.filter_nil]
  have hf : blks.find? (fun _ => false) = none := by simp
  have ha : blks.any (fun _ => false) = false := by simp
  simp only [hp, List.any_nil, List.isEmpty_nil, Bool.not_true, Bool.and_false, Bool.or_false, hf, ha]
  split <;> rfl
theorem rowsClear_of_none_pending {u : UnitSt} (h : u.ord.pblks = []) (now : Int) (rows : List (Fin 256)) (x : Int) : u.rowsClear now rows x = true := by
  rw [UnitSt.rowsClear, gate_of_none_pending h]
theorem earlyAt_of_none_pending {u : UnitSt} (h : u.ord.pblks = []) (now : Int) (m : Mem) (l : List Dword) : u.earlyAt now m l = none := by
  rw [UnitSt.earlyAt, gate_of_none_pending h]
theorem readBlocked_of_none_pending {s : State} {u : UnitSt} {now : Int} (h : u.ord.pblks = []) (ha : s.accessHeld u now = false) (m : Mem) (l : List Nat) : s.readBlocked u now m l = none := by
  rw [State.readBlocked, gate_of_none_pending h, ha]; rfl

/-- A tile that a SUPD form updates: its memory, its blocks, the cycles for which it holds the ports; nothing of it stands in the way. -/
def SupdReady (s : State) (w : Nat) (x : Mem × Tile × Nat) : Prop :=
  s.my.portFree (readPort x.1) (s.t + 1) x.2.2 = true ∧ s.my.portFree (writePort x.1) (s.t + 1) x.2.2 = true ∧
    ∀ a ∈ x.2.1.read, supdFault w ((s.mem s.me x.1).head (blkOf a)) a = none

theorem supd_conditions {s : State} {w : Nat} {l : List (Mem × Tile × Nat)} (hb : s.my.ord.pblks = []) (ha : s.accessHeld s.my s.t = false) (h : ∀ x ∈ l, SupdReady s w x) :
    l.findSome? (fun x => s.readBlocked s.my s.t x.1 (x.2.1.read.map blkOf)) = none ∧
      l.all (fun x => s.my.portFree (readPort x.1) (s.t + 1) x.2.2 && s.my.portFree (writePort x.1) (s.t + 1) x.2.2) = true ∧
      l.findSome? (fun x => s.my.earlyAt s.t x.1 x.2.1.read) = none ∧
      l.findSome? (fun x => x.2.1.read.findSome? (fun a => supdFault w ((s.mem s.me x.1).head (blkOf a)) a)) = none := by
  refine ⟨?_, ?_, ?_, ?_⟩
  · exact List.findSome?_eq_none_iff.mpr fun x _ => readBlocked_of_none_pending hb ha _ _
  · exact List.all_eq_true.mpr fun x hx => by rw [(h x hx).1, (h x hx).2.1]; rfl
  · exact List.findSome?_eq_none_iff.mpr fun x _ => earlyAt_of_none_pending hb _ _ _
  · exact List.findSome?_eq_none_iff.mpr fun x hx => List.findSome?_eq_none_iff.mpr fun a hx' => (h x hx).2.2 a hx'

/-- The address of the momentum tile of SUPD.MOM; SUPD.SGD has none, and the model checks its weight tile again. -/
def UnitSt.momAddr (u : UnitSt) (m : UMem) (b : Option (Fin 64)) : Dword :=
  match b with
  | some b => if m.pi then u.sd b else lea (u.sd b) (BitVec.ofInt 64 (64 * m.disp))
  | none => u.memAddr true m.ax m.pi m.disp
/-- The reads of a tile of a SUPD form: each block on the first of the f cycles of its port cycle. -/
def State.supdReads (s : State) (f : Nat) (m : Mem) (t : Tile) (occ : Nat) : List (Nat × Head × Int) :=
  (t.addrs.zip (portCycles m occ t.addrs)).map (fun x => (blkOf x.1, (s.mem s.me m).head (blkOf x.1), s.t + 1 + ((f : Int) * (x.2 : Int))))

section
variable {s : State} {h : Hdr} {m : UMem} {b : Option (Fin 64)} {wm mm : Mem}

/-- The operation of a SUPD form. -/
def State.supdOp (s : State) (m : UMem) (b : Option (Fin 64)) (wm mm : Mem) (t q : Tile) (f : Nat) : SupdOp :=
  let l := s.my.ly m.y
  let els := (List.range l.elems).filterMap (fun k =>
    let rc := l.elemAt k
    if l.clipped rc.1 rc.2 then none
    else some (rc.1 * l.rowBlks + rc.2 / l.perBlk, rc.2 % l.perBlk, laneX l.ltype ((s.my.v m.v).pair l.ltype.width k)))
  let wdue := s.t + ((2 + f * occOf wm t.spans : Nat) : Int)
  { mode := m.mode, w := l.w, lr := image .fp32 ((s.my.s m.a).pair .fp32), beta := b.map (fun _ => elemVal .fp32 (bits (s.my.sd m.a).toNat 63 32)), els := els,
    wm := wm, wb := s.supdReads f wm t (occOf wm t.spans), wgot := [], wdue := wdue, mm := mm, mb := if b.isSome then s.supdReads f mm q (occOf mm q.spans) else [], mgot := []
    mdue := if b.isSome then s.t + ((2 + f * occOf mm q.spans : Nat) : Int) else wdue }
/-- What it leaves: the operation, the ports of its tiles, and its two accesses. -/
def State.supdIssue (s : State) (m : UMem) (o : SupdOp) (tiles : List (Mem × Tile × Nat)) : Attempt :=
  let last := max o.wdue o.mdue
  { eff := s.lands .s (.supd o) 1 :: s.my.postInc .s true m.ax m.pi m.disp s.t
    unit := fun u =>
      let u := tiles.foldl (fun u x => (u.takePort (readPort x.1) (s.t + 1) x.2.2).takePort (writePort x.1) (s.t + 1) x.2.2) u
      let u := { u with eng := { u.eng with sbusy := last } }
      (u.track .s s.t (last - 2) true).track .s s.t last false
    sig := (last - s.t).toNat }

/-- A SUPD form whose tiles are ready. -/
theorem supdate_completes (hc : s.clear .s h.sync) (hp : s.my.portFree (.tileR 0) s.t 1 = true) (ha : s.accessHeld s.my s.t = false) (hpb : s.my.ord.pblks = [])
    {l : Layout} (hl : s.my.ly m.y = l) (hb : l.fieldBad = false) (hty : (l.ltype.isF || l.ltype.isI) = true) (he : l.elems ≤ l.ltype.lanes) {f : Nat} (hf : (if b.isSome then 4 else 2) = f)
    {t q : Tile} (ht : l.tile l.rows (l.rowAddr (s.my.memAddr true m.ax m.pi m.disp)) = t) (hq : l.tile l.rows (l.rowAddr (s.my.momAddr m b)) = q)
    (hk : l.checkRows l.rows (l.rowAddr (s.my.memAddr true m.ax m.pi m.disp)) [1, 2, 3] = none) (hkm : l.checkRows l.rows (l.rowAddr (s.my.momAddr m b)) [1, 2, 3] = none)
    (hwm : (winMem t.window).getD .wb = wm) (hmm : (winMem q.window).getD .wb = mm) {tiles : List (Mem × Tile × Nat)}
    (hts : (wm, t, f * occOf wm t.spans) :: (if b.isSome then [(mm, q, f * occOf mm q.spans)] else []) = tiles) (hr : ∀ x ∈ tiles, SupdReady s l.w x) :
    done (supdate h m b) s = .next (s.issued .s h.sync 2 ((s.supdIssue m (s.supdOp m b wm mm t q f) tiles).withRow s.t)) := by
  obtain ⟨hblock, hports, hearly, hlive⟩ := supd_conditions hpb ha hr
  have hrow := rowsClear_of_none_pending hpb s.t (s.my.vRows [m.v]) s.t
  have hcol : (l.fieldBad || !(l.ltype.isF || l.ltype.isI)) = false := by rw [hb, hty]; rfl
  refine (issueAs_completes_of hc (a := (s.supdIssue m (s.supdOp m b wm mm t q f) tiles).withRow s.t) ?_ ⟨rfl, rfl, rfl, rfl⟩).trans (by rw [issuedWith_quiet rfl rfl])
  rw [← Attempt.readsRow_clear hp hrow]
  subst hf hts hl
  cases b with
  | none =>
    obtain rfl : t = q := ht.symm.trans hq
    obtain rfl : wm = mm := hwm.symm.trans hmm
    simp only [hcol, Nat.not_lt.mpr he, hk, ht, hwm, Option.isSome_none, Bool.false_eq_true, if_false] at hblock hports hearly hlive ⊢
    simp only [hblock, hports, hearly, hlive, if_true, Nat.mul_div_cancel_left _ (show 0 < 2 by decide)]
    rfl
  | some r =>
    simp only [UnitSt.momAddr] at hkm hq
    simp only [hcol, Nat.not_lt.mpr he, hk, hkm, ht, hq, hwm, hmm, Option.isSome_some, Bool.false_eq_true, if_false, if_true] at hblock hports hearly hlive ⊢
    simp only [hblock, hports, hearly, hlive, if_true, Nat.mul_div_cancel_left _ (show 0 < 4 by decide)]
    rfl

theorem takePort_keeps (u : UnitSt) (p : Port) (x : Int) (n : Nat) : (u.takePort p x n).pend = u.pend ∧ (u.takePort p x n).regs = u.regs := by
  rw [UnitSt.takePort]
  split <;> exact ⟨rfl, rfl⟩
/-- The ports of its tiles leave the pending effects and the registers. -/
theorem foldl_tilePorts (t : Int) (l : List (Mem × Tile × Nat)) (u : UnitSt) :
    (l.foldl (fun u x => (u.takePort (readPort x.1) t x.2.2).takePort (writePort x.1) t x.2.2) u).pend = u.pend ∧
      (l.foldl (fun u x => (u.takePort (readPort x.1) t x.2.2).takePort (writePort x.1) t x.2.2) u).regs = u.regs := by
  induction l generalizing u with
  | nil => exact ⟨rfl, rfl⟩
  | cons x l ih =>
    obtain ⟨hp, hr⟩ := ih ((u.takePort (readPort x.1) t x.2.2).takePort (writePort x.1) t x.2.2)
    rw [List.foldl_cons, hp, hr, (takePort_keeps _ _ _ _).1, (takePort_keeps _ _ _ _).2, (takePort_keeps _ _ _ _).1, (takePort_keeps _ _ _ _).2]
    exact ⟨rfl, rfl⟩
theorem supdIssue_keeps (o : SupdOp) (l : List (Mem × Tile × Nat)) (v : UnitSt) :
    (((s.supdIssue m o l).withRow s.t).unit v).pend = v.pend ∧ (((s.supdIssue m o l).withRow s.t).unit v).regs = v.regs := by
  obtain ⟨hp, hr⟩ := foldl_tilePorts (s.t + 1) l v
  simp only [Attempt.withRow, takePort_keeps]
  exact ⟨hp, hr⟩
/-- What a ready SUPD form leaves of its unit. -/
theorem supdIssue_issued (o : SupdOp) (l : List (Mem × Tile × Nat)) :
    ((s.issued .s h.sync 2 ((s.supdIssue m o l).withRow s.t)).unit s.me).pend = s.my.pend ++ s.lands .s (.supd o) 1 :: s.my.postInc .s true m.ax m.pi m.disp s.t ∧
      ((s.issued .s h.sync 2 ((s.supdIssue m o l).withRow s.t)).unit s.me).regs = s.my.regs :=
  ⟨issued_pend fun v => (supdIssue_keeps o l v).1, issued_regs fun v => (supdIssue_keeps o l v).2⟩
end

/-- The upper half of a register's data as an FP32 code. -/
theorem upper_half (w : Dword) : bits w.toNat 63 32 = w.toNat / 2 ^ 32 :=
  Nat.mod_eq_of_lt (Nat.div_lt_of_lt_mul (by have := w.isLt; norm_num at this ⊢; exact this))

/-- Settles O38: the tiles are ready, so the operation is left pending as it stands at issue. -/
theorem weightUpdates : Obligations.WeightUpdates := by
  intro s h m b hc hp ha hpb u l own mown t q ok runs hb hty he hk
  have ready : ∀ {x : Mem} {t : Tile} {n : Nat}, ok x t n → SupdReady s l.w (x, t, n) := fun hx => hx.2
  have win : ∀ {x : Mem} {t : Tile} {n : Nat}, ok x t n → (winMem t.window).getD .wb = x := fun hx => by rw [hx.1]; rfl
  refine ⟨fun wm hwm => ?_, fun wm mm hkm hwm hmm => ?_⟩
  · obtain ⟨hpend, hregs⟩ := supdIssue_issued (s := s) (h := h) (m := m) (s.supdOp m none wm wm t t 2) [(wm, t, 2 * occOf wm t.spans)]
    refine ⟨_, _, supdate_completes (b := none) (t := t) (q := t) hc hp ha hpb rfl hb hty he rfl rfl rfl hk hk (win hwm) (win hwm) rfl ?_, hpend, rfl, rfl, rfl, rfl, rfl, rfl, ?_, rfl,
      (fun hz => absurd hz Bool.false_ne_true), hregs, rfl⟩
    · simpa using ready hwm
    · simp only [Nat.cast_mul]; rfl
  · obtain ⟨hpend, hregs⟩ := supdIssue_issued (s := s) (h := h) (m := m) (s.supdOp m (some b) wm mm t q 4) [(wm, t, 4 * occOf wm t.spans), (mm, q, 4 * occOf mm q.spans)]
    refine ⟨_, _, supdate_completes (b := some b) (t := t) (q := q) hc hp ha hpb rfl hb hty he rfl rfl rfl hk hkm (win hwm) (win hmm) rfl ?_, hpend, rfl, rfl, rfl, ?_, rfl, rfl, ?_, rfl,
      fun _ => ⟨rfl, ?_, rfl, rfl⟩, hregs, rfl⟩
    · simpa using ⟨ready hwm, ready hmm⟩
    · rw [← upper_half]; rfl
    · simp only [Nat.cast_mul]; rfl
    · simp only [Nat.cast_mul]; rfl
end Sys2Proof.Machine

/-! PROOF. Operations on words and barriers (R270 to R274, R335, R336). -/
namespace Sys2Proof.Machine

/-! ## Actions that only send -/

/-- An update of what is on its way: events, reports, identities, free values, the links' counts. -/
def Upd.sends : Upd → Bool
  | .timers _ | .agenda _ | .outbox _ | .pkg _ | .free _ | .nextId _ => true
  | _ => false
/-- An action that changes nothing but what is on its way. -/
def Act.Sends (a : Act) : Prop := ∀ s, ∀ u ∈ a s, u.sends = true

/-- What sending leaves: the columns, the memories, the launch layer. -/
structure SentFrom (s t : State) : Prop where
  units : t.units = s.units
  mems : t.mems = s.mems
  ext : t.ext = s.ext
  vaults : t.vaults = s.vaults
  slots : t.slots = s.slots
  dies : t.dies = s.dies
  parts : t.parts = s.parts
  work : t.work = s.work

theorem SentFrom.refl (s : State) : SentFrom s s := ⟨rfl, rfl, rfl, rfl, rfl, rfl, rfl, rfl⟩
theorem SentFrom.trans {s t r : State} (h : SentFrom s t) (k : SentFrom t r) : SentFrom s r :=
  ⟨k.units.trans h.units, k.mems.trans h.mems, k.ext.trans h.ext, k.vaults.trans h.vaults, k.slots.trans h.slots, k.dies.trans h.dies, k.parts.trans h.parts, k.work.trans h.work⟩
theorem apply_sentFrom {u : Upd} (h : u.sends = true) (s : State) : SentFrom s (u.apply s) := by
  cases u
  case timers | agenda | outbox | pkg | free | nextId => exact ⟨rfl, rfl, rfl, rfl, rfl, rfl, rfl, rfl⟩
  all_goals cases h
theorem run_sentFrom {l : List Upd} (h : ∀ u ∈ l, u.sends = true) (s : State) : SentFrom s (run l s) := by
  induction l generalizing s with
  | nil => exact .refl s
  | cons u l ih => exact (apply_sentFrom (h u (by simp)) s).trans (ih (fun v hv => h v (by simp [hv])) _)
theorem Act.Sends.sentFrom {a : Act} (h : a.Sends) (s : State) : SentFrom s (perform a s) := run_sentFrom (h s) s

theorem sends_none : Act.none.Sends := fun _ u hu => by cases hu
theorem sends_seq {a b : Act} (ha : a.Sends) (hb : b.Sends) : (Act.seq a b).Sends := fun s u hu => by
  rcases List.mem_append.mp hu with h | h
  · exact ha s u h
  · exact hb _ u h
theorem sends_all {l : List Act} (h : ∀ a ∈ l, a.Sends) : (Act.all l).Sends := by
  induction l with
  | nil => exact sends_none
  | cons a l ih => exact sends_seq (h a (by simp)) (ih fun b hb => h b (by simp [hb]))
theorem sends_each {α : Type} {l : List α} {f : α → Act} (h : ∀ x ∈ l, (f x).Sends) : (Act.each l f).Sends :=
  sends_all fun a ha => by obtain ⟨x, hx, rfl⟩ := List.mem_map.mp ha; exact h x hx
theorem sends_when {a : Act} (b : Bool) (h : a.Sends) : (Act.when b a).Sends := by cases b; exacts [sends_none, h]
theorem sends_eventAt (c : Col) (x : Int) (e : Ev) : (eventAt c x e).Sends := fun s u hu => by
  unfold eventAt at hu
  split at hu <;> (simp only [List.mem_singleton] at hu; subst hu; rfl)
theorem sends_eventTick (x : Int) (e : Ev) : (eventTick x e).Sends := fun s u hu => by
  simp only [eventTick, List.mem_singleton] at hu; subst hu; rfl
theorem sends_report (r : Report) : (report r).Sends := fun s u hu => by
  simp only [report, List.mem_singleton] at hu; subst hu; rfl
theorem sends_onPkg (f : Pkg → Pkg) : (onPkg f).Sends := fun s u hu => by
  simp only [onPkg, List.mem_singleton] at hu; subst hu; rfl
theorem sends_draw {n : Nat} {f : Nat → Act} (h : ∀ k, (f k).Sends) : (draw n f).Sends := fun s u hu => by
  rcases List.mem_cons.mp hu with rfl | hu
  · rfl
  · exact h _ _ u hu
theorem sends_askPeers (l : List Nat) : (askPeers l).Sends := sends_each fun p _ s u hu => by
  split at hu
  · cases hu
  · exact sends_seq (sends_onPkg _) (sends_eventTick _ _) s u hu
theorem sends_refreshFrontier (c : Col) : (refreshFrontier c).Sends := fun s => sends_eventAt _ _ _ s

/-! ## An operation sets out -/

/-- The operation that is recorded is the one that was issued: what its way has added is where its word lies, and, to another package, its result. -/
structure SameOp (a x : Atomic) : Prop where
  id : x.id = a.id
  op : x.op = a.op
  size : x.size = a.size
  old : x.old = a.old
  addr : x.addr = a.addr
  target : x.target = a.target
  pkg : x.pkg = a.pkg
  who : x.who = a.who
  launch : x.launch = a.launch
  done : a.pkg = 0 → x.done = a.done

/-- Updates that record work, and then only send. -/
theorem run_work {l : List Upd} (h : ∀ u ∈ l, u.sends = true) (w : Work) (t : State) :
    (run (.work w :: l) t).work = w ∧ (run (.work w :: l) t).units = t.units ∧ (run (.work w :: l) t).mems = t.mems :=
  have k := run_sentFrom h ((Upd.work w).apply t)
  ⟨k.work, k.units, k.mems⟩

/-- A word's operation sets out: it is recorded, and nothing of the columns and the memories changes. -/
theorem startAtomic_records (a : Atomic) (s : State) :
    ∃ x, SameOp a x ∧ (perform (startAtomic a) s).work.atoms = s.work.atoms ++ [x] ∧ (perform (startAtomic a) s).units = s.units ∧ (perform (startAtomic a) s).mems = s.mems := by
  have recorded : ∀ (x : Atomic) (k : Act) (t t' : State), SameOp a x → k.Sends → SentFrom s t → SentFrom s t' →
      perform (startAtomic a) s = run (Act.seq (onWork (fun w => { w with atoms := w.atoms ++ [x] })) k t) t' →
      ∃ x, SameOp a x ∧ (perform (startAtomic a) s).work.atoms = s.work.atoms ++ [x] ∧ (perform (startAtomic a) s).units = s.units ∧ (perform (startAtomic a) s).mems = s.mems :=
    fun x k t t' hx hk ht ht' e => by
      obtain ⟨hw, hu, hm⟩ := run_work (hk (run (onWork (fun w => { w with atoms := w.atoms ++ [x] }) t) t)) { t.work with atoms := t.work.atoms ++ [x] } t'
      refine ⟨x, hx, ?_, ?_, ?_⟩ <;> rw [e]
      · exact (congrArg (·.atoms) hw).trans (by rw [ht.work])
      · exact hu.trans ht'.units
      · exact hm.trans ht'.mems
  by_cases hp : a.pkg = 0
  · have hb : (a.pkg != 0) = false := by rw [hp]; rfl
    cases hw : winMem (tagOf a.addr) with
    | some m =>
      refine recorded { a with placed := true, owner := a.target, mem := m, off := offOf a.addr, ret := (s.ow a.target a.who.col : Int) }
        (eventAt a.who.col (s.now a.who.col + (s.ow a.who.col a.target : Int) + 1) (.atomicPerform a.id)) s s ⟨rfl, rfl, rfl, rfl, rfl, rfl, rfl, rfl, rfl, fun _ => rfl⟩
        (sends_eventAt _ _ _) (.refl s) (.refl s) ?_
      simp only [perform, startAtomic, hb, hw, Bool.false_eq_true, if_false]
    | none =>
      refine recorded a (eventAt a.who.col (s.now a.who.col + (s.ow a.who.col a.target : Int)) (.atomicPerform a.id)) s s ⟨rfl, rfl, rfl, rfl, rfl, rfl, rfl, rfl, rfl, fun _ => rfl⟩
        (sends_eventAt _ _ _) (.refl s) (.refl s) ?_
      simp only [perform, startAtomic, hb, hw, Bool.false_eq_true, if_false]
  · have hb : (a.pkg != 0) = true := bne_iff_ne.mpr hp
    let t := perform (askPeers [a.pkg]) s
    have ht : SentFrom s t := (sends_askPeers _).sentFrom s
    let old : Dword := BitVec.ofNat 64 (packNat 8 ((List.range (Size.bytes a.size)).map (fun i => (Config.fabricByte (t.free + i)).toNat)))
    refine recorded { a with placed := true, done := true, result := old }
      (Act.all [report (.hostAtom a.pkg (a.target.val * 2 ^ 64 + a.addr.toNat) a.op a.size), eventAt a.who.col (s.now a.who.col + 1 + (Config.fabricCycles t.free : Int)) (.atomicReport a.id)])
      t { t with free := t.free + 9 } ⟨rfl, rfl, rfl, rfl, rfl, rfl, rfl, rfl, rfl, fun h => absurd h hp⟩
      (sends_seq (sends_report _) (sends_seq (sends_eventAt _ _ _) sends_none)) ht (ht.trans ⟨rfl, rfl, rfl, rfl, rfl, rfl, rfl, rfl⟩) ?_
    have e : perform (startAtomic a) s = perform (Act.seq (askPeers [a.pkg]) (draw 9 (fun n =>
      let old : Dword := BitVec.ofNat 64 (packNat 8 ((List.range (Size.bytes a.size)).map (fun i => (Config.fabricByte (n + i)).toNat)))
      Act.all [onWork (fun w => { w with atoms := w.atoms ++ [{ a with placed := true, done := true, result := old }] }), report (.hostAtom a.pkg (a.target.val * 2 ^ 64 + a.addr.toNat) a.op a.size),
        eventAt a.who.col (s.now a.who.col + 1 + (Config.fabricCycles n : Int)) (.atomicReport a.id)]))) s := by
      simp only [perform, startAtomic, hb, if_true]
    rw [e, perform_seq]
    rfl

/-! ## The issue of an operation -/

/-- Nothing has to be translated where there is no address. -/
theorem mapped_nil (u : UnitSt) : u.mapped [] = true := by
  simp [UnitSt.mapped, UnitSt.missing, UnitSt.walked, MapSt.lost]

/-- What an operation's issue leaves: the operation on its way, what is pending in the unit, its AMF and its barrier slots; registers and memories stay. -/
structure OpIssued (s t : State) (a : Atomic) (eff : List Pend) (old : Bool) (slots : List BarSlot) : Prop where
  atom : ∃ x ∈ t.work.atoms, SameOp a x
  pend : (t.unit s.me).pend = s.my.pend ++ eff
  amf : (t.unit s.me).eng.amf = if old then s.my.eng.amf ++ [{ id := s.nextId + 1, word := none }] else s.my.eng.amf
  slots : (t.unit s.me).ord.slots = slots
  regs : (t.unit s.me).regs = s.my.regs
  mems : t.mems = s.mems

theorem complete_slots (u : UnitSt) (x : Stream) (sync : Fin 16) (len : Nat) (now : Int) (a : Attempt) :
    (u.complete x sync len now a).ord.slots = (a.unit ((u.codeOrder x sync).later a.eff)).ord.slots := by
  unfold UnitSt.complete UnitSt.noteSig
  split <;> rfl

/-- Updates made from one state leave the same units, memories and work on another that has them in common. -/
theorem run_congr (l : List Upd) {s t : State} (hu : s.units = t.units) (hm : s.mems = t.mems) (hw : s.work = t.work) :
    (run l s).units = (run l t).units ∧ (run l s).mems = (run l t).mems ∧ (run l s).work = (run l t).work := by
  induction l generalizing s t with
  | nil => exact ⟨hu, hm, hw⟩
  | cons u l ih =>
    refine ih (s := u.apply s) (t := u.apply t) ?_ ?_ ?_
    · cases u <;> simp only [Upd.apply, hu]
    · cases u <;> simp only [Upd.apply, hm]
    · cases u <;> simp only [Upd.apply, hw]
/-- An action under a fresh identity. -/
theorem perform_fresh_congr (f : Nat → Act) (s : State) : (perform (fresh f) s).units = (perform (f (s.nextId + 1)) s).units ∧
    (perform (fresh f) s).mems = (perform (f (s.nextId + 1)) s).mems ∧ (perform (fresh f) s).work = (perform (f (s.nextId + 1)) s).work :=
  run_congr (f (s.nextId + 1) s) rfl rfl rfl

/-- The operation that a unit issues. -/
def State.opOf (s : State) (tgt addr : Dword) (op : AtomOp) (z : Size) (old : Bool) : Atomic :=
  { id := s.nextId + 1, who := s.who s.me .s (dieOf (Fin.ofNat 512 tgt.toNat)), launch := (s.slot s.me).launch, target := Fin.ofNat 512 tgt.toNat, pkg := bits tgt.toNat 28 9, addr := addr, op := op,
    size := z, old := old, placed := false, owner := Fin.ofNat 512 tgt.toNat, mem := .vault, off := 0, loan := none, copy := false, home := (Fin.ofNat 512 tgt.toNat, 0), cow := false, ret := 0,
    result := 0, bad := none, done := false, job := s.jobOf s.me }

section
variable {s : State} {sync : Fin 16} {f : State → Col → UnitSt → Int → Attempt} {bad : Option FaultRec} {tgt addr : Dword} {op : AtomOp} {z : Size} {old rel acq sy : Bool} {scope : Scope}
  {more : UnitSt → UnitSt} {g : List BarSlot → List BarSlot}

/-- An issue that starts an operation under a fresh identity, and then only sends. -/
theorem opIssued_of {a : Attempt} {o : Nat → Atomic} {k : Act} (hm : a.more = fresh (fun id => Act.seq (startAtomic (o id)) k)) (ha : a.after = Act.none) (hk : k.Sends)
    (hp : ∀ v, (a.unit v).pend = v.pend) (hf : ∀ v, (a.unit v).eng.amf = if old then v.eng.amf ++ [{ id := s.nextId + 1, word := none }] else v.eng.amf)
    (hs : ∀ v, (a.unit v).ord.slots = g v.ord.slots) (hr : ∀ v, (a.unit v).regs = v.regs) :
    OpIssued s (s.issuedWith .s sync 2 a) (o (s.nextId + 1)) a.eff old (g s.my.ord.slots) := by
  let s1 := s.issued .s sync 2 a
  obtain ⟨hu, hmem, hw⟩ := perform_fresh_congr (fun id => Act.seq (startAtomic (o id)) k) s1
  obtain ⟨x, hx, hatoms, hunits, hmems⟩ := startAtomic_records (o (s1.nextId + 1)) s1
  have hk' := hk.sentFrom (perform (startAtomic (o (s1.nextId + 1))) s1)
  have e : s.issuedWith .s sync 2 a = perform (fresh (fun id => Act.seq (startAtomic (o id)) k)) s1 := by rw [State.issuedWith, hm, ha]; rfl
  rw [perform_seq] at hu hmem hw
  have hunit : (s.issuedWith .s sync 2 a).unit s.me = s.my.complete .s sync 2 s.t a := by
    rw [e]
    exact (congrArg (·[s.me]) (hu.trans (hk'.units.trans hunits))).trans (issued_my s .s sync 2 a)
  refine ⟨⟨x, ?_, hx⟩, ?_, ?_, ?_, ?_, ?_⟩
  · rw [e, hw, hk'.work, hatoms]; simp
  · rw [hunit, complete_pend, hp]; rfl
  · rw [hunit, complete_eng, hf]; rfl
  · rw [hunit, complete_slots, hs]; rfl
  · rw [hunit, complete_regs, hr]; rfl
  · rw [e, hmem, hk'.mems, hmems]; rfl

/-- An operation that meets nothing issues. -/
theorem atomic_issues (hc : s.clear .s sync) (e : f s s.me s.my s.t = s.atomic s.me s.my s.t bad tgt addr op z old rel acq sy scope more) (hbad : bad = none)
    (ha : s.accessHeld s.my s.t = false) (hm : Fin.ofNat 512 tgt.toNat = s.me → bits tgt.toNat 28 9 = 0 → s.my.mapped [addr] = true) (ho : old = true → s.my.fifoFull .amf = false)
    (hr : rel = true → s.my.writesDone scope s.t none = true) (hs : sy = true → s.syncMiss s.me s.my s.t = none ∧ s.syncFault s.me s.my s.t = none)
    (hk : ∀ v, (more v).pend = v.pend ∧ (more v).eng = v.eng ∧ (more v).regs = v.regs) (hg : ∀ v, (more v).ord.slots = g v.ord.slots) :
    ∃ t, done (issueAs .s sync 2 f) s = .next t ∧ OpIssued s t (s.opOf tgt addr op z old) (if sy then [syncEff .s s.t] else []) old (g s.my.ord.slots) := by
  have hL : s.my.mapped (if Fin.ofNat 512 tgt.toNat == s.me && bits tgt.toNat 28 9 == 0 then [addr] else []) = true := by
    split
    · next h =>
      rw [Bool.and_eq_true, beq_iff_eq, beq_iff_eq] at h
      exact hm h.1 h.2
    · exact mapped_nil _
  have hmiss : (s.accessHeld s.my s.t || (old && s.my.fifoFull .amf) || (rel && !s.my.writesDone scope s.t none)) = false := by
    rw [ha, Bool.false_or, Bool.or_eq_false_iff, Bool.and_eq_false_imp, Bool.and_eq_false_imp]
    exact ⟨ho, fun h => by rw [hr h]; rfl⟩
  have hsm : (if sy then s.syncMiss s.me s.my s.t else none) = none := by cases hy : sy; exacts [rfl, (hs hy).1]
  have hsf : (if sy then s.syncFault s.me s.my s.t else none) = none := by cases hy : sy; exacts [rfl, (hs hy).2]
  rw [State.atomic, translated_of_mapped hL] at e
  refine ⟨_, issueAs_completes_of hc e ⟨rfl, rfl, ?_, ?_⟩, ?_⟩
  · simp only [hmiss, hsm, Bool.false_eq_true, if_false]
  · simp only [hsf, hbad]
  · refine opIssued_of (o := fun id => { s.opOf tgt addr op z old with id := id }) rfl rfl (sends_when sy (sends_refreshFrontier s.me)) (fun v => ?_) (fun v => ?_) (fun v => ?_) (fun v => ?_)
    · simp only [hk, apply_ite UnitSt.pend, UnitSt.synced, UnitSt.reserve, UnitSt.setFifo, UnitSt.trackFar, UnitSt.addOutst, ite_self]
    · simp only [hk, apply_ite UnitSt.eng, apply_ite Eng.amf, UnitSt.synced, UnitSt.reserve, UnitSt.setFifo, UnitSt.fifo, UnitSt.trackFar, UnitSt.addOutst, ite_self]
    · simp only [hg, apply_ite UnitSt.ord, apply_ite Ordr.slots, UnitSt.synced, UnitSt.reserve, UnitSt.setFifo, UnitSt.trackFar, UnitSt.addOutst, ite_self]
    · simp only [hk, apply_ite UnitSt.regs, UnitSt.synced, UnitSt.reserve, UnitSt.setFifo, UnitSt.trackFar, UnitSt.addOutst, ite_self]
end

/-! ## Barriers -/

/-- The target word that names a unit's own column. -/
theorem ownTarget_names (c : Col) : Fin.ofNat 512 (ownTarget c).toNat = c ∧ bits (ownTarget c).toNat 28 9 = 0 := by
  have hc := c.isLt
  have e : (ownTarget c).toNat = c.val := by simp only [ownTarget, BitVec.toNat_ofNat]; omega
  rw [e]
  exact ⟨by apply Fin.ext; simp only [Fin.val_ofNat]; omega, by simp only [bits]; omega⟩

section
variable {s : State} {h : Hdr} {ax : Fin 8} {scope : Scope} {p : Place}

/-- BARDEF takes or frees a slot (R273). -/
theorem execBardef_issues {a : Fin 64} (hc : s.clear .s h.sync) (ha : s.accessHeld s.my s.t = false) (hm : s.my.mapped [s.my.regs.as[ax]] = true)
    (hp : s.barPlace s.my s.my.regs.as[ax] = .ok p) (hn : (s.my.sd a).toNat ≤ 65535)
    (hl : (s.my.sd a).toNat ≠ 0 → s.my.barSlot s.my.regs.as[ax] = none → s.my.ord.slots.length < 4) :
    ∃ t, exec (.bardef h a ax scope) s = .next t ∧ OpIssued s t (s.opOf (ownTarget s.me) s.my.regs.as[ax] (.barDef (s.my.sd a).toNat) .b64 false) [] false
      (if (s.my.sd a).toNat == 0 then s.my.ord.slots.filter (fun b => b.va != s.my.regs.as[ax].toNat) else if (s.my.barSlot s.my.regs.as[ax]).isSome then s.my.ord.slots
        else s.my.ord.slots ++ [{ va := s.my.regs.as[ax].toNat, owner := p.col, pa := p.pa, gen := 0, arrived := false, joined := false, released := false }]) := by
  have hbad : (if 65535 < (s.my.sd a).toNat then some (flt .barrier 2 s.my.regs.as[ax])
      else if (s.my.sd a).toNat != 0 && !(s.my.barSlot s.my.regs.as[ax]).isSome && 4 ≤ s.my.ord.slots.length then some (flt .barrier 3 s.my.regs.as[ax]) else none) = none := by
    rw [if_neg (Nat.not_lt.mpr hn)]
    refine if_neg fun hx => ?_
    simp only [Bool.and_eq_true, bne_iff_ne, Bool.not_eq_true', Option.isSome_eq_false_iff, Option.isNone_iff_eq_none, decide_eq_true_eq] at hx
    obtain ⟨⟨hn0, hb⟩, hlen⟩ := hx
    exact Nat.not_lt.mpr hlen (hl hn0 hb)
  let g := fun (l : List BarSlot) => if (s.my.sd a).toNat == 0 then l.filter (fun b => b.va != s.my.regs.as[ax].toNat) else if (s.my.barSlot s.my.regs.as[ax]).isSome then l
    else l ++ [{ va := s.my.regs.as[ax].toNat, owner := p.col, pa := p.pa, gen := 0, arrived := false, joined := false, released := false }]
  refine atomic_issues (tgt := ownTarget s.me) (addr := s.my.regs.as[ax]) (op := .barDef (s.my.sd a).toNat) (z := .b64) (old := false) (rel := false)
    (acq := false) (sy := false) (scope := scope) (bad := _) (more := fun u => { u with ord := { u.ord with slots := g u.ord.slots } }) (g := g)
    hc ?_ hbad ha (fun _ _ => hm) (fun h => by cases h) (fun h => by cases h) (fun h => by cases h) (fun v => ⟨rfl, rfl, rfl⟩) (fun v => rfl)
  simp only [hp]
  rfl

/-- BARARV marks its slot as arrived (R274). -/
theorem execBararv_issues {b : BarSlot} (hc : s.clear .s h.sync) (ha : s.accessHeld s.my s.t = false) (hm : s.my.mapped [s.my.regs.as[ax]] = true)
    (hp : s.barPlace s.my s.my.regs.as[ax] = .ok p) (hb : s.my.barSlot s.my.regs.as[ax] = some b) (hr : b.arrived = false) (hw : s.my.writesDone scope s.t none = true)
    (hsm : s.syncMiss s.me s.my s.t = none) (hsf : s.syncFault s.me s.my s.t = none) :
    ∃ t, exec (.bararv h ax scope) s = .next t ∧ OpIssued s t (s.opOf (ownTarget s.me) s.my.regs.as[ax] .barArv .b64 false) [syncEff .s s.t] false
      (s.my.ord.slots.map (fun b => if b.va == s.my.regs.as[ax].toNat then { b with arrived := true, joined := false, released := false } else b)) := by
  refine atomic_issues (tgt := ownTarget s.me) (addr := s.my.regs.as[ax]) (op := .barArv) (z := .b64) (old := false) (rel := true) (acq := false) (sy := true) (scope := scope) (bad := none)
    (more := fun u => u.onBar s.my.regs.as[ax].toNat (fun b => { b with arrived := true, joined := false, released := false }))
    (g := fun l => l.map (fun b => if b.va == s.my.regs.as[ax].toNat then { b with arrived := true, joined := false, released := false } else b))
    hc ?_ rfl ha (fun _ _ => hm) (fun h => by cases h) (fun _ => hw) (fun _ => ⟨hsm, hsf⟩) (fun v => ⟨rfl, rfl, rfl⟩) (fun v => rfl)
  simp only [hp, hb, hr, Bool.false_eq_true, if_false]

/-- BARWT clears its slot once the release has come (R274). -/
theorem execBarwt_issues {b : BarSlot} (hc : s.clear .s h.sync) (hm : s.my.mapped [s.my.regs.as[ax]] = true) (hp : s.barPlace s.my s.my.regs.as[ax] = .ok p)
    (hb : s.my.barSlot s.my.regs.as[ax] = some b) (ha : b.arrived = true) (hr : b.released = true) (hsm : s.syncMiss s.me s.my s.t = none) (hsf : s.syncFault s.me s.my s.t = none) :
    ∃ t, exec (.barwt h ax scope) s = .next t ∧
      (t.unit s.me).ord.slots = s.my.ord.slots.map (fun b => if b.va == s.my.regs.as[ax].toNat then { b with arrived := false, joined := false, released := false } else b) ∧
      (t.unit s.me).regs = s.my.regs ∧ t.mems = s.mems ∧ (t.unit s.me).pend = s.my.pend ++ [syncEff .s s.t] := by
  let a : Attempt :=
    { eff := [syncEff .s s.t]
      unit := fun u => (({ u with maps := u.maps.mend u.maps.cur (s.my.walked [s.my.regs.as[ax]]).contains } : UnitSt).synced s.t).onBar s.my.regs.as[ax].toNat
        (fun b => { b with arrived := false, joined := false, released := false })
      more := refreshFrontier s.me }
  have hs := (sends_refreshFrontier s.me).sentFrom (s.issued .s h.sync 2 a)
  have hu : (s.issuedWith .s h.sync 2 a).unit s.me = s.my.complete .s h.sync 2 s.t a := (congrArg (·[s.me]) hs.units).trans (issued_my ..)
  refine ⟨s.issuedWith .s h.sync 2 a, ?_, ?_, ?_, ?_, ?_⟩
  · refine issueAs_completes_of hc ?_ ⟨rfl, rfl, rfl, rfl⟩
    rw [translated_of_mapped hm]
    simp only [hp, hb, ha, hr, hsm, hsf]
    rfl
  · rw [hu, complete_slots]; rfl
  · rw [hu, complete_regs]; rfl
  · exact hs.mems
  · rw [hu, complete_pend]; rfl
end

/-- Settles O39: an operation on a word issues under a fresh identity with the operands that the registers hold; a barrier form changes its slot besides. -/
theorem wordsAndBarriers : Obligations.WordsAndBarriers := by
  intro s h o sop aop old a ax scope hc u sync tgt base word addr slots n sent mark
  have words : ∀ {i : Instr} {op : UnitSt → AtomOp} {q : Bool}, exec i s = done (wordOp h o op q) s → word i (op s.my) q := by
    intro i op q hi ha hm hbad hfull hw hs
    have hrel : (o.ord == .rel || o.ord == .sc) = true → s.my.writesDone o.scope s.t none = true := fun h => hw (by simpa using h)
    obtain ⟨t, ht, ⟨⟨x, hx, hop⟩, hpend, hamf, -, hregs, hmems⟩⟩ := atomic_issues (f := fun s c u now =>
        s.atomic c u now (s.atomFault c u (s.homeWord c (u.sd o.a)) u.regs.as[o.ax] (Size.bytes o.size)) (s.homeWord c (u.sd o.a)) u.regs.as[o.ax] (op u) o.size q
          (o.ord == .rel || o.ord == .sc) (o.ord == .acq || o.ord == .sc) (o.ord == .sc) o.scope id)
      (g := id) hc rfl hbad ha hm hfull hrel (fun h => hs (by simpa using h)) (fun v => ⟨rfl, rfl, rfl⟩) (fun v => rfl)
    refine ⟨x, t, hi.trans ht, hx, hop.id, hop.op, hop.size, hop.old, hop.addr, hop.target, hop.pkg, ?_, hamf, hregs, hmems⟩
    simpa [sync] using hpend
  have own : ∀ {t : State} {op : AtomOp} {eff : List Pend} {l : List BarSlot}, OpIssued s t (s.opOf (ownTarget s.me) addr op .b64 false) eff false l → sent t op := by
    intro t op eff l hop
    obtain ⟨x, hx, hsame⟩ := hop.atom
    exact ⟨x, hx, hsame.id, hsame.op, hsame.size, hsame.old, hsame.addr, hsame.target.trans (ownTarget_names s.me).1, hsame.pkg.trans (ownTarget_names s.me).2, by rw [hsame.who]; rfl,
      hsame.launch, hsame.done (ownTarget_names s.me).2⟩
  refine ⟨words (op := fun u => .sig sop (u.sd o.b)) rfl, words (op := fun u => .amo aop (u.sd o.b)) rfl,
    words (op := fun u => .cas (u.sd o.b) (u.sd (Fin.ofNat 64 (o.b.val + 1)))) rfl, ?_, ?_, ?_⟩
  · intro p ha hm hp hn hl
    obtain ⟨t, ht, hop⟩ := execBardef_issues hc ha hm hp hn hl
    simp only [beq_iff_eq] at hop
    exact ⟨t, ht, own hop, hop.slots, hop.regs, hop.mems⟩
  · intro p b ha hm hp hb hr hw hsm hsf
    obtain ⟨t, ht, hop⟩ := execBararv_issues hc ha hm hp hb hr hw hsm hsf
    exact ⟨t, ht, own hop, ⟨hop.slots, hop.regs, hop.mems⟩, hop.pend⟩
  · intro p b hm hp hb ha hr hsm hsf
    obtain ⟨t, ht, hslots, hregs, hmems, hpend⟩ := execBarwt_issues hc hm hp hb ha hr hsm hsf
    exact ⟨t, ht, ⟨hslots, hregs, hmems⟩, hpend⟩
end Sys2Proof.Machine

/-! PROOF. Products of M: the sums of a float element, and the issue (R73, R74, R85, R284 to R288). -/
namespace Sys2Proof.Machine

/-! ## Exact sums and products -/

/-- A finite number in units of 2^u. -/
def unitsOf (u : Int) (x : XNum) : Int :=
  match x with
  | .fin s m e => (if s then -1 else 1) * ((m * 2 ^ (e - u).toNat : Nat) : Int)
  | _ => 0
/-- A finite number that is a whole number of 2^u. -/
def WholeOf (u : Int) (x : XNum) : Prop := ∃ s m e, x = .fin s m e ∧ u ≤ e

/-- A scaled magnitude in smaller units. -/
theorem scaleTo_units {m : Nat} {e v u : Int} (h1 : u ≤ v) (h2 : v ≤ e) : scaleTo m e v * 2 ^ (v - u).toNat = m * 2 ^ (e - u).toNat := by
  have h : (e - u).toNat = (e - v).toNat + (v - u).toNat := by omega
  rw [scaleTo, h, pow_add, mul_assoc]

section
variable {u : Int} {x y : XNum}

/-- The sum of two finite numbers is exact. -/
theorem add_exact (hu : u ≤ 0) (hx : WholeOf u x) (hy : WholeOf u y) : ∃ z, x.add y = (z, 0) ∧ WholeOf u z ∧ unitsOf u z = unitsOf u x + unitsOf u y := by
  obtain ⟨s, m, e, rfl, he⟩ := hx
  obtain ⟨t, n, f, rfl, hf⟩ := hy
  have hv : u ≤ min e f := le_min he hf
  have ha := scaleTo_units (m := m) hv (min_le_left e f)
  have hb := scaleTo_units (m := n) hv (min_le_right e f)
  simp only [XNum.add]
  generalize scaleTo m e (min e f) = a at ha ⊢
  generalize scaleTo n f (min e f) = b at hb ⊢
  by_cases hst : (s == t) = true
  · rw [if_pos hst]
    obtain rfl : s = t := by simpa using hst
    refine ⟨_, rfl, ⟨_, _, _, rfl, hv⟩, ?_⟩
    simp only [unitsOf, ← ha, ← hb]
    push_cast; ring
  · have hts : t = !s := by revert hst; cases s <;> cases t <;> simp
    rw [if_neg hst]
    by_cases hab : (a == b) = true
    · rw [if_pos hab]
      obtain rfl : a = b := by simpa using hab
      refine ⟨_, rfl, ⟨_, _, _, rfl, hu⟩, ?_⟩
      simp only [unitsOf, ← ha, ← hb, hts]
      cases s <;> simp
    · rw [if_neg hab]
      by_cases hlt : b < a
      · rw [if_pos hlt]
        refine ⟨_, rfl, ⟨_, _, _, rfl, hv⟩, ?_⟩
        simp only [unitsOf, ← ha, ← hb, hts]
        rw [Nat.sub_mul, Nat.cast_sub (Nat.mul_le_mul_right _ hlt.le)]
        cases s <;> simp <;> ring
      · rw [if_neg hlt]
        refine ⟨_, rfl, ⟨_, _, _, rfl, hv⟩, ?_⟩
        simp only [unitsOf, ← ha, ← hb, hts]
        rw [Nat.sub_mul, Nat.cast_sub (Nat.mul_le_mul_right _ (not_lt.mp hlt))]
        cases s <;> simp <;> ring
/-- The product of two finite numbers is exact. -/
theorem mul_exact (hx : WholeOf u x) (hy : WholeOf u y) : ∃ z, x.mul y = (z, 0) ∧ WholeOf (2 * u) z ∧ unitsOf (2 * u) z = unitsOf u x * unitsOf u y := by
  obtain ⟨s, m, e, rfl, he⟩ := hx
  obtain ⟨t, n, f, rfl, hf⟩ := hy
  refine ⟨_, rfl, ⟨_, _, _, rfl, by omega⟩, ?_⟩
  have hp : (e + f - 2 * u).toNat = (e - u).toNat + (f - u).toNat := by omega
  simp only [unitsOf, hp, pow_add, Nat.cast_mul]
  cases s <;> cases t <;> simp <;> ring
end

theorem bits_or_zero (b : NumBits) : b ||| 0 = b := BitVec.or_zero
theorem bits_zero_or (b : NumBits) : 0 ||| b = b := BitVec.zero_or

/-- A sum of finite numbers from one of them on, whose bits are those before it. -/
theorem foldl_add_exact {u : Int} (hu : u ≤ 0) {l : List XNum} (hl : ∀ x ∈ l, WholeOf u x) {x : XNum} (hx : WholeOf u x) :
    ∃ z, l.foldl (fun a y => let r := a.1.add y; (r.1, a.2 ||| r.2)) (x, (0 : NumBits)) = (z, 0) ∧ WholeOf u z ∧ unitsOf u z = unitsOf u x + (l.map (unitsOf u)).sum := by
  induction l generalizing x with
  | nil => exact ⟨x, rfl, hx, by simp⟩
  | cons y l ih =>
    obtain ⟨z, hz, hw, hs⟩ := add_exact hu hx (hl y (by simp))
    obtain ⟨r, hr, hrw, hrs⟩ := ih (fun a ha => hl a (by simp [ha])) hw
    refine ⟨r, ?_, hrw, ?_⟩
    · simpa only [List.foldl_cons, hz, bits_or_zero] using hr
    · rw [hrs, hs, List.map_cons, List.sum_cons, add_assoc]
/-- A sum of finite numbers is exact, and sets no bit. -/
theorem sum_exact {u : Int} (hu : u ≤ 0) {l : List XNum} (hl : ∀ x ∈ l, WholeOf u x) :
    ∃ y, XNum.sum l = (y, 0) ∧ WholeOf u y ∧ unitsOf u y = (l.map (unitsOf u)).sum := by
  have hinf : ∀ b, l.contains (.inf b) = false := fun b => by
    rw [Bool.eq_false_iff]
    intro h
    obtain ⟨s, m, e, h', -⟩ := hl _ (List.contains_iff_mem.mp h)
    cases h'
  unfold XNum.sum
  rw [hinf, hinf]
  cases l with
  | nil => exact ⟨_, rfl, ⟨false, 0, 0, rfl, hu⟩, by simp [unitsOf, XNum.zero]⟩
  | cons x l => simpa using foldl_add_exact hu (fun a ha => hl a (by simp [ha])) (hl x (by simp))

/-- The products of a chunk, each exact. -/
theorem products_exact {u : Int} {l : List (XNum × XNum)} (hl : ∀ p ∈ l, WholeOf u p.1 ∧ WholeOf u p.2) :
    (∀ p ∈ l, WholeOf (2 * u) (p.1.mul p.2).1) ∧ (∀ p ∈ l, (p.1.mul p.2).2 = 0) ∧ l.map (fun p => unitsOf (2 * u) (p.1.mul p.2).1) = l.map (fun p => unitsOf u p.1 * unitsOf u p.2) := by
  refine ⟨fun p hp => ?_, fun p hp => ?_, List.map_congr_left fun p hp => ?_⟩ <;>
    obtain ⟨z, hz, hw, hs⟩ := mul_exact (hl p hp).1 (hl p hp).2 <;> rw [hz]
  · exact hw
  · exact hs
/-- Bits that are all clear. -/
theorem foldl_or_zero {α : Type} {f : α → NumBits} {l : List α} (h : ∀ x ∈ l, f x = 0) (b : NumBits) : l.foldl (fun a x => a ||| f x) b = b := by
  induction l generalizing b with
  | nil => rfl
  | cons x l ih => rw [List.foldl_cons, h x (by simp), bits_or_zero, ih fun y hy => h y (by simp [hy])]
/-- The sum of a chunk of finite terms is exact, and sets no bit (R85). -/
theorem chunkSum_exact {u : Int} (hu : u ≤ 0) {a b : List XNum} (ha : ∀ x ∈ a, WholeOf u x) (hb : ∀ x ∈ b, WholeOf u x) :
    ∃ y, chunkSum a b = (y, 0) ∧ WholeOf (2 * u) y ∧ unitsOf (2 * u) y = ((a.zip b).map (fun x => unitsOf u x.1 * unitsOf u x.2)).sum := by
  obtain ⟨hw, hz, hs⟩ := products_exact (u := u) (l := a.zip b) fun p hp => ⟨ha _ (List.of_mem_zip hp).1, hb _ (List.of_mem_zip hp).2⟩
  obtain ⟨y, hy, hyw, hys⟩ := sum_exact (u := 2 * u) (by omega) (l := (a.zip b).map (fun p => (p.1.mul p.2).1)) (by
    intro x hx
    obtain ⟨p, hp, rfl⟩ := List.mem_map.mp hx
    exact hw p hp)
  refine ⟨y, ?_, hyw, ?_⟩
  · simp only [chunkSum, List.map_map, Function.comp_def, hy, List.foldl_map]
    rw [foldl_or_zero hz]
  · rw [hys, List.map_map, ← hs]; rfl

/-! ## A float element, chunk by chunk (R85) -/

/-- A chunk added to an element: the element after it, and the bits that are set. -/
def chunkStep (a b : List XNum) (acc : Pair) : Pair × NumBits :=
  let s := chunkSum a b
  let t := (image .fp32 acc).add s.1
  ((rto t.1 .fp32).1, s.2 ||| t.2 ||| (rto t.1 .fp32).2)

section
variable {c : Nat} {a b : List XNum} {acc : Pair} {f : NumBits}

theorem mmaFloat_nil (c n : Nat) (b : List XNum) (acc : Pair) (f : NumBits) : mmaFloat c n [] b acc f = (acc, f) := by cases n <;> rfl
/-- One chunk, and the rest. -/
theorem mmaFloat_chunk {n : Nat} (ha : a ≠ []) :
    mmaFloat c (n + 1) a b acc f = mmaFloat c n (a.drop c) (b.drop c) (chunkStep (a.take c) (b.take c) acc).1 (f ||| (chunkStep (a.take c) (b.take c) acc).2) := by
  have he : a.isEmpty = false := by cases a; exacts [absurd rfl ha, rfl]
  rw [mmaFloat, he]
  simp only [Bool.false_eq_true, if_false, chunkStep, BitVec.or_assoc]
/-- The fuel that bounds the chunks does not matter, as long as it suffices. -/
theorem mmaFloat_fuel {n k : Nat} (hc : 0 < c) (hn : a.length ≤ n) (hk : a.length ≤ k) : mmaFloat c n a b acc f = mmaFloat c k a b acc f := by
  induction n generalizing k a b acc f with
  | zero =>
    obtain rfl : a = [] := List.length_eq_zero_iff.mp (by omega)
    rw [mmaFloat_nil, mmaFloat_nil]
  | succ n ih =>
    by_cases ha : a = []
    · rw [ha, mmaFloat_nil, mmaFloat_nil]
    · have hl := List.length_pos_iff.mpr ha
      obtain ⟨k, rfl⟩ : ∃ j, k = j + 1 := ⟨k - 1, by omega⟩
      rw [mmaFloat_chunk ha, mmaFloat_chunk ha]
      exact ih (by rw [List.length_drop]; omega) (by rw [List.length_drop]; omega)

theorem image_nanPair : image .fp32 (nanPair .fp32) = .nan := by decide
/-- NaN stays, as the canonical one. -/
theorem chunkStep_nan (h : image .fp32 acc = .nan) : (chunkStep a b acc).1 = nanPair .fp32 := by
  simp only [chunkStep, h, XNum.add, rto, nanPair]
theorem mmaFloat_nan {n : Nat} (hc : 0 < c) (ha : a ≠ []) (hn : a.length ≤ n) (h : image .fp32 acc = .nan) : (mmaFloat c n a b acc f).1 = nanPair .fp32 := by
  induction n generalizing a b acc f with
  | zero => exact absurd (List.length_eq_zero_iff.mp (by omega)) ha
  | succ n ih =>
    rw [mmaFloat_chunk ha]
    by_cases hd : a.drop c = []
    · rw [hd, mmaFloat_nil]; exact chunkStep_nan h
    · have hl := List.length_pos_iff.mpr ha
      exact ih hd (by rw [List.length_drop]; omega) (by rw [chunkStep_nan h, image_nanPair])
end

/-- A row's float elements, and the bits of all of them. -/
theorem newRow_float {o : MmaOp} (hi : o.int = false) (j : Nat) (old : Row) :
    let el := fun (n : Nat) => mmaFloat o.chunk (o.k + 1) (o.a.getD j []) (o.b.getD n []) (if o.zero then { v := 0, t := 0 } else old.pair 32 n) 0
    (∀ n, n < 128 → (o.newRow j old).1.pair 32 n = { v := (el n).1.v % 2 ^ 32, t := (el n).1.t % 4 }) ∧ (o.newRow j old).2 = (List.range 128).foldl (fun a n => a ||| (el n).2) 0 := by
  intro el
  have e : o.newRow j old = (Row.ofLanes 32 (((List.range 128).map el).map (·.1)), ((List.range 128).map el).foldl (fun f e => f ||| e.2) 0) := by
    simp only [MmaOp.newRow, hi, Bool.false_eq_true, if_false]
    rfl
  rw [e]
  refine ⟨fun n hn => pair_ofLanes (by simp [hn]) (by norm_num) (by omega), ?_⟩
  simp only [List.foldl_map]

/-! ## The issue of a product (R284 to R288) -/

/-- Every block of a list that is pending has been written by a cycle (R240). -/
def UnitSt.Placed (u : UnitSt) (now : Int) (x : Mem) (l : List Dword) : Prop :=
  ∀ d ∈ l, ∀ p ∈ u.ord.pblks, p.mem = some x → p.blk = blkOf d → ∃ y, p.due = some y ∧ y ≤ now
theorem not_pending_of_placed {u : UnitSt} {now : Int} {x : Mem} {l : List Dword} (h : u.Placed now x l) :
    l.any (fun a => u.ord.pblks.any (fun p => p.mem == some x && p.blk == blkOf a && (match p.due with | some d => now < d | none => true))) = false := by
  rw [List.any_eq_false]
  intro d hd h1
  obtain ⟨p, hp, h2⟩ := List.any_eq_true.mp h1
  simp only [Bool.and_eq_true, beq_iff_eq] at h2
  obtain ⟨⟨hm, hb⟩, hlate⟩ := h2
  obtain ⟨y, hy, hle⟩ := h d hd p hp hm hb
  rw [hy] at hlate
  exact absurd (of_decide_eq_true hlate) (not_lt.mpr hle)

/-- The product that is set going. -/
def State.productOp (s : State) (h : MHdr) (o : Mm) (a b : MOperand) : MmaOp :=
  let m := o.msz.rows
  let k := o.k.val
  let cost := mulCost a.w k
  { id := s.nextId + 1, issue := s.t, cost := cost, tile := o.dt, row := 16 * o.roff.val, m := m, k := k, chunk := mulChunk a.w, int := (mulKind a.w (a.blks ++ b.blks)).1, zero := o.z,
    a := (List.range m).map (fun i => (List.range k).map (fun j => mulElem (a.elem i j))), b := (List.range 128).map (fun n => (List.range k).map (fun j => mulElem (b.elem n j))),
    bad := none, pc := (s.my.strm .m).pc, took := waits .m h.sync, adds := signals .m h.sync, sig := s.t + ((cost + 4 + m - 1 : Nat) : Int)
    flags := if !(mulKind a.w (a.blks ++ b.blks)).1 && (a.blks ++ b.blks).any (fun x => x.1.scl == 0xFF) then nPois else 0 }
/-- What a product leaves in its unit. -/
def State.productIssue (s : State) (h : MHdr) (o : Mm) (latchA gathered : Bool) (op : MmaOp) : Attempt :=
  { eff := (List.range op.m).map (fun (j : Nat) => { at_ := s.t + ((op.cost + 4 : Nat) : Int) - 1 + (j : Int), stream := .m, eff := .mmaRow op.id j })
    unit := fun u =>
      let u := ((mmPorts o latchA s.t op.cost).foldl (fun u p => u.takePort p.1 p.2.1 p.2.2) u).holdEngine (s.t + (op.cost : Int))
      { u with eng := { u.eng with mmas := (u.eng.mmas.filter (fun q => s.t < q.sig)) ++ [op], gather := if gathered then none else u.eng.gather }
               ord := { u.ord with hold := (u.ord.hold.filter (fun x => s.t < x.2)) ++ (waits .m h.sync).map (fun i => (i, s.t + (op.cost : Int))) } }
    more := Act.seq (fresh (fun _ => Act.none)) Act.none
    sig := op.cost + 4 + op.m - 1
    tag := op.id }

section
variable {s : State} {h : MHdr} {o : Mm} {latchA gathered : Bool} {a b : MOperand}

theorem product_completes (hc : s.clear .m h.sync) (hmb : s.my.eng.mbusy ≤ s.t) (ha : s.accessHeld s.my s.t = false) (hg : latchA = true → gathered = false → s.my.eng.gather = none)
    (hd : gathered = true → ∀ g, s.my.eng.gather = some g → g.done ≤ s.t) (hla : latchA = true → s.latchPending s.me s.my .opa = false) (hlb : o.bl = true → s.latchPending s.me s.my .opb = false)
    (hop : s.operands s.me s.my o latchA gathered = .ok (a, b)) (hpa : s.my.Placed s.t .ab a.tile) (hpb : s.my.Placed s.t .wb b.tile) (hk : (mulKind a.w (a.blks ++ b.blks)).2 = none)
    (hfree : s.my.mmFree o latchA s.t (mulCost a.w o.k.val) = true) (hrows : s.my.rowsClearAt s.t (oldRows o (s.t + ((mulCost a.w o.k.val + 4 : Nat) : Int))) = true) :
    done (product h o latchA gathered) s = .next (s.issuedWith .m h.sync 3 (s.productIssue h o latchA gathered (s.productOp h o a b))) := by
  have hheld : (decide (s.t < s.my.eng.mbusy) || s.accessHeld s.my s.t || (latchA && !gathered && s.my.eng.gather.isSome)) = false := by
    rw [ha, decide_eq_false (not_lt.mpr hmb)]
    cases latchA <;> cases gathered
    case true.false => simp [hg rfl rfl]
    all_goals rfl
  have hlatches : ((latchA && s.latchPending s.me s.my .opa) || (o.bl && s.latchPending s.me s.my .opb)) = false := by
    rw [Bool.or_eq_false_iff, Bool.and_eq_false_imp, Bool.and_eq_false_imp]
    exact ⟨hla, hlb⟩
  refine issueAs_completes_of hc ?_ ⟨rfl, rfl, rfl, rfl⟩
  have e := not_pending_of_placed hpa
  have f := not_pending_of_placed hpb
  simp only [hop, hk]
  rw [Attempt.readsAt_clear hrows, hheld, hlatches, hfree]
  rw [if_neg (α := Option Miss) (by decide), if_neg (α := Option Miss) ?_]
  · rfl
  · rw [Bool.false_or, Bool.not_eq_true, Bool.or_eq_false_iff, Bool.or_eq_false_iff]
    refine ⟨⟨?_, e⟩, f⟩
    cases gathered with
    | false => rfl
    | true =>
      cases hga : s.my.eng.gather with
      | none => rfl
      | some g => exact decide_eq_false (not_lt.mpr (hd rfl g hga))

end

/-- The frame as completion leaves it. -/
theorem complete_frm {u : UnitSt} {x : Stream} {sync : Fin 16} {len : Nat} {now : Int} {a : Attempt} :
    (u.complete x sync len now a).frm = (a.unit ((u.codeOrder x sync).later a.eff)).frm := by
  unfold UnitSt.complete UnitSt.noteSig
  split <;> rfl

/-- The operation's fields, and what its issue leaves of the unit and the memories. -/
theorem productIssue_leaves {s : State} {h : MHdr} {o : Mm} {latchA gathered : Bool} (op : MmaOp) :
    let t := s.issuedWith .m h.sync 3 (s.productIssue h o latchA gathered op)
    let v := t.unit s.me
    v.pend = s.my.pend ++ (List.range op.m).map (fun (j : Nat) => { at_ := s.t + ((op.cost + 4 : Nat) : Int) - 1 + (j : Int), stream := .m, eff := .mmaRow op.id j }) ∧
    v.eng.mbusy = s.t + (op.cost : Int) ∧ v.eng.mmas = s.my.eng.mmas.filter (fun q => s.t < q.sig) ++ [op] ∧ v.regs = s.my.regs ∧ v.frm = s.my.frm ∧ t.mems = s.mems := by
  intro t v
  have e : t.units = (s.issued .m h.sync 3 (s.productIssue h o latchA gathered op)).units ∧ t.mems = s.mems := by
    have := perform_fresh_congr (fun _ => Act.none) (s.issued .m h.sync 3 (s.productIssue h o latchA gathered op))
    exact ⟨this.1, this.2.1⟩
  have hv : v = s.my.complete .m h.sync 3 s.t (s.productIssue h o latchA gathered op) := by
    rw [← issued_my]
    simp only [v, State.unit, e.1]
  obtain ⟨r, hr⟩ := foldl_takePort (mmPorts o latchA s.t op.cost) ((s.my.codeOrder .m h.sync).later (s.productIssue h o latchA gathered op).eff)
  refine ⟨?_, ?_, ?_, ?_, ?_, e.2⟩
  · rw [hv, complete_pend]; simp only [State.productIssue] at hr ⊢; rw [hr]; rfl
  · rw [hv, complete_eng]; rfl
  · rw [hv, complete_eng]; simp only [State.productIssue] at hr ⊢; rw [hr]; rfl
  · rw [hv, complete_regs]; simp only [State.productIssue] at hr ⊢; rw [hr]; rfl
  · rw [hv, complete_frm]; simp only [State.productIssue] at hr ⊢; rw [hr]; rfl

/-- The engine time of a product by its width (R288). -/
theorem mulCost_eq (w k : Nat) : mulCost w k = if w = 16 then 2 * k else if w = 8 then k else (k + 1) / 2 := by
  simp only [mulCost, beq_iff_eq]
/-- The ports and rows of a product are free. -/
theorem mmFree_of {u : UnitSt} {o : Mm} {latchA : Bool} {now : Int} {c : Nat} (hb : o.bl = false → u.portFree .wbR now c = true) (ha : latchA = false → u.portFree .abR now c = true)
    (hz : o.z = false → u.portFree (.tileR o.dt) (now + ((c + 4 : Nat) : Int) - 1) o.msz.rows = true) (hw : u.portFree (.tileW o.dt) (now + ((c + 4 : Nat) : Int)) o.msz.rows = true)
    (hr : u.rowsFree o.dt (16 * o.roff.val) o.msz.rows (if o.z then none else some (now + ((c + 4 : Nat) : Int) - 1)) (some (now + ((c + 4 : Nat) : Int))) = true) :
    u.mmFree o latchA now c = true := by
  rw [UnitSt.mmFree, Bool.and_eq_true, List.all_eq_true]
  refine ⟨fun p hp => ?_, hr⟩
  simp only [mmPorts, List.mem_append] at hp
  rcases hp with ((hp | hp) | hp) | hp
  · cases hbl : o.bl <;> simp [hbl] at hp
    subst hp; exact hb hbl
  · cases hal : latchA <;> simp [hal] at hp
    subst hp; exact ha hal
  · cases hzz : o.z <;> simp [hzz] at hp
    subst hp; exact hz hzz
  · obtain rfl := List.mem_singleton.mp hp
    exact hw

/-- Settles O27: the issue leaves the operation in the engine and its rows pending; and a float element takes its chunks one by one, the sum of each exact. -/
theorem products : Obligations.Products := by
  refine ⟨?_, ?_, ?_, ?_, ?_, ?_, ?_, ?_, ?_⟩
  · intro s h o al a b hc u m k c w0 product
    have issues : ∀ (i : Instr) (latchA gathered : Bool), (exec i s = done (Machine.product h o latchA gathered) s) → product i latchA gathered := by
      intro i latchA gathered hi
      dsimp only [product]
      intro hmb hheld hg hd hla hlb hop hpa hpb hk hbr har htr hrows htw hfree
      have hcost : mulCost a.w o.k.val = c := mulCost_eq _ _
      have hdone := product_completes hc hmb hheld hg hd hla hlb hop hpa hpb hk (hcost ▸ mmFree_of hbr har htr htw hfree) (hcost ▸ hrows)
      obtain ⟨hpend, hbusy, hmmas, hregs, hfrm, hmems⟩ := productIssue_leaves (s := s) (h := h) (o := o) (latchA := latchA) (gathered := gathered) (s.productOp h o a b)
      refine ⟨_, _, hi.trans hdone, ?_, ?_, hmmas, rfl, rfl, rfl, rfl, rfl, rfl, ?_, rfl, rfl, hregs, hfrm, hmems⟩
      · rw [hpend]; simp only [State.productOp, hcost]; rfl
      · rw [hbusy]; simp only [State.productOp, hcost]
      · simp only [State.productOp, hcost]; rfl
    exact ⟨issues _ _ _ rfl, issues _ _ _ rfl⟩
  · intro u xs hu hx
    obtain ⟨y, hy, hw, hs⟩ := sum_exact hu hx
    exact ⟨y, hy, hw, hs.trans List.sum_eq_foldl⟩
  · intro u a b hu ha hb
    obtain ⟨y, hy, hw, hs⟩ := chunkSum_exact hu ha hb
    exact ⟨y, hy, hw, hs.trans List.sum_eq_foldl⟩
  · intro c n a b a' b' acc f hc ha hb
    have hne : a ++ a' ≠ [] := by rintro h; simp at h; rw [h.1] at ha; simp at ha; omega
    refine (mmaFloat_chunk hne).trans ?_
    rw [← ha, List.take_left, List.drop_left, ha, ← hb, List.take_left, List.drop_left]
    rfl
  · intro c n a b acc f hne ha hb
    refine (mmaFloat_chunk hne).trans ?_
    rw [List.take_of_length_le ha, List.take_of_length_le hb, List.drop_of_length_le ha, mmaFloat_nil]
    rfl
  · exact fun c n b acc f => mmaFloat_nil c n b acc f
  · exact fun c n k a b acc f hc hn hk => mmaFloat_fuel hc hn hk
  · exact fun c n a b acc f hc ha hn h => mmaFloat_nan hc ha hn h
  · exact fun o j old hi => newRow_float hi j old
end Sys2Proof.Machine

/-! PROOF. Block writes and the race detector (R6, R63, R66, R237, R341 to R344). -/
namespace Sys2Proof.Machine

/-! ## What an action keeps -/

/-- An action changes nothing that a view of the state tells. -/
def Act.Keeps {α : Type} (a : Act) (P : State → α) : Prop := ∀ s, P (perform a s) = P s

section
variable {α β : Type} {P : State → α}

theorem keeps_none : Act.none.Keeps P := fun _ => rfl
theorem keeps_seq {a b : Act} (ha : a.Keeps P) (hb : b.Keeps P) : (Act.seq a b).Keeps P := fun s => by rw [perform_seq, hb, ha]
theorem keeps_when {a : Act} (x : Bool) (ha : a.Keeps P) : (Act.when x a).Keeps P := by cases x; exacts [keeps_none, ha]
theorem keeps_all {l : List Act} (h : ∀ a ∈ l, a.Keeps P) : (Act.all l).Keeps P := by
  induction l with
  | nil => exact keeps_none
  | cons a l ih => exact keeps_seq (h a (by simp)) (ih fun b hb => h b (by simp [hb]))
theorem keeps_each {l : List β} {f : β → Act} (h : ∀ x ∈ l, (f x).Keeps P) : (Act.each l f).Keeps P :=
  keeps_all fun a ha => by obtain ⟨x, hx, rfl⟩ := List.mem_map.mp ha; exact h x hx
theorem keeps_eventAt (ht : ∀ s l, P { s with timers := l } = P s) (hg : ∀ s l, P { s with agenda := l } = P s) (c : Col) (x : Int) (e : Ev) : (eventAt c x e).Keeps P := fun s => by
  simp only [perform, eventAt]
  split
  · exact hg _ _
  · exact ht _ _
end

/-! ## Block writes (R63, R66, R237) -/

section
variable {m : Memory}

theorem Memory.byte_setHead (b : Nat) (x : Head) (a : Nat) : (m.setHead b x).byte a = m.byte a := rfl
theorem Memory.head_setByte (a : Nat) (v : Byte) (k : Nat) : (m.setByte a v).head k = m.head k := rfl
theorem Memory.head_setHead_same (b : Nat) (x : Head) (h : m.wf = true) : (m.setHead b x).head b = x := by
  have hw := ((Memory.wf_iff m).mp h).2
  simp only [Memory.head, Memory.setHead]
  rw [cellGet_cellSet_other _ (cellSet_wf _ _ hw) (by omega), cellGet_cellSet_same _ _ hw, cellGet_cellSet_same _ _ (cellSet_wf _ _ hw)]
theorem Memory.head_setHead_other {b k : Nat} (x : Head) (h : m.wf = true) (hk : k ≠ b) : (m.setHead b x).head k = m.head k := by
  have hw := ((Memory.wf_iff m).mp h).2
  simp only [Memory.head, Memory.setHead]
  rw [cellGet_cellSet_other _ (cellSet_wf _ _ hw) (by omega), cellGet_cellSet_other _ hw (by omega), cellGet_cellSet_other _ (cellSet_wf _ _ hw) (by omega), cellGet_cellSet_other _ hw (by omega)]

/-- A byte of a block after a write of some of its bytes. -/
theorem Memory.byte_writeBytes {b : Nat} {mask data : BitVec 512} (i n : Nat) (h : m.wf = true) (a : Nat) :
    (m.writeBytes b mask data i n).byte a = if 64 * b + i ≤ a ∧ a < 64 * b + i + n then
      (m.byte a &&& ~~~(payByte mask (a - 64 * b))) ||| (payByte data (a - 64 * b) &&& payByte mask (a - 64 * b)) else m.byte a := by
  induction n generalizing m i with
  | zero => rw [if_neg (by omega)]; rfl
  | succ n ih =>
    have first : ∀ c, (if payByte mask i == 0 then m else m.setByte (64 * b + i) ((m.byte (64 * b + i) &&& ~~~(payByte mask i)) ||| (payByte data i &&& payByte mask i))).byte c =
        if c = 64 * b + i then (m.byte c &&& ~~~(payByte mask i)) ||| (payByte data i &&& payByte mask i) else m.byte c := by
      intro c
      split
      · rename_i hz
        rw [beq_iff_eq.mp hz, show (~~~(0 : Byte)) = BitVec.allOnes 8 from rfl, BitVec.and_allOnes, show ∀ x : Byte, x &&& 0 = 0 from fun _ => BitVec.and_zero,
          show ∀ x : Byte, x ||| 0 = x from fun _ => BitVec.or_zero, ite_self]
      · split
        · rename_i hc; rw [hc]; exact Memory.byte_setByte_same _ _ h
        · rename_i hc; exact Memory.byte_setByte_other _ h hc
    have hw : (if payByte mask i == 0 then m else m.setByte (64 * b + i) ((m.byte (64 * b + i) &&& ~~~(payByte mask i)) ||| (payByte data i &&& payByte mask i))).wf = true := by
      split
      · exact h
      · exact Memory.setByte_wf _ _ h
    rw [Memory.writeBytes, ih (i + 1) hw, first]
    by_cases ha : a = 64 * b + i
    · rw [if_neg (by omega), if_pos ha, if_pos (by omega), show a - 64 * b = i by omega]
    · rw [if_neg ha]
      by_cases hr : 64 * b + (i + 1) ≤ a ∧ a < 64 * b + (i + 1) + n
      · rw [if_pos hr, if_pos (by omega)]
      · rw [if_neg hr, if_neg (by omega)]
theorem Memory.head_writeBytes {b : Nat} {mask data : BitVec 512} (i n k : Nat) : (m.writeBytes b mask data i n).head k = m.head k := by
  induction n generalizing m i with
  | zero => rfl
  | succ n ih =>
    rw [Memory.writeBytes, ih]
    split <;> rfl

theorem Memory.byte_write (b : Nat) (w : BlkWrite) (a : Nat) : (m.write b w).byte a = (m.writeBytes b w.mask w.data 0 64).byte a := by
  unfold Memory.write
  split <;> rfl
/-- A write within its block. -/
theorem Memory.byte_write_in {b : Nat} (w : BlkWrite) {i : Nat} (h : m.wf = true) (hi : i < 64) :
    (m.write b w).byte (64 * b + i) = (m.byte (64 * b + i) &&& ~~~(payByte w.mask i)) ||| (payByte w.data i &&& payByte w.mask i) := by
  rw [Memory.byte_write, Memory.byte_writeBytes 0 64 h, if_pos (by omega), show 64 * b + i - 64 * b = i by omega]
/-- A write leaves the bytes of the other blocks. -/
theorem Memory.byte_write_out {b : Nat} (w : BlkWrite) {a : Nat} (h : m.wf = true) (ha : a < 64 * b ∨ 64 * b + 64 ≤ a) : (m.write b w).byte a = m.byte a := by
  rw [Memory.byte_write, Memory.byte_writeBytes 0 64 h, if_neg (by omega)]
theorem Memory.head_write_same (b : Nat) (w : BlkWrite) (h : m.wf = true) : (m.write b w).head b = w.hd.getD (m.head b) := by
  unfold Memory.write
  cases w.hd with
  | none => exact Memory.head_writeBytes _ _ _
  | some x => exact Memory.head_setHead_same _ _ (Memory.writeBytes_wf _ _ _ _ _ h)
theorem Memory.head_write_other {b k : Nat} (w : BlkWrite) (h : m.wf = true) (hk : k ≠ b) : (m.write b w).head k = m.head k := by
  unfold Memory.write
  cases w.hd with
  | none => exact Memory.head_writeBytes _ _ _
  | some x => exact (Memory.head_setHead_other _ (Memory.writeBytes_wf _ _ _ _ _ h) hk).trans (Memory.head_writeBytes _ _ _)
end

/-! ## Fields of a shadow word -/

section
variable {n hi lo v : Nat}

/-- A word split at a field's ends. -/
theorem fieldSet_split (n hi lo v : Nat) : fieldSet n hi lo v = 2 ^ lo * (2 ^ (hi + 1 - lo) * (n / 2 ^ lo / 2 ^ (hi + 1 - lo)) + v % 2 ^ (hi + 1 - lo)) + n % 2 ^ lo := by
  have h1 := Nat.div_add_mod n (2 ^ lo)
  have h2 := Nat.div_add_mod (n / 2 ^ lo) (2 ^ (hi + 1 - lo))
  rw [fieldSet, bits, Nat.mul_add]
  rw [← h2, Nat.mul_add] at h1
  rw [Nat.mul_comm (n / 2 ^ lo % _), Nat.mul_comm (v % _)]
  generalize 2 ^ lo * (2 ^ (hi + 1 - lo) * (n / 2 ^ lo / 2 ^ (hi + 1 - lo))) = x at *
  generalize 2 ^ lo * (n / 2 ^ lo % 2 ^ (hi + 1 - lo)) = y at *
  omega
theorem fieldSet_div : fieldSet n hi lo v / 2 ^ lo = 2 ^ (hi + 1 - lo) * (n / 2 ^ lo / 2 ^ (hi + 1 - lo)) + v % 2 ^ (hi + 1 - lo) := by
  rw [fieldSet_split, Nat.mul_add_div (Nat.two_pow_pos lo), Nat.div_eq_of_lt (Nat.mod_lt _ (Nat.two_pow_pos lo)), Nat.add_zero]
theorem bits_fieldSet_same : bits (fieldSet n hi lo v) hi lo = v % 2 ^ (hi + 1 - lo) := by
  rw [bits, fieldSet_div, Nat.mul_add_mod, Nat.mod_mod]
/-- A field above keeps its value. -/
theorem bits_fieldSet_above {h l : Nat} (hl : hi < l) (hlo : lo ≤ hi) : bits (fieldSet n hi lo v) h l = bits n h l := by
  have e : ∀ x : Nat, x / 2 ^ l = x / 2 ^ lo / 2 ^ (hi + 1 - lo) / 2 ^ (l - hi - 1) := fun x => by
    rw [Nat.div_div_eq_div_mul, Nat.div_div_eq_div_mul, ← pow_add, ← pow_add]; congr 2; omega
  rw [bits, bits, e, e n, fieldSet_div, Nat.mul_add_div (Nat.two_pow_pos _), Nat.div_eq_of_lt (Nat.mod_lt v (Nat.two_pow_pos _)), Nat.add_zero]
/-- A field below keeps its value. -/
theorem bits_fieldSet_below {h l : Nat} (hl : h < lo) (hlh : l ≤ h) : bits (fieldSet n hi lo v) h l = bits n h l := by
  have e : ∀ x : Nat, x / 2 ^ l % 2 ^ (h + 1 - l) = x % 2 ^ lo % 2 ^ (h + 1) / 2 ^ l := fun x => by
    rw [Nat.mod_mod_of_dvd _ (pow_dvd_pow 2 hl), ← Nat.mod_mul_right_div_self, ← pow_add]; congr 3; omega
  rw [bits, bits, e, e n, fieldSet_split, Nat.mul_add_mod, Nat.mod_mod]
/-- A field's write stays in a word. -/
theorem fieldSet_lt {w : Nat} (hn : n < 2 ^ w) (hw : hi < w) (hlo : lo ≤ hi) : fieldSet n hi lo v < 2 ^ w := by
  have e : ∀ x : Nat, x < 2 ^ w ↔ x / 2 ^ lo / 2 ^ (hi + 1 - lo) < 2 ^ (w - hi - 1) := fun x => by
    rw [Nat.div_div_eq_div_mul, ← pow_add, Nat.div_lt_iff_lt_mul (Nat.two_pow_pos _), ← pow_add]
    have : w - hi - 1 + (lo + (hi + 1 - lo)) = w := by omega
    rw [this]
  rw [e, fieldSet_div, Nat.mul_add_div (Nat.two_pow_pos _), Nat.div_eq_of_lt (Nat.mod_lt v (Nat.two_pow_pos _)), Nat.add_zero]
  exact (e n).mp hn
end

/-! ## The race detector (R341 to R344) -/

theorem flag_bit (n k : Nat) : flag (bits n k k) = true ↔ bits n k k = 1 := by
  have : bits n k k < 2 := by rw [bits, Nat.add_sub_cancel_left]; exact Nat.mod_lt _ (by norm_num)
  rw [flag, beq_iff_eq]; omega

/-- An access is ordered after the recorded writer. -/
def AfterWriter (s : State) (w : Who) (n : Nat) : Prop := bits n 84 84 = 1 → s.ordered w (bits n 125 117) (bits n 116 85) = true
/-- A reader's slot, whose valid bit, column and epoch lie there, does not stand against a write. -/
def SafeSlot (s : State) (w : Who) (n v chi clo ehi elo : Nat) : Prop := bits n v v = 1 → s.ordered w (bits n chi clo) (bits n ehi elo) = true

section
variable {s : State} {w : Who} {pos : Int} {sh : BitVec 128}

theorem afterWriter_iff {n : Nat} : (!flag (bits n 84 84) || s.ordered w (bits n 125 117) (bits n 116 85)) = true ↔ AfterWriter s w n := by
  rw [Bool.or_eq_true, Bool.not_eq_true', Bool.eq_false_iff, Ne, flag_bit, AfterWriter, ← imp_iff_not_or]
theorem unsafeSlot_iff {n v chi clo ehi elo : Nat} :
    (!false && flag (bits n v v) && !s.ordered w (bits n chi clo) (bits n ehi elo)) = true ↔ ¬ SafeSlot s w n v chi clo ehi elo := by
  rw [Bool.not_false, Bool.true_and, Bool.and_eq_true, Bool.not_eq_true', Bool.eq_false_iff, flag_bit, SafeSlot, Classical.not_imp]

/-- The other party of a race. -/
def otherParty (n hi lo ehi elo : Nat) : Dword := BitVec.ofNat 64 (bits n hi lo * 2 ^ 32 + bits n ehi elo)

theorem shadow_writer (h : ¬ AfterWriter s w sh.toNat) :
    s.shadow w false pos sh = .error (1, otherParty sh.toNat 125 117 116 85) ∧ s.shadow w true pos sh = .error (2, otherParty sh.toNat 125 117 116 85) := by
  have hw := (Bool.not_eq_true _).mp (mt afterWriter_iff.mp h)
  simp only [State.shadow, hw]
  exact ⟨rfl, rfl⟩
theorem shadow_broad (h : AfterWriter s w sh.toNat) (hb : bits sh.toNat 127 126 = 1) (hs : w.scpos ≤ sInt 64 (bits sh.toNat 63 0)) :
    s.shadow w true pos sh = .error (4, BitVec.ofNat 64 (bits sh.toNat 63 0)) := by
  simp only [State.shadow, afterWriter_iff.mpr h, hb, hs]
  rfl
theorem shadow_slotA (h : AfterWriter s w sh.toNat) (hb : bits sh.toNat 127 126 ≠ 1) (ha : ¬ SafeSlot s w sh.toNat 83 82 74 73 42) :
    s.shadow w true pos sh = .error (3, otherParty sh.toNat 82 74 73 42) := by
  simp only [State.shadow, afterWriter_iff.mpr h, unsafeSlot_iff.mpr ha, beq_false_of_ne hb]
  rfl
theorem shadow_slotB (h : AfterWriter s w sh.toNat) (hb : bits sh.toNat 127 126 ≠ 1) (ha : SafeSlot s w sh.toNat 83 82 74 73 42) (hbs : ¬ SafeSlot s w sh.toNat 41 40 32 31 0) :
    s.shadow w true pos sh = .error (3, otherParty sh.toNat 40 32 31 0) := by
  have hA := (Bool.not_eq_true _).mp (mt unsafeSlot_iff.mp (not_not.mpr ha))
  have hB := unsafeSlot_iff.mpr hbs
  simp only [State.shadow, afterWriter_iff.mpr h, hA, hB, beq_false_of_ne hb]
  rfl
/-- A write's record. -/
def writeRecord (w : Who) : Nat := w.col.val * 2 ^ 117 + w.epoch.toNat % 2 ^ 32 * 2 ^ 85 + 2 ^ 84
theorem shadow_write (h : AfterWriter s w sh.toNat) (hb : bits sh.toNat 127 126 = 1 → sInt 64 (bits sh.toNat 63 0) < w.scpos)
    (hs : bits sh.toNat 127 126 ≠ 1 → SafeSlot s w sh.toNat 83 82 74 73 42 ∧ SafeSlot s w sh.toNat 41 40 32 31 0) : s.shadow w true pos sh = .ok (BitVec.ofNat 128 (writeRecord w)) := by
  by_cases hbr : bits sh.toNat 127 126 = 1
  · simp only [State.shadow, afterWriter_iff.mpr h, hbr, not_le.mpr (hb hbr)]
    rfl
  · obtain ⟨ha, hbs⟩ := hs hbr
    have hA := (Bool.not_eq_true _).mp (mt unsafeSlot_iff.mp (not_not.mpr ha))
    have hB := (Bool.not_eq_true _).mp (mt unsafeSlot_iff.mp (not_not.mpr hbs))
    simp only [State.shadow, afterWriter_iff.mpr h, hA, hB, beq_false_of_ne hbr]
    rfl

/-! Reads: where they are recorded. -/
section
variable (h : AfterWriter s w sh.toNat)
include h

theorem shadow_read_broad (hb : bits sh.toNat 127 126 = 1) :
    s.shadow w false pos sh = .ok (BitVec.ofNat 128 (fieldSet sh.toNat 63 0 (wrap 64 (max (sInt 64 (bits sh.toNat 63 0)) pos)))) := by
  simp only [State.shadow, afterWriter_iff.mpr h, hb]
  rfl
variable (hb : bits sh.toNat 127 126 ≠ 1)
include hb
theorem shadow_read_mineA (ha : bits sh.toNat 83 83 = 1) (hc : bits sh.toNat 82 74 = w.col.val) :
    s.shadow w false pos sh = .ok (BitVec.ofNat 128 (fieldSet sh.toNat 73 42 (w.epoch.toNat % 2 ^ 32))) := by
  simp only [State.shadow, afterWriter_iff.mpr h, beq_false_of_ne hb, (flag_bit _ 83).mpr ha, hc, beq_self_eq_true]
  rfl
theorem shadow_read_mineB (hA : ¬ (bits sh.toNat 83 83 = 1 ∧ bits sh.toNat 82 74 = w.col.val)) (hi : bits sh.toNat 41 41 = 1) (hc : bits sh.toNat 40 32 = w.col.val) :
    s.shadow w false pos sh = .ok (BitVec.ofNat 128 (fieldSet sh.toNat 31 0 (w.epoch.toNat % 2 ^ 32))) := by
  have e : (flag (bits sh.toNat 83 83) && bits sh.toNat 82 74 == w.col.val) = false := by
    rw [Bool.eq_false_iff, Ne, Bool.and_eq_true, flag_bit, beq_iff_eq]; exact hA
  simp only [State.shadow, afterWriter_iff.mpr h, beq_false_of_ne hb, e, (flag_bit _ 41).mpr hi, hc, beq_self_eq_true]
  rfl
theorem shadow_read_freeA (hB : ¬ (bits sh.toNat 41 41 = 1 ∧ bits sh.toNat 40 32 = w.col.val)) (hi : bits sh.toNat 83 83 ≠ 1) :
    s.shadow w false pos sh = .ok (BitVec.ofNat 128 (fieldSet (fieldSet (fieldSet sh.toNat 83 83 1) 82 74 w.col.val) 73 42 (w.epoch.toNat % 2 ^ 32))) := by
  have e : (flag (bits sh.toNat 41 41) && bits sh.toNat 40 32 == w.col.val) = false := by
    rw [Bool.eq_false_iff, Ne, Bool.and_eq_true, flag_bit, beq_iff_eq]; exact hB
  have f := (Bool.not_eq_true _).mp (mt (flag_bit sh.toNat 83).mp hi)
  simp only [State.shadow, afterWriter_iff.mpr h, beq_false_of_ne hb, e, f]
  rfl
theorem shadow_read_freeB (hA : ¬ (bits sh.toNat 83 83 = 1 ∧ bits sh.toNat 82 74 = w.col.val)) (ha : bits sh.toNat 83 83 = 1) (hi : bits sh.toNat 41 41 ≠ 1) :
    s.shadow w false pos sh = .ok (BitVec.ofNat 128 (fieldSet (fieldSet (fieldSet sh.toNat 41 41 1) 40 32 w.col.val) 31 0 (w.epoch.toNat % 2 ^ 32))) := by
  have e : (bits sh.toNat 82 74 == w.col.val) = false := beq_false_of_ne fun hc => hA ⟨ha, hc⟩
  have f := (Bool.not_eq_true _).mp (mt (flag_bit sh.toNat 41).mp hi)
  simp only [State.shadow, afterWriter_iff.mpr h, beq_false_of_ne hb, e, (flag_bit _ 83).mpr ha, f]
  rfl
theorem shadow_read_becomesBroad (hA : ¬ (bits sh.toNat 83 83 = 1 ∧ bits sh.toNat 82 74 = w.col.val)) (hB : ¬ (bits sh.toNat 41 41 = 1 ∧ bits sh.toNat 40 32 = w.col.val))
    (ha : bits sh.toNat 83 83 = 1) (hi : bits sh.toNat 41 41 = 1) :
    s.shadow w false pos sh = .ok (BitVec.ofNat 128 (fieldSet (fieldSet sh.toNat 127 126 1) 63 0 (wrap 64 pos))) := by
  have e : (bits sh.toNat 82 74 == w.col.val) = false := beq_false_of_ne fun hc => hA ⟨ha, hc⟩
  have f : (bits sh.toNat 40 32 == w.col.val) = false := beq_false_of_ne fun hc => hB ⟨hi, hc⟩
  simp only [State.shadow, afterWriter_iff.mpr h, beq_false_of_ne hb, e, (flag_bit _ 83).mpr ha, f, (flag_bit _ 41).mpr hi]
  rfl
end
end

/-! What a shadow word tells after a record. -/

theorem toNat_stored {n : Nat} (h : n < 2 ^ 128) : (BitVec.ofNat 128 n).toNat = n := by rw [BitVec.toNat_ofNat]; exact Nat.mod_eq_of_lt h

/-- A write's record read back. -/
theorem writeRecord_toNat : (BitVec.ofNat 128 (writeRecord w)).toNat = writeRecord w := by
  rw [BitVec.toNat_ofNat]
  have := w.col.isLt
  exact Nat.mod_eq_of_lt (by unfold writeRecord; omega)
theorem writeRecord_fields : bits (writeRecord w) 127 126 = 0 ∧ bits (writeRecord w) 125 117 = w.col.val ∧ bits (writeRecord w) 116 85 = w.epoch.toNat % 2 ^ 32 ∧
    bits (writeRecord w) 84 84 = 1 ∧ bits (writeRecord w) 83 0 = 0 ∧ bits (writeRecord w) 83 83 = 0 ∧ bits (writeRecord w) 41 41 = 0 := by
  have := w.col.isLt
  unfold writeRecord bits
  refine ⟨?_, ?_, ?_, ?_, ?_, ?_, ?_⟩ <;> omega

/-- A reader's slot: its valid bit, column and epoch. -/
def slotA (n : Nat) : Nat × Nat × Nat := (bits n 83 83, bits n 82 74, bits n 73 42)
def slotB (n : Nat) : Nat × Nat × Nat := (bits n 41 41, bits n 40 32, bits n 31 0)

section
variable {n c e : Nat} (hc : c < 512) (he : e < 2 ^ 32)
include hc he

/-- A reader takes a slot. -/
theorem takeA_fields : let m := fieldSet (fieldSet (fieldSet n 83 83 1) 82 74 c) 73 42 e
    bits m 125 84 = bits n 125 84 ∧ bits m 127 126 = bits n 127 126 ∧ slotA m = (1, c, e) ∧ slotB m = slotB n := by
  simpa [slotA, slotB, bits_fieldSet_same, bits_fieldSet_above, bits_fieldSet_below, Nat.mod_eq_of_lt hc] using he
theorem takeB_fields : let m := fieldSet (fieldSet (fieldSet n 41 41 1) 40 32 c) 31 0 e
    bits m 125 84 = bits n 125 84 ∧ bits m 127 126 = bits n 127 126 ∧ slotB m = (1, c, e) ∧ slotA m = slotA n := by
  simpa [slotA, slotB, bits_fieldSet_same, bits_fieldSet_above, Nat.mod_eq_of_lt hc] using he
omit hc
/-- A reader reads again. -/
theorem againA_fields (h : bits n 83 83 = 1) (hcol : bits n 82 74 = c) : let m := fieldSet n 73 42 e
    bits m 125 84 = bits n 125 84 ∧ bits m 127 126 = bits n 127 126 ∧ slotA m = (1, c, e) ∧ slotB m = slotB n := by
  simpa [slotA, slotB, bits_fieldSet_same, bits_fieldSet_above, bits_fieldSet_below, h, hcol] using he
theorem againB_fields (h : bits n 41 41 = 1) (hcol : bits n 40 32 = c) : let m := fieldSet n 31 0 e
    bits m 125 84 = bits n 125 84 ∧ bits m 127 126 = bits n 127 126 ∧ slotB m = (1, c, e) ∧ slotA m = slotA n := by
  simpa [slotA, slotB, bits_fieldSet_same, bits_fieldSet_above, h, hcol] using he
end
theorem stamp_fields (n x : Nat) : let m := fieldSet n 63 0 (x % 2 ^ 64)
    bits m 125 84 = bits n 125 84 ∧ bits m 127 126 = bits n 127 126 ∧ bits m 63 0 = x % 2 ^ 64 := by
  simp [bits_fieldSet_same, bits_fieldSet_above]
theorem wrap_mod (k : Nat) (i : Int) : wrap k i % 2 ^ k = wrap k i := by
  have h : (0 : Int) < 2 ^ k := by positivity
  refine Nat.mod_eq_of_lt ?_
  have := Int.emod_lt_of_pos i h
  have := Int.emod_nonneg i h.ne'
  unfold wrap
  zify
  omega

/-- What a read that races with nothing leaves in the shadow word: each kind of word on its own (R342, R343). -/
theorem shadow_read {s : State} {w : Who} {pos : Int} {sh : BitVec 128} (h : AfterWriter s w sh.toNat) :
    let n := sh.toNat
    let c := w.col.val
    let e := w.epoch.toNat % 2 ^ 32
    let mineA := bits n 83 83 = 1 ∧ bits n 82 74 = c
    let mineB := bits n 41 41 = 1 ∧ bits n 40 32 = c
    ∃ m, s.shadow w false pos sh = .ok m ∧ bits m.toNat 125 84 = bits n 125 84 ∧
       (bits n 127 126 = 1 → bits m.toNat 127 126 = 1 ∧ bits m.toNat 63 0 = wrap 64 (max (sInt 64 (bits n 63 0)) pos)) ∧
       (¬ bits n 127 126 = 1 → mineA → bits m.toNat 127 126 = bits n 127 126 ∧ slotA m.toNat = (1, c, e) ∧ slotB m.toNat = slotB n) ∧
       (¬ bits n 127 126 = 1 → ¬ mineA → mineB → bits m.toNat 127 126 = bits n 127 126 ∧ slotB m.toNat = (1, c, e) ∧ slotA m.toNat = slotA n) ∧
       (¬ bits n 127 126 = 1 → ¬ mineB → ¬ bits n 83 83 = 1 → bits m.toNat 127 126 = bits n 127 126 ∧ slotA m.toNat = (1, c, e) ∧ slotB m.toNat = slotB n) ∧
       (¬ bits n 127 126 = 1 → ¬ mineA → bits n 83 83 = 1 → ¬ bits n 41 41 = 1 → bits m.toNat 127 126 = bits n 127 126 ∧ slotB m.toNat = (1, c, e) ∧ slotA m.toNat = slotA n) ∧
       (¬ bits n 127 126 = 1 → ¬ mineA → ¬ mineB → bits n 83 83 = 1 → bits n 41 41 = 1 → bits m.toNat 127 126 = 1 ∧ bits m.toNat 63 0 = wrap 64 pos) := by
  intro n c e mineA mineB
  have hn : n < 2 ^ 128 := sh.isLt
  have hc : c < 512 := w.col.isLt
  have he : e < 2 ^ 32 := Nat.mod_lt _ (by norm_num)
  by_cases hb : bits n 127 126 = 1
  · refine ⟨_, shadow_read_broad h hb, ?_⟩
    rw [toNat_stored (fieldSet_lt hn (by norm_num) (by norm_num)), ← wrap_mod 64]
    obtain ⟨h1, h2, h3⟩ := stamp_fields n (wrap 64 (max (sInt 64 (bits n 63 0)) pos))
    exact ⟨h1, fun _ => ⟨h2.trans hb, h3⟩, fun k => absurd hb k, fun k => absurd hb k, fun k => absurd hb k, fun k => absurd hb k, fun k => absurd hb k⟩
  by_cases hA : mineA
  · refine ⟨_, shadow_read_mineA h hb hA.1 hA.2, ?_⟩
    rw [toNat_stored (fieldSet_lt hn (by norm_num) (by norm_num))]
    obtain ⟨h1, h2⟩ := againA_fields he hA.1 hA.2
    exact ⟨h1, fun k => absurd k hb, fun _ _ => h2, fun _ k => absurd hA k, fun _ _ k => absurd hA.1 k, fun _ k => absurd hA k, fun _ k => absurd hA k⟩
  by_cases hB : mineB
  · refine ⟨_, shadow_read_mineB h hb hA hB.1 hB.2, ?_⟩
    rw [toNat_stored (fieldSet_lt hn (by norm_num) (by norm_num))]
    obtain ⟨h1, h2⟩ := againB_fields he hB.1 hB.2
    exact ⟨h1, fun k => absurd k hb, fun _ k => absurd k hA, fun _ _ _ => h2, fun _ k => absurd hB k, fun _ _ _ k => absurd hB.1 k, fun _ _ k => absurd hB k⟩
  by_cases ha : bits n 83 83 = 1
  · by_cases hi : bits n 41 41 = 1
    · refine ⟨_, shadow_read_becomesBroad h hb hA hB ha hi, ?_⟩
      rw [toNat_stored (fieldSet_lt (fieldSet_lt hn (by norm_num) (by norm_num)) (by norm_num) (by norm_num)), ← wrap_mod 64]
      obtain ⟨h1, h2, h3⟩ := stamp_fields (fieldSet n 127 126 1) (wrap 64 pos)
      exact ⟨h1.trans (bits_fieldSet_below (by norm_num) (by norm_num)), fun k => absurd k hb, fun _ k => absurd k hA, fun _ _ k => absurd k hB, fun _ _ k => absurd ha k, fun _ _ _ k => absurd hi k,
        fun _ _ _ _ _ => ⟨h2.trans bits_fieldSet_same, h3⟩⟩
    · refine ⟨_, shadow_read_freeB h hb hA ha hi, ?_⟩
      rw [toNat_stored (fieldSet_lt (fieldSet_lt (fieldSet_lt hn (by norm_num) (by norm_num)) (by norm_num) (by norm_num)) (by norm_num) (by norm_num))]
      obtain ⟨h1, h2⟩ := takeB_fields (n := n) hc he
      exact ⟨h1, fun k => absurd k hb, fun _ k => absurd k hA, fun _ _ k => absurd k hB, fun _ _ k => absurd ha k, fun _ _ _ _ => h2, fun _ _ _ _ k => absurd k hi⟩
  · refine ⟨_, shadow_read_freeA h hb hB ha, ?_⟩
    rw [toNat_stored (fieldSet_lt (fieldSet_lt (fieldSet_lt hn (by norm_num) (by norm_num)) (by norm_num) (by norm_num)) (by norm_num) (by norm_num))]
    obtain ⟨h1, h2⟩ := takeA_fields (n := n) hc he
    exact ⟨h1, fun k => absurd k hb, fun _ k => absurd k hA, fun _ _ k => absurd k hB, fun _ _ _ => h2, fun _ _ k => absurd k ha, fun _ _ _ k => absurd k ha⟩

/-- What a write that races with nothing leaves. -/
theorem shadow_written {s : State} {w : Who} {p : Int} {sh m : BitVec 128} (h : s.shadow w true p sh = .ok m) : m.toNat = writeRecord w := by
  by_cases ha : AfterWriter s w sh.toNat
  · by_cases hb : bits sh.toNat 127 126 = 1 → sInt 64 (bits sh.toNat 63 0) < w.scpos
    · by_cases hs : bits sh.toNat 127 126 ≠ 1 → SafeSlot s w sh.toNat 83 82 74 73 42 ∧ SafeSlot s w sh.toNat 41 40 32 31 0
      · rw [shadow_write ha hb hs] at h
        rw [← Except.ok.inj h]
        exact writeRecord_toNat
      · obtain ⟨hne, hno⟩ := Classical.not_imp.mp hs
        by_cases hA : SafeSlot s w sh.toNat 83 82 74 73 42
        · rw [shadow_slotB ha hne hA fun k => hno ⟨hA, k⟩] at h; cases h
        · rw [shadow_slotA ha hne hA] at h; cases h
    · obtain ⟨he, hle⟩ := Classical.not_imp.mp hb
      rw [shadow_broad ha he (not_lt.mp hle)] at h; cases h
  · rw [(shadow_writer ha).2] at h; cases h

/-- A write that fails its checks is answered and reported, and not performed. -/
theorem performWrite_keeps {s : State} {o : Col} {r : Req} {x : BlkWrite} {e : FaultRec} (h : s.writeFault o r x = .error e) :
    (fun t : State => (t.mems, t.vaults, t.ext)) (perform (performWrite o r x) s) = (s.mems, s.vaults, s.ext) := by
  have e1 : perform (performWrite o r x) s = perform (Act.seq (if s.ownOk r.who then onArr r.tx r.k (fun a => { a with at_ := some (s.now r.who.col), term := s.now r.who.col + r.ret, del := true })
      else dropResponse (dieOf r.who.col)) (Act.when (s.ownOk r.who) (Act.seq (onArr r.tx r.k (fun a => { a with bad := some e }))
      (eventAt r.who.col (s.now r.who.col + r.ret) (.deferredFaultReport r.who.col r.who.stream e))))) s := by
    simp only [perform, performWrite, h]
  rw [e1]
  refine keeps_seq (P := fun t : State => (t.mems, t.vaults, t.ext)) ?_ (keeps_when _ (keeps_seq (fun _ => rfl) (keeps_eventAt (fun _ _ => rfl) (fun _ _ => rfl) _ _ _))) s
  split <;> exact fun _ => rfl

/-- Settles O50: a write sets its block's bytes one by one; the fields of a shadow word are written each on its own; and a write that races only reports. -/
theorem blockWrites : Obligations.BlockWrites := by
  refine ⟨fun m b w h => ⟨m.write_wf b w h, fun i hi => Memory.byte_write_in w h hi, fun a ha => Memory.byte_write_out w h ha, Memory.head_write_same b w h, fun k hk => Memory.head_write_other w h hk⟩,
    ?_, ?_, ?_⟩
  · intro s w pos sh
    refine ⟨?_, ?_, fun h => shadow_read h, ?_, ?_, ?_, ?_⟩
    · intro k n
      simp only [State.ordered, Bool.or_eq_true, Bool.and_eq_true, beq_iff_eq, decide_eq_true_eq]
    · exact fun h => shadow_writer h
    · exact fun h hb hs => shadow_broad h hb hs
    · exact fun h hb hs => shadow_slotA h hb hs
    · exact fun h hb ha hs => shadow_slotB h hb ha hs
    · intro h hb hs
      refine ⟨_, shadow_write h hb hs, ?_⟩
      obtain ⟨h1, h2, h3, h4, h5, -⟩ := writeRecord_fields (w := w)
      rw [← writeRecord_toNat] at h1 h2 h3 h4 h5
      exact ⟨h1, h2, h3, h4, h5⟩
  · intro s w v p q sh m ordered
    refine ⟨fun h => ?_, fun h => ?_⟩
    · have hm := shadow_written h
      obtain ⟨hb, hc, he, hv, -, hA, hB⟩ := writeRecord_fields (w := w)
      rw [← hm] at hb hc he hv hA hB
      have key : AfterWriter s v m.toNat ↔ ordered := by
        rw [AfterWriter, hc, he]; exact ⟨fun k => k hv, fun k _ => k⟩
      refine ⟨fun k => ⟨⟨_, (shadow_read (key.mpr k)).choose_spec.1⟩, ⟨_, shadow_write (key.mpr k) (fun j => by omega) fun _ => ⟨fun j => by omega, fun j => by omega⟩⟩⟩, fun k => ?_⟩
      obtain ⟨h1, h2⟩ := shadow_writer (pos := q) (mt key.mp k)
      exact ⟨⟨_, h1⟩, ⟨_, h2⟩⟩
    · have h0 : ∀ hi lo, bits (0 : BitVec 128).toNat hi lo = 0 := fun hi lo => by
        rw [show (0 : BitVec 128).toNat = 0 from rfl, bits, Nat.zero_div, Nat.zero_mod]
      have hafter : AfterWriter s w (0 : BitVec 128).toNat := fun k => by rw [h0] at k; cases k
      obtain ⟨n, hn, hhi, -, -, -, hfree, -⟩ := shadow_read (pos := p) hafter
      rw [h] at hn
      rw [← Except.ok.inj hn] at hhi hfree
      obtain ⟨hb, hA, hB⟩ := hfree (by rw [h0]; norm_num) (by rw [h0]; norm_num) (by rw [h0]; norm_num)
      rw [h0] at hb hhi
      obtain ⟨hav, hac, hae⟩ : bits m.toNat 83 83 = 1 ∧ bits m.toNat 82 74 = w.col.val ∧ bits m.toNat 73 42 = w.epoch.toNat % 2 ^ 32 := by simpa [slotA] using hA
      have hbv : bits m.toNat 41 41 = 0 := (congrArg Prod.fst hB).trans (h0 _ _)
      have hnb : bits m.toNat 127 126 ≠ 1 := by omega
      have hw : AfterWriter s v m.toNat := fun k => by unfold bits at hhi k; omega
      have key : SafeSlot s v m.toNat 83 82 74 73 42 ↔ ordered := by
        rw [SafeSlot, hac, hae]; exact ⟨fun k => k hav, fun k _ => k⟩
      refine ⟨fun k => ⟨_, shadow_write hw (fun j => absurd j hnb) fun _ => ⟨key.mpr k, fun j => by omega⟩⟩, fun k => ⟨_, shadow_slotA hw hnb (mt key.mp k)⟩⟩
  · intro s o r x k d v t same
    have keeps : ∀ e, s.writeFault o r x = .error e → same := fun e he => by
      have := performWrite_keeps he
      exact ⟨congrArg Prod.fst this, congrArg (·.2.1) this, congrArg (·.2.2) this⟩
    have hlive : v.isLive (r.pa / 64) = true → s.writeFault o r x = .error (flt .barrier 6 r.va) := fun h => by
      rw [State.writeFault, if_pos h]
    have hrace : v.isLive (r.pa / 64) = false → r.sh = true → s.shadow r.who true (s.now o) (v.shadowOf (r.pa / 64)) = .error (k, d) →
        s.writeFault o r x = .error (flt .race k r.va d) := fun h hs he => by
      have hshadow : s.shadow r.who true (s.now o) ((s.vault o).shadowOf (r.pa / 64)) = .error (k, d) := he
      simp only [State.writeFault, hs, if_true, hshadow]
      rw [if_neg (by rw [h]; decide)]
      rfl
    exact ⟨fun h => ⟨hlive h, keeps _ (hlive h)⟩, fun h hs he => ⟨hrace h hs he, keeps _ (hrace h hs he)⟩⟩
end Sys2Proof.Machine

/-! PROOF. Writes as they take effect, and what the loads write (R29, R65 to R71, R183, R201, R247 to R252). -/
namespace Sys2Proof.Machine

/-! ## Registers (R183, R300) -/

theorem rd_wr_same {g : Regs} {d : Fin 64} (v : SVal) (hd : d ≠ 0) : (g.wr d v).rd d = v := by
  simp [Regs.rd, Regs.wr, hd]
theorem rd_wr_other {g : Regs} {d k : Fin 64} (v : SVal) (hk : k ≠ d) : (g.wr d v).rd k = g.rd k := by
  by_cases h0 : d = 0
  · rw [Regs.wr, if_pos h0]
  · have : d.val ≠ k.val := fun h => hk (Fin.ext h.symm)
    simp [Regs.rd, Regs.wr, h0, Vector.getElem_set_ne, this]
theorem wr_keeps {g : Regs} (d : Fin 64) (v : SVal) : g.wr d v = { g with s := (g.wr d v).s } := by
  unfold Regs.wr; split <;> rfl

/-! ## A load on its port cycles (R201, R330) -/

/-- A block as a load takes it on its cycle: with the header that it had at issue, or as it stands. -/
def LoadDst.taken (d : LoadDst) (m : Memory) (x : Nat × Head × Int) : Blk :=
  match d with
  | .heads .. | .slot .. => m.blk x.1
  | _ => { m.blk x.1 with hd := x.2.1 }

section
variable {s : State} {c : Col} {x : Stream} {m : Mem} {left : List (Nat × Head × Int)} {got : List Blk} {dst : LoadDst} {due : Int}

theorem land_capture_last (h : ∀ y ∈ left, y.2.2 ≤ s.now c) :
    perform (landEff c { at_ := s.now c, stream := x, eff := .capture m left got dst due }) s =
      { s with units := s.units.set c ((s.unit c).later (dst.pend (dst.clip (got ++ left.map (dst.taken (s.mem c m)))) x due)) } := by
  have e : left.takeWhile (fun y => decide (y.2.2 ≤ s.now c)) = left := List.takeWhile_eq_self_iff.mpr fun y hy => decide_eq_true (h y hy)
  simp only [perform, landEff]
  rw [e, List.length_map, List.drop_length]
  rfl
theorem land_capture_next {y z : Nat × Head × Int} {l : List (Nat × Head × Int)} (hy : y.2.2 ≤ s.now c) (hz : s.now c < z.2.2) :
    perform (landEff c { at_ := s.now c, stream := x, eff := .capture m (y :: z :: l) got dst due }) s =
      { s with units := s.units.set c ((s.unit c).later [{ at_ := z.2.2, stream := x, eff := .capture m (z :: l) (got ++ [dst.taken (s.mem c m) y]) dst due }]) } := by
  have e : (y :: z :: l).takeWhile (fun y => decide (y.2.2 ≤ s.now c)) = [y] := by
    simp [hy, not_le.mpr hz]
  simp only [perform, landEff]
  rw [e]
  rfl
theorem taken_whole {k : Memory} (h : (∃ r w, dst = .heads r w) ∨ ∃ o w, dst = .slot o w) : dst.taken k = fun y => k.blk y.1 := by
  rcases h with ⟨r, w, rfl⟩ | ⟨o, w, rfl⟩ <;> rfl
theorem taken_part {k : Memory} (h : ¬ ((∃ r w, dst = .heads r w) ∨ ∃ o w, dst = .slot o w)) : dst.taken k = fun y => { hd := y.2.1, pay := (k.blk y.1).pay } := by
  cases dst with
  | heads r w => exact absurd (.inl ⟨r, w, rfl⟩) h
  | slot o w => exact absurd (.inr ⟨o, w, rfl⟩) h
  | _ => rfl
end

/-! ## Scalars and lanes from elements (R68 to R71, R248) -/

theorem headType_of {h : Head} {ty : VTy} (e : tyOfCode h.fmt.toNat = some ty) : headType h = ty := by rw [headType, e]; rfl
theorem isI_fmt {t : VTy} (h : t.isI = true) : t.fmt? = none := by revert h; cases t <;> decide
theorem isX_fmt {t : VTy} (h : t.isX = true) : t.fmt? = none ∧ t.isQ = false := by revert h; cases t <;> decide
theorem isQ_fmt {t : VTy} (h : t.isQ = true) : t.fmt? = none := by revert h; cases t <;> decide
theorem isI_not {t : VTy} (h : t.isI = true) : t.isQ = false ∧ t.isX = false := by revert h; cases t <;> decide
theorem isXQ_not {t : VTy} (h : t.isX = true ∨ t.isQ = true) : t.isI = false ∧ t.fmt? = none := by revert h; cases t <;> decide

theorem numstAt_zero (x : Int) (y : Stream) : numstAt x y 0 = [] := rfl
theorem sF_pend (d : Fin 64) (f : Fmt) (ix : Nat) (b : Blk) (x : Stream) (due : Int) :
    let p := if b.hd.scl == 0xFF then (nanPair .fp32, nPois) else rto (decodeElem (headType b.hd) b.hd.scl.toNat (elemCode f.width b.pay ix)) .fp32
    (LoadDst.sF d f ix).pend [b] x due = { at_ := due, stream := x, eff := .sreg d (.ofPair p.1) } :: numstAt due x p.2 := rfl
theorem sI_pend (d : Fin 64) (t : ITy) (ix : Nat) (b : Blk) (x : Stream) (due : Int) :
    (LoadDst.sI d t ix).pend [b] x due =
      [{ at_ := due, stream := x, eff := .sreg d (.ofData (BitVec.ofInt 64 ((headType b.hd).intVal (elemCode (8 * 2 ^ (t.code / 2)) b.pay ix)))) }] := rfl
theorem decodeElem_float {t : VTy} {g : Fmt} (h : t.fmt? = some g) (s c : Nat) : decodeElem t s c = (image g { v := c, t := 0 }).scale ((s : Int) - 127) := by
  simp only [decodeElem, h, elemVal]
theorem decodeElem_fixed {t : VTy} (h : t.isX = true) (s c : Nat) : decodeElem t s c = (XNum.ofInt (sInt t.width c)).scale ((s : Int) - 127) := by
  obtain ⟨h1, h2⟩ := isX_fmt h
  simp [decodeElem, h1, h2, h]
theorem decodeElem_int {t : VTy} (h : t.isI = true) (s c : Nat) : decodeElem t s c = XNum.ofInt (t.intVal c) := by
  obtain ⟨h1, h2⟩ := isI_not h
  simp [decodeElem, isI_fmt h, h1, h2]
/-- The data of an element that fills its type's width. -/
theorem intVal_data {ty : VTy} {w n : Nat} (hw : ty.width = w) (hn : n < 2 ^ w) :
    BitVec.ofInt 64 (ty.intVal n) = if ty.unsignedTy then BitVec.ofNat 64 n else BitVec.ofInt 64 (sInt w n) := by
  unfold VTy.intVal
  rw [hw]
  split
  · rw [Nat.mod_eq_of_lt hn, BitVec.ofInt_natCast]
  · rfl

/-! ## Rows from lanes (R83, R247) -/

section
variable {ty : VTy} {k : Nat} {l : List Pair}

theorem packNat_lt (w : Nat) (l : List Nat) : packNat w l < 2 ^ (w * l.length) := by
  induction l with
  | nil => simp [packNat]
  | cons v l ih =>
    have hv := Nat.mod_lt v (Nat.two_pow_pos w)
    rw [packNat_cons, List.length_cons, Nat.mul_succ, pow_add]
    calc packNat w l * 2 ^ w + v % 2 ^ w < (packNat w l + 1) * 2 ^ w := by rw [Nat.add_mul, one_mul]; omega
      _ ≤ 2 ^ (w * l.length) * 2 ^ w := Nat.mul_le_mul_right _ ih
/-- A field past the packed ones. -/
theorem packNat_beyond {w k : Nat} {l : List Nat} (N : Nat) (h : l.length ≤ k) : (BitVec.ofNat N (packNat w l)).toNat / 2 ^ (w * k) = 0 := by
  rw [BitVec.toNat_ofNat]
  exact Nat.div_eq_of_lt (((Nat.mod_le _ _).trans_lt (packNat_lt w l)).trans_le (pow_le_pow_right₀ (by norm_num) (Nat.mul_le_mul_left w h)))
/-- A lane of a type, with its tail, in a row made of lanes. -/
theorem pair_ofLanes_ty {p : Pair} (hk : k < ty.lanes) (h : l[k]? = some p) :
    (Row.ofLanes ty.width l).pair ty.width k = { v := p.v % 2 ^ ty.width, t := if ty.width < 8 then 0 else p.t % 4 } := by
  have hfit := lane_fits hk
  rw [Row.pair, lane_ofLanes h (by rw [Nat.mul_succ]; exact hfit)]
  by_cases h8 : ty.width < 8
  · rw [Row.laneTail, if_pos h8, if_pos h8]
  · rw [laneTail_ofLanes h (not_lt.mp h8) (by rw [Nat.mul_succ]; exact hfit), if_neg h8]
/-- The lanes past those that a row is made of are zero. -/
theorem pair_ofLanes_beyond {w : Nat} (h : l.length ≤ k) : (Row.ofLanes w l).pair w k = { v := 0, t := 0 } := by
  have hv : (Row.ofLanes w l).lane w k = 0 := by
    rw [Row.lane, Row.ofLanes, packNat_beyond _ (by simpa using h), Nat.zero_mod]
  have ht : (Row.ofLanes w l).laneTail w k = 0 := by
    rw [Row.laneTail, Row.ofLanes]
    split
    · rfl
    · rw [packNat_beyond _ (by simpa using h), Nat.zero_mod]
  rw [Row.pair, hv, ht]
end

/-! ## What the loads write -/

section
variable (x : Stream) (due : Int)

theorem heads_pend (r : Fin 64) (rec : BitVec 512) (bs : List Blk) : (LoadDst.heads r rec).pend bs x due =
    [{ at_ := due, stream := x, eff := rowWrite (vRow r) (Row.ofLanes 16 (bs.map (fun b => { v := b.hd.fmt.toNat + 256 * b.hd.scl.toNat, t := 0 }))) }] := rfl
theorem vec_pend (r : Fin 64) (rec : BitVec 512) (splat : Bool) (bs : List Blk) :
    let v := vecLanes (layoutOf rec) splat bs
    (LoadDst.vec r rec splat).pend bs x due =
      { at_ := due, stream := x, eff := rowWrite (vRow r) (Row.ofLanes (layoutOf rec).ltype.width (v.map (·.1))) } :: numstAt due x (v.foldl (fun a y => a ||| y.2) 0) := rfl
end

/-- Where the element of a lane lies in a load's tile. -/
def laneSpot (l : Layout) (splat : Bool) (k : Nat) : Nat × Nat := if splat then (0, k % l.cols) else l.elemAt k
/-- The lane that a load takes from its blocks. -/
def laneFrom (l : Layout) (splat : Bool) (bs : List Blk) (k : Nat) : Pair × NumBits :=
  let rc := laneSpot l splat k
  let b := bs.getD (rc.1 * l.rowBlks + rc.2 / l.perBlk) .clear
  laneValue l.ltype b.hd (elemCode l.w b.pay (rc.2 % l.perBlk))
section
variable (l : Layout) (splat : Bool) (bs : List Blk)

theorem vecLanes_eq : vecLanes l splat bs = (List.range (if splat then l.ltype.lanes else l.elems)).map (fun k =>
    if l.clipped (laneSpot l splat k).1 (laneSpot l splat k).2 then ({ (laneFrom l splat bs k).1 with t := 0 }, (laneFrom l splat bs k).2) else laneFrom l splat bs k) := rfl
theorem vecLanes_bits : (vecLanes l splat bs).foldl (fun a y => a ||| y.2) (0 : NumBits) =
    (List.range (if splat then l.ltype.lanes else l.elems)).foldl (fun a k => a ||| (laneFrom l splat bs k).2) 0 := by
  rw [vecLanes_eq, List.foldl_map]
  congr 1
  funext a k
  split <;> rfl
/-- Clipped elements have tail 0b00 (R236). -/
theorem vecLanes_get {k : Nat} (hk : k < if splat then l.ltype.lanes else l.elems) : ((vecLanes l splat bs).map (·.1))[k]? =
    some { v := (laneFrom l splat bs k).1.v, t := if l.clipped (laneSpot l splat k).1 (laneSpot l splat k).2 then 0 else (laneFrom l splat bs k).1.t } := by
  rw [vecLanes_eq, List.map_map, List.getElem?_map, List.getElem?_range hk, Option.map_some, Function.comp_apply]
  split <;> rfl
end

section
variable {lane ty : VTy} {h : Head} {code : Nat}

theorem laneValue_poison {f : Fmt} (hf : lane.fmt? = some f) (hp : h.scl = 0xFF) : laneValue lane h code = (nanPair f, nPois) := by
  simp only [laneValue, hf]
  rw [if_pos (beq_iff_eq.mpr hp)]; rfl
theorem laneValue_float {f : Fmt} (hf : lane.fmt? = some f) (hp : h.scl ≠ 0xFF) (hty : tyOfCode h.fmt.toNat = some ty) :
    laneValue lane h code = rto (decodeElem ty h.scl.toNat code) f := by
  simp only [laneValue, hf, headType_of hty]
  rw [if_neg fun k => hp (beq_iff_eq.mp k)]
theorem laneValue_int (hl : lane.isI = true) (hty : tyOfCode h.fmt.toNat = some ty) : laneValue lane h code = ({ v := wrap lane.width (ty.intVal code), t := 0 }, 0) := by
  simp only [laneValue, isI_fmt hl, hl, headType_of hty, if_true]
theorem laneValue_copy (hl : lane.isX = true ∨ lane.isQ = true) : laneValue lane h code = ({ v := code, t := 0 }, 0) := by
  obtain ⟨h1, h2⟩ := isXQ_not hl
  simp only [laneValue, h1, h2, Bool.false_eq_true, if_false]
end

/-- Blocks that are written to successive places. -/
theorem zip_range_get {bs : List Blk} {k : Nat} {b : Blk} (h : bs[k]? = some b) (o : Nat) :
    ((List.range bs.length).zip bs |>.map (fun x => (o + x.1, x.2.whole)))[k]? = some (o + k, b.whole) := by
  have hk : k < bs.length := (List.getElem?_eq_some_iff.mp h).1
  simp [List.getElem?_zip_eq_some, List.getElem?_range hk, h]

/-- Settles O48: each write changes its register alone; and each load writes what its blocks tell. -/
theorem writesTakeEffect : Obligations.WritesTakeEffect := by
  refine ⟨?_, ?_, ?_, ?_, ?_, ?_⟩
  · intro u d v ix dm tm r p m b f rest
    refine ⟨⟨rfl, rfl, fun hd => rd_wr_same v hd, fun k hk => rd_wr_other v hk, wr_keeps d v, rfl, rfl, rfl, rfl, rfl, rfl⟩,
      ⟨Vector.getElem_set_self (Fin.isLt _), fun j hj => ?_, rfl, rfl, rfl, rfl, rfl, rfl, rfl⟩, ⟨Vector.getElem_set_self (Fin.isLt _), fun j hj => ?_, rfl, rfl, rfl, rfl, rfl, rfl, rfl⟩,
      ⟨rfl, rfl, rfl, rfl, rfl, rfl, rfl⟩, ⟨rfl, rfl, rfl, rfl, rfl, rfl, rfl⟩⟩
    · exact Vector.getElem_set_ne ix.isLt j.isLt fun h => hj (Fin.ext h.symm)
    · exact Vector.getElem_set_ne p.isLt j.isLt fun h => hj (Fin.ext h.symm)
  · intro s c x m left got dst due u land put whole at_
    refine ⟨fun h => ⟨fun hw => ?_, fun hw => ?_⟩, ?_⟩
    · rw [show land = _ from land_capture_last h, taken_whole hw]; rfl
    · rw [show land = _ from land_capture_last h, taken_part hw]; rfl
    · rintro y z l rfl hy hz hw
      rw [show land = _ from land_capture_next hy hz, taken_part hw]; rfl
  · intro x due d f t ix b ty hty code out w
    refine ⟨fun h => ?_, fun g h hg => ?_, fun hw => ?_⟩
    · rw [sF_pend, if_pos (beq_iff_eq.mpr h)]
    · rw [sF_pend, if_neg (fun k => h (beq_iff_eq.mp k)), headType_of hty, decodeElem_float hg]; rfl
    · have hn : elemCode w b.pay ix < 2 ^ w := Nat.mod_lt _ (Nat.two_pow_pos _)
      rw [sI_pend, headType_of hty, intVal_data hw hn]; rfl
  · intro x due r rec splat bs l w n rc b v hn
    refine ⟨_, (vec_pend x due r rec splat bs).trans (by rw [vecLanes_bits]; rfl), fun k hk => ?_, fun k hk _ => ?_⟩
    · refine (pair_ofLanes_ty (hk.trans_le hn) (vecLanes_get l splat bs hk)).trans ?_
      have hspot : laneSpot l splat k = rc k := rfl
      rw [hspot]
      have tail : ∀ t, (if w < 8 then 0 else (if l.clipped (rc k).1 (rc k).2 = true then 0 else t) % 4) = if w < 8 ∨ l.clipped (rc k).1 (rc k).2 = true then 0 else t % 4 := fun t => by
        by_cases h8 : w < 8
        · simp only [h8, true_or, if_true]
        · by_cases hc : l.clipped (rc k).1 (rc k).2 = true
          · simp only [hc, or_true, if_true, Nat.zero_mod, ite_self]
          · simp only [h8, hc, if_false]; rfl
      exact congrArg (Pair.mk _) (tail _)
    · exact pair_ofLanes_beyond (by rw [List.length_map, vecLanes_eq, List.length_map, List.length_range]; exact hk)
  · intro lane ty h code hty scale
    refine ⟨fun f hf => ⟨fun hp => laneValue_poison hf hp, fun hp => ⟨fun g hg => ?_, fun hx => ?_, fun hi => ?_⟩⟩, fun hl => laneValue_int hl hty, fun hl => laneValue_copy hl⟩ <;>
      rw [laneValue_float hf hp hty]
    · rw [decodeElem_float hg]
    · rw [decodeElem_fixed hx]
    · rw [decodeElem_int hi]
  · intro x due r rec y off b bs hl
    refine ⟨⟨_, heads_pend x due r rec bs, fun k b hb => ?_⟩, rfl, _, rfl, by simp, fun k b hb => zip_range_get hb _⟩
    have hk : k < 256 := (List.getElem?_eq_some_iff.mp hb).1.trans_le hl
    have h1 := b.hd.fmt.isLt
    have h2 := b.hd.scl.isLt
    rw [pair_ofLanes_of_lt (p := { v := b.hd.fmt.toNat + 256 * b.hd.scl.toNat, t := 0 }) (by simp [hb]) (by norm_num) (by omega) (by norm_num; omega) (by norm_num)]
end Sys2Proof.Machine

/-! PROOF. Events of a unit (R20 to R22, R34 to R36, R45, R49, R50, R239, R274, R290, R291, R320, R340, R355, R376, R422). -/
namespace Sys2Proof.Machine

/-- An action on a unit, as the state that it leaves. -/
theorem done_onUnit (c : Col) (f : UnitSt → UnitSt) (s : State) : done (onUnit c f) s = .next { s with units := s.units.set c (f (s.unit c)) } := rfl

section
variable {s : State} {c : Col}

/-! ## Arrivals (R20, R36, R320) -/

theorem execTokenArrival_eq {ix : Fin 12} {pre post : List Fly} {f : Fly} (he : s.ev = .tokenArrival c ix) (hf : (s.unit c).ord.fly = pre ++ f :: post) (hi : f.ix = ix) (hr : f.rem = 0)
    (hh : f.held = false) (hp : ∀ g ∈ pre, g.ix ≠ ix ∨ g.rem ≠ 0 ∨ g.held = true) :
    execTokenArrival s = .next { s with units := s.units.set c { s.unit c with ord := { (s.unit c).ord with tok := tokAdd (s.unit c).ord.tok ix, fly := pre ++ post } } } := by
  have hfirst : (f.ix == ix && f.ripe) = true := by simp [Fly.ripe, hi, hr, hh]
  have hbefore : ∀ g ∈ pre, (g.ix == ix && g.ripe) = false := fun g hg => by
    rcases hp g hg with h | h | h <;> simp [Fly.ripe, h]
  have hany : (s.unit c).ord.fly.any (fun f => f.ix == ix && f.ripe) = true := List.any_eq_true.mpr ⟨f, by simp [hf], hfirst⟩
  simp only [execTokenArrival, he, done_onUnit, hany, if_true]
  rw [hf, dropFirst_at hbefore hfirst]
theorem execLatchEntryArrival_eq {x : Latch} {pre post : List LEntry} {e : LEntry} (he : s.ev = .latchEntryArrival c x) (hl : (s.unit c).latch x = pre ++ e :: post) (hv : e.valid = false)
    (hr : e.rem = 0) (hp : ∀ g ∈ pre, g.valid = true ∨ g.rem ≠ 0) :
    execLatchEntryArrival s = .next { s with units := s.units.set c ((s.unit c).setLatch x (pre ++ { e with valid := true } :: post)) } := by
  have hbefore : ∀ g ∈ pre, (!g.valid && g.rem == 0) = false := fun g hg => by
    rcases hp g hg with h | h <;> simp [h]
  simp only [execLatchEntryArrival, he, done_onUnit]
  rw [hl, mapFirst_at hbefore (by simp [hv, hr])]
theorem execScaleBypass_eq {pre post : List SbEntry} {e : SbEntry} (he : s.ev = .scaleBypassEntryAvailable c) (hl : (s.unit c).eng.sb = pre ++ e :: post) (hr : e.rem = 1)
    (hp : ∀ g ∈ pre, g.rem ≠ 1) :
    execScaleBypassEntryAvailable s = .next { s with units := s.units.set c { s.unit c with eng := { (s.unit c).eng with sb := pre ++ { e with rem := 0 } :: post } } } := by
  simp only [execScaleBypassEntryAvailable, he, done_onUnit]
  rw [hl, mapFirst_at (fun g hg => beq_false_of_ne (hp g hg)) (by simp [hr])]

/-! ## The realignment cycle (R45, R49) -/

/-- The unit as the realignment cycle leaves it. -/
def UnitSt.realigned (u : UnitSt) (now : Int) (timed : Bool) : UnitSt :=
  { u with ctl := { u.ctl with rpend := false, timed := timed,
                               strms := (u.ctl.strms.map (fun t => t.realign now)).set 0 (if u.frm.insv then { u.strm .k with st := ((u.strm .k).realign now).st } else (u.strm .k).realign now) } }
theorem realigned_strm (u : UnitSt) (now : Int) (timed : Bool) (x : Stream) :
    (u.realigned now timed).strm x = if u.frm.insv = true ∧ x = .k then { u.strm x with st := ((u.strm x).realign now).st } else (u.strm x).realign now := by
  cases x with
  | k =>
    simp only [and_true]
    exact (vget_set_same (n := 6) _ 0 _).trans rfl
  | _ =>
    rw [if_neg (fun h => nomatch h.2)]
    refine (vget_set_other (n := 6) _ 0 _ _ (by decide)).trans ?_
    exact Vector.getElem_map ..
theorem atPoint_iff (t : Strm) : t.atPoint = true ↔ ∃ n, t.st = .point n := by
  unfold Strm.atPoint
  cases t.st <;> simp
theorem all_atPoint (u : UnitSt) : u.ctl.strms.all Strm.atPoint = true ↔ ∀ x : Stream, ∃ n, (u.strm x).st = .point n := by
  rw [Vector.all_eq_true]
  constructor
  · exact fun h x => (atPoint_iff _).mp (h (Stream.ix x) (Stream.ix x).isLt)
  · intro h i hi
    have := fun x => (atPoint_iff _).mpr (h x)
    interval_cases i
    exacts [this .k, this .d, this .l, this .m, this .v, this .s]
theorem execRealignmentCycle_next (he : s.ev = .realignmentCycle c) (hp : (s.unit c).ctl.prepped = false) (hr : (s.unit c).ctl.rpend = true) :
    ∃ t, execRealignmentCycle s = .next t ∧
      t.unit c = (s.unit c).realigned (s.now c) (if (s.unit c).ctl.strms.all Strm.atPoint && s.issues c then !(s.unit c).ctl.decl else (s.unit c).ctl.timed) := by
  simp only [execRealignmentCycle, he, hp, hr]
  refine ⟨_, rfl, ?_⟩
  have e : ∀ x : Bool, (Act.when x (armVault c false)).Keeps State.units := fun x => keeps_when x fun _ => rfl
  rw [perform_seq]
  simp only [State.unit, e _ _]
  exact vget_set_same ..

/-! ## Completions: gathers, barriers, products in their engine (R274, R290, R291) -/

theorem execDeferredFaultReport_queues {x : Stream} {f : FaultRec} (he : s.ev = .deferredFaultReport c x f) (hd : (s.unit c).ctl.dead = false) (hi : s.issues c = false)
    (hk : (s.slot c).st = .stopped ∨ (s.slot c).st = .held ∨ (s.slot c).st = .stopping) :
    execDeferredFaultReport s = if (s.unit c).frm.queue.length < 4
      then .next { s with units := s.units.set c { s.unit c with frm := { (s.unit c).frm with queue := (s.unit c).frm.queue ++ [(x, f)], faultf := (s.unit c).frm.faultf + (0x1000000 : Dword) } } }
      else .next (perform (escalate c) s) := by
  have hst : ((s.slot c).st == .stopped || (s.slot c).st == .held || (s.slot c).st == .stopping) = true := by
    rcases hk with h | h | h <;> rw [h] <;> rfl
  have e : execDeferredFaultReport s = done (deferredFault c x f) s := by simp only [execDeferredFaultReport, he]
  rw [e]
  simp only [done, perform, deferredFault, hd, hi, hst]
  by_cases hq : (s.unit c).frm.queue.length < 4
  · rw [if_pos hq]
    simp only [hq]
    rfl
  · rw [if_neg hq]
    simp only [hq]
    rfl
/-- A unit as the release of a barrier's generation reaches it. -/
def UnitSt.released (u : UnitSt) (key : Nat) (gen : BitVec 16) : UnitSt :=
  { u with ord := { u.ord with slots := u.ord.slots.map (fun b => if barKey b.owner b.pa == key && b.joined && b.gen == gen then { b with released := true } else b) } }
theorem onSaved_nothing {f : UnitSt → UnitSt} {t : State} (h : (t.slot c).saved = []) : perform (onSaved c f) t = t := by
  simp only [perform, onSaved, h]; rfl
theorem execBarrierRelease_eq {key : Nat} {gen : BitVec 16} (he : s.ev = .barrierRelease c key gen) (hs : (s.slot c).saved = []) :
    execBarrierRelease s = .next { s with units := s.units.set c ((s.unit c).released key gen) } := by
  have e : execBarrierRelease s = done (Act.seq (onUnit c (fun u => u.released key gen)) (onSaved c (fun u => u.released key gen))) s := by
    simp only [execBarrierRelease, he]; rfl
  rw [e, done, perform_seq]
  exact congrArg Host.Outcome.next (onSaved_nothing (t := perform (onUnit c (fun u => u.released key gen)) s) hs)
theorem execGatherComplete_eq {g : Gather} (he : s.ev = .gatherComplete c) (hg : (s.unit c).eng.gather = some g) (hd : g.done ≤ s.now c) (hf : g.full = false) :
    execGatherComplete s = .next { s with units := s.units.set c { s.unit c with eng := { (s.unit c).eng with opa := g.opa, gather := some { g with full := true } } } } := by
  have e : execGatherComplete s = if g.done ≤ s.now c && !g.full then
      done (onUnit c (fun u => { u with eng := { u.eng with opa := g.opa, gather := some { g with full := true } } })) s else .next s := by
    simp only [execGatherComplete, he, hg]
  exact e.trans (if_pos (by simp [hd, hf]))
/-- A unit that takes back a product which met a fault in the engine (R290). -/
def UnitSt.undoMma (u : UnitSt) (o : MmaOp) (id : Nat) (issues : Bool) : UnitSt :=
  let w0 := o.issue + (o.cost + 4 : Nat)
  let u := (u.freePort (.tileR o.tile) (w0 - 1) o.m).freePort (.tileW o.tile) w0 o.m
  let u := { u with ctl := { u.ctl with sigs := u.ctl.sigs.filter (fun x => x.1 != id) }
                    eng := { u.eng with mmas := u.eng.mmas.filter (fun (q : MmaOp) => q.id != id) }
                    frm := if !issues && u.frm.fpc[3] == (u.strm .m).pc.truncate 18 then { u.frm with fpc := u.frm.fpc.set 3 (o.pc.truncate 18) } else u.frm }
  (u.mmaTokens o.took id).onStrm .m (fun t => { t with pc := o.pc, st := match t.st with
    | .point _ => .run
    | st => st })
theorem undoMma_strm (u : UnitSt) (o : MmaOp) (id : Nat) (b : Bool) : ((u.undoMma o id b).strm .m).pc = o.pc ∧ ∀ n, ((u.undoMma o id b).strm .m).st ≠ .point n := by
  unfold UnitSt.undoMma
  rw [onStrm_strm_same]
  refine ⟨rfl, fun n => ?_⟩
  dsimp only
  split <;> simp_all
theorem execMmaBlockFault_eq {id : Nat} {o : MmaOp} {e : FaultRec} (he : s.ev = .mmaBlockFault c id) (ho : (s.unit c).eng.mmas.find? (fun m => m.id == id) = some o) (hb : o.bad = some e)
    (hp : (s.unit c).ctl.prepped = false) (hd : (s.unit c).ctl.dead = false) :
    execMmaBlockFault s = .next (perform (takeFault c .m e) { s with units := s.units.set c ((s.unit c).undoMma o id (s.issues c)) }) := by
  have h : execMmaBlockFault s = if !(s.unit c).ctl.prepped && !(s.unit c).ctl.dead then done (Act.seq (onUnit c (fun u => u.undoMma o id (s.issues c))) (takeFault c .m e)) s
      else done (Act.seq (onUnit c (fun u => u.undoMma o id (s.issues c))) (deferredFault c .m e)) s := by
    simp only [execMmaBlockFault, he, ho, hb]; rfl
  rw [h, if_pos (by simp [hp, hd]), done, perform_seq]
  rfl

/-! ## Published code is discarded (R355) -/

/-- A column drops some of the code that it holds. -/
def dropCode (keep : (Nat × Blk) → Bool) (c : Col) : Act := fun s =>
  if (s.unit c).ord.codeHeld.isEmpty then [] else onUnit c (fun u => { u with ord := { u.ord with codeHeld := u.ord.codeHeld.filter keep } }) s
theorem dropCode_codeHeld (keep : (Nat × Blk) → Bool) (c : Col) (s : State) (d : Col) :
    ((perform (dropCode keep c) s).unit d).ord.codeHeld = if d = c then (s.unit d).ord.codeHeld.filter keep else (s.unit d).ord.codeHeld := by
  simp only [perform, dropCode]
  by_cases hn : (s.unit c).ord.codeHeld.isEmpty = true
  · rw [if_pos hn]
    split
    · rename_i hd; rw [hd, List.isEmpty_iff.mp hn]; exact List.isEmpty_iff.mp hn
    · rfl
  · rw [if_neg hn]
    split
    · rename_i hd; rw [hd]; exact congrArg (fun u : UnitSt => u.ord.codeHeld) (unit_set_same ..)
    · rename_i hd; exact congrArg (fun u : UnitSt => u.ord.codeHeld) (unit_set_other _ _ hd)
theorem dropCode_parts (keep : (Nat × Blk) → Bool) (c : Col) : (dropCode keep c).Keeps State.parts := fun s => by
  simp only [perform, dropCode]
  split <;> rfl
theorem dropCodes_codeHeld (keep : (Nat × Blk) → Bool) (l : List Col) (s : State) (d : Col) :
    ((perform (Act.each l (dropCode keep)) s).unit d).ord.codeHeld = if d ∈ l then (s.unit d).ord.codeHeld.filter keep else (s.unit d).ord.codeHeld := by
  induction l generalizing s with
  | nil => rfl
  | cons c l ih =>
    rw [perform_each_cons, ih, dropCode_codeHeld]
    by_cases hdc : d = c
    · simp [hdc]
    · simp [hdc]
theorem mem_allCols (d : Col) : d ∈ allCols := by
  unfold allCols
  exact List.mem_finRange d
theorem onPart_unit (n : BitVec 16) (f : Part → Part) (s : State) (d : Col) : (perform (onPart n f) s).unit d = s.unit d := rfl
theorem onPart_parts (n : BitVec 16) (f : Part → Part) (s : State) : (perform (onPart n f) s).parts = s.parts.map (fun p => if p.num == n then f p else p) := rfl
theorem execCodeRangeDiscard_next {n : BitVec 16} {id : Nat} {p : Part} {q : Pub} (he : s.ev = .codeRangeDiscard n id) (hp : s.part n = some p) (hq : p.pubs.find? (fun q => q.id == id) = some q) :
    ∃ t, execCodeRangeDiscard s = .next t ∧ (∀ d, (t.unit d).ord.codeHeld = (s.unit d).ord.codeHeld.filter (fun x => !q.keys.contains x.1)) ∧
      t.parts = s.parts.map (fun p => if p.num == n then { p with pubs := p.pubs.filter (fun q => q.id != id) } else p) := by
  have e : execCodeRangeDiscard s = done (Act.seq (Act.each allCols (dropCode (fun x => !q.keys.contains x.1))) (onPart n (fun p => { p with pubs := p.pubs.filter (fun q => q.id != id) }))) s := by
    simp only [execCodeRangeDiscard, he, hp, Option.bind_some, hq]; rfl
  rw [e, done, perform_seq]
  refine ⟨_, rfl, fun d => ?_, ?_⟩
  · rw [onPart_unit, dropCodes_codeHeld, if_pos (mem_allCols d)]
  · rw [onPart_parts, keeps_each (P := State.parts) (fun c _ => dropCode_parts _ c) s]
end

/-- Settles O53: each event's meaning, on the units and entries that it names. -/
theorem unitEvents : Obligations.UnitEvents := by
  intro s c u put
  refine ⟨?_, ?_, ?_, ?_, ?_, ?_, ?_, ?_, ?_, ?_, ?_, ?_⟩
  · exact fun ix pre f post he hf hi hr hh hp => execTokenArrival_eq he hf hi hr hh hp
  · exact fun x pre e post he hl hv hr hp => execLatchEntryArrival_eq he hl hv hr hp
  · exact fun pre e post he hl hr hp => execScaleBypass_eq he hl hr hp
  · intro he hp hr all goes strms
    obtain ⟨t, ht, hu⟩ := execRealignmentCycle_next he hp hr
    have hgoes : ∀ x, goes x = (u.strm x).realign (s.now c) := fun x => rfl
    have hstrms : strms t := fun x => by rw [hu, realigned_strm, hgoes]
    have hall : all ↔ u.ctl.strms.all Strm.atPoint = true := (all_atPoint u).symm
    refine ⟨fun ha hi => ⟨t, ht, ?_, by rw [hu]; rfl, by rw [hu]; rfl, hstrms⟩, fun ha => ⟨t, ht, ?_, by rw [hu]; rfl, by rw [hu]; rfl, hstrms⟩⟩
    · rw [hu, show (s.unit c).ctl.strms.all Strm.atPoint = true from hall.mp ha, hi]; rfl
    · rw [hu, show (s.unit c).ctl.strms.all Strm.atPoint = false from (Bool.not_eq_true _).mp (mt hall.mpr ha)]; rfl
  · intro x he hi
    have e : execStall s = if s.issues c || ((s.unit c).frm.insv && x == .k) then done (takeFault c x (flt .stall)) s else .next s := by simp only [execStall, he]
    exact e.trans (if_pos (by rw [hi]; rfl))
  · intro x f he
    have e : execDeferredFaultReport s = done (deferredFault c x f) s := by simp only [execDeferredFaultReport, he]
    refine ⟨fun hd => e.trans ?_, fun hi => e.trans ?_, fun hd hi hk => execDeferredFaultReport_queues he hd hi hk⟩
    · have hd' : (s.unit c).ctl.dead = true := hd
      simp only [done, perform, deferredFault, hd']; rfl
    · have hd : (s.unit c).ctl.dead = false := by
        simp only [State.issues, Bool.and_eq_true, Bool.not_eq_true'] at hi
        exact hi.2
      simp only [done, perform, deferredFault, hd, hi]; rfl
  · exact fun o pa gen he hs => execBarrierRelease_eq he hs
  · exact fun g he hg hd hf => execGatherComplete_eq he hg hd hf
  · intro id o e he ho hb hp hd
    obtain ⟨h1, h2⟩ := undoMma_strm u o id (s.issues c)
    exact ⟨_, execMmaBlockFault_eq he ho hb hp hd, h1, h2, rfl, rfl, rfl, rfl, rfl⟩
  · intro pos he
    exact (show execFrontierRefresh s = _ by simp only [execFrontierRefresh, he]; rfl)
  · exact fun n id p q he hp hq => execCodeRangeDiscard_next he hp hq
  · intro ws he
    exact (show execLoggedWordsSupply s = _ by simp only [execLoggedWordsSupply, he]; rfl)
end Sys2Proof.Machine

/-! PROOF. What the actions of the model write, piece by piece of the state. -/
namespace Sys2Proof.Machine

/-! ## Pieces of the state -/

/-- The pieces of the state that updates write. -/
inductive Piece where
  | units | mems | ext | extDirty | links | vaults | slots | dies | parts | work | txns | pkg | tick | cur | ev | agenda | timers | inbox | outbox | nextId | free
/-- The piece that an update writes. -/
def Upd.piece : Upd → Piece
  | .unit .. => .units | .mem .. => .mems | .clear .. => .mems | .ext .. => .ext | .extDirty .. => .extDirty | .links .. => .links | .vault .. => .vaults | .slot .. => .slots
  | .die .. => .dies | .parts .. => .parts | .work .. => .work | .txns .. => .txns | .pkg .. => .pkg | .tick .. => .tick | .cur .. => .cur | .ev .. => .ev | .agenda .. => .agenda
  | .timers .. => .timers | .inbox .. => .inbox | .outbox .. => .outbox | .nextId .. => .nextId | .free .. => .free
/-- An action writes some pieces of the state and no others. -/
def Act.Only (a : Act) (ps : List Piece) : Prop := ∀ s, ∀ u ∈ a s, u.piece ∈ ps

section
variable {ps : List Piece} {a b : Act}

theorem Act.Only.mono {qs : List Piece} (h : a.Only ps) (hq : ps ⊆ qs) : a.Only qs := fun s u hu => hq (h s u hu)
theorem Act.Only.keeps {α : Type} {P : State → α} (h : a.Only ps) (hP : ∀ (u : Upd) s, u.piece ∈ ps → P (u.apply s) = P s) : a.Keeps P := fun s => by
  have : ∀ l : List Upd, (∀ u ∈ l, u.piece ∈ ps) → ∀ t : State, P (run l t) = P t := fun l => by
    induction l with
    | nil => exact fun _ _ => rfl
    | cons u l ih => exact fun hl t => (ih (fun v hv => hl v (by simp [hv])) _).trans (hP u t (hl u (by simp)))
  exact this _ (h s) s

theorem Act.Only.units (h : a.Only ps) (hn : Piece.units ∉ ps) : a.Keeps State.units := h.keeps fun u s hu => by
  cases u
  case unit => exact absurd hu hn
  all_goals rfl
theorem Act.Only.mems (h : a.Only ps) (hn : Piece.mems ∉ ps) : a.Keeps State.mems := h.keeps fun u s hu => by
  cases u
  case mem | clear => exact absurd hu hn
  all_goals rfl
theorem Act.Only.ext (h : a.Only ps) (hn : Piece.ext ∉ ps) : a.Keeps State.ext := h.keeps fun u s hu => by
  cases u
  case ext => exact absurd hu hn
  all_goals rfl
theorem Act.Only.vaults (h : a.Only ps) (hn : Piece.vaults ∉ ps) : a.Keeps State.vaults := h.keeps fun u s hu => by
  cases u
  case vault => exact absurd hu hn
  all_goals rfl
theorem Act.Only.slots (h : a.Only ps) (hn : Piece.slots ∉ ps) : a.Keeps State.slots := h.keeps fun u s hu => by
  cases u
  case slot => exact absurd hu hn
  all_goals rfl
theorem Act.Only.dies (h : a.Only ps) (hn : Piece.dies ∉ ps) : a.Keeps State.dies := h.keeps fun u s hu => by
  cases u
  case die => exact absurd hu hn
  all_goals rfl
theorem Act.Only.parts (h : a.Only ps) (hn : Piece.parts ∉ ps) : a.Keeps State.parts := h.keeps fun u s hu => by
  cases u
  case parts => exact absurd hu hn
  all_goals rfl
theorem Act.Only.work (h : a.Only ps) (hn : Piece.work ∉ ps) : a.Keeps State.work := h.keeps fun u s hu => by
  cases u
  case work => exact absurd hu hn
  all_goals rfl
theorem Act.Only.txns (h : a.Only ps) (hn : Piece.txns ∉ ps) : a.Keeps State.txns := h.keeps fun u s hu => by
  cases u
  case txns => exact absurd hu hn
  all_goals rfl
theorem Act.Only.pkg (h : a.Only ps) (hn : Piece.pkg ∉ ps) : a.Keeps State.pkg := h.keeps fun u s hu => by
  cases u
  case pkg => exact absurd hu hn
  all_goals rfl
theorem Act.Only.tick (h : a.Only ps) (hn : Piece.tick ∉ ps) : a.Keeps State.tick := h.keeps fun u s hu => by
  cases u
  case tick => exact absurd hu hn
  all_goals rfl
theorem Act.Only.timers (h : a.Only ps) (hn : Piece.timers ∉ ps) : a.Keeps State.timers := h.keeps fun u s hu => by
  cases u
  case timers => exact absurd hu hn
  all_goals rfl
theorem Act.Only.agenda (h : a.Only ps) (hn : Piece.agenda ∉ ps) : a.Keeps State.agenda := h.keeps fun u s hu => by
  cases u
  case agenda => exact absurd hu hn
  all_goals rfl
theorem Act.Only.outbox (h : a.Only ps) (hn : Piece.outbox ∉ ps) : a.Keeps State.outbox := h.keeps fun u s hu => by
  cases u
  case outbox => exact absurd hu hn
  all_goals rfl
theorem Act.Only.links (h : a.Only ps) (hn : Piece.links ∉ ps) : a.Keeps State.links := h.keeps fun u s hu => by
  cases u
  case links => exact absurd hu hn
  all_goals rfl

theorem only_none : Act.none.Only ps := fun _ u hu => by cases hu
theorem only_seq (ha : a.Only ps) (hb : b.Only ps) : (Act.seq a b).Only ps := fun s u hu => by
  rcases List.mem_append.mp hu with h | h
  · exact ha s u h
  · exact hb _ u h
theorem only_all {l : List Act} (h : ∀ a ∈ l, a.Only ps) : (Act.all l).Only ps := by
  induction l with
  | nil => exact only_none
  | cons a l ih => exact only_seq (h a (by simp)) (ih fun b hb => h b (by simp [hb]))
theorem only_each {α : Type} {l : List α} {f : α → Act} (h : ∀ x ∈ l, (f x).Only ps) : (Act.each l f).Only ps :=
  only_all fun a ha => by obtain ⟨x, hx, rfl⟩ := List.mem_map.mp ha; exact h x hx
theorem only_when (x : Bool) (h : a.Only ps) : (Act.when x a).Only ps := by cases x; exacts [only_none, h]
/-- An action that is chosen on the state. -/
theorem only_of {f : State → Act} (h : ∀ s, (f s).Only ps) : Act.Only (fun s => f s s) ps := fun s => h s s
theorem only_one {f : State → Upd} {p : Piece} (h : ∀ s, (f s).piece = p) (hp : p ∈ ps) : Act.Only (fun s => [f s]) ps := fun s u hu => by
  rw [List.mem_singleton.mp hu, h]; exact hp

/-! ## The actions -/

theorem only_onUnit (c : Col) (f : UnitSt → UnitSt) (h : Piece.units ∈ ps) : (onUnit c f).Only ps := only_one (fun _ => rfl) h
theorem only_onVault (c : Col) (f : VaultSt → VaultSt) (h : Piece.vaults ∈ ps) : (onVault c f).Only ps := only_one (fun _ => rfl) h
theorem only_onSlot (c : Col) (f : Slot → Slot) (h : Piece.slots ∈ ps) : (onSlot c f).Only ps := only_one (fun _ => rfl) h
theorem only_onDie (d : Die) (f : DieSt → DieSt) (h : Piece.dies ∈ ps) : (onDie d f).Only ps := only_one (fun _ => rfl) h
theorem only_onWork (f : Work → Work) (h : Piece.work ∈ ps) : (onWork f).Only ps := only_one (fun _ => rfl) h
theorem only_onPart (n : BitVec 16) (f : Part → Part) (h : Piece.parts ∈ ps) : (onPart n f).Only ps := only_one (fun _ => rfl) h
theorem only_onPkg (f : Pkg → Pkg) (h : Piece.pkg ∈ ps) : (onPkg f).Only ps := only_one (fun _ => rfl) h
theorem only_onTxn (n : Nat) (f : Txn → Txn) (h : Piece.txns ∈ ps) : (onTxn n f).Only ps := only_one (fun _ => rfl) h
theorem only_dropTxn (n : Nat) (h : Piece.txns ∈ ps) : (dropTxn n).Only ps := only_one (fun _ => rfl) h
theorem only_onArr (n k : Nat) (f : Arr → Arr) (h : Piece.txns ∈ ps) : (onArr n k f).Only ps := only_onTxn _ _ h
theorem only_markExt (b : Nat) (d : Bool) (h : Piece.extDirty ∈ ps) : (markExt b d).Only ps := only_one (fun _ => rfl) h
theorem only_report (r : Report) (h : Piece.outbox ∈ ps) : (report r).Only ps := only_one (fun _ => rfl) h
theorem only_eventNow (e : Ev) (h : Piece.agenda ∈ ps) : (eventNow e).Only ps := only_one (fun _ => rfl) h
theorem only_eventAt (c : Col) (x : Int) (e : Ev) (h : Piece.agenda ∈ ps) (k : Piece.timers ∈ ps) : (eventAt c x e).Only ps := fun s u hu => by
  unfold eventAt at hu
  split at hu <;> (rw [List.mem_singleton.mp hu]; assumption)
theorem only_eventAtPart (n : BitVec 16) (x : Int) (e : Ev) (h : Piece.agenda ∈ ps) (k : Piece.timers ∈ ps) : (eventAtPart n x e).Only ps := fun s u hu => by
  unfold eventAtPart at hu
  split at hu <;> (rw [List.mem_singleton.mp hu]; assumption)
theorem only_eventDue (c : Col) (x : Int) (e : Ev) (h : Piece.agenda ∈ ps) (k : Piece.timers ∈ ps) : (eventDue c x e).Only ps := fun s u hu => by
  unfold eventDue at hu
  dsimp only at hu
  split at hu
  · rw [List.mem_singleton.mp hu]; exact h
  · exact only_eventAt c x e h k s u hu
theorem only_eventTick (x : Int) (e : Ev) (k : Piece.timers ∈ ps) : (eventTick x e).Only ps := only_one (fun _ => rfl) k
theorem only_fresh {f : Nat → Act} (hf : ∀ n, (f n).Only ps) (h : Piece.nextId ∈ ps) : (fresh f).Only ps := fun s u hu => by
  rcases List.mem_cons.mp hu with rfl | hu
  · exact h
  · exact hf _ s u hu
theorem only_draw {n : Nat} {f : Nat → Act} (hf : ∀ k, (f k).Only ps) (h : Piece.free ∈ ps) : (draw n f).Only ps := fun s u hu => by
  rcases List.mem_cons.mp hu with rfl | hu
  · exact h
  · exact hf _ s u hu
theorem only_onBound (n : Nat) (f : Bound → Bound) (h : Piece.work ∈ ps) : (onBound n f).Only ps := only_onWork _ h
theorem only_onJob (n : Dword) (f : Job → Job) (h : Piece.work ∈ ps) : (onJob n f).Only ps := only_onWork _ h
theorem only_escalate (c : Col) (h : Piece.agenda ∈ ps) : (escalate c).Only ps := fun s => only_eventNow _ h s
theorem only_idleFrom (c : Col) (h : Piece.vaults ∈ ps) : (idleFrom c).Only ps := fun s => only_onVault _ _ h s
theorem only_toState (c : Col) (st : SlotState) (h : Piece.slots ∈ ps) : (toState c st).Only ps := only_onSlot _ _ h

/-! ## Words, records and removal -/

theorem only_writePlace (p : Place) (w : BlkWrite) : (writePlace p w).Only [.mems, .ext, .extDirty, .vaults] := fun s => by
  unfold writePlace
  split
  · exact only_seq (only_markExt _ _ (by simp)) (only_one (p := .ext) (fun _ => rfl) (by simp)) s
  · intro u hu
    simp only [List.mem_cons, List.not_mem_nil, or_false] at hu
    rcases hu with rfl | rfl <;> simp [Upd.piece]
theorem only_saveFor (j : Job) (p : Place) (w : BlkWrite) : (saveFor j p w).Only [.mems, .ext, .extDirty, .vaults] := fun s => by
  unfold saveFor
  split
  · split
    · exact only_none s
    · intro u hu
      simp only [List.mem_cons, List.not_mem_nil, or_false] at hu
      rcases hu with rfl | rfl <;> simp [Upd.piece]
  · exact only_none s
theorem only_setJobWord (j : Job) (a : Dword) (i : Nat) (v : Dword) : (setJobWord j a i v).Only [.mems, .ext, .extDirty, .vaults] := fun s => by
  unfold setJobWord
  dsimp only
  split
  · exact only_seq (only_saveFor _ _ _) (only_writePlace _ _) s
  · exact only_none s
theorem only_addJobWord (j : Job) (a : Dword) (i : Nat) (d : Dword) : (addJobWord j a i d).Only [.mems, .ext, .extDirty, .vaults] := fun s => only_setJobWord _ _ _ _ s
theorem only_completes (j : Job) (a : Dword) : (completes j a).Only [.work, .agenda] := fun s => by
  unfold completes
  split
  · exact only_seq (only_onJob _ _ (by simp)) (only_eventNow _ (by simp)) s
  · exact only_none s
/-- What counting in records writes. -/
def countPieces : List Piece := [.mems, .ext, .extDirty, .vaults, .work, .agenda]
theorem only_countItem (j : Job) (a : Dword) (x : Bool) : (countItem j a x).Only countPieces :=
  only_seq ((only_addJobWord _ _ _ _).mono (by simp [countPieces])) (only_seq (only_when _ ((only_addJobWord _ _ _ _).mono (by simp [countPieces]))) ((only_completes _ _).mono (by simp [countPieces])))
theorem only_leave (n : Nat) (c : Col) (h : Piece.work ∈ ps) : (leave n c).Only ps := fun s => only_onWork _ h s
theorem only_leaveLaunch (c : Col) (h : Piece.work ∈ ps) : (leaveLaunch c).Only ps := fun s => by
  unfold leaveLaunch
  split
  · exact only_leave _ _ h s
  · exact only_none s
theorem only_dropBarrier (c : Col) (n : Nat) (b : BarSlot) (h : Piece.vaults ∈ ps) : (dropBarrier c n b).Only ps := only_onVault _ _ h
theorem only_dropBarriers (c : Col) : (dropBarriers c).Only [.vaults, .units] := fun s =>
  only_seq (only_each fun _ _ => only_dropBarrier _ _ _ (by simp)) (only_onUnit _ _ (by simp)) s
theorem only_abortColls (c : Col) (j : Dword) : (abortColls c j).Only [.work, .agenda] := fun s =>
  only_seq (only_onWork _ (by simp)) (only_each fun _ _ => only_eventNow _ (by simp)) s
theorem only_noteGone (b : Bound) (c : Col) : (noteGone b c).Only [.work] := fun s => by
  unfold noteGone
  split
  · exact only_onJob _ _ (by simp) s
  · exact only_none s
theorem only_dropLaunch (j d : Dword) : (dropLaunch j d).Only countPieces := fun s => by
  unfold dropLaunch
  split
  · exact only_countItem _ _ _ s
  · exact only_none s
theorem only_dropWaiting (f : Queue → Placed → Bool) (g : LReq → Bool) : (dropWaiting f g).Only countPieces := fun s =>
  only_seq (only_onWork _ (by simp [countPieces])) (only_each fun _ _ => only_dropLaunch _ _) s
end

section
variable {a : Act} (s : State) (c : Col)

theorem Act.Keeps.unit (h : a.Keeps State.units) : (perform a s).unit c = s.unit c := by simp only [State.unit, h s]
theorem Act.Keeps.slot (h : a.Keeps State.slots) : (perform a s).slot c = s.slot c := by simp only [State.slot, h s]
theorem Act.Keeps.vault (h : a.Keeps State.vaults) : (perform a s).vault c = s.vault c := by simp only [State.vault, h s]
theorem Act.Keeps.mem (h : a.Keeps State.mems) (m : Mem) : (perform a s).mem c m = s.mem c m := by simp only [State.mem, h s]
theorem Act.Keeps.now (h : a.Keeps State.parts) (k : a.Keeps State.tick) : (perform a s).now c = s.now c := by simp only [State.now, State.partOf, h s, k s]
end
end Sys2Proof.Machine

/-! PROOF. The life of a launch: bind, load, hold, release, completion, fallow, kill (R53, R54, R136, R180, R360 to R369, R377, R380). -/
namespace Sys2Proof.Machine

section
variable {s : State} {c : Col}

/-! ## Commands of the slot table (R366) -/

theorem perform_command {cmd : SlotCmd} {ok : List SlotState} {act : Act} (h : (s.slot c).st ∈ ok) :
    perform (command c cmd ok act) s = perform act { s with slots := s.slots.set c { s.slot c with cmd := .none } } := by
  have e : ok.contains (s.slot c).st = true := List.contains_iff_mem.mpr h
  simp only [perform, command, e, if_true]
  exact perform_seq _ _ s
theorem perform_command_refused {cmd : SlotCmd} {ok : List SlotState} {act : Act} (h : (s.slot c).st ∉ ok) :
    perform (command c cmd ok act) s = { s with slots := s.slots.set c { s.slot c with cmd := cmd }, outbox := s.outbox ++ [.cmdRefused c cmd] } := by
  have e : ok.contains (s.slot c).st = false := (Bool.not_eq_true _).mp (mt List.contains_iff_mem.mp h)
  simp only [perform, command, e]
  exact perform_seq _ _ s

/-- A load begins (R367). -/
def loadAct (c : Col) (due : Int) : Act := Act.all [toState c .loading, onVault c (fun v => { v with idle := none }), eventAt c due (.objectLoadComplete c)]
theorem execBind_eq (he : s.ev = .bind c) : ∃ due, execBind s = done (command c .bind [.free, .done] (loadAct c due)) s :=
  ⟨_, by simp only [execBind, he]; rfl⟩
theorem only_loadAct (c : Col) (due : Int) : (loadAct c due).Only [.slots, .vaults, .agenda, .timers] :=
  only_all fun a ha => by
    simp only [List.mem_cons, List.not_mem_nil, or_false] at ha
    rcases ha with rfl | rfl | rfl
    · exact only_toState _ _ (by simp)
    · exact only_onVault _ _ (by simp)
    · exact only_eventAt _ _ _ (by simp) (by simp)
theorem loadAct_slot (due : Int) (t : State) : (perform (loadAct c due) t).slot c = { t.slot c with st := .loading } := by
  rw [loadAct, perform_all_cons, perform_all_cons, perform_all_cons, perform_all_nil, (only_eventAt c due _ (ps := [.agenda, .timers]) (by simp) (by simp)).slots (by simp) |>.slot]
  exact slot_set_same ..

/-! ## Hold and release (R377) -/

theorem held_slot (k : Slot) (cmd : SlotCmd) (st : SlotState) : ({ ({ k with cmd := cmd } : Slot) with st := st } : Slot) = { k with cmd := cmd, st := st } := rfl
theorem perform_toState_after (x : Slot) (st : SlotState) : perform (toState c st) { s with slots := s.slots.set c x } = { s with slots := s.slots.set c { x with st := st } } := by
  have h : State.slot { s with slots := s.slots.set c x } c = x := slot_set_same ..
  simp only [toState, perform_onSlot, h, Vector.set_set]
theorem execHold_one {id : Nat} {b : Bound} {d : Col} (he : s.ev = .hold id d) (hd : c ≠ d) (hb : s.work.bound.find? (fun b => b.id == id && !b.saved) = some b) (hc : b.cols = [c])
    (hf : c ∉ b.faulted) (hdead : (s.unit c).ctl.dead = false) (hst : (s.slot c).st = .running ∨ (s.slot c).st = .waitBase) :
    execHold s = .next { s with slots := s.slots.set c { s.slot c with cmd := .none, st := .held } } := by
  have e : execHold s = done (Act.each (b.cols.filter (fun c => c != d && !b.faulted.contains c && !(s.unit c).ctl.dead)) (fun c => command c .hold [.running, .waitBase] (toState c .held))) s := by
    simp only [execHold, he, hb]
  have hone : b.cols.filter (fun c => c != d && !b.faulted.contains c && !(s.unit c).ctl.dead) = [c] := by
    rw [hc]
    simp [hd, hf, hdead]
  rw [e, hone, done, perform_each_cons, perform_each_nil, perform_command (by rcases hst with h | h <;> simp [h]), perform_toState_after]

/-- The unit that goes on: loose, each stream's next instruction counted as if it had never been held (log entry 29). -/
def UnitSt.wakes (u : UnitSt) : UnitSt := { u with ctl := { u.ctl with timed := false, strms := u.ctl.strms.map (fun t => { t with due := none }) } }
theorem wakes_strm (u : UnitSt) (x : Stream) : u.wakes.strm x = { u.strm x with due := none } := Vector.getElem_map ..
theorem countCycle_keeps (c : Col) (t : State) : (perform (countCycle c) t).slots = t.slots ∧
    ((perform (countCycle c) t).unit c = t.unit c ∨ (perform (countCycle c) t).unit c = (t.unit c).countDown) := by
  simp only [perform, countCycle]
  split
  · exact ⟨rfl, .inr (unit_set_same ..)⟩
  · exact ⟨rfl, .inl rfl⟩
theorem countDown_keeps (u : UnitSt) : u.countDown.ctl = u.ctl ∧ u.countDown.regs = u.regs ∧ u.countDown.frm = u.frm ∧ u.countDown.pend = u.pend := ⟨rfl, rfl, rfl, rfl⟩
/-- A unit takes its oldest queued fault, if there is one (R376). -/
def takesOldest (c : Col) : Act := fun s => if (s.unit c).frm.queue.isEmpty then [] else deliverQueued c s
theorem takesOldest_none {t : State} (h : (t.unit c).frm.queue = []) : perform (takesOldest c) t = t := by
  have e : takesOldest c t = [] := if_pos (by rw [h]; rfl)
  rw [perform, e]; rfl
/-- A held unit with no fault in its queue goes on where it stood. -/
theorem unhold_next (hq : (s.unit c).frm.queue = []) :
    let t := perform (unhold c) s
    (t.slot c).st = .running ∧ (t.unit c).ctl = (s.unit c).wakes.ctl ∧ (t.unit c).regs = (s.unit c).regs := by
  let r := perform (toState c .running) (perform (onUnit c UnitSt.wakes) s)
  have hr : r.unit c = (s.unit c).wakes := unit_set_same ..
  have hs : (r.slot c).st = .running := congrArg Slot.st (slot_set_same ..)
  obtain ⟨hslots, hunit⟩ := countCycle_keeps c r
  have hu : ((perform (countCycle c) r).unit c).ctl = (s.unit c).wakes.ctl ∧ ((perform (countCycle c) r).unit c).regs = (s.unit c).regs ∧ ((perform (countCycle c) r).unit c).frm = (s.unit c).frm := by
    rcases hunit with h | h <;> rw [h, hr] <;> exact ⟨rfl, rfl, rfl⟩
  obtain ⟨hctl, hregs, hfrm⟩ := hu
  have e : perform (unhold c) s = perform (countCycle c) r := by
    have h1 : perform (unhold c) s = perform (Act.all [onUnit c UnitSt.wakes, toState c .running, countCycle c, takesOldest c]) s := rfl
    rw [h1, perform_all_cons, perform_all_cons, perform_all_cons, perform_all_cons, perform_all_nil]
    exact takesOldest_none (by rw [hfrm]; exact hq)
  intro t
  have ht : t = perform (countCycle c) r := e
  rw [ht]
  exact ⟨by rw [State.slot, hslots]; exact hs, hctl, hregs⟩
theorem execRelease_one {id : Nat} {b : Bound} (he : s.ev = .release id) (hb : s.work.bound.find? (fun b => b.id == id && !b.saved) = some b) (hc : b.cols = [c])
    (hdead : (s.unit c).ctl.dead = false) (hst : (s.slot c).st = .held) :
    execRelease s = .next (perform (unhold c) { s with slots := s.slots.set c { s.slot c with cmd := .none } }) := by
  have e : execRelease s = done (Act.each (b.cols.filter (fun c => (s.slot c).st == .held && !(s.unit c).ctl.dead)) (fun c => command c .release [.held] (unhold c))) s := by
    simp only [execRelease, he, hb]
  have hone : b.cols.filter (fun c => (s.slot c).st == .held && !(s.unit c).ctl.dead) = [c] := by
    rw [hc]
    simp [hst, hdead]
  rw [e, hone, done, perform_each_cons, perform_each_nil, perform_command (by simp [hst])]

/-! ## The load of an object (R180, R367) -/

theorem execObjectLoadComplete_waits {b : Bound} {p : Part} {j : Job} (he : s.ev = .objectLoadComplete c) (hb : s.launchOf c = some b) (hp : s.partOf c = some p) (hj : s.job b.job = some j)
    (hst : (s.slot c).st = .loading) (hd : (s.unit c).ctl.dead = false)
    (hr : (s.object j (s.slot c).desc (s.slot c).unit.toNat).rejected s.pkg.dielist (handlerBase p.handler) = false)
    (hw : ∀ w ∈ wheelPos (s.object j (s.slot c).desc (s.slot c).unit.toNat).wheel, w ∉ s.otherWheels c p) :
    ∃ t, execObjectLoadComplete s = .next t ∧ (t.slot c).st = .waitBase := by
  have hwheel : (wheelPos (s.object j (s.slot c).desc (s.slot c).unit.toNat).wheel).any ((s.otherWheels c p).contains ·) = false := by
    rw [List.any_eq_false]
    exact fun w h => by simpa using hw w h
  have e : ∃ (x : State) (due : Int) (ev : Ev), execObjectLoadComplete s = .next (perform (eventAt c due ev) (perform (toState c .waitBase) x)) := by
    simp only [execObjectLoadComplete, he, hb, hp, hj, hst, hd, hr, hwheel, done, perform_all_cons, perform_all_nil]
    exact ⟨_, _, _, rfl⟩
  obtain ⟨x, due, ev, e⟩ := e
  refine ⟨_, e, ?_⟩
  rw [(only_eventAt c due ev (ps := [.agenda, .timers]) (by simp) (by simp)).slots (by simp) |>.slot]
  exact congrArg Slot.st (slot_set_same ..)

/-! ## Completion (R53, R54) -/

theorem dropBarriers_unit (s : State) (c : Col) : (perform (dropBarriers c) s).unit c = { s.unit c with ord := { (s.unit c).ord with slots := [] } } := by
  have h : perform (dropBarriers c) s = perform (onUnit c (fun u => { u with ord := { u.ord with slots := [] } })) (perform (Act.each (s.unit c).ord.slots (dropBarrier c (s.slot c).launch)) s) := perform_seq ..
  have k : (Act.each (s.unit c).ord.slots (dropBarrier c (s.slot c).launch)).Only [.vaults] := only_each fun _ _ => only_dropBarrier _ _ _ (by simp)
  rw [h, perform_onUnit, unit_set_same, (k.units (by simp)).unit]

/-- The state at a unit's completion, before its launch takes account of it. -/
theorem execUnitCompletion_next (he : s.ev = .unitCompletion c) (hh : s.haltDone c = true) :
    let count := match s.launchOf c with
      | some b => match s.job b.job with
        | some j => countItem j b.desc false
        | none => Act.none
      | none => Act.none
    ∃ t, (t.slot c).st = .done ∧ (t.unit c).ctl.haltAt = none ∧ (t.unit c).ord.slots = [] ∧ (t.unit c).pend = (s.unit c).pend ++ [{ at_ := s.now c + 1, stream := .k, eff := .epoch (s.now c + 1) }] ∧
      t.mems = s.mems ∧ t.work = s.work ∧ execUnitCompletion s = .next (perform count (perform (leaveLaunch c) t)) := by
  intro count
  let r := perform (dropBarriers c) s
  have hr : r.unit c = { s.unit c with ord := { (s.unit c).ord with slots := [] } } := dropBarriers_unit s c
  let u := UnitSt.later { r.unit c with ctl := { (r.unit c).ctl with haltAt := none } } [{ at_ := s.now c + 1, stream := .k, eff := .epoch (s.now c + 1) }]
  let w : State := { r with units := r.units.set c u }
  have hw : w.unit c = u := unit_set_same ..
  have hidle := only_idleFrom c (ps := [.vaults]) (by simp)
  have hslot := only_onSlot c (fun k => { k with st := .done }) (ps := [.slots]) (by simp)
  have hunit : (perform (onSlot c (fun k => { k with st := .done })) (perform (idleFrom c) w)).unit c = u := by
    rw [(hslot.units (by simp)).unit, (hidle.units (by simp)).unit, hw]
  refine ⟨perform (onSlot c (fun k => { k with st := .done })) (perform (idleFrom c) w), congrArg Slot.st (slot_set_same ..), ?_, ?_, ?_, ?_, ?_, ?_⟩
  · rw [hunit]; rfl
  · rw [hunit]; exact congrArg (fun u : UnitSt => u.ord.slots) hr
  · rw [hunit]
    change (r.unit c).pend ++ _ = _
    rw [hr]
  · rw [hslot.mems (by simp), hidle.mems (by simp)]
    exact (only_dropBarriers c).mems (by simp) s
  · rw [hslot.work (by simp), hidle.work (by simp)]
    exact (only_dropBarriers c).work (by simp) s
  · have e : execUnitCompletion s = if !s.haltDone c then .next s else done (Act.all [dropBarriers c,
        onUnit c (fun u => UnitSt.later { u with ctl := { u.ctl with haltAt := none } } [{ at_ := s.now c + 1, stream := .k, eff := .epoch (s.now c + 1) }]),
        idleFrom c, onSlot c (fun k => { k with st := .done }), leaveLaunch c, count]) s := by
      simp only [execUnitCompletion, he]; rfl
    rw [e, hh]
    simp only [Bool.not_true, Bool.false_eq_true, if_false, done, perform_all_cons, perform_all_nil]
    rfl

/-! ## Records (R53, R360) -/

section
variable {job rec : Dword} {j : Job} (he : s.ev = .workRecordCompletion job rec) (hj : s.job job = some j)
include he hj

theorem execWorkRecordCompletion_ignored (h : s.recordDone j rec = false ∨ rec ∈ j.ended) : execWorkRecordCompletion s = .next s := by
  have hc : (!s.recordDone j rec || j.ended.contains rec) = true := by
    rcases h with h | h
    · rw [h]; rfl
    · rw [List.contains_iff_mem.mpr h, Bool.or_true]
  simp only [execWorkRecordCompletion, he, hj]
  exact if_pos hc
variable (hd : s.recordDone j rec = true) (hn : rec ∉ j.ended)
include hd hn
theorem execWorkRecordCompletion_job (hp : s.jobWord j rec wParent = 0) :
    ∃ t, execWorkRecordCompletion s = .next t ∧ t.outbox = s.outbox ++ [.jobDone job ((List.range 8).map (s.jobWord j rec))] ∧ t.mems = s.mems ∧ (∀ k ∈ t.work.colls, k.job ≠ job) := by
  have hc : (!s.recordDone j rec || j.ended.contains rec) = false := by
    rw [hd, (Bool.not_eq_true _).mp (mt List.contains_iff_mem.mp hn)]; rfl
  have e : execWorkRecordCompletion s = done (Act.all [onJob job (fun j => { j with ended := rec :: j.ended, cut := j.cut.filter (fun a => a != rec) }),
      report (.jobDone job ((List.range 8).map (s.jobWord j rec))), onWork (fun w => { w with colls := w.colls.filter (fun k => k.job != job) })]) s := by
    simp only [execWorkRecordCompletion, he, hj, hc, hp]; rfl
  rw [e, done, perform_all_cons, perform_all_cons, perform_all_cons, perform_all_nil]
  refine ⟨_, rfl, rfl, rfl, fun k hk => ?_⟩
  have := (List.mem_filter.mp hk).2
  simpa using this
theorem execWorkRecordCompletion_parent (hp : s.jobWord j rec wParent ≠ 0) (hpl : rec ∉ j.placed) (hs : ∀ n ∈ s.work.snaps, n.job ≠ job) :
    execWorkRecordCompletion s = .next (perform (Act.when (!j.cut.contains rec) (countItem j (s.jobWord j rec wParent) false))
        { s with work := { s.work with jobs := s.work.jobs.map (fun y => if y.handle == job then { y with ended := rec :: y.ended, cut := y.cut.filter (fun a => a != rec) } else y) } }) := by
  have hc : (!s.recordDone j rec || j.ended.contains rec) = false := by
    rw [hd, (Bool.not_eq_true _).mp (mt List.contains_iff_mem.mp hn)]; rfl
  have hplaced : j.placed.contains rec = false := (Bool.not_eq_true _).mp (mt List.contains_iff_mem.mp hpl)
  have hopens : s.work.snaps.any (fun n => n.job == job && !n.opened && n.round == (s.jobWord j rec wHandle).truncate 32) = false := by
    rw [List.any_eq_false]
    exact fun n h => by simp [hs n h]
  have e : execWorkRecordCompletion s = done (Act.all [onJob job (fun j => { j with ended := rec :: j.ended, cut := j.cut.filter (fun a => a != rec) }),
      Act.when (!j.cut.contains rec) (countItem j (s.jobWord j rec wParent) false), Act.none, Act.when false (eventNow (.snapshotOpen job))]) s := by
    simp only [execWorkRecordCompletion, he, hj, hc, hplaced, hopens, beq_false_of_ne hp]; rfl
  rw [e, done, perform_all_cons, perform_all_cons, perform_all_cons, perform_all_cons, perform_all_nil]
  rfl
end

/-! ## The fallow pass (R136) -/

theorem execFallow_next (he : s.ev = .fallow c) (hst : (s.slot c).st = .done ∨ (s.slot c).st = .saved) :
    ∃ t, execFallow s = .next t ∧ (t.slot c).st = .fallow ∧ t.units = s.units ∧ t.mems = s.mems := by
  let wait := draw 1 (fun n => eventAt c (s.now c + ((Config.fallowCycles n % 8401 : Nat) : Int)) (.fallowPassComplete c))
  have hwait : wait.Only [.free, .agenda, .timers] := only_draw (fun n => only_eventAt _ _ _ (by simp) (by simp)) (by simp)
  have e : execFallow s = done (command c .fallow [.done, .saved] (Act.seq (toState c .fallow) wait)) s := by
    simp only [execFallow, he]; rfl
  rw [e, done, perform_command (by rcases hst with h | h <;> simp [h]), perform_seq, perform_toState_after]
  exact ⟨_, rfl, by rw [(hwait.slots (by simp)).slot, slot_set_same], hwait.units (by simp) _, hwait.mems (by simp) _⟩

theorem mem_set_same (s : State) (c : Col) (x : Mems) (m : Mem) : State.mem { s with mems := s.mems.set c x } c m = x.get m := congrArg (Mems.get · m) (vget_set_same ..)
theorem clear_mem (s : State) (c : Col) (x m : Mem) : (Upd.apply (.clear c x) s).mem c m = if m = x then .empty else s.mem c m := by
  refine (mem_set_same s c _ m).trans ?_
  cases x <;> cases m <;> rfl
theorem execFallowPassComplete_next (he : s.ev = .fallowPassComplete c) (hst : (s.slot c).st = .fallow) :
    ∃ t, execFallowPassComplete s = .next t ∧ (t.slot c).st = .free ∧ t.unit c = (s.unit c).cleared ∧ (∀ m : Mem, m = .wb ∨ m = .ab ∨ m = .sp → t.mem c m = .empty) ∧ t.mem c .vault = s.mem c .vault := by
  let clears : Act := fun _ => [.clear c .wb, .clear c .ab, .clear c .sp]
  let last := Act.all [onVault c (fun v => { v with budget := { v.budget with rewrites := [] } }), toState c .free, idleFrom c]
  have hlast : last.Only [.vaults, .slots] := only_all fun a ha => by
    simp only [List.mem_cons, List.not_mem_nil, or_false] at ha
    rcases ha with rfl | rfl | rfl
    exacts [only_onVault _ _ (by simp), only_toState _ _ (by simp), only_idleFrom _ (by simp)]
  have e : execFallowPassComplete s = done (Act.all [onUnit c UnitSt.cleared, clears, onVault c (fun v => { v with budget := { v.budget with rewrites := [] } }), toState c .free, idleFrom c]) s := by
    simp only [execFallowPassComplete, he]
    exact if_neg (by rw [hst]; decide)
  rw [e, done, perform_all_cons, perform_all_cons]
  have hm : ∀ m, (perform last (perform clears (perform (onUnit c UnitSt.cleared) s))).mem c m = if m = .sp then .empty else if m = .ab then .empty else if m = .wb then .empty else s.mem c m := fun m => by
    rw [(hlast.mems (by simp)).mem]
    exact (clear_mem _ c .sp m).trans (by rw [clear_mem, clear_mem]; rfl)
  refine ⟨_, rfl, congrArg Slot.st (slot_set_same ..), ?_, fun m h => (hm m).trans ?_, (hm .vault).trans ?_⟩
  · exact (hlast.units (by simp)).unit _ c |>.trans (unit_set_same ..)
  · rcases h with rfl | rfl | rfl <;> rfl
  · rfl

/-! ## The kill of a queue (R380) -/

theorem execKill_eq {die : Die} {q : Fin 64} {o : Option Col} (he : s.ev = .kill die q o) : execKill s = done (killQueue die q o) s := by simp only [execKill, he]
theorem filter_none {α : Type} {p : α → Bool} {l : List α} (h : ∀ x ∈ l, p x = false) : l.filter p = [] := List.filter_eq_nil_iff.mpr fun x hx => by rw [h x hx]; exact Bool.false_ne_true
theorem dropWaiting_nothing {f : Queue → Placed → Bool} {g : LReq → Bool} {t : State} (hf : ∀ q ∈ t.work.queues, ∀ p ∈ q.items, f q p = false) (hg : ∀ r ∈ t.work.reqs, g r = false) :
    perform (dropWaiting f g) t = t := by
  have hi : t.work.queues.flatMap (fun q => (q.items.filter (f q)).map (fun p => (p.job, p.desc))) = [] := List.flatMap_eq_nil_iff.mpr fun q hq => by rw [filter_none (hf q hq)]; rfl
  have hq : t.work.queues.map (fun q => { q with items := q.items.filter (fun p => !f q p) }) = t.work.queues := by
    refine (List.map_congr_left fun q hq => ?_).trans (List.map_id _)
    rw [List.filter_eq_self.mpr fun p hp => by rw [hf q hq p hp]; rfl]; rfl
  have hr : t.work.reqs.filter (fun r => !g r) = t.work.reqs := List.filter_eq_self.mpr fun r h => by rw [hg r h]; rfl
  have e : perform (dropWaiting f g) t = perform (Act.seq (onWork (fun w => { w with queues := w.queues.map (fun q => { q with items := q.items.filter (fun p => !f q p) }), reqs := w.reqs.filter (fun r => !g r) })) Act.none) t := by
    simp only [perform, dropWaiting, hi, filter_none hg]; rfl
  rw [e, perform_seq, perform_onWork, hq, hr]
  rfl
theorem execKill_nothing {die : Die} {q : Fin 64} (he : s.ev = .kill die q none) (hb : ∀ b ∈ s.work.bound, b.qdie = die → b.q ≠ q)
    (hi : ∀ x ∈ s.work.queues, x.die = die → x.q = q → x.items = []) (hr : ∀ r ∈ s.work.reqs, r.die = die → r.q ≠ q) :
    execKill s = .next { s with outbox := s.outbox ++ [.killed die q []] } := by
  have hhit : s.work.bound.filter (fun b => b.qdie == die && b.q == q) = [] := filter_none fun b h => by
    by_cases hd : b.qdie = die
    · simp [hb b h hd]
    · simp [hd]
  have e : perform (killQueue die q none) s = perform (Act.all [report (.killed die q []), Act.each [] dropBound, dropWaiting (fun k _ => k.die == die && k.q == q) (fun r => r.die == die && r.q == q)]) s := by
    simp only [perform, killQueue, hhit]; rfl
  rw [execKill_eq he, done, e, perform_all_cons, perform_all_cons, perform_all_cons, perform_all_nil, perform_each_nil, dropWaiting_nothing]
  · rfl
  · intro x hx p hp
    by_cases hd : x.die = die
    · by_cases hq : x.q = q
      · have := hi x hx hd hq
        rw [this] at hp; cases hp
      · simp [hq]
    · simp [hd]
  · intro r h
    by_cases hd : r.die = die
    · simp [hr r h hd]
    · simp [hd]

/-- What a kill writes besides the records. -/
theorem only_endUnit (c : Col) : (endUnit c).Only [.timers, .units, .vaults, .work, .agenda] := fun s => only_all (l := [_, _, _, _]) (fun a ha => by
  simp only [List.mem_cons, List.not_mem_nil, or_false] at ha
  rcases ha with rfl | rfl | rfl | rfl
  · exact only_one (p := .timers) (fun _ => rfl) (by simp)
  · exact only_onUnit _ _ (by simp)
  · exact (only_dropBarriers c).mono (by simp)
  · exact (only_abortColls c _).mono (by simp)) s
theorem endUnit_unit (t : State) : ((perform (endUnit c) t).unit c).ctl = { (t.unit c).ctl with dead := true, haltAt := none, preempt := none, prepped := false } ∧
    ((perform (endUnit c) t).unit c).regs = (t.unit c).regs := by
  let w := perform (onUnit c (fun u => { u with ctl := { u.ctl with dead := true, haltAt := none, preempt := none, prepped := false }, frm := { u.frm with queue := [] } }))
    (perform (fun s => [.timers (s.timers.filter (fun t => t.ev != .objectLoadComplete c))]) t)
  have hw : w.unit c = { t.unit c with ctl := { (t.unit c).ctl with dead := true, haltAt := none, preempt := none, prepped := false }, frm := { (t.unit c).frm with queue := [] } } := unit_set_same ..
  have e : perform (endUnit c) t = perform (abortColls c (t.jobOf c)) (perform (dropBarriers c) w) := by
    have h : perform (endUnit c) t = perform (Act.all [(fun s => [.timers (s.timers.filter (fun t => t.ev != .objectLoadComplete c))]),
      onUnit c (fun u => { u with ctl := { u.ctl with dead := true, haltAt := none, preempt := none, prepped := false }, frm := { u.frm with queue := [] } }), dropBarriers c, abortColls c (t.jobOf c)]) t := rfl
    rw [h, perform_all_cons, perform_all_cons, perform_all_cons, perform_all_cons, perform_all_nil]
  rw [e, ((only_abortColls c (t.jobOf c)).units (by simp)).unit, dropBarriers_unit, hw]
  exact ⟨rfl, rfl⟩
theorem noteGone_keeps (b : Bound) (t : State) : (perform (noteGone b c) t).unit c = t.unit c ∧ (perform (noteGone b c) t).outbox = t.outbox :=
  ⟨((only_noteGone b c).units (by simp)).unit _ _, (only_noteGone b c).outbox (by simp) t⟩
theorem countItem_keeps (j : Job) (a : Dword) (x : Bool) (t : State) : (perform (countItem j a x) t).units = t.units ∧ (perform (countItem j a x) t).outbox = t.outbox :=
  ⟨(only_countItem j a x).units (by simp [countPieces]) t, (only_countItem j a x).outbox (by simp [countPieces]) t⟩
/-- What a kill does at the one column of a launch, whose unit is not dead yet. -/
theorem dropUnit_ends {b : Bound} {t : State} (hs : (t.slot c).saved = []) (hd : (t.unit c).ctl.dead = false) :
    let r := perform (dropUnit b c) t
    (r.unit c).ctl.dead = true ∧ (r.unit c).ctl.haltAt = none ∧ (r.unit c).regs = (t.unit c).regs ∧ r.outbox = t.outbox := by
  let count := match t.job b.job with
    | some j => countItem j b.desc true
    | none => Act.none
  have hcount : count.Only countPieces := by
    simp only [count]
    split
    · exact only_countItem _ _ _
    · exact only_none
  have e : perform (dropUnit b c) t = perform count (perform (endUnit c) (perform (noteGone b c) t)) := by
    have h : perform (dropUnit b c) t = perform (Act.all [noteGone b c, endUnit c, count]) t := by
      simp only [perform, dropUnit, hs, hd]; rfl
    rw [h, perform_all_cons, perform_all_cons, perform_all_cons, perform_all_nil]
  obtain ⟨h1, h2⟩ := endUnit_unit (c := c) (perform (noteGone b c) t)
  obtain ⟨k1, k2⟩ := noteGone_keeps (c := c) b t
  intro r
  have hr : r = perform count (perform (endUnit c) (perform (noteGone b c) t)) := e
  rw [hr, (hcount.units (by simp [countPieces])).unit, hcount.outbox (by simp [countPieces]), h1, h2, k1, (only_endUnit c).outbox (by simp), k2]
  exact ⟨rfl, rfl, rfl, rfl⟩
theorem execKill_one {die : Die} {q : Fin 64} {o : Option Col} {b : Bound} (he : s.ev = .kill die q o) (hb : s.work.bound.filter (fun b => b.qdie == die && b.q == q) = [b]) (hc : b.cols = [c])
    (hs : (s.slot c).saved = []) (hd : (s.unit c).ctl.dead = false) :
    ∃ t, execKill s = .next t ∧ (t.unit c).ctl.dead = true ∧ (t.unit c).ctl.haltAt = none ∧ (t.unit c).regs = (s.unit c).regs ∧
      Report.killed die q ((match o with | some d => [d] | none => b.faulted).map (fun d => (d, (s.unit d).frm))) ∈ t.outbox := by
  let r := Report.killed die q ((match o with | some d => [d] | none => b.faulted).map (fun d => (d, (s.unit d).frm)))
  let last := dropWaiting (fun k _ => k.die == die && k.q == q) (fun r => r.die == die && r.q == q)
  have hlast : last.Only countPieces := only_dropWaiting _ _
  have e : perform (killQueue die q o) s = perform (Act.all [report r, Act.each [b] dropBound, last]) s := by
    have h : killQueue die q o s = Act.all [report r, Act.each [b] dropBound, last] s := by
      simp only [killQueue, hb, r]
      cases o with
      | none => simp only [List.flatMap_cons, List.flatMap_nil, List.append_nil]; rfl
      | some d => rfl
    simp only [perform, h]
  let t := perform (report r) s
  have hdrop : ∃ x : Act, x.Only countPieces ∧ perform (dropBound b) t = perform x (perform (dropUnit b c) t) := by
    have hone : perform (Act.each b.cols (dropUnit b)) t = perform (dropUnit b c) t := by rw [hc, perform_each_cons, perform_each_nil]
    have h : dropBound b t = Act.each b.cols (dropUnit b) t ∨ ∃ j, dropBound b t = Act.seq (Act.each b.cols (dropUnit b)) (addJobWord j (t.graphOf j b.desc) wCanc 1) t := by
      unfold dropBound
      split
      · split
        · exact .inl rfl
        · exact .inr ⟨_, rfl⟩
      · exact .inl rfl
    rcases h with h | ⟨j, h⟩
    · exact ⟨Act.none, only_none, by rw [perform, h]; exact hone⟩
    · refine ⟨addJobWord j (t.graphOf j b.desc) wCanc 1, (only_addJobWord _ _ _ _).mono (by simp [countPieces]), ?_⟩
      rw [perform, h, ← hone]
      exact perform_seq _ _ t
  obtain ⟨x, hx, hdrop⟩ := hdrop
  obtain ⟨h1, h2, h3, h4⟩ := dropUnit_ends (c := c) (b := b) (t := t) hs hd
  rw [execKill_eq he, done, e, perform_all_cons, perform_all_cons, perform_all_cons, perform_all_nil, perform_each_cons, perform_each_nil, hdrop]
  refine ⟨_, rfl, ?_⟩
  rw [(hlast.units (by simp [countPieces])).unit, (hx.units (by simp [countPieces])).unit, hlast.outbox (by simp [countPieces]), hx.outbox (by simp [countPieces]), h1, h2, h3, h4]
  exact ⟨rfl, rfl, rfl, List.mem_append_right _ (List.mem_singleton.mpr rfl)⟩
end

/-- Settles O54: each event of a launch, on the columns and the records that it names. -/
theorem launchEvents : Obligations.LaunchEvents := by
  intro s c k slotIs
  refine ⟨?_, ?_, ?_, ?_, ?_, ?_, ?_, ?_, ?_, ?_, ?_, ?_, ?_⟩
  · intro he hst
    obtain ⟨due, h⟩ := execBind_eq he
    refine ⟨_, h.trans (congrArg Host.Outcome.next (perform_command (by rcases hst with h | h <;> simp [show (s.slot c).st = _ from h]))), ?_, ?_, ?_, ?_⟩
    · exact congrArg Slot.st (loadAct_slot due _)
    · rw [loadAct_slot, slot_set_same]
    · exact (only_loadAct c due).mems (by simp) _
    · exact (only_loadAct c due).units (by simp) _
  · intro he h1 h2
    obtain ⟨due, h⟩ := execBind_eq he
    refine ⟨_, h.trans (congrArg Host.Outcome.next (perform_command_refused (by simp [show (s.slot c).st ≠ _ from h1, show (s.slot c).st ≠ _ from h2]))), ?_, rfl⟩
    have h := congrArg Slot.st (vget_set_same s.slots c { s.slot c with cmd := .bind })
    exact h
  · exact fun b p j he hb hp hj hst hd hr hw => execObjectLoadComplete_waits he hb hp hj hst hd hr hw
  · exact fun id b d he hd hb hc hf hdead hst => execHold_one he hd hb hc hf hdead hst
  · intro id b he hb hc hdead hst hq
    obtain ⟨h1, h2, h3⟩ := unhold_next (s := { s with slots := s.slots.set c { s.slot c with cmd := .none } }) (c := c) hq
    refine ⟨_, execRelease_one he hb hc hdead hst, h1, ?_, h3, fun x => ?_⟩
    · rw [h2]; rfl
    · have : ∀ t : State, (t.unit c).ctl = (s.unit c).wakes.ctl → (t.unit c).strm x = { (s.unit c).strm x with due := none } := fun t ht => by
        rw [← wakes_strm, UnitSt.strm, ht]; rfl
      rw [this _ h2]
      exact ⟨rfl, rfl⟩
  · exact fun he hh => execUnitCompletion_next he hh
  · exact fun job rec j he hj hd hp hn => execWorkRecordCompletion_job he hj hd hn hp
  · exact fun job rec j he hj hd hp hpl hs hn => execWorkRecordCompletion_parent he hj hd hn hp hpl hs
  · exact fun job rec j he hj h => execWorkRecordCompletion_ignored he hj h
  · exact fun he hst => execFallow_next he hst
  · intro he hst
    obtain ⟨t, ht, h1, h2, h3, h4⟩ := execFallowPassComplete_next he hst
    exact ⟨t, ht, h1, by rw [h2]; rfl, by rw [h2]; rfl, by rw [h2]; rfl, h3, h4⟩
  · exact fun die q o b he hb hc hs hd => execKill_one he hb hc hs hd
  · exact fun die q he hb hi hr => execKill_nothing he hb hi hr
end Sys2Proof.Machine

/-! PROOF. The events of the far path (O55): a counterexample to the clause on the block of a get that is back. -/
namespace Sys2Proof.Machine

/-- A transfer that unit 0's command 7 has asked for. -/
def strayXfer : Xfer :=
  { tx := 1, k := 0, arrive := 0, form := none, cmd := 7, from_ := 0, dest := 0, loc := .none, blk := .clear, job := 0,
    who := { col := 1, stream := .l, epoch := 0, scpos := 0, fpos := 0, gen := 0, own := ((State.reset.dies[dieOf (1 : Col)]).gen)[dieOf (1 : Col)], issue := 0 }, gen := 0 }
/-- A GET of unit 0's engine that names column 1 as its issuer. -/
def strayGet : CopyCmd := { strayXfer.orphan with id := 7, op := 3, far := true, blks := [{ src := .none, dst := .chip .sp 0, mask := 0, fill := 0, hd := none }] }
/-- The block of the transfer is back. -/
def strayS : State :=
  let u : UnitSt := { UnitSt.reset with eng := { UnitSt.reset.eng with cmds := [strayGet] } }
  { State.reset with ev := .getResponse 1 0, units := State.reset.units.set 0 u, work := { State.reset.work with xfers := [strayXfer] } }

theorem strayS_arrived : strayS.arrived 1 = some (strayXfer, strayGet) := by decide +kernel
theorem strayS_own : strayS.ownOk strayXfer.who = true := by decide +kernel
theorem strayS_ahead : strayS.copyBehind strayGet strayXfer.k = false := by decide +kernel
theorem strayS_cmd : (strayS.unit strayXfer.from_).cmd? strayGet.id = some strayGet := by decide +kernel
/-- The block is written by the unit of column 1: unit 0 has nothing pending. -/
theorem strayS_pend : (match exec .getResponse strayS with | .next t => (t.unit strayXfer.from_).pend.length | _ => 1) = 0 := by decide +kernel

/-- Refutes O55: a get's block that is back is written by the unit that its command names as issuer, and nothing in the clause says that this is the unit that holds the command. -/
theorem not_pathEvents : ¬ Obligations.PathEvents := by
  intro h
  obtain ⟨-, -, -, -, -, -, -, -, -, -, -, hget, -⟩ := h strayS
  obtain ⟨-, -, -, hback⟩ := hget 1 0 rfl
  obtain ⟨t, ht, -, hp⟩ := hback strayXfer strayGet strayS_arrived strayS_own strayS_ahead rfl
  have hp := congrArg List.length (hp .sp 0 rfl strayS_cmd rfl rfl)
  have h0 := strayS_pend
  rw [ht] at h0
  rw [List.length_append] at hp
  dsimp only at h0
  rw [h0] at hp
  simp at hp

end Sys2Proof.Machine

/-! PROOF. The host's commands, loans and snapshots (R271, R372, R410 to R421, R424). -/
namespace Sys2Proof.Machine

section
variable {s : State} {c : Col}

/-! ## Commands of the session (R418) -/

theorem perform_managed (a : Act) (s : State) : perform (managed a) s = if s.pkg.session then perform a s else s := by
  simp only [perform, managed]
  split <;> rfl
theorem perform_managed_open {a : Act} (h : s.pkg.session = true) : perform (managed a) s = perform a s := by rw [perform_managed, if_pos h]

theorem execManagementSession_next {a : Bool} (he : s.ev = .managementSession a) : execManagementSession s = .next { s with pkg := { s.pkg with session := a && s.pkg.ready } } := by
  have e : execManagementSession s = done (onPkg (fun p => { p with session := a && p.ready })) s := by simp only [execManagementSession, he]
  rw [e]; rfl
theorem execPlim_next {w : Nat} (he : s.ev = .plim w) :
    execPlim s = .next (if s.pkg.session then { s with pkg := { s.pkg with plim := min 3200 (max 1000 w) } } else s) := by
  have e : execPlim s = done (managed (onPkg (fun p => { p with plim := min 3200 (max 1000 w) }))) s := by simp only [execPlim, he]
  rw [e, done, perform_managed]; rfl
theorem execDieDrain_next {d : Die} {on : Bool} (he : s.ev = .dieDrain d on) :
    execDieDrain s = .next (if s.pkg.session then { s with dies := s.dies.set d { s.dies[d] with drains := on } } else s) := by
  have e : execDieDrain s = done (managed (onDie d (fun x => { x with drains := on }))) s := by simp only [execDieDrain, he]
  rw [e, done, perform_managed]; rfl
theorem execAttestationReport_next {d : Die} {num : BitVec 16} {n : Nat} (he : s.ev = .attestationReport d num n) :
    let tenant := ((s.part num).map (fun p => p.tenant)).getD 0
    execAttestationReport s = .next (if s.pkg.session then { s with outbox := s.outbox ++ [.attestation {
      identity := Config.identity, image := Config.imageHash, dielist := s.pkg.dielist, part := num, tenant := tenant, nonce := n
      sig := Config.sign d ([Config.identity, Config.imageHash, s.pkg.dielist.length] ++ s.pkg.dielist.map (fun e => e.val) ++ [num.toNat, tenant, n]) }] } else s) := by
  intro tenant
  have e : execAttestationReport s = done (managed (report (.attestation {
      identity := Config.identity, image := Config.imageHash, dielist := s.pkg.dielist, part := num, tenant := tenant, nonce := n
      sig := Config.sign d ([Config.identity, Config.imageHash, s.pkg.dielist.length] ++ s.pkg.dielist.map (fun e => e.val) ++ [num.toNat, tenant, n]) }))) s := by
    simp only [execAttestationReport, he]; rfl
  rw [e, done, perform_managed]; rfl
theorem execSnapshotReserve_next {job : Dword} {e : Extent} {r : List (Col × Nat)} (he : s.ev = .snapshotReserve job e r) (h : s.pkg.session = true) :
    execSnapshotReserve s = .next { s with work := { s.work with jobs := s.work.jobs.map (fun j => if j.handle == job then { j with reserves := j.reserves ++ [(e, r)] } else j) } } := by
  have e : execSnapshotReserve s = done (managed (onJob job (fun j => { j with reserves := j.reserves ++ [(e, r)] }))) s := by simp only [execSnapshotReserve, he]
  rw [e, done, perform_managed_open h]; rfl
theorem execSnapshotStoragePath_next {job : Dword} {p : Nat} (he : s.ev = .snapshotStoragePath job p) (h : s.pkg.session = true) :
    execSnapshotStoragePath s = .next { s with work := { s.work with jobs := s.work.jobs.map (fun j => if j.handle == job then { j with storage := some p } else j) } } := by
  have e : execSnapshotStoragePath s = done (managed (onJob job (fun j => { j with storage := some p }))) s := by simp only [execSnapshotStoragePath, he]
  rw [e, done, perform_managed_open h]; rfl

/-! ## What an action does to one vault after another -/

/-- One change of every vault of a list leaves each of them changed once, and the others as they were. -/
theorem each_onVault_vault {f : VaultSt → VaultSt} : ∀ {cs : List Col}, cs.Nodup → ∀ (s : State) (d : Col),
    (perform (Act.each cs (fun c => onVault c f)) s).vault d = if d ∈ cs then f (s.vault d) else s.vault d := by
  intro cs
  induction cs with
  | nil => intro _ s d; simp
  | cons c cs ih =>
    intro h s d
    obtain ⟨hc, hn⟩ := List.nodup_cons.mp h
    rw [perform_each_cons, ih hn, perform_onVault]
    by_cases hd : d = c
    · subst hd
      rw [if_neg hc, if_pos (by simp), vault_set_same]
    · rw [vault_set_other _ _ hd]
      simp [hd]
theorem allCols_nodup : allCols.Nodup := List.nodup_finRange 512
theorem execLattol_next {n : BitVec 32} (he : s.ev = .lattol n) :
    ∃ t, execLattol s = .next t ∧ t.pkg = { s.pkg with lattol := n } ∧ t.mems = s.mems ∧ t.units = s.units ∧ t.work = s.work ∧
      ∀ d, t.vault d = (if n.toNat < (s.vault d).exitNs then { s.vault d with idle := none } else s.vault d) := by
  let cs := allCols.filter (fun c => decide (n.toNat < (s.vault c).exitNs))
  have e : execLattol s = done (Act.seq (onPkg (fun p => { p with lattol := n })) (Act.each cs (fun c => onVault c (fun v => { v with idle := none })))) s := by
    simp only [execLattol, he]; rfl
  have only : (Act.each cs (fun c => onVault c (fun v => { v with idle := none }))).Only [.vaults] := only_each fun _ _ => only_onVault _ _ (by simp)
  rw [e, done, perform_seq]
  refine ⟨_, rfl, only.pkg (by simp) _, only.mems (by simp) _, only.units (by simp) _, only.work (by simp) _, fun d => ?_⟩
  rw [each_onVault_vault (List.Nodup.filter _ allCols_nodup)]
  simp only [List.mem_filter, decide_eq_true_eq, mem_allCols, true_and]
  rfl

/-! ## BAR2 (R416) -/

/-- The columns that an access wakes, each once. -/
def wokenBy (l : List Col) : List Col := l.foldl (fun l c => if l.contains c then l else l ++ [c]) []
theorem mem_foldl_new {l acc : List Col} {c : Col} : c ∈ l.foldl (fun l c => if l.contains c then l else l ++ [c]) acc ↔ c ∈ acc ∨ c ∈ l := by
  induction l generalizing acc with
  | nil => simp
  | cons x l ih =>
    rw [List.foldl_cons, ih]
    by_cases h : acc.contains x = true
    · have hx : x ∈ acc := List.contains_iff_mem.mp h
      rw [if_pos h, List.mem_cons]
      exact ⟨fun k => k.imp_right .inr, fun k => by rcases k with k | rfl | k; exacts [.inl k, .inl hx, .inr k]⟩
    · rw [if_neg h]
      simp only [List.mem_append, List.mem_cons, List.not_mem_nil, or_false, or_assoc]
theorem mem_wokenBy {l : List Col} {c : Col} (h : c ∈ l) : c ∈ wokenBy l := mem_foldl_new.mpr (.inr h)
theorem idleFrom_idle (s : State) (c d : Col) : ((perform (idleFrom c) s).vault d).idle = if d = c then none else (s.vault d).idle := by
  by_cases h : d = c
  · subst h
    rw [if_pos rfl]
    exact congrArg VaultSt.idle (vault_set_same ..)
  · rw [if_neg h]
    exact congrArg VaultSt.idle (vault_set_other _ _ h)
theorem each_idleFrom_idle {cs : List Col} {d : Col} : ∀ (s : State), d ∈ cs ∨ (s.vault d).idle = none → ((perform (Act.each cs idleFrom) s).vault d).idle = none := by
  induction cs with
  | nil => intro s h; simpa using h
  | cons c cs ih =>
    intro s h
    rw [perform_each_cons]
    refine ih _ ?_
    rw [idleFrom_idle]
    rcases h with h | h
    · rcases List.mem_cons.mp h with rfl | h
      · exact .inr (if_pos rfl)
      · exact .inl h
    · exact .inr (by split <;> simp [h])
theorem only_wake (cs : List Col) : (Act.each cs idleFrom).Only [.vaults] := only_each fun _ _ => only_idleFrom _ (by simp)

/-- The bytes of the window that an access names. -/
def barOffs (off : Nat) (bytes : List Byte) : List Nat := (List.range bytes.length).map (fun i => off + i)
def barWrites (off : Nat) (bytes : List Byte) : Act := fun _ => ((barOffs off bytes).zip bytes).map (fun x => Upd.mem (barCol x.1) .vault [byteWrite (x.1 % 2 ^ 29) x.2])
theorem barServed_all {off : Nat} {bytes : List Byte} : (barOffs off bytes).all (fun o => s.barServed (barCol o)) = true ↔ ∀ i, i < bytes.length → s.barServed (barCol (off + i)) = true := by
  simp [barOffs, List.all_eq_true]
theorem mem_woken {off i : Nat} {bytes : List Byte} (h : i < bytes.length) : barCol (off + i) ∈ wokenBy ((barOffs off bytes).map barCol) :=
  mem_wokenBy (List.mem_map.mpr ⟨off + i, by simpa [barOffs] using h, rfl⟩)

section
variable {w : Bool} {off : Nat} {bytes : List Byte} (he : s.ev = .hostBar2Access w off bytes)
include he
theorem execHostBar2Access_outside (h : 2 ^ 38 < off + bytes.length) : execHostBar2Access s = .fault .outsideBar2 := by
  simp only [execHostBar2Access, he]
  exact if_pos h
theorem execHostBar2Access_aborted (h : off + bytes.length ≤ 2 ^ 38) (hs : ∃ i, i < bytes.length ∧ s.barServed (barCol (off + i)) = false) :
    execHostBar2Access s = .next { s with outbox := s.outbox ++ [.bar2Abort] } := by
  have hall : (!(barOffs off bytes).all (fun o => s.barServed (barCol o))) = true := by
    rw [Bool.not_eq_true', ← Bool.not_eq_true, barServed_all]
    obtain ⟨i, hi, hb⟩ := hs
    exact fun h => by simp [h i hi] at hb
  have e : execHostBar2Access s = done (report .bar2Abort) s := by
    simp only [execHostBar2Access, he]
    exact (if_neg (Nat.not_lt.mpr h)).trans (if_pos hall)
  rw [e]; rfl
variable (h : off + bytes.length ≤ 2 ^ 38) (hs : ∀ i, i < bytes.length → s.barServed (barCol (off + i)) = true)
include h hs
theorem execHostBar2Access_served : execHostBar2Access s =
    if w then done (Act.seq (Act.each (wokenBy ((barOffs off bytes).map barCol)) idleFrom) (barWrites off bytes)) s
    else done (Act.seq (Act.each (wokenBy ((barOffs off bytes).map barCol)) idleFrom)
      (report (.bar2Read ((barOffs off bytes).map (fun o => (s.mem (barCol o) .vault).byte (o % 2 ^ 29)))))) s := by
  have hall : ¬(!(barOffs off bytes).all (fun o => s.barServed (barCol o))) = true := by
    rw [barServed_all.mpr hs]; exact Bool.false_ne_true
  simp only [execHostBar2Access, he]
  exact (if_neg (Nat.not_lt.mpr h)).trans (if_neg hall)
end
theorem execHostBar2Access_read {off : Nat} {bytes : List Byte} (he : s.ev = .hostBar2Access false off bytes) (h : off + bytes.length ≤ 2 ^ 38)
    (hs : ∀ i, i < bytes.length → s.barServed (barCol (off + i)) = true) :
    ∃ t, execHostBar2Access s = .next t ∧ t.mems = s.mems ∧ (∀ i, i < bytes.length → (t.vault (barCol (off + i))).idle = none) ∧
      t.outbox = s.outbox ++ [.bar2Read ((List.range bytes.length).map (fun i => (s.mem (barCol (off + i)) .vault).byte ((off + i) % 2 ^ 29)))] := by
  rw [execHostBar2Access_served he h hs, if_neg Bool.false_ne_true, done, perform_seq, perform_report]
  have only := only_wake (wokenBy ((barOffs off bytes).map barCol))
  refine ⟨_, rfl, only.mems (by simp) s, fun i hi => each_idleFrom_idle s (.inl (mem_woken hi)), ?_⟩
  have e : (barOffs off bytes).map (fun o => (s.mem (barCol o) .vault).byte (o % 2 ^ 29)) = (List.range bytes.length).map (fun i => (s.mem (barCol (off + i)) .vault).byte ((off + i) % 2 ^ 29)) := List.map_map
  rw [← e]
  exact congrArg (· ++ _) (only.outbox (by simp) s)

/-- The bytes that the writes of an access leave at a place of a vault. -/
theorem only_barWrites (off : Nat) (bytes : List Byte) : (barWrites off bytes).Only [.mems] := fun s u hu => by
  obtain ⟨x, -, rfl⟩ := List.mem_map.mp hu
  simp [Upd.piece]
/-- Byte i of a word that is a byte moved k bytes up. -/
theorem payByte_shifted {x i k : Nat} (hx : x < 256) (hk : k < 64) : payByte (BitVec.ofNat 512 (x * 2 ^ (8 * k))) i = if i = k then BitVec.ofNat 8 x else 0 := by
  have hbig : x * 2 ^ (8 * k) < 2 ^ 512 :=
    calc x * 2 ^ (8 * k) < 2 ^ 8 * 2 ^ (8 * k) := Nat.mul_lt_mul_of_pos_right (by omega) (by positivity)
      _ = 2 ^ (8 + 8 * k) := (Nat.pow_add ..).symm
      _ ≤ 2 ^ 512 := Nat.pow_le_pow_right (by omega) (by omega)
  refine BitVec.eq_of_toNat_eq ?_
  rw [payByte, BitVec.extractLsb'_toNat, BitVec.toNat_ofNat, Nat.mod_eq_of_lt hbig, Nat.shiftRight_eq_div_pow]
  rcases Nat.lt_trichotomy i k with h | rfl | h
  · have e : x * 2 ^ (8 * k) = x * 2 ^ (8 * (k - i) - 8) * 2 ^ 8 * 2 ^ (8 * i) := by
      rw [Nat.mul_assoc, Nat.mul_assoc, ← Nat.pow_add, ← Nat.pow_add]
      congr 2
      omega
    rw [e, Nat.mul_div_cancel _ (by positivity), Nat.mul_mod_left, if_neg (by omega)]
    rfl
  · rw [Nat.mul_div_cancel _ (by positivity), if_pos rfl, BitVec.toNat_ofNat]
  · have hlt : x * 2 ^ (8 * k) < 2 ^ (8 * i) :=
      calc x * 2 ^ (8 * k) < 2 ^ 8 * 2 ^ (8 * k) := Nat.mul_lt_mul_of_pos_right (by omega) (by positivity)
        _ = 2 ^ (8 + 8 * k) := (Nat.pow_add ..).symm
        _ ≤ 2 ^ (8 * i) := Nat.pow_le_pow_right (by omega) (by omega)
    rw [Nat.div_eq_of_lt hlt, if_neg (by omega)]
    rfl
theorem byteWrite_byte {m : Memory} (hm : m.wf = true) (pa a : Nat) (v : Byte) :
    (m.write (byteWrite pa v).1 (byteWrite pa v).2).byte a = if a = pa then v else m.byte a := by
  have hmask : ∀ i, payByte (byteWrite pa v).2.mask i = if i = pa % 64 then BitVec.allOnes 8 else 0 := fun i =>
    payByte_shifted (x := 255) (by omega) (Nat.mod_lt _ (by omega))
  have hdata : ∀ i, payByte (byteWrite pa v).2.data i = if i = pa % 64 then v else 0 := fun i => by
    have hv : v.toNat % 2 ^ (8 * 1) = v.toNat := Nat.mod_eq_of_lt v.isLt
    have h := payByte_shifted (x := v.toNat) (i := i) v.isLt (Nat.mod_lt pa (show 0 < 64 by omega))
    rw [BitVec.ofNat_toNat, BitVec.setWidth_eq, ← hv] at h
    exact h
  have keep : ∀ x : Byte, x &&& 255#8 = x := fun _ => BitVec.and_allOnes
  by_cases hin : a / 64 = pa / 64
  · have ha : a = 64 * (pa / 64) + a % 64 := by omega
    have h := Memory.byte_write_in (b := pa / 64) (byteWrite pa v).2 hm (Nat.mod_lt a (show 0 < 64 by omega))
    rw [← ha, hmask, hdata] at h
    refine h.trans ?_
    by_cases hi : a % 64 = pa % 64
    · rw [if_pos hi, if_pos hi, if_pos (by omega)]
      simp [keep]
    · rw [if_neg hi, if_neg hi, if_neg (fun h => hi (by rw [h]))]
      simp [keep]
  · rw [if_neg (fun h => hin (by rw [h]))]
    exact Memory.byte_write_out (b := pa / 64) _ hm (by omega)

/-- The writes of single bytes at places of vaults, one after another. -/
def putBytes (l : List ((Col × Nat) × Byte)) : List Upd := l.map (fun x => Upd.mem x.1.1 .vault [byteWrite x.1.2 x.2])
theorem run_putBytes_cons (x : (Col × Nat) × Byte) (l : List ((Col × Nat) × Byte)) (s : State) :
    run (putBytes (x :: l)) s = run (putBytes l) (Upd.apply (.mem x.1.1 .vault [byteWrite x.1.2 x.2]) s) := rfl
theorem Mems.get_set_other (x : Mems) {m n : Mem} (v : Memory) (h : n ≠ m) : (x.set m v).get n = x.get n := by
  cases n <;> cases m <;> simp_all [Mems.set, Mems.get]
theorem Mems.get_set_same (x : Mems) (m : Mem) (v : Memory) : (x.set m v).get m = v := by cases m <;> rfl
theorem mem_apply_writes (s : State) (c d : Col) (m n : Mem) (ws : List (Nat × BlkWrite)) :
    (Upd.apply (.mem c m ws) s).mem d n = if d = c ∧ n = m then (s.mem c m).writes ws else s.mem d n := by
  by_cases hd : d = c
  · subst hd
    refine (mem_set_same s d _ n).trans ?_
    by_cases hn : n = m
    · subst hn
      rw [if_pos ⟨rfl, rfl⟩, Mems.get_set_same]; rfl
    · rw [if_neg (fun h => hn h.2), Mems.get_set_other _ _ hn]; rfl
  · rw [if_neg (fun h => hd h.1)]
    exact congrArg (Mems.get · n) (vget_set_other _ _ _ _ hd)
theorem writes_one (m : Memory) (w : Nat × BlkWrite) : m.writes [w] = m.write w.1 w.2 := rfl
theorem mem_wf (h : s.memWf) (c : Col) (m : Mem) : (s.mem c m).wf = true := by
  have hw := h.1 c
  simp only [Mems.wf, Bool.and_eq_true] at hw
  cases m <;> simp_all [State.mem, Mems.get]

/-- A byte that none of the writes names stays. -/
theorem putBytes_other {l : List ((Col × Nat) × Byte)} {p : Col × Nat} (h : ∀ x ∈ l, x.1 ≠ p) (hw : s.memWf) :
    ((run (putBytes l) s).mem p.1 .vault).byte p.2 = (s.mem p.1 .vault).byte p.2 := by
  induction l generalizing s with
  | nil => rfl
  | cons x l ih =>
    rw [run_putBytes_cons, ih (fun y hy => h y (List.mem_cons_of_mem _ hy)) (Upd.apply_memWf _ hw), mem_apply_writes]
    by_cases hd : p.1 = x.1.1
    · rw [if_pos ⟨hd, rfl⟩, hd, writes_one, byteWrite_byte (mem_wf hw _ _)]
      exact if_neg (fun ha => h x List.mem_cons_self (Prod.ext hd.symm ha.symm))
    · rw [if_neg (fun k => hd k.1)]
/-- Each byte is written where it belongs. -/
theorem putBytes_byte {l : List ((Col × Nat) × Byte)} (h : l.Pairwise (fun x y => x.1 ≠ y.1)) (hw : s.memWf) {x : (Col × Nat) × Byte} (hx : x ∈ l) :
    ((run (putBytes l) s).mem x.1.1 .vault).byte x.1.2 = x.2 := by
  induction l generalizing s with
  | nil => cases hx
  | cons y l ih =>
    obtain ⟨hy, hl⟩ := List.pairwise_cons.mp h
    rw [run_putBytes_cons]
    rcases List.mem_cons.mp hx with rfl | hx
    · rw [putBytes_other (fun z hz => (hy z hz).symm) (Upd.apply_memWf _ hw), mem_apply_writes, if_pos ⟨rfl, rfl⟩, writes_one, byteWrite_byte (mem_wf hw _ _), if_pos rfl]
    · exact ih hl (Upd.apply_memWf _ hw) hx
/-- The byte of a vault that an offset of the window names. -/
def barPlace (o : Nat) : Col × Nat := (barCol o, o % 2 ^ 29)
/-- Two offsets in the window name two bytes. -/
theorem barPlace_injective {x y : Nat} (hx : x < 2 ^ 38) (hy : y < 2 ^ 38) (h : x ≠ y) : barPlace x ≠ barPlace y := by
  intro hn
  have hc : x / 2 ^ 29 % 512 = y / 2 ^ 29 % 512 := congrArg (fun p => (Prod.fst p).val) hn
  have ho : x % 2 ^ 29 = y % 2 ^ 29 := congrArg Prod.snd hn
  omega
/-- The bytes that an access writes, each with its place. -/
def barBytes (off : Nat) (bytes : List Byte) : List ((Col × Nat) × Byte) := (List.range bytes.length).map (fun i => (barPlace (off + i), bytes.getD i 0))
theorem barWrites_eq (off : Nat) (bytes : List Byte) (s : State) : barWrites off bytes s = putBytes (barBytes off bytes) := by
  have h : (barOffs off bytes).zip bytes = (List.range bytes.length).map (fun i => (off + i, bytes.getD i 0)) := by
    refine List.ext_getElem (by simp [barOffs]) fun i h1 h2 => ?_
    have hi : i < bytes.length := by simpa using h2
    simp [barOffs, hi]
  rw [barWrites, h, putBytes, barBytes, List.map_map, List.map_map]
  rfl
theorem barBytes_apart {off : Nat} {bytes : List Byte} (h : off + bytes.length ≤ 2 ^ 38) : (barBytes off bytes).Pairwise (fun x y => x.1 ≠ y.1) := by
  rw [barBytes, List.pairwise_map]
  refine List.Pairwise.imp_of_mem (fun hi hj hij => ?_) (List.pairwise_lt_range (n := bytes.length))
  rw [List.mem_range] at hi hj
  exact barPlace_injective (by omega) (by omega) (by omega)
theorem execHostBar2Access_write {off : Nat} {bytes : List Byte} (he : s.ev = .hostBar2Access true off bytes) (h : off + bytes.length ≤ 2 ^ 38)
    (hs : ∀ i, i < bytes.length → s.barServed (barCol (off + i)) = true) :
    ∃ t r, execHostBar2Access s = .next t ∧ t = run (putBytes (barBytes off bytes)) r ∧ t.outbox = s.outbox ∧ r.mems = s.mems ∧ r.ext = s.ext ∧
      (∀ i, i < bytes.length → (t.vault (barCol (off + i))).idle = none) := by
  rw [execHostBar2Access_served he h hs, if_pos rfl, done, perform_seq]
  have only := only_wake (wokenBy ((barOffs off bytes).map barCol))
  have writes := only_barWrites off bytes
  refine ⟨_, perform (Act.each (wokenBy ((barOffs off bytes).map barCol)) idleFrom) s, rfl, by rw [perform, barWrites_eq], ?_, only.mems (by simp) s, only.ext (by simp) s, fun i hi => ?_⟩
  · exact (writes.outbox (by simp) _).trans (only.outbox (by simp) s)
  · exact (congrArg VaultSt.idle ((writes.vaults (by simp)).vault _ _)).trans (each_idleFrom_idle s (.inl (mem_woken hi)))
theorem execHostBar2Access_one {off : Nat} {b : Byte} (he : s.ev = .hostBar2Access true off [b]) (h : off + 1 ≤ 2 ^ 38) (hs : s.barServed (barCol off) = true) :
    ∃ t, execHostBar2Access s = .next t ∧ t.outbox = s.outbox ∧ (t.vault (barCol off)).idle = none ∧
      t.mem (barCol off) .vault = (s.mem (barCol off) .vault).write (off % 2 ^ 29 / 64) (bytesWrite (off % 2 ^ 29 % 64) 1 b.toNat) := by
  obtain ⟨t, r, e, ht, ho, hm, -, hi⟩ := execHostBar2Access_write he h (fun i hi => by obtain rfl : i = 0 := Nat.lt_one_iff.mp hi; exact hs)
  refine ⟨t, e, ho, hi 0 Nat.one_pos, ?_⟩
  have hone : barBytes off [b] = [(barPlace off, b)] := rfl
  rw [ht, hone, run_putBytes_cons]
  refine (mem_apply_writes ..).trans ((if_pos ⟨rfl, rfl⟩).trans ?_)
  rw [writes_one, State.mem, hm, byteWrite]; rfl
theorem execHostBar2Access_bytes {off : Nat} {bytes : List Byte} (hw : s.memWf) (he : s.ev = .hostBar2Access true off bytes) (h : off + bytes.length ≤ 2 ^ 38)
    (hs : ∀ i, i < bytes.length → s.barServed (barCol (off + i)) = true) :
    ∃ t, execHostBar2Access s = .next t ∧ t.outbox = s.outbox ∧ (∀ i, i < bytes.length → (t.mem (barCol (off + i)) .vault).byte ((off + i) % 2 ^ 29) = bytes.getD i 0) ∧
      ∀ d a, (∀ i, i < bytes.length → barCol (off + i) ≠ d ∨ (off + i) % 2 ^ 29 ≠ a) → (t.mem d .vault).byte a = (s.mem d .vault).byte a := by
  obtain ⟨t, r, e, ht, ho, hm, hx, -⟩ := execHostBar2Access_write he h hs
  have hwr : r.memWf := ⟨fun c => by rw [hm]; exact hw.1 c, by rw [hx]; exact hw.2⟩
  refine ⟨t, e, ho, fun i hi => ?_, fun d a ha => ?_⟩
  · rw [ht]
    exact putBytes_byte (barBytes_apart h) hwr (x := (barPlace (off + i), bytes.getD i 0)) (List.mem_map.mpr ⟨i, List.mem_range.mpr hi, rfl⟩)
  · have hne : ∀ x ∈ barBytes off bytes, x.1 ≠ (d, a) := fun x hx => by
      obtain ⟨i, hi, rfl⟩ := List.mem_map.mp hx
      intro hn
      exact (ha i (List.mem_range.mp hi)).elim (fun k => k (congrArg Prod.fst hn)) (fun k => k (congrArg Prod.snd hn))
    have hkeep := putBytes_other (p := (d, a)) hne hwr
    rw [ht]
    refine hkeep.trans ?_
    rw [State.mem, hm]; rfl

/-! ## The host release (R419) -/

section
variable {job addr v : Dword} {j : Job} {p : Place} (he : s.ev = .hostRelease job addr v) (hj : s.job job = some j) (hp : s.jobPlace j (offOf addr) = some p)
include he hj hp
theorem execHostRelease_eq : execHostRelease s = done (managed (Act.when (p.ext.w && s.releasable p addr) (setJobWord j addr 0 v))) s := by
  simp only [execHostRelease, he, hj, hp]
theorem execHostRelease_served (h : s.pkg.session = true) (hw : p.ext.w = true) (ha : addr.toNat % 8 = 0) (ht : tagOf addr = 0)
    (hl : p.isLoan = true ∨ (s.vault p.col).isLive (p.pa / 64) = false) (hpo : (s.placeBlk p).poisoned = false) :
    execHostRelease s = .next (perform (setJobWord j addr 0 v) s) := by
  have hr : s.releasable p addr = true := by
    simp only [State.releasable, ha, ht, hpo, beq_self_eq_true, Bool.true_and, Bool.not_false, Bool.and_true]
    rcases hl with h | h <;> simp [h]
  rw [execHostRelease_eq he hj hp, done, perform_managed_open h, hw, hr]
  rfl
theorem execHostRelease_refused (h : s.pkg.session = false ∨ p.ext.w = false ∨ addr.toNat % 8 ≠ 0 ∨ tagOf addr ≠ 0 ∨ (p.isLoan = false ∧ (s.vault p.col).isLive (p.pa / 64) = true) ∨
    (s.placeBlk p).poisoned = true) : execHostRelease s = .next s := by
  rw [execHostRelease_eq he hj hp, done, perform_managed]
  by_cases hs : s.pkg.session = true
  · have hr : (p.ext.w && s.releasable p addr) = false := by
      simp only [State.releasable]
      rcases h with h | h | h | h | ⟨h, k⟩ | h
      · exact absurd hs (by simp [h])
      · simp [h]
      · simp [h]
      · simp [h]
      · simp [h, k]
      · simp [h]
    rw [if_pos hs, hr]; rfl
  · rw [if_neg hs]
end
theorem job_handle {job : Dword} {j : Job} (h : s.job job = some j) : j.handle = job := by
  simpa using List.find?_some h
theorem setJobWord_place {j : Job} {addr v : Dword} {p : Place} (hp : s.jobPlace j (offOf addr) = some p) (hc : p.ext.cow = false ∨ ∀ n ∈ s.work.snaps, n.job ≠ j.handle) :
    setJobWord j addr 0 v s = writePlace p (bytesWrite (offOf addr % 64) 8 v.toNat) s := by
  have hsave : ∀ w, saveFor j p w s = [] := fun w => by
    unfold saveFor
    rcases hc with h | h
    · split
      · exact if_pos (by simp [h])
      · rfl
    · rw [List.find?_eq_none.mpr fun n hn => by simpa using h n hn]
  simp only [setJobWord, Nat.mul_zero, Nat.add_zero, hp, Act.seq, hsave, List.nil_append]
  rfl
/-- A word written at a place in the package changes its vault alone. -/
theorem writePlace_vault {p : Place} (w : BlkWrite) (h : p.isLoan = false) :
    let t := perform (writePlace p w) s
    t.units = s.units ∧ t.ext = s.ext ∧ (∀ d m, d ≠ p.col ∨ m ≠ .vault → t.mem d m = s.mem d m) ∧ t.mem p.col .vault = (s.mem p.col .vault).write (p.pa / 64) w := by
  intro t
  have e : t = Upd.apply (.mem p.col .vault [(p.pa / 64, w)]) (Upd.apply (.vault p.col (if p.isCopy then (s.vault p.col).addDirty (p.pa / 64) else s.vault p.col)) s) := by
    simp only [t, perform, writePlace, h]; rfl
  rw [e]
  refine ⟨rfl, rfl, fun d m hd => ?_, ?_⟩
  · rw [mem_apply_writes, if_neg (fun k => hd.elim (fun n => n k.1) (fun n => n k.2))]; rfl
  · rw [mem_apply_writes, if_pos ⟨rfl, rfl⟩, writes_one]; rfl

/-! ## Loans (R415) -/

theorem execLoanGrant_next {page pages pkg : Nat} (he : s.ev = .loanGrant c page pages pkg) (h : s.pkg.session = true) (hc : s.partOf c = none) (hd : s.pkg.dielist.contains (dieOf c) = true)
    (hp : 0 < pages) (hb : page + pages ≤ 2 ^ 17) (hl : ∀ l ∈ s.work.loans, l.col = c → l.page + l.pages ≤ page ∨ page + pages ≤ l.page) :
    execLoanGrant s = .next { s with work := { s.work with loans := s.work.loans ++ [{ col := c, page := page, pages := pages, pkg := pkg, recalled := none }] } } := by
  have hfree : s.work.loans.any (fun l => l.col == c && l.page < page + pages && page < l.page + l.pages) = false := by
    rw [List.any_eq_false]
    intro l hm
    have := hl l hm
    simp only [Bool.and_eq_true, beq_iff_eq, decide_eq_true_eq]
    rintro ⟨⟨rfl, h1⟩, h2⟩
    exact absurd (this rfl) (by omega)
  have hok : ((s.partOf c).isNone && s.pkg.dielist.contains (dieOf c) && decide (0 < pages) && decide (page + pages ≤ 2 ^ 17) &&
      !s.work.loans.any (fun l => l.col == c && l.page < page + pages && page < l.page + l.pages)) = true := by
    rw [hc, hd, hfree, decide_eq_true hp, decide_eq_true hb]; rfl
  have e : execLoanGrant s = done (managed (Act.when true (onWork (fun w => { w with loans := w.loans ++ [{ col := c, page := page, pages := pages, pkg := pkg, recalled := none }] })))) s := by
    rw [← hok]
    simp only [execLoanGrant, he]
  rw [e, done, perform_managed_open h]
  rfl
theorem execLoanRecall_asked {page : Nat} {l : Loan} (he : s.ev = .loanRecall c page) (h : s.pkg.session = true) (hl : s.work.loans.find? (fun l => l.col == c && l.page == page) = some l)
    (hr : l.recalled = none) : execLoanRecall s = .next { s with
      work := { s.work with loans := s.work.loans.map (fun x => if x.col == c && x.page == page then { x with recalled := some (s.tick + 32 * l.pages) } else x) }
      timers := s.timers ++ [{ part := none, at_ := ((s.tick + 32 * l.pages : Nat) : Int), ev := .loanRecall c page }] } := by
  have e : execLoanRecall s = done (managed (Act.seq (onWork (fun w => { w with loans := w.loans.map (fun (x : Loan) => if x.col == c && x.page == page then { x with recalled := some (s.tick + 32 * l.pages) } else x) }))
      (eventTick (s.tick + 32 * l.pages : Nat) (.loanRecall c page)))) s := by
    simp only [execLoanRecall, he, hl, hr]
  rw [e, done, perform_managed_open h, perform_seq]
  rfl
theorem execLoanRecall_over {page x : Nat} {l : Loan} (he : s.ev = .loanRecall c page) (hl : s.work.loans.find? (fun l => l.col == c && l.page == page) = some l)
    (hr : l.recalled = some x) (hx : x ≤ s.tick) :
    ∃ t, execLoanRecall s = .next t ∧ t.work.loans = s.work.loans.filter (fun x => !(x.col == c && x.page == page)) ∧
      t.mem c .vault = (s.mem c .vault).writes ((List.range (64 * l.pages)).map (fun i => (64 * page + i, Blk.clear.whole))) := by
  have e : execLoanRecall s = done (Act.all [clearPages c page l.pages, onWork (fun w => { w with loans := w.loans.filter (fun x => !(x.col == c && x.page == page)) }), idleFrom c]) s := by
    simp only [execLoanRecall, he, hl, hr]
    exact if_neg (Nat.not_lt.mpr hx)
  have hidle := only_idleFrom c (ps := [.vaults]) (by simp)
  rw [e, done, perform_all_cons, perform_all_cons, perform_all_cons, perform_all_nil]
  refine ⟨_, rfl, ?_, ?_⟩
  · rw [hidle.work (by simp)]; rfl
  · rw [(hidle.mems (by simp)).mem]
    refine (mem_apply_writes s c c .vault .vault _).trans ((if_pos ⟨rfl, rfl⟩).trans ?_)
    rw [List.map_map]; rfl
theorem execIncomingPut_lent {blk : Nat} {bytes : List (Fin 64 × Byte)} {head : Option (Byte × Byte)} (he : s.ev = .loanWrite c blk bytes head) (h : s.lent c blk = true) :
    ∃ t, execIncomingPut s = .next t ∧ t.mem c .vault = (s.mem c .vault).write blk (loanBytes bytes head) ∧ t.outbox = s.outbox ∧ (∀ d m, d ≠ c ∨ m ≠ .vault → t.mem d m = s.mem d m) := by
  have e : execIncomingPut s = .next (Upd.apply (.mem c .vault [(blk, loanBytes bytes head)]) s) := by
    simp only [execIncomingPut, he, h]; rfl
  refine ⟨_, e, ?_, rfl, fun d m hd => ?_⟩
  · rw [mem_apply_writes, if_pos ⟨rfl, rfl⟩, writes_one]
  · rw [mem_apply_writes, if_neg (fun k => hd.elim (fun n => n k.1) (fun n => n k.2))]
theorem execIncomingPut_not_lent {blk : Nat} {bytes : List (Fin 64 × Byte)} {head : Option (Byte × Byte)} (he : s.ev = .loanWrite c blk bytes head) (h : s.lent c blk = false) :
    execIncomingPut s = .next s := by
  simp only [execIncomingPut, he, h]; rfl
theorem execIncomingGet_loan {blk : Nat} (he : s.ev = .loanRead c blk) :
    execIncomingGet s = .next (if s.lent c blk then { s with outbox := s.outbox ++ [.loanRead c blk ((s.mem c .vault).blk blk)] } else s) := by
  have e : execIncomingGet s = done (Act.when (s.lent c blk) (report (.loanRead c blk ((s.mem c .vault).blk blk)))) s := by
    simp only [execIncomingGet, he]
  rw [e]
  cases s.lent c blk <;> rfl

/-! ## Snapshots (R410 to R414) -/

/-- The unit may issue another SNAP. -/
def UnitSt.snapFree (u : UnitSt) : UnitSt := { u with ctl := { u.ctl with snapHeld := false } }
theorem freeSnap_eq (h : HeldSnap) (s : State) : freeSnap h s = Act.seq (onWork (fun w => { w with held := w.held.filter (fun x => x != h) }))
    (if (s.slot h.col).saved.any (fun k => k.launch == h.launch) then
      onSlot h.col (fun x => { x with saved := x.saved.map (fun k => if k.launch == h.launch then { k with unit := k.unit.snapFree } else k) })
    else Act.when ((s.slot h.col).launch == h.launch) (onUnit h.col UnitSt.snapFree)) s := rfl
/-- What holds once a SNAP is no longer held. -/
theorem freeSnap_frees (h : HeldSnap) (s : State) :
    let t := perform (freeSnap h) s
    t.work.held = s.work.held.filter (fun x => x != h) ∧ t.work.snaps = s.work.snaps ∧ t.outbox = s.outbox ∧
      ((s.slot h.col).launch = h.launch → (∀ y ∈ (s.slot h.col).saved, y.launch ≠ h.launch) → (t.unit h.col).ctl.snapHeld = false) ∧
      (∀ y ∈ (s.slot h.col).saved, y.launch = h.launch → t.units = s.units ∧ ∀ z ∈ (t.slot h.col).saved, z.launch = h.launch → z.unit.ctl.snapHeld = false) := by
  intro t
  let w := perform (onWork (fun w => { w with held := w.held.filter (fun x => x != h) })) s
  by_cases hs : (s.slot h.col).saved.any (fun k => k.launch == h.launch) = true
  · have e : t = perform (onSlot h.col (fun x => { x with saved := x.saved.map (fun k => if k.launch == h.launch then { k with unit := k.unit.snapFree } else k) })) w := by
      simp only [t, perform]
      rw [freeSnap_eq, if_pos hs]
      exact perform_seq _ _ s
    rw [e]
    refine ⟨rfl, rfl, rfl, fun _ hn => ?_, fun _ _ _ => ⟨rfl, fun z hz hl => ?_⟩⟩
    · obtain ⟨y, hy, hl⟩ := List.any_eq_true.mp hs
      exact absurd (beq_iff_eq.mp hl) (hn y hy)
    · rw [perform_onSlot, slot_set_same] at hz
      obtain ⟨y, -, rfl⟩ := List.mem_map.mp hz
      by_cases hy : y.launch = h.launch
      · rw [if_pos (beq_iff_eq.mpr hy)]; rfl
      · rw [if_neg (by simpa using hy)] at hl
        exact absurd hl hy
  · have e : t = perform (Act.when ((s.slot h.col).launch == h.launch) (onUnit h.col UnitSt.snapFree)) w := by
      simp only [t, perform]
      rw [freeSnap_eq, if_neg hs]
      exact perform_seq _ _ s
    have only : (Act.when ((s.slot h.col).launch == h.launch) (onUnit h.col UnitSt.snapFree)).Only [.units] := only_when _ (only_onUnit _ _ (by simp))
    rw [e]
    refine ⟨by rw [only.work (by simp)]; rfl, by rw [only.work (by simp)]; rfl, by rw [only.outbox (by simp)]; rfl, fun hl _ => ?_, fun y hy hl => ?_⟩
    · rw [hl, beq_self_eq_true, perform_when_true, perform_onUnit, unit_set_same]; rfl
    · exact absurd (List.any_eq_true (p := fun k : SavedUnit => k.launch == h.launch) |>.mpr ⟨y, hy, beq_iff_eq.mpr hl⟩) hs

section
variable {h : HeldSnap} (he : s.ev = .snapAccept c) (hh : s.work.held.filter (fun x => x.col == c) = [h])
include he hh
theorem execSnapAccept_one : execSnapAccept s = .next (perform (acceptSnap h) s) ∧ h.col = c := by
  have e : execSnapAccept s = done (Act.each (s.work.held.filter (fun x => x.col == c)) acceptSnap) s := by simp only [execSnapAccept, he]
  rw [e, hh, done, perform_each_cons, perform_each_nil]
  have hm : h ∈ s.work.held.filter (fun x => x.col == c) := by rw [hh]; exact List.mem_singleton.mpr rfl
  exact ⟨rfl, by simpa using (List.mem_filter.mp hm).2⟩
variable {j : Job} (hj : s.job h.job = some j)
include hj
theorem execSnapAccept_held {n : Snap} (hn : s.work.snaps.find? (fun n => n.job == h.job) = some n) :
    execSnapAccept s = .next (if n.round = h.round then perform (freeSnap h) s else s) := by
  have e : acceptSnap h s = Act.when (n.round == h.round) (freeSnap h) s := by simp only [acceptSnap, hj, hn]
  rw [(execSnapAccept_one he hh).1, perform, e]
  by_cases hr : n.round = h.round
  · rw [if_pos hr, beq_iff_eq.mpr hr]; rfl
  · rw [if_neg hr, beq_false_of_ne hr]; rfl
variable (hn : s.work.snaps.find? (fun n => n.job == h.job) = none)
include hn
theorem execSnapAccept_discarded (hd : s.roundOver j h.round = true ∨ ∃ e ∈ s.cowExtents h.job, ∀ x ∈ j.reserves, reserveFor x.1 e = false) :
    execSnapAccept s = .next (perform (report (.snapDiscarded h.job h.round)) (perform (freeSnap h) s)) := by
  have hc : (s.roundOver j h.round || (s.cowExtents h.job).any (fun e => !j.reserves.any (fun x => reserveFor x.1 e))) = true := by
    rcases hd with hd | ⟨e, hm, hx⟩
    · rw [hd]; rfl
    · have : j.reserves.any (fun x => reserveFor x.1 e) = false := List.any_eq_false.mpr fun x hm => by simp [hx x hm]
      rw [Bool.or_eq_true, List.any_eq_true]
      exact .inr ⟨e, hm, by rw [this]; rfl⟩
  have e : acceptSnap h s = Act.seq (freeSnap h) (report (.snapDiscarded h.job h.round)) s := by
    simp only [acceptSnap, hj, hn]
    exact if_pos hc
  rw [(execSnapAccept_one he hh).1, perform, e]
  exact congrArg Host.Outcome.next (perform_seq _ _ s)
theorem execSnapAccept_new (ho : s.roundOver j h.round = false) (hb : ¬∃ e ∈ s.cowExtents h.job, ∀ x ∈ j.reserves, reserveFor x.1 e = false) :
    execSnapAccept s = .next (if s.reserveWaits j then s else
      perform (onWork (fun w => { w with snaps := w.snaps ++ [{ job := h.job, round := h.round, opened := false }] })) (perform (freeSnap h) s)) := by
  have hc : ¬(s.roundOver j h.round || (s.cowExtents h.job).any (fun e => !j.reserves.any (fun x => reserveFor x.1 e))) = true := by
    rw [ho, Bool.false_or, List.any_eq_true]
    rintro ⟨e, hm, hx⟩
    refine hb ⟨e, hm, fun x hm => ?_⟩
    rw [Bool.not_eq_true'] at hx
    simpa using List.any_eq_false.mp hx x hm
  have e : acceptSnap h s = if s.reserveWaits j then [] else
      Act.seq (freeSnap h) (onWork (fun w => { w with snaps := w.snaps ++ [{ job := h.job, round := h.round, opened := false }] })) s := by
    simp only [acceptSnap, hj, hn]
    exact if_neg hc
  rw [(execSnapAccept_one he hh).1, perform, e]
  by_cases hw : s.reserveWaits j = true
  · rw [if_pos hw, if_pos hw]; rfl
  · rw [if_neg hw, if_neg hw]
    exact congrArg Host.Outcome.next (perform_seq _ _ s)
end

theorem only_drainExtent (job : Dword) (e : Extent) : (drainExtent job e).Only [.vaults] := fun s => only_each (fun _ _ => fun s => only_onVault _ _ (by simp) s) s
theorem execSnapshotOpen_next {job : Dword} {n : Snap} {j : Job} (he : s.ev = .snapshotOpen job) (hn : s.work.snaps.find? (fun n => n.job == job) = some n) (hj : s.job job = some j)
    (ho : n.opened = false) :
    ∃ t, execSnapshotOpen s = .next t ∧ t.work.snaps = s.work.snaps.map (fun k => if k.job == job then { k with opened := true } else k) ∧ t.mems = s.mems := by
  let drains := Act.each (j.reserves.map (·.1)) (drainExtent job)
  let empty := Act.when (j.reserves.all (fun x => x.1.pages == 0)) (eventNow (.snapshotDrained job))
  have hd : drains.Only [.vaults] := only_each fun _ _ => only_drainExtent _ _
  have hemp : empty.Only [.agenda] := only_when _ (only_eventNow _ (by simp))
  have e : execSnapshotOpen s = done (Act.all [onWork (fun w => { w with snaps := w.snaps.map (fun (k : Snap) => if k.job == job then { k with opened := true } else k) }), drains, empty]) s := by
    simp only [execSnapshotOpen, he, hn, hj]
    exact if_neg (by rw [ho]; exact Bool.false_ne_true)
  rw [e, done, perform_all_cons, perform_all_cons, perform_all_cons, perform_all_nil]
  refine ⟨_, rfl, ?_, ?_⟩
  · rw [hemp.work (by simp), hd.work (by simp)]; rfl
  · rw [hemp.mems (by simp), hd.mems (by simp)]; rfl
theorem execSnapshotDrained_next {job : Dword} {n : Snap} (he : s.ev = .snapshotDrained job) (hn : s.work.snaps.find? (fun n => n.job == job) = some n) (ho : n.opened = true)
    (hd : ∀ c : Col, ∀ x ∈ (s.vault c).drain, x.1 ≠ job) :
    ∃ t, execSnapshotDrained s = .next t ∧ t.work.snaps = s.work.snaps.filter (fun k => k.job != job) ∧ t.outbox = s.outbox ++ [.snapDone job n.round] ∧ t.mems = s.mems := by
  let ends := Act.each (allCols.filter (fun c => (s.vault c).saved.any (fun x => x.1 == job))) (fun c => onVault c (VaultSt.endSnap job))
  let again := Act.each (s.work.held.filter (fun x => x.job == job)) (fun x => eventNow (.snapAccept x.col))
  have hends : ends.Only [.vaults] := only_each fun _ _ => only_onVault _ _ (by simp)
  have hagain : again.Only [.agenda] := only_each fun _ _ => only_eventNow _ (by simp)
  have hc : ¬(!n.opened || allCols.any (fun c => (s.vault c).drain.any (fun x => x.1 == job))) = true := by
    rw [ho, Bool.not_true, Bool.false_or, List.any_eq_true]
    rintro ⟨c, -, hx⟩
    obtain ⟨x, hm, hx⟩ := List.any_eq_true.mp hx
    exact hd c x hm (beq_iff_eq.mp hx)
  have e : execSnapshotDrained s = done (Act.all [onWork (fun w => { w with snaps := w.snaps.filter (fun k => k.job != job) }), report (.snapDone job n.round), ends, again]) s := by
    simp only [execSnapshotDrained, he, hn]
    exact if_neg hc
  rw [e, done, perform_all_cons, perform_all_cons, perform_all_cons, perform_all_cons, perform_all_nil]
  refine ⟨_, rfl, ?_, ?_, ?_⟩
  · rw [hagain.work (by simp), hends.work (by simp)]; rfl
  · rw [hagain.outbox (by simp), hends.outbox (by simp)]; rfl
  · rw [hagain.mems (by simp), hends.mems (by simp)]; rfl
end

/-- Settles O59: each event as a lemma above tells what it does. -/
theorem hostEvents : Obligations.HostEvents := by
  intro s c k
  refine ⟨fun a he => ?_, fun w he => execPlim_next he, fun n he => execLattol_next he, fun d on he => execDieDrain_next he, fun d num n he => execAttestationReport_next he,
    fun off bytes he h hs => execHostBar2Access_read he h hs, fun off b he h hs => execHostBar2Access_one he h hs, fun off bytes hw he h hs => execHostBar2Access_bytes hw he h hs,
    fun w off bytes he h hs => execHostBar2Access_aborted he h hs, fun w off bytes he h => execHostBar2Access_outside he h, ?_,
    fun job addr v j p he hj hp h => execHostRelease_refused he hj hp h, fun page pages pkg he h hc hd hp hb hl => execLoanGrant_next he h hc hd hp hb hl,
    fun page l he h hl hr => execLoanRecall_asked he h hl hr, fun page l x he hl hr hx => execLoanRecall_over he hl hr hx,
    fun blk bytes head he => ⟨execIncomingPut_lent he, execIncomingPut_not_lent he⟩, fun blk he => execIncomingGet_loan he, fun job e r he h => execSnapshotReserve_next he h,
    fun job p he h => execSnapshotStoragePath_next he h, ?_, fun job n j he hn hj ho => execSnapshotOpen_next he hn hj ho, fun job n he hn ho hd => execSnapshotDrained_next he hn ho hd⟩
  · exact execManagementSession_next he
  · intro job addr v j p he hs hj hp hw ha ht hl hpo
    have e := execHostRelease_served he hj hp hs hw ha ht hl hpo
    refine ⟨e, fun hloan hc => ?_⟩
    have hset := setJobWord_place (s := s) (v := v) hp (hc.imp_right fun h => by rw [job_handle hj]; exact h)
    obtain ⟨h1, h2, h3, h4⟩ := writePlace_vault (s := s) (bytesWrite (offOf addr % 64) 8 v.toNat) hloan
    refine ⟨_, e, ?_⟩
    rw [perform, hset]
    exact ⟨h1, h2, h3, h4⟩
  · intro h j he hh hj off free bare
    obtain ⟨-, hcol⟩ := execSnapAccept_one he hh
    obtain ⟨f1, f2, f3, f4, f5⟩ := freeSnap_frees h s
    rw [hcol] at f4 f5
    have hfree : free (perform (freeSnap h) s) := ⟨f1, f4, f5⟩
    refine ⟨fun n hn => ⟨fun hr => ?_, fun hr => ?_⟩, fun hn hd => ?_, fun hn ho hb => ⟨fun hw => ?_, fun hw => ?_⟩⟩
    · exact ⟨_, (execSnapAccept_held he hh hj hn).trans (by rw [if_pos hr]), f2, hfree⟩
    · exact (execSnapAccept_held he hh hj hn).trans (by rw [if_neg hr])
    · exact ⟨_, execSnapAccept_discarded he hh hj hn hd, f2, hfree, congrArg (· ++ _) f3⟩
    · exact (execSnapAccept_new he hh hj hn ho hb).trans (by rw [if_pos hw])
    · exact ⟨perform (onWork (fun w => { w with snaps := w.snaps ++ [{ job := h.job, round := h.round, opened := false }] })) (perform (freeSnap h) s),
        (execSnapAccept_new he hh hj hn ho hb).trans (by rw [if_neg (by simp [hw])]), congrArg (· ++ _) f2, hfree⟩

end Sys2Proof.Machine

/-! PROOF. Boot, resets, links, timeouts, temperature, clocks, power and idle states (R350, R391 to R393, R403 to R405, R408, R420, R424, R425). -/
namespace Sys2Proof.Machine

section
variable {s : State} {c : Col}

/-! ## The dielist (R420) -/

theorem le_foldl_max {α : Type} (f : α → Nat) {l : List α} {a : Nat} : a ≤ l.foldl (fun a d => max a (f d)) a ∧ ∀ d ∈ l, f d ≤ l.foldl (fun a d => max a (f d)) a := by
  induction l generalizing a with
  | nil => exact ⟨Nat.le_refl _, fun _ h => by cases h⟩
  | cons x l ih =>
    obtain ⟨h1, h2⟩ := ih (a := max a (f x))
    refine ⟨Nat.le_trans (Nat.le_max_left ..) h1, fun d hd => ?_⟩
    rcases List.mem_cons.mp hd with rfl | hd
    · exact Nat.le_trans (Nat.le_max_right ..) h1
    · exact h2 d hd
theorem foldl_max_mem {α : Type} (f : α → Nat) {l : List α} {a : Nat} : l.foldl (fun a d => max a (f d)) a = a ∨ ∃ d ∈ l, f d = l.foldl (fun a d => max a (f d)) a := by
  induction l generalizing a with
  | nil => exact .inl rfl
  | cons x l ih =>
    rcases ih (a := max a (f x)) with h | ⟨d, hd, h⟩
    · rw [List.foldl_cons, h]
      rcases Nat.le_total (f x) a with k | k
      · exact .inl (Nat.max_eq_left k)
      · exact .inr ⟨x, List.mem_cons_self, (Nat.max_eq_right k).symm⟩
    · exact .inr ⟨d, List.mem_cons_of_mem _ hd, h⟩
/-- The highest die of a list, as the choice among the worst ones takes it. -/
def highest (a : Die) (l : List Die) : Die := l.foldl (fun a d => if a < d then d else a) a
theorem highest_mem {l : List Die} {a : Die} : highest a l = a ∨ highest a l ∈ l := by
  induction l generalizing a with
  | nil => exact .inl rfl
  | cons x l ih =>
    by_cases h : a < x
    · have e : highest a (x :: l) = highest x l := by rw [highest, List.foldl_cons, if_pos h]; rfl
      rw [e]
      rcases ih (a := x) with k | k
      · exact .inr (by rw [k]; exact List.mem_cons_self)
      · exact .inr (List.mem_cons_of_mem _ k)
    · have e : highest a (x :: l) = highest a l := by rw [highest, List.foldl_cons, if_neg h]; rfl
      rw [e]
      exact (ih (a := a)).imp_right (List.mem_cons_of_mem _)
theorem le_highest {l : List Die} {a : Die} : a ≤ highest a l ∧ ∀ d ∈ l, d ≤ highest a l := by
  induction l generalizing a with
  | nil => exact ⟨le_refl _, fun _ h => by cases h⟩
  | cons x l ih =>
    by_cases h : a < x
    · have e : highest a (x :: l) = highest x l := by rw [highest, List.foldl_cons, if_pos h]; rfl
      obtain ⟨h1, h2⟩ := ih (a := x)
      rw [e]
      refine ⟨le_trans (le_of_lt h) h1, fun d hd => ?_⟩
      rcases List.mem_cons.mp hd with rfl | hd
      exacts [h1, h2 d hd]
    · have e : highest a (x :: l) = highest a l := by rw [highest, List.foldl_cons, if_neg h]; rfl
      obtain ⟨h1, h2⟩ := ih (a := a)
      rw [e]
      refine ⟨h1, fun d hd => ?_⟩
      rcases List.mem_cons.mp hd with rfl | hd
      exacts [le_trans (not_lt.mp h) h1, h2 d hd]
theorem highest_zero_mem {l : List Die} (h : l ≠ []) : highest 0 l ∈ l := by
  rcases highest_mem (l := l) (a := 0) with k | k
  · obtain ⟨d, hd⟩ := List.exists_mem_of_ne_nil l h
    have hle := (le_highest (l := l) (a := 0)).2 d hd
    rw [k] at hle ⊢
    exact (Fin.le_zero_iff.mp hle) ▸ hd
  · exact k

variable {bad : List (Die × Die)}
theorem linked_of_failedOf {ds : List Die} {d e : Die} (h : failedOf bad ds d = 0) (he : e ∈ ds) : (d, e) ∉ bad := by
  have := List.eq_nil_of_length_eq_zero h
  have := List.filter_eq_nil_iff.mp this e he
  simp only [Bool.or_eq_true, List.contains_iff_mem, not_or] at this
  exact this.1
/-- The failed links of the die that has most of them. -/
def mostFailed (bad : List (Die × Die)) (ds : List Die) : Nat := ds.foldl (fun a d => max a (failedOf bad ds d)) 0
def excluded (bad : List (Die × Die)) (ds : List Die) : Die := highest 0 (ds.filter (fun d => failedOf bad ds d == mostFailed bad ds))
theorem exclude_succ (n : Nat) (ds : List Die) : exclude bad (n + 1) ds = if mostFailed bad ds == 0 then ds else exclude bad n (ds.filter (fun d => d != excluded bad ds)) := rfl
theorem excluded_mem {ds : List Die} (h : mostFailed bad ds ≠ 0) : excluded bad ds ∈ ds := by
  have hne : ds.filter (fun d => failedOf bad ds d == mostFailed bad ds) ≠ [] := by
    rcases foldl_max_mem (failedOf bad ds) (l := ds) (a := 0) with k | ⟨d, hd, k⟩
    · exact absurd k h
    · exact List.ne_nil_of_mem (List.mem_filter.mpr ⟨hd, beq_iff_eq.mpr k⟩)
  exact (List.mem_filter.mp (highest_zero_mem hne)).1
theorem exclude_subset {n : Nat} {ds : List Die} : exclude bad n ds ⊆ ds := by
  induction n generalizing ds with
  | zero => exact fun _ h => h
  | succ n ih =>
    rw [exclude_succ]
    split
    · exact fun _ h => h
    · exact fun d h => (List.mem_filter.mp (ih h)).1
/-- The dies that are left are linked with each other, themselves too. -/
theorem exclude_linked {n : Nat} {ds : List Die} (h : ds.length ≤ n) : ∀ d ∈ exclude bad n ds, ∀ e ∈ exclude bad n ds, (d, e) ∉ bad := by
  induction n generalizing ds with
  | zero =>
    obtain rfl := List.eq_nil_of_length_eq_zero (Nat.le_zero.mp h)
    exact fun d hd => by cases hd
  | succ n ih =>
    rw [exclude_succ]
    by_cases hw : mostFailed bad ds = 0
    · rw [if_pos (beq_iff_eq.mpr hw)]
      intro d hd e he
      have hle := (le_foldl_max (failedOf bad ds) (l := ds) (a := 0)).2 d hd
      exact linked_of_failedOf (Nat.le_zero.mp (hw ▸ hle)) he
    · rw [if_neg (by simpa using hw)]
      refine ih (Nat.le_of_lt_succ (Nat.lt_of_lt_of_le ?_ h))
      exact List.length_filter_lt_length_iff_exists.mpr ⟨_, excluded_mem hw, by simp⟩
theorem exclude_none (n : Nat) (ds : List Die) : exclude [] n ds = ds := by
  cases n with
  | zero => rfl
  | succ n =>
    have hf : ∀ d, failedOf [] ds d = 0 := fun d => congrArg List.length (filter_none fun e _ => rfl)
    have hw : mostFailed [] ds = 0 := by
      rcases foldl_max_mem (failedOf [] ds) (l := ds) (a := 0) with k | ⟨d, -, k⟩
      · exact k
      · exact k.symm.trans (hf d)
    rw [exclude_succ, hw]; rfl
theorem mem_allDies (d : Die) : d ∈ allDies := by revert d; decide
theorem mem_dieCols {d : Die} : c ∈ dieCols d ↔ dieOf c = d := by
  have hc := c.isLt
  have hd := d.isLt
  simp only [dieCols, List.mem_map, List.mem_range, dieOf]
  constructor
  · rintro ⟨i, hi, rfl⟩
    refine Fin.ext ?_
    change (d.val * 128 + i) % 512 / 128 % 4 = d.val
    omega
  · intro h
    have hv : c.val / 128 % 4 = d.val := congrArg Fin.val h
    refine ⟨c.val % 128, Nat.mod_lt _ (by omega), Fin.ext ?_⟩
    change (d.val * 128 + c.val % 128) % 512 = c.val
    omega

/-- The vault of a column is cleared, and what it holds beside its blocks. -/
def wipeVault (c : Col) : Act := Act.seq (fun _ => [.clear c .vault]) (onVault c VaultSt.wiped)
theorem wipeVault_mem (c d : Col) (m : Mem) (t : State) : (perform (wipeVault c) t).mem d m = if d = c ∧ m = .vault then .empty else t.mem d m := by
  rw [wipeVault, perform_seq, ((only_onVault c VaultSt.wiped (ps := [.vaults]) (by simp)).mems (by simp)).mem]
  by_cases hd : d = c
  · subst hd
    exact (clear_mem t d .vault m).trans (by simp)
  · rw [if_neg (fun h => hd h.1)]
    exact congrArg (Mems.get · m) (vget_set_other _ _ _ _ hd)
theorem each_wipeVault_mem {cs : List Col} {d : Col} : ∀ {t : State}, d ∈ cs ∨ t.mem d .vault = .empty → (perform (Act.each cs wipeVault) t).mem d .vault = .empty := by
  induction cs with
  | nil => intro t h; simpa using h
  | cons c cs ih =>
    intro t h
    rw [perform_each_cons]
    refine ih ?_
    rw [wipeVault_mem]
    rcases h with h | h
    · rcases List.mem_cons.mp h with rfl | h
      · exact .inr (if_pos ⟨rfl, rfl⟩)
      · exact .inl h
    · exact .inr (by split <;> simp [h])
theorem only_wipeVault (c : Col) : (wipeVault c).Only [.mems, .vaults] := only_seq (only_one (p := .mems) (fun _ => rfl) (by simp)) (only_onVault _ _ (by simp))

/-- The dies that pass their steps and are linked with each other. -/
def bootDies (r : BootReq) : List Die :=
  (exclude r.links 4 (allDies.filter (fun d => r.trim.getD d.val false && r.clock.getD d.val false))).filter (fun d => r.timing.getD d.val false && r.init.getD d.val false)
theorem bootDies_pass {r : BootReq} {d : Die} (h : d ∈ bootDies r) :
    r.trim.getD d.val false = true ∧ r.clock.getD d.val false = true ∧ r.timing.getD d.val false = true ∧ r.init.getD d.val false = true ∧ ∀ e ∈ bootDies r, (d, e) ∉ r.links := by
  obtain ⟨hd, hs⟩ := List.mem_filter.mp h
  obtain ⟨h3, h4⟩ := Bool.and_eq_true_iff.mp hs
  obtain ⟨h1, h2⟩ := Bool.and_eq_true_iff.mp (List.mem_filter.mp (exclude_subset hd)).2
  have hlen : (allDies.filter (fun d => r.trim.getD d.val false && r.clock.getD d.val false)).length ≤ 4 := List.length_filter_le _ _
  exact ⟨h1, h2, h3, h4, fun e he => exclude_linked hlen d hd e (List.mem_filter.mp he).1⟩
theorem bootDies_all {r : BootReq} (h : ∀ d : Die, r.trim.getD d.val false = true ∧ r.clock.getD d.val false = true ∧ r.timing.getD d.val false = true ∧ r.init.getD d.val false = true)
    (hl : r.links = []) : bootDies r = [0, 1, 2, 3] := by
  rw [bootDies, hl, exclude_none, List.filter_eq_self.mpr, List.filter_eq_self.mpr]
  · rfl
  · exact fun d _ => by rw [(h d).1, (h d).2.1]; rfl
  · exact fun d _ => by rw [(h d).2.2.1, (h d).2.2.2]; rfl
theorem execPowerGood_done {r : BootReq} (he : s.ev = .powerGood r) (h : s.pkg.ready = true ∨ s.pkg.failed = true) : execPowerGood s = .next s := by
  simp only [execPowerGood, he]
  exact if_pos (Bool.or_eq_true_iff.mpr h)
theorem execPowerGood_boots {r : BootReq} (he : s.ev = .powerGood r) (hr : s.pkg.ready = false) (hf : s.pkg.failed = false) :
    ∃ t, execPowerGood s = .next t ∧ t.pkg.dielist = bootDies r ∧ t.pkg.ready = (!(bootDies r).isEmpty && (r.fwOk.take 4).any id) ∧ t.pkg.failed = !t.pkg.ready ∧
      t.outbox = s.outbox ++ [if t.pkg.ready then .ready else .bootFail] ∧ (∀ c, dieOf c ∈ bootDies r → t.mem c .vault = .empty) := by
  let good := !(bootDies r).isEmpty && (r.fwOk.take 4).any id
  let starts := Act.each allDies (fun d => onDie d (fun x => { x with works := (bootDies r).contains d, gen := .replicate 4 0 }))
  let wipes := Act.each ((bootDies r).flatMap dieCols) wipeVault
  have e : execPowerGood s = done (Act.all [starts, wipes, onPkg (fun p => { p with dielist := bootDies r, ready := good, failed := !good }), report (if good then .ready else .bootFail)]) s := by
    simp only [execPowerGood, he]
    exact if_neg (by rw [hr, hf]; exact Bool.false_ne_true)
  have hs : starts.Only [.dies] := only_each fun _ _ => only_onDie _ _ (by simp)
  have hw : wipes.Only [.mems, .vaults] := only_each fun _ _ => only_wipeVault _
  let w := perform wipes (perform starts s)
  have hout : w.outbox = s.outbox := (hw.outbox (by simp) _).trans (hs.outbox (by simp) _)
  have hmem : ∀ c, dieOf c ∈ bootDies r → w.mem c .vault = .empty := fun c hc => each_wipeVault_mem (.inl (List.mem_flatMap.mpr ⟨_, hc, mem_dieCols.mpr rfl⟩))
  rw [e, done, perform_all_cons, perform_all_cons, perform_all_cons, perform_all_cons, perform_all_nil, perform_onPkg, perform_report]
  exact ⟨_, rfl, rfl, rfl, rfl, congrArg (· ++ _) hout, hmem⟩

/-! ## The reset of a die (R350, R405) -/

theorem only_go_ (b : LinkBeat) (x : Int) : (b.go_ x).Only [.vaults, .txns, .work, .agenda, .timers] := fun s => by
  unfold LinkBeat.go_
  split
  · exact only_onVault _ _ (by simp) s
  · exact only_onArr _ _ _ (by simp) s
  · exact only_seq (only_onWork _ (by simp)) (only_each fun _ _ => only_eventAt _ _ _ (by simp) (by simp)) s

theorem dies_set_same (s : State) (d : Die) (x : DieSt) : ({ s with dies := s.dies.set d x } : State).dies[d] = x := vget_set_same ..
theorem onDie_dies (s : State) (d e : Die) (f : DieSt → DieSt) : (perform (onDie d f) s).dies[e] = if e = d then f s.dies[d] else s.dies[e] := by
  by_cases h : e = d
  · subst h
    rw [if_pos rfl]
    exact vget_set_same ..
  · rw [if_neg h]
    exact vget_set_other _ _ _ _ h
/-- The dies beside d learn that their links to it are down. -/
def linksDown (d e : Die) (tick : Nat) : Act :=
  Act.seq (onDie e (fun x => { x with links := x.links.set d false, downAt := x.downAt.set d (some tick) })) (eventTick (tick + 1200000) (.linkDownTimeout d e))
theorem each_linksDown_dies {d : Die} {n : Nat} : ∀ {l : List Die} (_ : ∀ e ∈ l, e ≠ d) (s : State), (perform (Act.each l (fun e => linksDown d e n)) s).dies[d] = s.dies[d] := by
  intro l
  induction l with
  | nil => intros; rfl
  | cons e l ih =>
    intro h s
    have only := only_eventTick ((n : Int) + 1200000) (.linkDownTimeout d e) (ps := [.timers]) (by simp)
    rw [perform_each_cons, ih (fun x hx => h x (List.mem_cons_of_mem _ hx)), linksDown, perform_seq, only.dies (by simp), onDie_dies, if_neg (h e List.mem_cons_self).symm]
/-- A column takes its reset values. -/
def resetCol (tick : Nat) (c : Col) : Act := Act.all [onUnit c (fun _ => .reset), onSlot c (fun _ => .reset),
  onVault c (fun v => { VaultSt.reset with temp := v.temp, idleAt := tick }), fun _ => [.clear c .wb, .clear c .ab, .clear c .sp, .clear c .store, .clear c .vault]]
theorem resetCol_same (n : Nat) (c : Col) (s : State) : (perform (resetCol n c) s).unit c = .reset ∧ (perform (resetCol n c) s).slot c = .reset ∧ ∀ m, (perform (resetCol n c) s).mem c m = .empty := by
  refine ⟨unit_set_same .., slot_set_same .., fun m => ?_⟩
  let t := perform (onVault c (fun v => { VaultSt.reset with temp := v.temp, idleAt := n })) (perform (onSlot c (fun _ => .reset)) (perform (onUnit c (fun _ => .reset)) s))
  have e : perform (resetCol n c) s = Upd.apply (.clear c .vault) (Upd.apply (.clear c .store) (Upd.apply (.clear c .sp) (Upd.apply (.clear c .ab) (Upd.apply (.clear c .wb) t)))) := rfl
  rw [e]
  simp only [clear_mem]
  cases m <;> rfl
theorem clear_mem_other (s : State) {c d : Col} (x m : Mem) (h : d ≠ c) : (Upd.apply (.clear c x) s).mem d m = s.mem d m := congrArg (Mems.get · m) (vget_set_other _ _ _ _ h)
theorem resetCol_other (n : Nat) {c d : Col} (h : d ≠ c) (s : State) :
    (perform (resetCol n c) s).unit d = s.unit d ∧ (perform (resetCol n c) s).slot d = s.slot d ∧ ∀ m, (perform (resetCol n c) s).mem d m = s.mem d m := by
  refine ⟨unit_set_other _ _ h, slot_set_other _ _ h, fun m => ?_⟩
  let t := perform (onVault c (fun v => { VaultSt.reset with temp := v.temp, idleAt := n })) (perform (onSlot c (fun _ => .reset)) (perform (onUnit c (fun _ => .reset)) s))
  have e : perform (resetCol n c) s = Upd.apply (.clear c .vault) (Upd.apply (.clear c .store) (Upd.apply (.clear c .sp) (Upd.apply (.clear c .ab) (Upd.apply (.clear c .wb) t)))) := rfl
  rw [e]
  simp only [clear_mem_other _ _ _ h]
  rfl
theorem each_resetCol {n : Nat} {cs : List Col} {d : Col} : ∀ {s : State}, d ∈ cs ∨ (s.unit d = .reset ∧ s.slot d = .reset ∧ ∀ m, s.mem d m = .empty) →
    let t := perform (Act.each cs (resetCol n)) s
    t.unit d = .reset ∧ t.slot d = .reset ∧ ∀ m, t.mem d m = .empty := by
  induction cs with
  | nil => intro s h; simpa using h
  | cons c cs ih =>
    intro s h
    rw [perform_each_cons]
    refine ih ?_
    by_cases hd : d = c
    · subst hd
      exact .inr (resetCol_same n d s)
    · obtain ⟨h1, h2, h3⟩ := resetCol_other n hd s
      rw [h1, h2]
      simp only [h3]
      exact h.imp_left fun k => (List.mem_cons.mp k).resolve_left hd
theorem each_resetCol_other {n : Nat} {cs : List Col} {d : Col} : ∀ {s : State}, d ∉ cs →
    let t := perform (Act.each cs (resetCol n)) s
    t.unit d = s.unit d ∧ ∀ m, t.mem d m = s.mem d m := by
  induction cs with
  | nil => intro s _; exact ⟨rfl, fun _ => rfl⟩
  | cons c cs ih =>
    intro s h
    obtain ⟨hc, hcs⟩ := not_or.mp (mt List.mem_cons.mpr h)
    obtain ⟨h1, -, h3⟩ := resetCol_other n hc s
    obtain ⟨k1, k3⟩ := ih (s := perform (resetCol n c) s) hcs
    rw [perform_each_cons]
    exact ⟨k1.trans h1, fun m => (k3 m).trans (h3 m)⟩
theorem only_resetCol (n : Nat) (c : Col) : (resetCol n c).Only [.units, .slots, .vaults, .mems] := only_all fun a ha => by
  simp only [List.mem_cons, List.not_mem_nil, or_false] at ha
  rcases ha with rfl | rfl | rfl | rfl
  · exact only_onUnit _ _ (by simp)
  · exact only_onSlot _ _ (by simp)
  · exact only_onVault _ _ (by simp)
  · intro s u hu
    simp only [List.mem_cons, List.not_mem_nil, or_false] at hu
    rcases hu with rfl | rfl | rfl | rfl | rfl <;> simp [Upd.piece]
/-- The blocks that a column's unit has on the way to other packages arrive. -/
def landLoans (c : Col) : Act := fun s => Act.each ((s.unit c).pend.filter (fun p => match p.eff with | .loan .. => true | _ => false)) (landEff c) s
theorem each_landLoans_nothing {cs : List Col} (h : ∀ c ∈ cs, ∀ p ∈ (s.unit c).pend, ∀ b va h hp ph w tx k r, p.eff ≠ .loan b va h hp ph w tx k r) : perform (Act.each cs landLoans) s = s := by
  induction cs with
  | nil => rfl
  | cons c cs ih =>
    have e : perform (landLoans c) s = s := by
      have hf : (s.unit c).pend.filter (fun p => match p.eff with | .loan .. => true | _ => false) = [] := filter_none fun p hp => by
        have := h c List.mem_cons_self p hp
        split
        · rename_i he
          exact (this _ _ _ _ _ _ _ _ _ he).elim
        · rfl
      simp only [perform, landLoans, hf]
      rfl
    rw [perform_each_cons, e]
    exact ih fun d hd => h d (List.mem_cons_of_mem _ hd)

section
variable (d : Die) (s : State)
/-- The parts of a die's reset: its generation and links, what it counts as dropped, what its units have sent, and what goes with it. -/
def resetGen : Act := onDie d (fun x => { x with gen := x.gen.set d (x.gen[d] + 1), works := false, links := .replicate 4 false })
def resetCount (backs : List Nat) : Act := onDie d (fun x => { x with dropped := x.dropped + s.coming_ d + backs.length })
def resetSent : Act := Act.each (s.links.filter (fun b => b.src = d)) (fun b => fun s => b.go_ (max (s.now b.col) b.ready) s)
def resetLeave : Act := fun s => Act.each (s.work.bound.flatMap (fun b => (b.cols.filter (fun c => dieOf c == d)).map (fun c => (b.id, c)))) (fun x => leave x.1 x.2) s
def resetLinks : Act := fun s => [.parts (s.parts.map (fun p => { p with cols := p.cols.filter (fun c => !(dieOf c == d)), heated := p.heated.filter (fun c => !(dieOf c == d)), pausedBy := p.pausedBy.filter (fun c => !(dieOf c == d)) })),
  .txns (s.txns.filter (fun t => !(dieOf t.who.col == d))), .links (s.links.filter (fun b => b.src != d && b.dst != d))]
def resetWork (backs : List Nat) : Act := fun s => onWork (fun w => { w with
  xfers := w.xfers.filter (fun x => (!(dieOf x.dest == d) || s.sentBack x.tx) && !backs.contains x.tx)
  atoms := w.atoms.filter (fun a => !(dieOf a.who.col == d) || a.done || !(dieOf a.target == d || (a.placed && dieOf a.owner == d)))
  loans := w.loans.filter (fun l => !(dieOf l.col == d)), held := w.held.filter (fun x => !(dieOf x.col == d)) }) s
def resetPkg : Act := onPkg (fun p => { p with dielist := p.dielist.filter (fun e => e != d) })
/-- The packets of the links that come back to the die. -/
def State.backsTo : List Nat := (s.links.filter (fun b => b.dst = d)).flatMap LinkBeat.backs
theorem only_resetGen : (resetGen d).Only [.dies] := only_onDie _ _ (by simp)
theorem only_resetCount (l : List Nat) : (resetCount d s l).Only [.dies] := only_onDie _ _ (by simp)
theorem only_resetSent : (resetSent d s).Only [.vaults, .txns, .work, .agenda, .timers] := only_each fun b _ => fun s => only_go_ b _ s
theorem only_resetLeave : (resetLeave d).Only [.work] := fun s => only_each (fun _ _ => only_leave _ _ (by simp)) s
theorem only_resetLinks : (resetLinks d).Only [.parts, .txns, .links] := fun s u hu => by
  simp only [resetLinks, List.mem_cons, List.not_mem_nil, or_false] at hu
  rcases hu with rfl | rfl | rfl <;> simp [Upd.piece]
theorem perform_resetLinks_links : (perform (resetLinks d) s).links = s.links.filter (fun b => b.src != d && b.dst != d) := rfl
theorem only_resetWork (l : List Nat) : (resetWork d l).Only [.work] := fun s => only_onWork _ (by simp) s
theorem only_resetPkg : (resetPkg d).Only [.pkg] := only_onPkg _ (by simp)
theorem only_linksDown (e : Die) (n : Nat) : (linksDown d e n).Only [.dies, .timers] := only_seq (only_onDie _ _ (by simp)) (only_eventTick _ _ (by simp))
end
theorem execDieReset_eq {d : Die} (he : s.ev = .dieReset d) (hb : s.work.bound = []) :
    execDieReset s = done (Act.all [resetGen d, Act.each (allDies.filter (fun e => e != d)) (fun e => linksDown d e s.tick), Act.none, resetCount d s (s.backsTo d), resetSent d s,
      Act.each (dieCols d) landLoans, resetLeave d, Act.each (dieCols d) (resetCol s.tick), resetLinks d, resetWork d (s.backsTo d), resetPkg d]) s := by
  simp only [execDieReset, he, hb]
  rfl
theorem execDieReset_next {d : Die} (he : s.ev = .dieReset d) (hb : s.work.bound = [])
    (hp : ∀ c : Col, dieOf c = d → ∀ p ∈ (s.unit c).pend, ∀ b va h hp ph w tx k r, p.eff ≠ .loan b va h hp ph w tx k r) :
    ∃ t, execDieReset s = .next t ∧ ((t.dies[d]).gen)[d] = ((s.dies[d]).gen)[d] + 1 ∧
      (t.dies[d]).dropped = (s.dies[d]).dropped + s.coming_ d + (s.backsTo d).length ∧
      t.links = s.links.filter (fun b => b.src != d && b.dst != d) ∧
      (∀ c : Col, dieOf c = d → t.unit c = .reset ∧ t.slot c = .reset ∧ ∀ m, t.mem c m = .empty) ∧ (∀ c : Col, dieOf c ≠ d → t.unit c = s.unit c ∧ ∀ m, t.mem c m = s.mem c m) := by
  let downs := Act.each (allDies.filter (fun e => e != d)) (fun e => linksDown d e s.tick)
  let cols := Act.each (dieCols d) (resetCol s.tick)
  obtain ⟨s1, e1⟩ : ∃ x, x = perform (resetGen d) s := ⟨_, rfl⟩
  obtain ⟨s2, e2⟩ : ∃ x, x = perform downs s1 := ⟨_, rfl⟩
  obtain ⟨s4, e4⟩ : ∃ x, x = perform (resetCount d s (s.backsTo d)) s2 := ⟨_, rfl⟩
  obtain ⟨s5, e5⟩ : ∃ x, x = perform (resetSent d s) s4 := ⟨_, rfl⟩
  obtain ⟨s7, e7⟩ : ∃ x, x = perform (resetLeave d) s5 := ⟨_, rfl⟩
  obtain ⟨s8, e8⟩ : ∃ x, x = perform cols s7 := ⟨_, rfl⟩
  obtain ⟨s9, e9⟩ : ∃ x, x = perform (resetLinks d) s8 := ⟨_, rfl⟩
  obtain ⟨s10, e10⟩ : ∃ x, x = perform (resetWork d (s.backsTo d)) s9 := ⟨_, rfl⟩
  obtain ⟨s11, e11⟩ : ∃ x, x = perform (resetPkg d) s10 := ⟨_, rfl⟩
  have hdowns : downs.Only [.dies, .timers] := only_each fun _ _ => only_linksDown _ _ _
  have hcols : cols.Only [.units, .slots, .vaults, .mems] := only_each fun _ _ => only_resetCol _ _
  have hunits : s5.units = s.units := by
    rw [e5, (only_resetSent d s).units (by simp), e4, (only_resetCount d s _).units (by simp), e2, hdowns.units (by simp), e1, (only_resetGen d).units (by simp)]
  have hmems : s5.mems = s.mems := by
    rw [e5, (only_resetSent d s).mems (by simp), e4, (only_resetCount d s _).mems (by simp), e2, hdowns.mems (by simp), e1, (only_resetGen d).mems (by simp)]
  have hl : s8.links = s.links := by
    rw [e8, hcols.links (by simp), e7, (only_resetLeave d).links (by simp), e5, (only_resetSent d s).links (by simp), e4, (only_resetCount d s _).links (by simp), e2, hdowns.links (by simp),
      e1, (only_resetGen d).links (by simp)]
  have h6 : perform (Act.each (dieCols d) landLoans) s5 = s5 := each_landLoans_nothing fun c hc => by
    rw [State.unit, hunits]
    exact hp c (mem_dieCols.mp hc)
  have e : execDieReset s = .next s11 := by
    rw [execDieReset_eq he hb, done, perform_all_cons, ← e1, perform_all_cons, ← e2, perform_all_cons, perform_none, perform_all_cons, ← e4, perform_all_cons, ← e5, perform_all_cons, h6, perform_all_cons,
      ← e7, perform_all_cons, ← e8, perform_all_cons, ← e9, perform_all_cons, ← e10, perform_all_cons, ← e11, perform_all_nil]
  have h4 : s11.dies = s4.dies := by
    rw [e11, (only_resetPkg d).dies (by simp), e10, (only_resetWork d _).dies (by simp), e9, (only_resetLinks d).dies (by simp), e8, hcols.dies (by simp), e7, (only_resetLeave d).dies (by simp),
      e5, (only_resetSent d s).dies (by simp)]
  have h1 : s1.dies[d] = { s.dies[d] with gen := (s.dies[d]).gen.set d ((s.dies[d]).gen[d] + 1), works := false, links := .replicate 4 false } := by
    rw [e1, resetGen, onDie_dies, if_pos rfl]
  have h2 : s2.dies[d] = s1.dies[d] := by
    rw [e2]
    exact each_linksDown_dies (by simp) s1
  have hdies : s11.dies[d] = { s2.dies[d] with dropped := (s2.dies[d]).dropped + s.coming_ d + (s.backsTo d).length } := by
    rw [h4, e4, resetCount, onDie_dies, if_pos rfl]
  rw [h2, h1] at hdies
  have h7u : s7.units = s.units := by rw [e7, (only_resetLeave d).units (by simp), hunits]
  have h7m : s7.mems = s.mems := by rw [e7, (only_resetLeave d).mems (by simp), hmems]
  have hu : ∀ c, s11.unit c = s8.unit c := fun c => by
    rw [e11, ((only_resetPkg d).units (by simp)).unit, e10, ((only_resetWork d _).units (by simp)).unit, e9, ((only_resetLinks d).units (by simp)).unit]
  have hs : ∀ c, s11.slot c = s8.slot c := fun c => by
    rw [e11, ((only_resetPkg d).slots (by simp)).slot, e10, ((only_resetWork d _).slots (by simp)).slot, e9, ((only_resetLinks d).slots (by simp)).slot]
  have hm : ∀ c m, s11.mem c m = s8.mem c m := fun c m => by
    rw [e11, ((only_resetPkg d).mems (by simp)).mem, e10, ((only_resetWork d _).mems (by simp)).mem, e9, ((only_resetLinks d).mems (by simp)).mem]
  have hlinks : s11.links = s.links.filter (fun b => b.src != d && b.dst != d) := by
    rw [e11, (only_resetPkg d).links (by simp), e10, (only_resetWork d _).links (by simp), e9, perform_resetLinks_links, hl]
  have hon : ∀ c, dieOf c = d → s11.unit c = .reset ∧ s11.slot c = .reset ∧ ∀ m, s11.mem c m = .empty := fun c hc => by
    obtain ⟨k1, k2, k3⟩ := each_resetCol (n := s.tick) (s := s7) (.inl (mem_dieCols.mpr hc))
    rw [← e8] at k1 k2
    exact ⟨(hu c).trans k1, (hs c).trans k2, fun m => (hm c m).trans (by rw [e8]; exact k3 m)⟩
  have hoff : ∀ c, dieOf c ≠ d → s11.unit c = s.unit c ∧ ∀ m, s11.mem c m = s.mem c m := fun c hc => by
    obtain ⟨k1, k2⟩ := each_resetCol_other (n := s.tick) (s := s7) (mt mem_dieCols.mp hc)
    refine ⟨?_, fun m => ?_⟩
    · rw [hu, e8, k1, State.unit, State.unit, h7u]
    · rw [hm, e8, k2, State.mem, State.mem, h7m]
  refine ⟨s11, e, ?_, ?_, hlinks, hon, hoff⟩
  · rw [hdies]
    exact vget_set_same ..
  · rw [hdies]

/-! ## Links, notices and timeouts (R404, R408) -/

/-- The notice that die a has reset, to a die that does not know it. -/
def resetNote (s : State) (a b : Die) : Act := Act.when (((s.dies[b]).gen)[a] != ((s.dies[a]).gen)[a]) (eventTick (s.tick + (max 1 (s.latt a b) : Nat)) (.resetNotice a b (((s.dies[a]).gen)[a])))
theorem only_resetNote (s : State) (a b : Die) : (resetNote s a b).Only [.timers] := only_when _ (only_eventTick _ _ (by simp))
theorem execLinkRetrain_next {d e : Die} (he : s.ev = .linkRetrain d e) (hd : d ≠ e) :
    ∃ t, execLinkRetrain s = .next t ∧ ((t.dies[d]).links)[e] = true ∧ ((t.dies[e]).links)[d] = true ∧ t.units = s.units := by
  have h : execLinkRetrain s = done (Act.all [onDie d (fun x => { x with links := x.links.set e true }), onDie e (fun x => { x with links := x.links.set d true }), resetNote s d e, resetNote s e d]) s := by
    simp only [execLinkRetrain, he]
    rfl
  rw [h, done, perform_all_cons, perform_all_cons, perform_all_cons, perform_all_cons, perform_all_nil]
  refine ⟨_, rfl, ?_, ?_, ?_⟩
  · rw [(only_resetNote s e d).dies (by simp), (only_resetNote s d e).dies (by simp), onDie_dies, if_neg hd, onDie_dies, if_pos rfl]
    exact vget_set_same ..
  · rw [(only_resetNote s e d).dies (by simp), (only_resetNote s d e).dies (by simp), onDie_dies, if_pos rfl]
    exact vget_set_same ..
  · rw [(only_resetNote s e d).units (by simp), (only_resetNote s d e).units (by simp)]; rfl
theorem perform_learnReset (d e : Die) (gen : BitVec 16) (s : State) : perform (learnReset d e gen) s = perform (settleDie d e)
    { s with dies := s.dies.set e { s.dies[e] with gen := ((s.dies[e]).gen).set d gen, downAt := ((s.dies[e]).downAt).set d none } } := perform_seq ..
theorem execResetNotice_known {d e : Die} {gen : BitVec 16} (he : s.ev = .resetNotice d e gen) (h : ((s.dies[e]).gen)[d] = gen) : execResetNotice s = .next s := by
  simp only [execResetNotice, he]
  exact if_pos (beq_iff_eq.mpr h)
theorem execResetNotice_new {d e : Die} {gen : BitVec 16} (he : s.ev = .resetNotice d e gen) (h : ((s.dies[e]).gen)[d] ≠ gen) : execResetNotice s = .next (perform (learnReset d e gen) s) := by
  simp only [execResetNotice, he]
  exact if_neg (by simpa using h)
theorem execLinkDownTimeout_next {d e : Die} {t : Nat} (he : s.ev = .linkDownTimeout d e) (h : ((s.dies[e]).downAt)[d] = some t) (ht : t + 1200000 ≤ s.tick) :
    execLinkDownTimeout s = .next (perform (learnReset d e ((s.dies[d]).gen)[d]) s) := by
  simp only [execLinkDownTimeout, he, h]
  exact if_neg (Nat.not_lt.mpr ht)

theorem no_copyOwes {pkg : Nat} (hc : ∀ c : Col, (s.unit c).eng.cmds = []) : allCols.flatMap (fun c => ((s.unit c).eng.cmds.filter (s.copyOwes pkg)).map (fun q => (c, q))) = [] := List.flatMap_eq_nil_iff.mpr fun c _ => by rw [hc c]; rfl
theorem owed_atom {pkg : Nat} {a : Atomic} (ha : s.work.atoms = [a]) (hp : a.pkg = pkg) : s.work.atoms.filter (fun a => a.pkg == pkg || (!a.done && a.loan.any (fun b => b / 2 ^ 46 == pkg))) = [a] := by
  rw [ha, List.filter_cons_of_pos (by simp [hp])]; rfl
theorem perform_staleColls_none {f : Coll → Bool} {t : State} (h : t.work.colls = []) : perform (staleColls f) t = t := by
  have e : staleColls f t = Act.seq (onWork (fun w => { w with colls := w.colls.map (fun (k : Coll) => if ([] : List Coll).any (fun x => x.id == k.id) then { k with stat := 3 } else k) })) (Act.each [] (fun k : Coll => eventNow (.collectiveClose k.id))) t := by
    simp only [staleColls, h]; rfl
  have hk : t.work.colls.map (fun (k : Coll) => if ([] : List Coll).any (fun x => x.id == k.id) then { k with stat := 3 } else k) = t.work.colls := by rw [h]; rfl
  rw [perform, e]
  refine (perform_seq _ _ t).trans ?_
  rw [perform_each_nil, perform_onWork, hk]

section
variable {pkg : Nat} (he : s.ev = .peerPackageTimeout pkg)
include he
theorem execPeerPackageTimeout_forgotten (h : ∀ x ∈ s.pkg.peers, x.1 ≠ pkg) : execPeerPackageTimeout s = .next s := by
  have hf : s.pkg.peers.find? (fun x => x.1 == pkg) = none := List.find?_eq_none.mpr fun x hx => by simpa using h x hx
  simp only [execPeerPackageTimeout, he, hf]
variable {n : Nat} (hf : s.pkg.peers.find? (fun x => x.1 == pkg) = some (pkg, n)) (hc : ∀ c : Col, (s.unit c).eng.cmds = []) (ht : s.txns = [])
include hf hc ht
theorem execPeerPackageTimeout_nothing (ha : s.work.atoms = []) :
    execPeerPackageTimeout s = .next { s with pkg := { s.pkg with peers := s.pkg.peers.filter (fun x => x.1 != pkg) } } := by
  have e : execPeerPackageTimeout s = done (onPkg (fun k => { k with peers := k.peers.filter (fun x => x.1 != pkg) })) s := by
    simp only [execPeerPackageTimeout, he, hf, no_copyOwes hc, ht, ha]
    exact if_pos rfl
  rw [e, done, perform_onPkg]
variable {a : Atomic} (ha : s.work.atoms = [a]) (hp : a.pkg = pkg)
include ha hp
theorem execPeerPackageTimeout_early (h : s.tick < n + 12000000) :
    execPeerPackageTimeout s = .next { s with timers := s.timers ++ [{ part := none, at_ := ((n + 12000000 : Nat) : Int), ev := .peerPackageTimeout pkg }] } := by
  have e : execPeerPackageTimeout s = done (eventTick (n + peerTicks : Nat) (.peerPackageTimeout pkg)) s := by
    simp only [execPeerPackageTimeout, he, hf, no_copyOwes hc, ht, owed_atom ha hp]
    exact (if_neg Bool.false_ne_true).trans (if_pos h)
  rw [e]; rfl
theorem execPeerPackageTimeout_late (h : n + 12000000 ≤ s.tick) (hk : s.work.colls = []) :
    execPeerPackageTimeout s = .next { s with
      pkg := { s.pkg with peers := s.pkg.peers.filter (fun x => x.1 != pkg) }
      work := { s.work with atoms := [{ a with done := true, bad := some (staleFault a.addr 0) }] }
      agenda := .event (.atomicReport a.id) :: s.agenda } := by
  let stale := fun k : Coll => k.remote && (match s.job k.job with
    | some j => (s.group j k.group).any (fun m => m.1 == pkg)
    | none => false)
  have e : execPeerPackageTimeout s = done (Act.all [onPkg (fun k => { k with peers := k.peers.filter (fun x => x.1 != pkg) }), Act.none, Act.none,
      Act.each [a] (fun a => Act.seq (onAtom a.id (fun a => { a with done := true, bad := some (staleFault a.addr 0) })) (eventNow (.atomicReport a.id))), staleColls stale]) s := by
    simp only [execPeerPackageTimeout, he, hf, no_copyOwes hc, ht, owed_atom ha hp]
    exact (if_neg Bool.false_ne_true).trans (if_neg (Nat.not_lt.mpr h))
  have hatom : s.work.atoms.map (fun (x : Atomic) => if x.id == a.id then { x with done := true, bad := some (staleFault x.addr 0) } else x) = [{ a with done := true, bad := some (staleFault a.addr 0) }] := by
    rw [ha, List.map_singleton, if_pos (beq_self_eq_true _)]
  rw [e, done, perform_all_cons, perform_all_cons, perform_none, perform_all_cons, perform_none, perform_all_cons, perform_all_cons, perform_all_nil, perform_each_cons, perform_each_nil, perform_seq,
    perform_staleColls_none]
  · rw [perform_onPkg, onAtom, perform_onWork]
    simp only [hatom]
    rfl
  · exact hk
end

/-! ## Temperature (R391 to R393) -/

theorem le_slotAfter (x : Int) : x ≤ slotAfter x := by
  unfold slotAfter
  omega
theorem cyc_lt_nextSlot (p : Part) : p.cyc < nextSlot p := Int.lt_of_lt_of_le (Int.lt_succ p.cyc) (le_slotAfter _)
theorem perform_eventAtPart_later {n : BitVec 16} {x : Int} {e : Ev} (h : s.partNow n < x) :
    perform (eventAtPart n x e) s = { s with timers := s.timers ++ [{ part := some n, at_ := x, ev := e }] } := by
  have k : eventAtPart n x e s = [.timers (s.timers ++ [{ part := some n, at_ := x, ev := e }])] := if_neg (Int.not_le.mpr h)
  rw [perform, k]; rfl
theorem perform_draw_none (n : Nat) (s : State) : perform (draw n (fun _ => Act.none)) s = { s with free := s.free + n } := rfl
/-- What a reading makes of the clocks. -/
def heatAct (s : State) (c : Col) (milli : Int) : Act :=
  let l := s.limitC c * 1000
  let around := s.parts.filter (fun p => p.cols.any (near c))
  let due := match (s.vault c).stepAt with
    | some t => decide (t + 120000 ≤ s.tick)
    | none => true
  if 100000 ≤ milli then Act.seq (report (.heat (dieOf c) (s.channel c) milli)) (eventNow .thermalTrip)
  else if decide (l - 3000 ≤ milli) then
    match around[Config.heatSource s.free % around.length]? with
    | none => Act.none
    | some p =>
      let marked := onPart p.num (fun p => { p with heated := if p.heated.contains c then p.heated else p.heated ++ [c] })
      if p.floor < p.mhz then Act.when due (Act.all [marked, onVault c (fun v => { v with stepAt := some s.tick }), eventAtPart p.num (nextSlot p) (.throttleStep p.num)])
      else Act.when (decide (l - 1000 ≤ milli)) (Act.seq
        (onPart p.num (fun p => { p with pausedBy := if p.pausedBy.contains c then p.pausedBy else p.pausedBy ++ [c] }))
        (Act.when (!p.paused) (eventAtPart p.num (nextSlot p) (.pause p.num))))
  else fun s => Act.seq (onVault c (fun v => { v with stepAt := none }))
    (Act.each (s.parts.filter (fun p => p.heated.contains c || p.pausedBy.contains c)) coolDown) s
theorem execVaultTemperatureRead_next {milli : Int} (he : s.ev = .vaultTemperatureRead c milli) :
    execVaultTemperatureRead s = .next (perform (draw 1 (fun _ => Act.none)) (perform (heatAct s c milli) { s with vaults := s.vaults.set c { s.vault c with temp := milli } })) := by
  have e : execVaultTemperatureRead s = done (Act.all [onVault c (fun v => { v with temp := milli }), heatAct s c milli, draw 1 (fun _ => Act.none)]) s := by
    simp only [execVaultTemperatureRead, he]
    rfl
  rw [e, done, perform_all_cons, perform_all_cons, perform_all_cons, perform_all_nil, perform_onVault]
theorem heatAct_trip {milli : Int} (h : 100000 ≤ milli) : heatAct s c milli = Act.seq (report (.heat (dieOf c) (s.channel c) milli)) (eventNow .thermalTrip) := if_pos h
theorem heatAct_cool {milli : Int} (h1 : milli < 100000) (h2 : milli < s.limitC c * 1000 - 3000) : heatAct s c milli = fun s => Act.seq (onVault c (fun v => { v with stepAt := none }))
    (Act.each (s.parts.filter (fun p => p.heated.contains c || p.pausedBy.contains c)) coolDown) s :=
  (if_neg (Int.not_le.mpr h1)).trans (if_neg (by rw [decide_eq_true_eq]; exact Int.not_le.mpr h2))
section
variable {milli : Int} {p : Part} (h1 : milli < 100000) (h2 : s.limitC c * 1000 - 3000 ≤ milli) (hp : s.parts = [p]) (hn : p.cols.any (near c) = true)
include h1 h2 hp hn
theorem heatAct_hot : heatAct s c milli =
    if p.floor < p.mhz then Act.when (match (s.vault c).stepAt with | some t => decide (t + 120000 ≤ s.tick) | none => true)
      (Act.all [onPart p.num (fun p => { p with heated := if p.heated.contains c then p.heated else p.heated ++ [c] }), onVault c (fun v => { v with stepAt := some s.tick }),
        eventAtPart p.num (nextSlot p) (.throttleStep p.num)])
    else Act.when (decide (s.limitC c * 1000 - 1000 ≤ milli)) (Act.seq
      (onPart p.num (fun p => { p with pausedBy := if p.pausedBy.contains c then p.pausedBy else p.pausedBy ++ [c] }))
      (Act.when (!p.paused) (eventAtPart p.num (nextSlot p) (.pause p.num)))) := by
  have ha : s.parts.filter (fun p => p.cols.any (near c)) = [p] := by rw [hp]; exact List.filter_cons_of_pos hn
  refine (if_neg (Int.not_le.mpr h1)).trans ((if_pos (decide_eq_true h2)).trans ?_)
  simp only [ha, List.length_singleton, Nat.mod_one]
  rfl
end

theorem execVaultTemperatureRead_cool {milli : Int} (he : s.ev = .vaultTemperatureRead c milli) (h : milli < s.limitC c * 1000 - 3000) (hp : ∀ p ∈ s.parts, c ∉ p.heated ∧ c ∉ p.pausedBy) :
    execVaultTemperatureRead s = .next { s with vaults := s.vaults.set c { s.vault c with temp := milli, stepAt := none }, free := s.free + 1 } := by
  have hlim : s.limitC c ≤ 95 := by
    unfold State.limitC
    split <;> decide
  have hf : s.parts.filter (fun p => p.heated.contains c || p.pausedBy.contains c) = [] := filter_none fun p h => by
    obtain ⟨h1, h2⟩ := hp p h
    simp [h1, h2]
  rw [execVaultTemperatureRead_next he, heatAct_cool (by omega) h, perform_draw_none]
  let v1 : State := { s with vaults := s.vaults.set c { s.vault c with temp := milli } }
  have e : perform (fun s => Act.seq (onVault c (fun v => { v with stepAt := none })) (Act.each (s.parts.filter (fun p => p.heated.contains c || p.pausedBy.contains c)) coolDown) s) v1 =
      perform (onVault c (fun v => { v with stepAt := none })) v1 := by
    have k : v1.parts.filter (fun p => p.heated.contains c || p.pausedBy.contains c) = [] := hf
    rw [perform]
    simp only [k]
    exact perform_seq _ _ v1
  rw [e, perform_onVault, vault_set_same, Vector.set_set]
theorem execVaultTemperatureRead_trip {milli : Int} (he : s.ev = .vaultTemperatureRead c milli) (h : 100000 ≤ milli) :
    ∃ t, execVaultTemperatureRead s = .next t ∧ t.outbox = s.outbox ++ [.heat (dieOf c) (s.channel c) milli] ∧ t.agenda = .event .thermalTrip :: s.agenda ∧ (t.vault c).temp = milli := by
  rw [execVaultTemperatureRead_next he, heatAct_trip h, perform_draw_none, perform_seq, perform_report]
  exact ⟨_, rfl, rfl, rfl, congrArg VaultSt.temp (vault_set_same ..)⟩
section
variable {milli : Int} {p : Part} (he : s.ev = .vaultTemperatureRead c milli) (h1 : milli < 100000) (h2 : s.limitC c * 1000 - 3000 ≤ milli) (hp : s.parts = [p]) (hn : p.cols.any (near c) = true)
include he h1 h2 hp hn
theorem execVaultTemperatureRead_step (hm : p.floor < p.mhz) (hv : (s.vault c).stepAt = none) :
    ∃ t, execVaultTemperatureRead s = .next t ∧ t.timers = s.timers ++ [{ part := some p.num, at_ := nextSlot p, ev := .throttleStep p.num }] ∧
      t.vault c = { s.vault c with temp := milli, stepAt := some s.tick } ∧ t.parts = [{ p with heated := if p.heated.contains c then p.heated else p.heated ++ [c] }] := by
  let q : Part := { p with heated := if p.heated.contains c then p.heated else p.heated ++ [c] }
  let w : State := { s with vaults := (s.vaults.set c { s.vault c with temp := milli }).set c { s.vault c with temp := milli, stepAt := some s.tick }, parts := [q] }
  have hq : s.parts.map (fun x => if x.num == p.num then { x with heated := if x.heated.contains c then x.heated else x.heated ++ [c] } else x) = [q] := by
    rw [hp, List.map_singleton, if_pos (beq_self_eq_true _)]
  have hw : perform (onVault c (fun v => { v with stepAt := some s.tick })) (perform (onPart p.num (fun p => { p with heated := if p.heated.contains c then p.heated else p.heated ++ [c] }))
      { s with vaults := s.vaults.set c { s.vault c with temp := milli } }) = w := by
    have k : State.vault { s with vaults := s.vaults.set c { s.vault c with temp := milli } } c = { s.vault c with temp := milli } := vault_set_same ..
    have e : perform (onPart p.num (fun p => { p with heated := if p.heated.contains c then p.heated else p.heated ++ [c] })) { s with vaults := s.vaults.set c { s.vault c with temp := milli } } =
        { s with vaults := s.vaults.set c { s.vault c with temp := milli }, parts := [q] } := by
      rw [← hq]; rfl
    have k' : State.vault { s with vaults := s.vaults.set c { s.vault c with temp := milli }, parts := [q] } c = { s.vault c with temp := milli } := k
    rw [e, perform_onVault, k']
  have hlate : w.partNow p.num < nextSlot p := by
    have e : w.part p.num = some q := by simp [State.part, w, q]
    rw [State.partNow, e]
    exact cyc_lt_nextSlot p
  rw [execVaultTemperatureRead_next he, heatAct_hot h1 h2 hp hn, if_pos hm, hv, perform_draw_none, perform_when_true, perform_all_cons, perform_all_cons, perform_all_cons, perform_all_nil, hw,
    perform_eventAtPart_later hlate]
  exact ⟨_, rfl, rfl, vget_set_same _ _ _, rfl⟩
theorem execVaultTemperatureRead_floor (hm : p.mhz ≤ p.floor) :
    ∃ t, execVaultTemperatureRead s = .next t ∧ t.vault c = { s.vault c with temp := milli } ∧
      (milli < s.limitC c * 1000 - 1000 → t.parts = [p] ∧ t.timers = s.timers) ∧
      (s.limitC c * 1000 - 1000 ≤ milli → t.parts = [{ p with pausedBy := if p.pausedBy.contains c then p.pausedBy else p.pausedBy ++ [c] }] ∧
        t.timers = s.timers ++ (if p.paused then [] else [{ part := some p.num, at_ := nextSlot p, ev := .pause p.num }])) := by
  rw [execVaultTemperatureRead_next he, heatAct_hot h1 h2 hp hn, if_neg (Nat.not_lt.mpr hm), perform_draw_none]
  by_cases hl : s.limitC c * 1000 - 1000 ≤ milli
  · let q : Part := { p with pausedBy := if p.pausedBy.contains c then p.pausedBy else p.pausedBy ++ [c] }
    let w : State := { s with vaults := s.vaults.set c { s.vault c with temp := milli }, parts := [q] }
    have hq : s.parts.map (fun x => if x.num == p.num then { x with pausedBy := if x.pausedBy.contains c then x.pausedBy else x.pausedBy ++ [c] } else x) = [q] := by
      rw [hp, List.map_singleton, if_pos (beq_self_eq_true _)]
    have hw : perform (onPart p.num (fun p => { p with pausedBy := if p.pausedBy.contains c then p.pausedBy else p.pausedBy ++ [c] })) { s with vaults := s.vaults.set c { s.vault c with temp := milli } } = w := by
      simp only [w, ← hq]; rfl
    have hlate : w.partNow p.num < nextSlot p := by
      have e : w.part p.num = some q := by simp [State.part, w, q]
      rw [State.partNow, e]
      exact cyc_lt_nextSlot p
    rw [decide_eq_true hl, perform_when_true, perform_seq, hw]
    by_cases hpa : p.paused = true
    · have hwhen : perform (Act.when (!p.paused) (eventAtPart p.num (nextSlot p) (.pause p.num))) w = w := by rw [hpa]; rfl
      rw [hwhen]
      exact ⟨_, rfl, vget_set_same _ _ _, fun h => absurd h (Int.not_lt.mpr hl), fun _ => ⟨rfl, by rw [if_pos hpa]; exact (List.append_nil _).symm⟩⟩
    · have hwhen : Act.when (!p.paused) (eventAtPart p.num (nextSlot p) (.pause p.num)) = eventAtPart p.num (nextSlot p) (.pause p.num) := by rw [(Bool.not_eq_true _).mp hpa]; rfl
      rw [hwhen, perform_eventAtPart_later hlate]
      exact ⟨_, rfl, vget_set_same _ _ _, fun h => absurd h (Int.not_lt.mpr hl), fun _ => ⟨rfl, by rw [if_neg hpa]⟩⟩
  · rw [decide_eq_false hl, perform_when_false]
    exact ⟨_, rfl, vget_set_same _ _ _, fun _ => ⟨hp, rfl⟩, fun h => absurd h hl⟩
end

/-! ## Clocks, pauses and power (R392, R393, R425) -/

section
variable {num : BitVec 16} {p : Part}
/-- A partition of which something but its number changes is found as it is then. -/
theorem find_part_map {f : Part → Part} (hf : ∀ p, (f p).num = p.num) (l : List Part) :
    (l.map (fun p => if p.num == num then f p else p)).find? (fun p => p.num == num) = (l.find? (fun p => p.num == num)).map f := by
  induction l with
  | nil => rfl
  | cons x l ih =>
    by_cases hx : x.num = num
    · simp [hx, hf]
    · have hb : (x.num == num) = false := beq_false_of_ne hx
      simp only [List.map_cons, List.find?_cons, hb, Bool.false_eq_true, if_false]
      exact ih
theorem part_onPart {f : Part → Part} (hf : ∀ p, (f p).num = p.num) (s : State) : (perform (onPart num f) s).part num = (s.part num).map f := find_part_map hf s.parts
theorem execThrottleStep_next (he : s.ev = .throttleStep num) (hp : s.part num = some p) (hc : p.cyc % 2048 = 0) :
    execThrottleStep s = .next { s with parts := s.parts.map (fun p => if p.num == num then { p with mhz := max p.floor (p.mhz - 50), stepped := s.tick } else p) } := by
  have e : execThrottleStep s = done (onPart num (fun p => { p with mhz := max p.floor (p.mhz - Config.stepMHz), stepped := s.tick })) s := by
    simp only [execThrottleStep, he, hp]
    exact if_neg (by rw [hc]; decide)
  rw [e]; rfl
theorem execThrottleRise_next (he : s.ev = .throttleRise num) (hp : s.part num = some p) (hk : s.coolPart p = true) (ha : p.atFloor = none) (hm : p.mhz < 1200)
    (ht : p.stepped + 1200000 ≤ s.tick) (hc : p.cyc % 2048 = 0) (hr : 1150 ≤ p.mhz) :
    execThrottleRise s = .next { s with parts := s.parts.map (fun p => if p.num == num then { p with mhz := 1200, stepped := s.tick, heated := [] } else p) } := by
  have hf : min Config.clockMHz (p.mhz + Config.stepMHz) = 1200 := Nat.min_eq_left (show 1200 ≤ p.mhz + 50 by omega)
  have h1 : ¬(!s.coolPart p || p.atFloor.isSome || decide (Config.clockMHz ≤ p.mhz)) = true := by
    rw [hk, ha, decide_eq_false (show ¬Config.clockMHz ≤ p.mhz from Nat.not_le.mpr hm)]; decide
  have e : execThrottleRise s = done (Act.seq (onPart num (fun p => { p with mhz := 1200, stepped := s.tick, heated := if (1200 : Nat) == Config.clockMHz then [] else p.heated }))
      (Act.when (decide (1200 < Config.clockMHz)) (eventTick (s.tick + 1200000) (.throttleRise num)))) s := by
    simp only [execThrottleRise, he, hp, hf]
    exact (if_neg h1).trans ((if_neg (Nat.not_lt.mpr ht)).trans (if_neg (by rw [hc]; decide)))
  rw [e]; rfl
theorem execPause_next (he : s.ev = .pause num) (hp : s.part num = some p) (hc : p.cyc % 2048 = 0) (hm : p.mhz ≤ p.floor) (hn : p.paused = false) :
    execPause s = .next { s with parts := s.parts.map (fun p => if p.num == num then { p with paused := true, pausedAt := s.tick } else p) } := by
  have h1 : ¬(decide (p.floor < p.mhz) || p.paused) = true := by rw [hn, decide_eq_false (Nat.not_lt.mpr hm)]; decide
  have e : execPause s = done (onPart num (fun p => { p with paused := true, pausedAt := s.tick })) s := by
    simp only [execPause, he, hp]
    exact (if_neg (by rw [hc]; decide)).trans (if_neg h1)
  rw [e]; rfl
theorem armRise_arms (num : BitVec 16) (s : State) : Ev.throttleRise num ∈ (perform (armRise num) s).timers.map (·.ev) := by
  by_cases h : s.timers.any (fun t => t.ev == .throttleRise num) = true
  · have e : armRise num s = [] := if_pos h
    obtain ⟨t, ht, k⟩ := List.any_eq_true.mp h
    rw [perform, e]
    exact List.mem_map.mpr ⟨t, ht, beq_iff_eq.mp k⟩
  · have e : armRise num s = eventTick (s.tick + 1200000) (.throttleRise num) s := if_neg h
    rw [perform, e]
    exact List.mem_map.mpr ⟨_, List.mem_append_right _ (List.mem_singleton.mpr rfl), rfl⟩
theorem only_armRise (num : BitVec 16) : (armRise num).Only [.timers] := fun s => by
  unfold armRise
  split
  · exact fun u hu => by cases hu
  · exact only_eventTick _ _ (by simp) s
theorem execPauseEnd_next (he : s.ev = .pauseEnd num) (hp : s.part num = some p) (hk : s.coolPause p = true) (hw : s.powerHolds p = false) (hn : p.paused = true) :
    ∃ t, execPauseEnd s = .next t ∧ t.parts = s.parts.map (fun p => if p.num == num then { p with paused := false, pausedBy := [] } else p) ∧ Ev.throttleRise num ∈ t.timers.map (·.ev) ∧
      t.units = s.units ∧ t.mems = s.mems ∧ (p.cols = [c] → t.vault c = (s.vault c).keptPause p.cyc ((s.tick - p.pausedAt) * p.mhz / 1200 : Nat) (s.unit c).span) := by
  let keeps := Act.each p.cols (fun c => onVault c (fun v => v.keptPause p.cyc ((s.tick - p.pausedAt) * p.mhz / Config.clockMHz : Nat) (s.unit c).span))
  have hkeeps : keeps.Only [.vaults] := only_each fun _ _ => only_onVault _ _ (by simp)
  have e : execPauseEnd s = done (Act.all [onPart num (fun p => { p with paused := false, pausedBy := [] }), keeps, armRise num]) s := by
    simp only [execPauseEnd, he, hp]
    exact if_neg (by rw [hk, hw, hn]; decide)
  have hrise := only_armRise num
  rw [e, done, perform_all_cons, perform_all_cons, perform_all_cons, perform_all_nil]
  refine ⟨_, rfl, ?_, armRise_arms _ _, ?_, ?_, fun hc => ?_⟩
  · rw [hrise.parts (by simp), hkeeps.parts (by simp), onPart_parts]
  · rw [hrise.units (by simp), hkeeps.units (by simp)]; rfl
  · rw [hrise.mems (by simp), hkeeps.mems (by simp)]; rfl
  · have hone : keeps = Act.each [c] (fun c => onVault c (fun v => v.keptPause p.cyc ((s.tick - p.pausedAt) * p.mhz / Config.clockMHz : Nat) (s.unit c).span)) := by simp only [keeps, hc]
    rw [(hrise.vaults (by simp)).vault, hone, perform_each_cons, perform_each_nil]
    exact vault_set_same ..
theorem execPauseEnd_stays (he : s.ev = .pauseEnd num) (hp : s.part num = some p) (h : s.coolPause p = false ∨ s.powerHolds p = true ∨ p.paused = false) : execPauseEnd s = .next s := by
  simp only [execPauseEnd, he, hp]
  refine if_pos ?_
  rcases h with h | h | h <;> simp [h]
section
variable {w : Nat} (he : s.ev = .powerLimitCheck w num) (hl : s.pkg.plim < w) (hp : s.part num = some p)
include he hl hp
theorem execPowerLimitCheck_step (hm : p.floor < p.mhz) : execPowerLimitCheck s = .next { s with
    parts := s.parts.map (fun p => if p.num == num then { p with atFloor := none } else p), timers := s.timers ++ [{ part := some num, at_ := nextSlot p, ev := .throttleStep num }] } := by
  have e : execPowerLimitCheck s = done (Act.seq (onPart num (fun p => { p with atFloor := none })) (eventAtPart num (nextSlot p) (.throttleStep num))) s := by
    simp only [execPowerLimitCheck, he, hp]
    exact (if_neg (Nat.not_le.mpr hl)).trans (if_pos hm)
  have hlate : (perform (onPart num (fun p => { p with atFloor := none })) s).partNow num < nextSlot p := by
    rw [State.partNow, part_onPart (f := fun p => { p with atFloor := none }) (fun _ => rfl) s, hp]
    exact cyc_lt_nextSlot p
  rw [e, done, perform_seq, perform_eventAtPart_later hlate]
  rfl
theorem execPowerLimitCheck_floor (hm : p.mhz ≤ p.floor) (ha : p.atFloor = none) :
    execPowerLimitCheck s = .next { s with parts := s.parts.map (fun p => if p.num == num then { p with atFloor := some s.tick } else p) } := by
  have e : execPowerLimitCheck s = done (onPart num (fun p => { p with atFloor := some s.tick })) s := by
    simp only [execPowerLimitCheck, he, hp]
    exact (if_neg (Nat.not_le.mpr hl)).trans ((if_neg (Nat.not_lt.mpr hm)).trans (if_neg (by rw [ha]; decide)))
  rw [e]; rfl
variable {t : Nat} (hm : p.mhz ≤ p.floor) (ha : p.atFloor = some t)
include hm ha
theorem execPowerLimitCheck_held : execPowerLimitCheck s = done (Act.when (decide (t + 1200000 ≤ s.tick) && !p.paused) (eventAtPart num (nextSlot p) (.pause num))) s := by
  have hold : s.powerHolds p = decide (t + 1200000 ≤ s.tick) := by rw [State.powerHolds, ha]
  rw [← hold]
  simp only [execPowerLimitCheck, he, hp]
  exact (if_neg (Nat.not_le.mpr hl)).trans ((if_neg (Nat.not_lt.mpr hm)).trans (if_pos (by rw [ha]; rfl)))
theorem execPowerLimitCheck_early (h : s.tick < t + 1200000) : execPowerLimitCheck s = .next s := by
  rw [execPowerLimitCheck_held he hl hp hm ha, decide_eq_false (Nat.not_le.mpr h)]
  rfl
theorem execPowerLimitCheck_pauses (h : t + 1200000 ≤ s.tick) (hn : p.paused = false) :
    execPowerLimitCheck s = .next { s with timers := s.timers ++ [{ part := some num, at_ := nextSlot p, ev := .pause num }] } := by
  have hlate : s.partNow num < nextSlot p := by
    rw [State.partNow, hp]
    exact cyc_lt_nextSlot p
  rw [execPowerLimitCheck_held he hl hp hm ha, decide_eq_true h, hn]
  exact congrArg Host.Outcome.next (perform_eventAtPart_later hlate)
end
end
theorem perform_eventNow (e : Ev) (s : State) : perform (eventNow e) s = { s with agenda := .event e :: s.agenda } := rfl
theorem execThermalTrip_next (he : s.ev = .thermalTrip) : ∃ t, execThermalTrip s = .next t ∧ t.outbox = s.outbox ++ [.trip] ∧
    t.agenda = [3, 2, 1, 0].map (fun d => Task.event (.dieReset d)) ++ s.agenda ∧ t.mems = s.mems := by
  have e : execThermalTrip s = done (Act.seq (Act.each allDies (fun d => eventNow (.dieReset d))) (report .trip)) s := by simp only [execThermalTrip, he]
  rw [e, done, perform_seq, allDies]
  simp only [perform_each_cons, perform_each_nil, perform_eventNow, perform_report]
  exact ⟨_, rfl, rfl, rfl, rfl⟩

/-! ## Idle states (R424) -/

theorem execIdleStateEntry_next {st : IdleState} (he : s.ev = .idleStateEntry c st) (h1 : s.mayIdle c st = true) (h2 : (s.vault c).deeper st = true)
    (h3 : (s.vault c).idleAt + IdleState.after st ≤ s.tick) : execIdleStateEntry s = .next { s with vaults := s.vaults.set c { s.vault c with idle := some st } } := by
  have e : execIdleStateEntry s = done (onVault c (fun v => { v with idle := some st })) s := by
    simp only [execIdleStateEntry, he]
    exact if_pos (by rw [h1, h2, decide_eq_true h3]; rfl)
  rw [e]; rfl
theorem execIdleStateEntry_stays {st : IdleState} (he : s.ev = .idleStateEntry c st) (h : s.mayIdle c st = false ∨ (s.vault c).deeper st = false ∨ s.tick < (s.vault c).idleAt + IdleState.after st) :
    execIdleStateEntry s = .next s := by
  simp only [execIdleStateEntry, he]
  refine if_neg ?_
  rw [Bool.and_eq_true, Bool.and_eq_true, decide_eq_true_eq]
  rintro ⟨⟨h1, h2⟩, h3⟩
  rcases h with h | h | h
  · exact absurd h1 (by rw [h]; exact Bool.false_ne_true)
  · exact absurd h2 (by rw [h]; exact Bool.false_ne_true)
  · exact absurd h3 (Nat.not_le.mpr h)
end

/-- Settles O60: each event as a lemma above tells what it does. -/
theorem powerEvents : Obligations.PowerEvents := by
  intro s c v onP
  refine ⟨fun r he hr hf => ?_, fun r he h => execPowerGood_done he h, fun d he hb hp => execDieReset_next he hb hp, fun d e he hd => execLinkRetrain_next he hd,
    fun d e gen he h => execResetNotice_known he h, fun d e gen he h => (execResetNotice_new he h).trans (congrArg _ (perform_learnReset d e gen s)),
    fun d e t he h ht => (execLinkDownTimeout_next he h ht).trans (congrArg _ (perform_learnReset d e _ s)), fun pkg he h => execPeerPackageTimeout_forgotten he h, ?_,
    fun milli he h hp => execVaultTemperatureRead_cool he h hp, fun milli he h => execVaultTemperatureRead_trip he h,
    fun milli p he h2 h1 hp hn hm hv => execVaultTemperatureRead_step he h1 h2 hp hn hm hv, fun milli p he h2 h1 hp hn hm => execVaultTemperatureRead_floor he h1 h2 hp hn hm,
    fun num p he hp hc => execThrottleStep_next he hp hc, fun num p he hp hk ha hm ht hc hr => execThrottleRise_next he hp hk ha hm ht hc hr,
    fun num p he hp hc hm hn => execPause_next he hp hc hm hn, fun num p he hp => ⟨fun hk hw hn => execPauseEnd_next he hp hk hw hn, fun h => execPauseEnd_stays he hp h⟩,
    fun w num p he hl hp => ⟨execPowerLimitCheck_step he hl hp, execPowerLimitCheck_floor he hl hp, fun t hm ha => ⟨execPowerLimitCheck_early he hl hp hm ha, execPowerLimitCheck_pauses he hl hp hm ha⟩⟩,
    fun he => execThermalTrip_next he, fun st he => ⟨execIdleStateEntry_next he, execIdleStateEntry_stays he⟩⟩
  · intro pass
    obtain ⟨t, e, hd, hready, hfailed, ho, hm⟩ := execPowerGood_boots he hr hf
    refine ⟨t, e, by rw [hd, hready], hfailed, fun d h => ?_, fun h hl => hd.trans (bootDies_all h hl), ho, by rw [hd]; exact hm⟩
    rw [hd] at h ⊢
    exact bootDies_pass h
  · intro pkg n he hf hc ht off
    exact ⟨execPeerPackageTimeout_nothing he hf hc ht, fun a ha hp => ⟨execPeerPackageTimeout_early he hf hc ht ha hp, execPeerPackageTimeout_late he hf hc ht ha hp⟩⟩

end Sys2Proof.Machine

/-! PROOF. Placement, scheduling passes, slices, leaders, partitions, jobs and handlers (R224, R357 to R362, R369 to R373, R390, R418, R422). -/
namespace Sys2Proof.Machine

section
variable {s : State}

/-! ## Placement (R224, R361) -/

theorem queue_key {d : Die} {q : Fin 64} {k : Queue} (h : s.queue d q = some k) : k ∈ s.work.queues ∧ k.die = d ∧ k.q = q := by
  have hk := List.find?_some h
  simp only [Bool.and_eq_true, beq_iff_eq] at hk
  exact ⟨List.mem_of_find?_eq_some h, hk.1, hk.2⟩
section
variable {id : Nat} {r : LReq} {k : Queue} {j : Job} {p : Part} (he : s.ev = .launchPlacement id) (hr : s.work.reqs.find? (fun r => r.id == id) = some r) (hk : s.queue r.die r.q = some k)
  (hj : s.job r.job = some j) (hp : s.part r.part = some p) (ho : k.owner = r.part)
include he hr hk hj hp ho
theorem execLaunchPlacement_queued (hl : k.leader.isSome = true) (hn : k.items.length < 1024) (hb : s.descBad j p r.desc = false) :
    ∃ t, execLaunchPlacement s = .next t ∧ t.work.reqs = s.work.reqs.filter (fun r => r.id != id) ∧ t.units = s.units ∧
      ∃ y ∈ t.work.queues, y.die = r.die ∧ y.q = r.q ∧ ∃ x ∈ y.items, x.id = id ∧ x.desc = r.desc ∧ x.arg = r.arg ∧ x.pri = r.pri := by
  let x : Placed := { id := id, desc := r.desc, arg := r.arg, job := r.job, pri := r.pri, placed := s.tick, elig := none }
  let gone := onWork (fun w => { w with reqs := w.reqs.filter (fun r => r.id != id) })
  let deps := addJobWord j r.desc wDeps (r.deps.zeroExtend 64)
  have e : execLaunchPlacement s = done (Act.all [gone, deps, onQueue r.die r.q (fun k => { k with items := k.items ++ [x] }),
      onWork (fun w => { w with jobs := w.jobs.map (fun (y : Job) =>
        if y.handle == r.job && !y.placed.contains r.desc then { y with placed := y.placed ++ [r.desc], ended := y.ended ++ s.standing j r.desc } else y) })]) s := by
    have h1 : ¬(k.owner != r.part) = true := by simp [ho]
    have h2 : ¬(k.leader.isNone || decide (1024 ≤ k.items.length)) = true := by
      obtain ⟨l, hl⟩ := Option.isSome_iff_exists.mp hl
      simp [hl, hn]
    simp only [execLaunchPlacement, he, hr, hk, hj, hp]
    exact (if_neg h1).trans ((if_neg h2).trans (if_neg (by rw [hb]; exact Bool.false_ne_true)))
  have hdeps : deps.Only [.mems, .ext, .extDirty, .vaults] := only_addJobWord _ _ _ _
  have hwork : (perform deps (perform gone s)).work = { s.work with reqs := s.work.reqs.filter (fun r => r.id != id) } := hdeps.work (by simp) _
  have hunits : (perform deps (perform gone s)).units = s.units := hdeps.units (by simp) _
  rw [e, done, perform_all_cons, perform_all_cons, perform_all_cons, perform_all_cons, perform_all_nil, onQueue, perform_onWork, perform_onWork]
  refine ⟨_, rfl, congrArg Work.reqs hwork, hunits, ?_⟩
  obtain ⟨hm, hd, hq⟩ := queue_key hk
  refine ⟨{ k with items := k.items ++ [x] }, ?_, hd, hq, x, List.mem_append_right _ (List.mem_singleton.mpr rfl), rfl, rfl, rfl, rfl⟩
  rw [hwork]
  refine List.mem_map.mpr ⟨k, hm, if_pos ?_⟩
  rw [hd, hq, beq_self_eq_true, beq_self_eq_true]; rfl
theorem execLaunchPlacement_waits (hl : k.leader = none ∨ 1024 ≤ k.items.length) : ∃ t, execLaunchPlacement s = .next t ∧ t.work.reqs = s.work.reqs ∧ t.mems = s.mems := by
  have e : execLaunchPlacement s = done (onQueue r.die r.q (fun k => { k with held := if k.held.contains id then k.held else k.held ++ [id] })) s := by
    have h1 : ¬(k.owner != r.part) = true := by simp [ho]
    have h2 : (k.leader.isNone || decide (1024 ≤ k.items.length)) = true := by rcases hl with h | h <;> simp [h]
    simp only [execLaunchPlacement, he, hr, hk, hj, hp]
    exact (if_neg h1).trans (if_pos h2)
  rw [e]
  exact ⟨_, rfl, rfl, rfl⟩
end

/-! ## A queue's pass (R362, R370) -/

/-- Launches whose dependences are met have become eligible. -/
def State.marked (s : State) (x : Placed) : Placed :=
  match s.job x.job with
  | some j => if x.elig.isNone && s.jobWord j x.desc wDeps == 0 then { x with elig := some s.tick } else x
  | none => x
/-- The state at a pass of a queue once it has noted what has become eligible. -/
def State.noted (s : State) (k : Queue) (die : Die) (q : Fin 64) : State :=
  { s with work := { s.work with
    queues := (s.work.queues.map (fun y => if y.leader == k.leader && y.owner == k.owner then { y with items := y.items.map s.marked } else y)).map
      (fun y => if y.die == die && y.q == q then { y with held := [] } else y) } }
/-- What the pass does then. -/
def passAct (k : Queue) (p : Part) : Act := fun s => let all := sortCands (s.rivals k); tryBind k p all all (s.freeCols p) [] s
section
variable {die : Die} {q : Fin 64} {k : Queue} {p : Part} (he : s.ev = .schedulingPass die q) (hk : s.queue die q = some k) (hp : s.part k.owner = some p)
include he hk hp
theorem execSchedulingPass_leaderless (hl : k.leader = none) : execSchedulingPass s = .next s := by
  simp only [execSchedulingPass, he, hk, hp]
  exact if_pos (by simp [hl])
theorem execSchedulingPass_next (hl : k.leader.isSome = true) (hc : p.closing = false) (hpa : p.paused = false) (hb : p.cyc % 2048 = 0) (hh : k.held = []) :
    execSchedulingPass s = .next (perform (passAct k p) (s.noted k die q)) := by
  have h : ¬(k.leader.isNone || p.closing || p.paused || p.cyc % 2048 != 0) = true := by
    obtain ⟨l, hl⟩ := Option.isSome_iff_exists.mp hl
    simp [hl, hc, hpa, hb]
  have e : execSchedulingPass s = done (Act.all [onWork (fun w => { w with queues := w.queues.map (fun y => if y.leader == k.leader && y.owner == k.owner then { y with items := y.items.map s.marked } else y) }),
      onQueue die q (fun k => { k with held := [] }), Act.each k.held (fun id => eventNow (.launchPlacement id)), passAct k p]) s := by
    simp only [execSchedulingPass, he, hk, hp]
    exact if_neg h
  rw [e, hh, done, perform_all_cons, perform_all_cons, perform_all_cons, perform_all_cons, perform_all_nil, perform_each_nil]
  rfl
end
section
variable {k : Queue} {die : Die} {q : Fin 64} {p : Part} {t : State} {all : List Cand} {x y : Cand} {cols : List Col}
theorem noted_fit (x : Cand) (free : List Col) (n : Nat) : (s.noted k die q).fit x free n = s.fit x free n := rfl
theorem noted_freeCols (p : Part) : (s.noted k die q).freeCols p = s.freeCols p := rfl
theorem noted_passComes (x : Cand) : (s.noted k die q).passComes x = s.passComes x := rfl
theorem noted_job (h : Dword) : (s.noted k die q).job h = s.job h := rfl
theorem mem_insertCand {a : Cand} {l : List Cand} (h : x ∈ insertCand a l) : x = a ∨ x ∈ l := by
  induction l with
  | nil => exact .inl (List.mem_singleton.mp h)
  | cons b l ih =>
    rw [insertCand] at h
    split at h
    · exact List.mem_cons.mp h
    · rcases List.mem_cons.mp h with rfl | h
      · exact .inr List.mem_cons_self
      · exact (ih h).imp_right (List.mem_cons_of_mem _)
theorem mem_sortCands {l : List Cand} (h : x ∈ sortCands l) : x ∈ l := by
  have step : ∀ (l acc : List Cand), x ∈ l.foldl (fun l a => insertCand a l) acc → x ∈ l ∨ x ∈ acc := by
    intro l
    induction l with
    | nil => exact fun acc h => .inr h
    | cons a l ih =>
      intro acc h
      rcases ih _ h with h | h
      · exact .inl (List.mem_cons_of_mem _ h)
      · exact (mem_insertCand h).imp_left fun e => by rw [e]; exact List.mem_cons_self
  exact (step l [] h).resolve_right (by simp)
/-- Where no launch fits, nothing is bound. -/
theorem tryBind_none {l : List Cand} {free : List Col} {given : List (Die × Fin 64)}
    (h : ∀ x ∈ l, ∀ f, (∀ c ∈ f, c ∈ free) → t.fit x f (t.free + 1000) = none) : tryBind k p all l free given t = [] := by
  induction l generalizing free with
  | nil => rfl
  | cons x l ih =>
    simp only [tryBind, h x List.mem_cons_self free (fun _ h => h)]
    exact ih fun y hy f hf => h y (List.mem_cons_of_mem _ hy) f fun c hc => (List.mem_filter.mp (hf c hc)).1
theorem passAct_none (h : ∀ x ∈ t.rivals k, ∀ f, (∀ c ∈ f, c ∈ t.freeCols p) → t.fit x f (t.free + 1000) = none) : perform (passAct k p) t = t := by
  have e : passAct k p t = [] := tryBind_none fun x hx => h x (mem_sortCands hx)
  rw [perform, e]; rfl
/-- A launch of another queue that comes before keeps its columns from the queue's own one. -/
theorem passAct_kept (hs : sortCands (t.rivals k) = [x, y]) (hx : x.of k = false) (hfit : t.fit x (t.freeCols p) (t.free + 1000) = some cols) (hv : t.verdict p x = .go)
    (hc : x.eff = 8 ∨ t.passComes x = true) (hy : t.fit y ((t.freeCols p).filter (fun c => !cols.contains c)) (t.free + 1000) = none) : perform (passAct k p) t = t := by
  have hkeep : (x.eff == 8 || (t.passComes x && !([] : List (Die × Fin 64)).contains (x.qdie, x.q))) = true := by
    rcases hc with h | h <;> simp [h]
  have e : passAct k p t = [] := by
    simp only [passAct, hs, tryBind, hfit, hv, hx, hkeep, hy]
    rfl
  rw [perform, e]; rfl
theorem passAct_own {l : List Cand} (hs : sortCands (t.rivals k) = x :: l) (hx : x.of k = true) (hfit : t.fit x (t.freeCols p) (t.free + 1000) = some cols) (hv : t.verdict p x = .go) :
    passAct k p t = grant k p (x :: l) x cols t := by
  simp only [passAct, hs, tryBind, hfit, hv, hx]
  rfl

/-! ## What a pass binds (R365, R367) -/

theorem only_takeTurn (all : List Cand) (x : Cand) : (takeTurn all x).Only [.work] := by
  unfold takeTurn
  exact only_onWork _ (by simp)
theorem takeTurn_bound (all : List Cand) (x : Cand) (t : State) : (perform (takeTurn all x) t).work.bound = t.work.bound := rfl
theorem grant_resumes (hv : t.verdict p x = .go) (hs : x.saved = true) : grant k p all x cols t = Act.seq (takeTurn all x) (eventNow (.resume x.id)) t := by
  simp only [grant, hv, hs]
  rfl
theorem grant_binds {j : Job} (hv : t.verdict p x = .go) (hs : x.saved = false) (hj : t.job x.job = some j) :
    grant k p all x cols t = Act.all [fun s => [.free (s.free + 2000)], takeTurn all x, bindLaunch k p j x cols] t := by
  simp only [grant, hv, hs, hj]
  rfl
/-- The bind record of a column of a launch. -/
def bindRec (t : State) (p : Part) (x : Cand) (k : Queue) (base : Int) (id : Nat) (y : Nat × Col) (r : Slot) : Slot :=
  { r with base := BitVec.ofInt 64 (base + t.off y.2), desc := x.desc, savepg := BitVec.ofNat 17 (Config.savePage id y.2 % (2 ^ 17 - imgPages)), part := p.num,
           qdie := k.die, qnum := k.q, unit := BitVec.ofNat 9 y.1, cmd := .bind, arg := x.arg, launch := id }
/-- The bind of a column. -/
def bindCol (t : State) (p : Part) (x : Cand) (k : Queue) (base : Int) (id : Nat) (y : Nat × Col) : Act := Act.seq (onSlot y.2 (bindRec t p x k base id y)) (eventNow (.bind y.2))
def boundOf (t : State) (p : Part) (x : Cand) (k : Queue) (cols : List Col) (id : Nat) : Bound :=
  { id := id, desc := x.desc, arg := x.arg, job := x.job, part := p.num, qdie := k.die, q := k.q, cols := cols, faulted := [], since := t.tick, pri := x.pri, saved := false }
/-- The launch leaves its queue and is bound. -/
def bindWork (x : Cand) (b : Bound) : Act := onWork (fun w => { w with bound := w.bound ++ [b], jobs := w.jobs.map (fun (y : Job) => if y.handle == x.job then { y with cols := y.cols ++ b.cols.filter (fun c => !y.cols.contains c), gone := y.gone.filter (fun g => !b.cols.contains g.1) } else y) })
/-- A bind under an identity, with its base. -/
def bindBody (t : State) (k : Queue) (p : Part) (x : Cand) (cols : List Col) (base : Int) (id : Nat) : Act :=
  Act.all [onQueue k.die k.q (fun k => { k with items := k.items.filter (fun y => y.id != x.id) }), bindWork x (boundOf t p x k cols id),
    Act.each ((List.range cols.length).zip cols) (bindCol t p x k base id), eventTick (t.tick + sliceTicks) (.sliceEnd id)]
theorem bindLaunch_eq (j : Job) : ∃ base, bindLaunch k p j x cols t = .nextId (t.nextId + 1) :: .free (t.free + 1) :: bindBody t k p x cols base (t.nextId + 1) t := ⟨_, rfl⟩
theorem only_bindCol (base : Int) (id : Nat) (y : Nat × Col) : (bindCol t p x k base id y).Only [.slots, .agenda] := only_seq (only_onSlot _ _ (by simp)) (only_eventNow _ (by simp))
theorem only_bindBody (base : Int) (id : Nat) : (bindBody t k p x cols base id).Only [.work, .slots, .agenda, .timers] := only_all fun a ha => by
  simp only [List.mem_cons, List.not_mem_nil, or_false] at ha
  rcases ha with rfl | rfl | rfl | rfl
  · exact only_onWork _ (by simp)
  · exact only_onWork _ (by simp)
  · exact only_each fun y _ => (only_bindCol _ _ _).mono (by simp)
  · exact only_eventTick _ _ (by simp)
/-- What a bind record says. -/
def BoundSlot (x : Cand) (id : Nat) (r : Slot) : Prop := r.launch = id ∧ r.desc = x.desc ∧ r.arg = x.arg ∧ r.cmd = .bind
theorem each_bindCol {base : Int} {id : Nat} {c : Col} {l : List (Nat × Col)} : ∀ {w : State}, (∃ i, (i, c) ∈ l) ∨ (BoundSlot x id (w.slot c) ∧ Task.event (.bind c) ∈ w.agenda) →
    let r := perform (Act.each l (bindCol t p x k base id)) w
    BoundSlot x id (r.slot c) ∧ Task.event (.bind c) ∈ r.agenda := by
  induction l with
  | nil => intro w h; exact h.resolve_left (by simp)
  | cons y l ih =>
    intro w h
    rw [perform_each_cons]
    refine ih ?_
    have e : perform (bindCol t p x k base id y) w = { w with slots := w.slots.set y.2 (bindRec t p x k base id y (w.slot y.2)), agenda := .event (.bind y.2) :: w.agenda } := perform_seq ..
    rw [e]
    by_cases hc : c = y.2
    · subst hc
      have hslot : State.slot { w with slots := w.slots.set y.2 (bindRec t p x k base id y (w.slot y.2)), agenda := .event (.bind y.2) :: w.agenda } y.2 = bindRec t p x k base id y (w.slot y.2) := slot_set_same w _ _
      rw [hslot]
      exact .inr ⟨⟨rfl, rfl, rfl, rfl⟩, List.mem_cons_self⟩
    · have hslot : State.slot { w with slots := w.slots.set y.2 (bindRec t p x k base id y (w.slot y.2)), agenda := .event (.bind y.2) :: w.agenda } c = w.slot c := slot_set_other w _ hc
      rw [hslot]
      refine h.imp (fun ⟨i, hi⟩ => ⟨i, (List.mem_cons.mp hi).resolve_left fun k => hc (congrArg Prod.snd k)⟩) fun ⟨h1, h2⟩ => ⟨h1, List.mem_cons_of_mem _ h2⟩
theorem mem_range_zip {α : Type} {l : List α} {c : α} (h : c ∈ l) : ∃ i, (i, c) ∈ (List.range l.length).zip l := by
  obtain ⟨i, hi, rfl⟩ := List.mem_iff_getElem.mp h
  exact ⟨i, List.mem_iff_getElem.mpr ⟨i, by simpa using hi, by simp⟩⟩
/-- Updates made from one state leave the same slots and agenda on another that has them in common. -/
theorem run_congr_slots (l : List Upd) {s t : State} (hs : s.slots = t.slots) (ha : s.agenda = t.agenda) : (run l s).slots = (run l t).slots ∧ (run l s).agenda = (run l t).agenda := by
  induction l generalizing s t with
  | nil => exact ⟨hs, ha⟩
  | cons u l ih =>
    refine ih (s := u.apply s) (t := u.apply t) ?_ ?_
    · cases u <;> simp only [Upd.apply, hs]
    · cases u <;> simp only [Upd.apply, ha]
/-- What a bind leaves: the launch is gone from its queue, is bound under its identity, and has a bind record and a bind command at each of its columns. -/
theorem bindLaunch_binds (j : Job) (t : State) :
    let r := perform (bindLaunch k p j x cols) t
    let b := boundOf t p x k cols (t.nextId + 1)
    r.mems = t.mems ∧ r.units = t.units ∧ r.work.queues = t.work.queues.map (fun y => if y.die == k.die && y.q == k.q then { y with items := y.items.filter (fun y => y.id != x.id) } else y) ∧
      b ∈ r.work.bound ∧ ∀ c ∈ cols, BoundSlot x b.id (r.slot c) ∧ Task.event (.bind c) ∈ r.agenda := by
  intro r b
  obtain ⟨base, e⟩ := bindLaunch_eq (k := k) (p := p) (x := x) (cols := cols) (t := t) j
  let body := bindBody t k p x cols base (t.nextId + 1)
  let w : State := { t with nextId := t.nextId + 1, free := t.free + 1 }
  have er : r = run (body t) w := by simp only [r, perform, e]; rfl
  obtain ⟨hu, hm, hw⟩ := run_congr (body t) (s := w) (t := t) rfl rfl rfl
  obtain ⟨hs, ha⟩ := run_congr_slots (body t) (s := w) (t := t) rfl rfl
  have only : body.Only [.work, .slots, .agenda, .timers] := only_bindBody _ _
  let t1 := perform (bindWork x b) (perform (onQueue k.die k.q (fun k => { k with items := k.items.filter (fun y => y.id != x.id) })) t)
  let binds := Act.each ((List.range cols.length).zip cols) (bindCol t p x k base (t.nextId + 1))
  have hbinds : binds.Only [.slots, .agenda] := only_each fun _ _ => only_bindCol _ _ _
  have hslice := only_eventTick (t.tick + sliceTicks) (.sliceEnd (t.nextId + 1)) (ps := [.timers]) (by simp)
  have hbody : perform body t = perform (eventTick (t.tick + sliceTicks) (.sliceEnd (t.nextId + 1))) (perform binds t1) := by
    simp only [body, bindBody, perform_all_cons, perform_all_nil]
    rfl
  have hwork : r.work = t1.work := by
    rw [er, hw]
    change (perform body t).work = _
    rw [hbody, hslice.work (by simp), hbinds.work (by simp)]
  have hcols : ∀ c ∈ cols, BoundSlot x b.id ((perform body t).slot c) ∧ Task.event (.bind c) ∈ (perform body t).agenda := fun c hc => by
    rw [hbody, (hslice.slots (by simp)).slot, hslice.agenda (by simp)]
    exact each_bindCol (.inl (mem_range_zip hc))
  refine ⟨?_, ?_, ?_, ?_, fun c hc => ?_⟩
  · rw [er, hm]
    exact only.mems (by simp) t
  · rw [er, hu]
    exact only.units (by simp) t
  · rw [hwork]; rfl
  · rw [hwork]
    exact List.mem_append_right _ (List.mem_singleton.mpr rfl)
  · rw [er, State.slot, hs, ha]
    exact hcols c hc
theorem passAct_binds {j : Job} {l : List Cand} (hs : sortCands (t.rivals k) = x :: l) (hx : x.of k = true) (hfit : t.fit x (t.freeCols p) (t.free + 1000) = some cols)
    (hsav : x.saved = false) (hj : t.job x.job = some j) (hf : t.floorBad p j x = false) :
    let r := perform (passAct k p) t
    r.mems = t.mems ∧ r.units = t.units ∧ (∀ y ∈ r.work.queues, y.die = k.die → y.q = k.q → ∀ z ∈ y.items, z.id ≠ x.id) ∧
      ∃ b ∈ r.work.bound, b.id = t.nextId + 1 ∧ b.desc = x.desc ∧ b.job = x.job ∧ b.arg = x.arg ∧ b.cols = cols ∧ b.part = p.num ∧ b.qdie = k.die ∧ b.q = k.q ∧ b.saved = false ∧
        ∀ c ∈ cols, BoundSlot x b.id (r.slot c) ∧ Task.event (.bind c) ∈ r.agenda := by
  intro r
  have hv : t.verdict p x = .go := by
    simp only [State.verdict, hsav, hj, hf]
    rfl
  let w := perform (takeTurn (x :: l) x) (perform (fun s => [.free (s.free + 2000)]) t)
  have e : r = perform (bindLaunch k p j x cols) w := by
    have h : r = perform (Act.all [fun s => [.free (s.free + 2000)], takeTurn (x :: l) x, bindLaunch k p j x cols]) t := by
      simp only [r, perform]
      rw [passAct_own hs hx hfit hv, grant_binds hv hsav hj]
    rw [h, perform_all_cons, perform_all_cons, perform_all_cons, perform_all_nil]
  obtain ⟨h1, h2, h3, h4, h5⟩ := bindLaunch_binds (k := k) (p := p) (x := x) (cols := cols) j w
  rw [← e] at h1 h2 h3 h4 h5
  refine ⟨h1, h2, fun y hy hd hq z hz => ?_, boundOf w p x k cols (w.nextId + 1), h4, rfl, rfl, rfl, rfl, rfl, rfl, rfl, rfl, rfl, h5⟩
  rw [h3] at hy
  obtain ⟨y', -, rfl⟩ := List.mem_map.mp hy
  by_cases hk : (y'.die == k.die && y'.q == k.q) = true
  · rw [if_pos hk] at hz
    simpa using (List.mem_filter.mp hz).2
  · rw [if_neg hk] at hd hq
    exact absurd (by rw [hd, hq, beq_self_eq_true, beq_self_eq_true]; rfl) hk
theorem passAct_resumes {l : List Cand} (hs : sortCands (t.rivals k) = x :: l) (hx : x.of k = true) (hfit : t.fit x (t.freeCols p) (t.free + 1000) = some cols)
    (hsav : x.saved = true) (hw : t.wheelTaken x.id p = false) :
    let r := perform (passAct k p) t
    r.agenda = .event (.resume x.id) :: t.agenda ∧ r.mems = t.mems ∧ r.units = t.units ∧ r.slots = t.slots ∧ r.work.bound = t.work.bound := by
  intro r
  have hv : t.verdict p x = .go := by
    simp only [State.verdict, hsav, hw]
    rfl
  have e : r = perform (eventNow (.resume x.id)) (perform (takeTurn (x :: l) x) t) := by
    simp only [r, perform]
    rw [passAct_own hs hx hfit hv, grant_resumes hv hsav]
    exact perform_seq _ _ t
  rw [e]
  exact ⟨rfl, rfl, rfl, rfl, rfl⟩
end

/-! ## Slices and leaders (R370, R372) -/

section
variable {id : Nat} {b : Bound} {p : Part} (he : s.ev = .sliceEnd id) (hb : s.work.bound.find? (fun b => b.id == id && !b.saved) = some b) (hp : s.part b.part = some p)
include he hb hp
/-- Some launch that waits needs the columns of a bound one. -/
def State.wanted (s : State) (p : Part) (b : Bound) : Prop := ∃ k ∈ s.work.queues, k.owner = b.part ∧ k.leader.isSome = true ∧ ∃ x ∈ s.cands k, s.needs p b x = true
/-- A bound launch can be pre-empted. -/
def State.canStop (s : State) (b : Bound) : Prop := ∀ c ∈ b.cols, ((s.slot c).st = .running ∨ (s.slot c).st = .stopped ∨ (s.slot c).st = .held) ∧ (s.unit c).ctl.dead = false
omit he hb hp in
theorem wanted_iff : (s.work.queues.filter (fun k => k.owner == b.part && k.leader.isSome)).any (fun k => (s.cands k).any (s.needs p b)) = true ↔ s.wanted p b := by
  simp only [State.wanted, List.any_eq_true, List.mem_filter, Bool.and_eq_true, beq_iff_eq, and_assoc]
omit he hb hp in
theorem canStop_iff : b.cols.all (fun c => [.running, .stopped, .held].contains (s.slot c).st && !(s.unit c).ctl.dead) = true ↔ s.canStop b := by
  simp only [State.canStop, List.all_eq_true, Bool.and_eq_true, List.contains_iff_mem, List.mem_cons, List.not_mem_nil, or_false, Bool.not_eq_true']
theorem execSliceEnd_eq (w can : Bool) (hw : (s.work.queues.filter (fun k => k.owner == b.part && k.leader.isSome)).any (fun k => (s.cands k).any (s.needs p b)) = w)
    (hc : b.cols.all (fun c => [.running, .stopped, .held].contains (s.slot c).st && !(s.unit c).ctl.dead) = can) :
    execSliceEnd s = if w && can then done (eventAtPart b.part (slotAfter p.cyc) (.preempt id)) s
      else done (eventTick (s.tick + (if w then 2048 else sliceTicks)) (.sliceEnd id)) s := by
  simp only [execSliceEnd, he, hb, hp, hw, hc]
end
theorem execLeaderHandover_next {die : Die} {q : Fin 64} (he : s.ev = .leaderHandover die q) : execLeaderHandover s = .next { s with work := { s.work with
    queues := s.work.queues.map (fun k => if k.die == die && k.q == q then { k with leader := s.leader die } else k) } } := by
  have e : execLeaderHandover s = done (onQueue die q (fun k => { k with leader := s.leader die })) s := by simp only [execLeaderHandover, he]
  rw [e]; rfl

/-! ## Jobs, partitions and handlers (R357, R362, R369, R390) -/

theorem execRootLaunchPlacement_next {r : JobReq} {k : Queue} (he : s.ev = .rootLaunchPlacement r) (hs : s.pkg.session = true) (hj : s.job r.handle = none) (hk : s.queue r.die r.q = some k)
    (ho : k.owner = r.part) :
    ∃ t j, execRootLaunchPlacement s = .next t ∧ j ∈ t.work.jobs ∧ j.handle = r.handle ∧ j.map = r.map ∧ j.groups = r.groups ∧ t.agenda = .event (.launchPlacement (s.nextId + 1)) :: s.agenda ∧
      t.work.reqs = s.work.reqs ++ [{ id := s.nextId + 1, die := r.die, q := r.q, part := r.part, desc := r.desc, arg := r.arg, job := r.handle, pri := r.pri, deps := 0 }] := by
  let j : Job := { handle := r.handle, part := r.part, root := r.desc, groups := r.groups, pkg := r.pkg, map := r.map, placed := [], cols := [],
                   ended := [], cut := [], gone := [], log := [], storage := none, reserves := [] }
  let place := fun id => Act.seq (onWork (fun w => { w with reqs := w.reqs ++ [{ id := id, die := r.die, q := r.q, part := r.part, desc := r.desc, arg := r.arg, job := r.handle, pri := r.pri, deps := 0 }] }))
    (eventNow (.launchPlacement id))
  have e : execRootLaunchPlacement s = done (managed (Act.when true (Act.seq (onWork (fun w => { w with jobs := w.jobs.filter (fun k => k.handle != r.handle) ++ [j] })) (fresh place)))) s := by
    have h : (k.owner == r.part) = true := beq_iff_eq.mpr ho
    simp only [execRootLaunchPlacement, he, hj, hk, h]
    rfl
  rw [e, done, perform_managed_open hs, perform_when_true, perform_seq]
  exact ⟨_, j, rfl, List.mem_append_right _ (List.mem_singleton.mpr rfl), rfl, rfl, rfl, rfl, rfl⟩
/-- What `execPartitionFormation` asks of the request. -/
def formOk (s : State) (r : FormReq) : Bool :=
  s.pkg.ready && !r.cols.isEmpty && distinctCols r.cols && (s.part r.num).isNone && decide (600 ≤ r.floor) && decide (r.floor ≤ Config.clockMHz) &&
    r.cols.all (fun c => s.pkg.dielist.contains (dieOf c) && (s.partOf c).isNone && (s.slot c).st == .free && !s.work.loans.any (fun l => l.col == c)) &&
    r.queues.all (fun y => (s.queue y.1 y.2).isNone && r.cols.any (fun c => dieOf c == y.1))
theorem execPartitionFormation_next {r : FormReq} {c : Col} (he : s.ev = .partitionFormation r) (hs : s.pkg.session = true) (hr : s.pkg.ready = true) (hc : r.cols = [c]) (hn : s.part r.num = none)
    (h6 : 600 ≤ r.floor) (h12 : r.floor ≤ 1200) (hd : s.pkg.dielist.contains (dieOf c) = true) (hp : s.partOf c = none) (hf : (s.slot c).st = .free) (hl : ∀ l ∈ s.work.loans, l.col ≠ c) (hq : r.queues = []) :
    ∃ t p, execPartitionFormation s = .next t ∧ t.parts = s.parts ++ [p] ∧ p.num = r.num ∧ p.cols = [c] ∧ p.cyc = r.start ∧ p.mhz = 1200 ∧ p.floor = r.floor ∧
      (t.unit c).ord.epoch = 0 ∧ (t.unit c).regs = (s.unit c).regs ∧ t.mems = s.mems := by
  let ref : Die := Fin.ofNat 4 (r.cols.foldl (fun a c => min a (dieOf c).val) 3)
  let p : Part := { num := r.num, tenant := r.tenant, cols := r.cols, ref := ref, floor := r.floor, mhz := Config.clockMHz, cyc := r.start, acc := 0,
                    paused := false, offs := .ofFn (fun i => r.offs.getD i.val 0 - r.offs.getD ref.val 0), queues := r.queues, handler := none, board := [], pubs := [],
                    heated := [], pausedAt := 0, pausedBy := [], atFloor := none, stepped := 0, noise := 0, closing := false }
  let begin_ := fun c => Act.seq (onUnit c (fun u => { u with ord := { u.ord with epoch := 0, scpos := 0, fpos := r.start }, pend := [] })) (onVault c (fun v => v.rebase r.start))
  let queues := onWork (fun w => { w with queues := w.queues ++ r.queues.map (fun y => { die := y.1, q := y.2, owner := r.num, leader := s.leader y.1, items := [], held := [], turns := [] }) })
  have hloans : s.work.loans.any (fun l => l.col == c) = false := List.any_eq_false.mpr fun l h => by simpa using hl l h
  have hok : formOk s r = true := by
    have h12' : decide (r.floor ≤ Config.clockMHz) = true := decide_eq_true h12
    rw [formOk, hr, hc, hn, hq, decide_eq_true h6, h12', List.all_cons, hd, hp, hf, hloans]
    rfl
  have e : execPartitionFormation s = done (managed (if (!formOk s r) = true then report (.partitionRefused r.num)
      else Act.all [fun s => [.parts (s.parts ++ [p])], queues, Act.each r.cols begin_])) s := by
    simp only [execPartitionFormation, he]
    rfl
  rw [e, done, perform_managed_open hs, if_neg (by rw [hok]; decide), perform_all_cons, perform_all_cons, perform_all_cons, perform_all_nil, hc, perform_each_cons, perform_each_nil]
  let w := perform queues (perform (fun s => [.parts (s.parts ++ [p])]) s)
  have hu : (perform (begin_ c) w).unit c = { s.unit c with ord := { (s.unit c).ord with epoch := 0, scpos := 0, fpos := r.start }, pend := [] } := unit_set_same ..
  refine ⟨perform (begin_ c) w, p, rfl, rfl, rfl, hc, rfl, rfl, rfl, ?_, ?_, rfl⟩ <;> rw [hu]
section
variable {num : BitVec 16} {p : Part}
theorem execPartitionRelease_next (he : s.ev = .partitionRelease num) (hs : s.pkg.session = true) (hp : s.part num = some p) (hb : ∀ b ∈ s.work.bound, b.part ≠ num)
    (hr : ∀ r ∈ s.work.reqs, r.part ≠ num) (hq : ∀ k ∈ s.work.queues, k.owner = num → k.items = []) (hc : p.closing = false) :
    ∃ t, execPartitionRelease s = .next t ∧ t.parts = s.parts.map (fun p => if p.num == num then { p with closing := true } else p) ∧ t.mems = s.mems := by
  have h1 : s.work.bound.any (fun b => b.part == num) = false := List.any_eq_false.mpr fun b h => by simpa using hb b h
  have h2 : s.work.reqs.any (fun r => r.part == num) = false := List.any_eq_false.mpr fun r h => by simpa using hr r h
  have h3 : s.work.queues.any (fun k => k.owner == num && !k.items.isEmpty) = false := List.any_eq_false.mpr fun k h => by
    by_cases ho : k.owner = num
    · simp [hq k h ho]
    · simp [ho]
  let passes := Act.each (p.cols.filter (fun c => (s.slot c).st == .done)) (fun c => eventNow (.fallow c))
  have hpasses : passes.Only [.agenda] := only_each fun _ _ => only_eventNow _ (by simp)
  have hlast := only_eventAtPart num (p.cyc + 2 ^ 22) (.vaultPassComplete num) (ps := [.agenda, .timers]) (by simp) (by simp)
  have e : execPartitionRelease s = done (managed (Act.all [onPart num (fun p => { p with closing := true }), passes, eventAtPart num (p.cyc + 2 ^ 22) (.vaultPassComplete num)])) s := by
    simp only [execPartitionRelease, he, hp, h1, h2, h3, hc]
    rfl
  rw [e, done, perform_managed_open hs, perform_all_cons, perform_all_cons, perform_all_cons, perform_all_nil]
  refine ⟨_, rfl, ?_, ?_⟩
  · rw [hlast.parts (by simp), hpasses.parts (by simp), onPart_parts]
  · rw [hlast.mems (by simp), hpasses.mems (by simp)]; rfl
theorem execVaultPassComplete_next (he : s.ev = .vaultPassComplete num) (hp : s.part num = some p) (hc : p.closing = true) :
    ∃ t, execVaultPassComplete s = .next t ∧ (∀ c ∈ p.cols, t.mem c .vault = .empty) ∧ t.parts = s.parts.filter (fun q => q.num != num) ∧ t.outbox = s.outbox ++ [.partitionReady num] := by
  let wipes := Act.each p.cols wipeVault
  let parts : Act := fun s => [.parts (s.parts.filter (fun q => q.num != num)), .timers (s.timers.filter (fun t => t.part != some num))]
  let queues := onWork (fun w => { w with queues := w.queues.filter (fun k => k.owner != num) })
  let idles := Act.each p.cols idleFrom
  have hwipes : wipes.Only [.mems, .vaults] := only_each fun _ _ => only_wipeVault _
  have hidles : idles.Only [.vaults] := only_each fun _ _ => only_idleFrom _ (by simp)
  have e : execVaultPassComplete s = done (Act.all [wipes, parts, queues, idles, report (.partitionReady num)]) s := by
    simp only [execVaultPassComplete, he, hp]
    exact if_neg (by rw [hc]; decide)
  rw [e, done, perform_all_cons, perform_all_cons, perform_all_cons, perform_all_cons, perform_all_cons, perform_all_nil, perform_report]
  refine ⟨_, rfl, fun c hcol => ?_, ?_, ?_⟩
  · exact ((hidles.mems (by simp)).mem _ _ .vault).trans (each_wipeVault_mem (t := s) (.inl hcol))
  · exact (hidles.parts (by simp) _).trans (congrArg (List.filter _) (hwipes.parts (by simp) s))
  · exact congrArg (· ++ _) ((hidles.outbox (by simp) _).trans (hwipes.outbox (by simp) s))
/-- What `execHandlerInstall` asks of an object of one section. -/
def handlerOk (f : Img) (x : Sec) (entry : Nat) : Bool :=
  !f.headBad && x.kind == 1 && x.index == 0 && x.size % 4 == 0 && decide (x.size ≤ 2 ^ 14) && decide (entry < x.size / 4)
theorem execHandlerInstall_next {object : List Byte} {entry : Nat} {x : Sec} (he : s.ev = .handlerInstall num object entry) (hs : s.pkg.session = true) (hp : s.part num = some p)
    (hx : (listImg object).secs = [x]) (hb : (listImg object).headBad = false) (hk : x.kind = 1) (hi : x.index = 0) (h4 : x.size % 4 = 0) (hz : x.size ≤ 2 ^ 14) (hn : entry < x.size / 4) :
    ∃ h : Handler, execHandlerInstall s = .next { s with parts := s.parts.map (fun p => if p.num == num then { p with handler := some h } else p) } ∧ h.entry = entry ∧ h.size = (x.size + 4095) / 4096 * 4096 := by
  let h : Handler := { bytes := (List.range x.size).map (fun i => BitVec.ofNat 8 (listImg object (x.foff + i))), size := (x.size + 4095) / 4096 * 4096, entry := entry }
  have e : execHandlerInstall s = done (managed (if handlerOk (listImg object) x entry = true ∧ (s.part num).isSome = true then onPart num (fun p => { p with handler := some h })
      else report (.handlerRefused num))) s := by
    simp only [← Bool.and_eq_true, execHandlerInstall, he, hx]
    rfl
  have hok : handlerOk (listImg object) x entry = true := by
    rw [handlerOk, hb, hk, hi, h4, decide_eq_true hz, decide_eq_true hn]; rfl
  rw [e, if_pos ⟨hok, by rw [hp]; rfl⟩, done, perform_managed_open hs]
  exact ⟨h, rfl, rfl, rfl⟩
theorem execNoiseMode_next {mode : Fin 3} (he : s.ev = .noiseMode num mode) (hs : s.pkg.session = true) :
    execNoiseMode s = .next { s with parts := s.parts.map (fun p => if p.num == num then { p with noise := mode } else p) } := by
  have e : execNoiseMode s = done (managed (onPart num (fun p => { p with noise := mode }))) s := by simp only [execNoiseMode, he]
  rw [e, done, perform_managed_open hs]; rfl
end
end

/-- Settles O58: each event as a lemma above tells what it does. -/
theorem schedulingEvents : Obligations.SchedulingEvents := by
  intro s
  refine ⟨fun id r k j p he hr hk hj hp ho hl hn hb => execLaunchPlacement_queued he hr hk hj hp ho hl hn hb, fun id r k j p he hr hk hj hp ho hl => execLaunchPlacement_waits he hr hk hj hp ho hl, ?_, ?_,
    fun die q he => execLeaderHandover_next he, fun r k he hs hj hk ho => execRootLaunchPlacement_next he hs hj hk ho,
    fun r c he hs hr hc hn h6 h12 hd hp hf hl hq => execPartitionFormation_next he hs hr hc hn h6 h12 hd hp hf hl hq, fun num p he hs hp hb hr hq hc => execPartitionRelease_next he hs hp hb hr hq hc,
    fun num p he hp hc => execVaultPassComplete_next he hp hc, fun num object entry x p he hs hp hx hb hk hi h4 hz hn => execHandlerInstall_next he hs hp hx hb hk hi h4 hz hn,
    fun num mode he hs => execNoiseMode_next he hs⟩
  · intro die q k p he hk hp
    refine ⟨execSchedulingPass_leaderless he hk hp, ?_⟩
    intro hl hc hpa hb hh mark led
    obtain ⟨-, hd, hq⟩ := queue_key hk
    have hnext : exec .schedulingPass s = .next (perform (passAct k p) led) := execSchedulingPass_next he hk hp hl hc hpa hb hh
    refine ⟨fun hf => hnext.trans (congrArg _ (passAct_none hf)), fun x y cols hs hx _ hfit hv hc hy => hnext.trans (congrArg _ (passAct_kept hs hx hfit hv hc hy)),
      fun x l cols hs hx hfit => ⟨fun j hsav hj hf => ?_, fun hsav hw => ?_⟩⟩
    · obtain ⟨h1, h2, h3, b, hb, h4, h5, h6, h7, h8, h9, h10, h11, h12, h13⟩ := passAct_binds (t := led) hs hx hfit hsav hj hf
      refine ⟨_, hnext, h1, h2, fun y hy hyd hyq => h3 y hy (hyd.trans hd.symm) (hyq.trans hq.symm), b, hb, h4, h5, h6, h7, h8, h9, h10.trans hd, h11.trans hq, h12, fun c hcol => ?_⟩
      obtain ⟨⟨k1, k2, k3, k4⟩, k5⟩ := h13 c hcol
      exact ⟨k1, k2, k3, k4, k5⟩
    · exact ⟨_, hnext, passAct_resumes (t := led) hs hx hfit hsav hw⟩
  · intro id b p he hb hp again wanted ready
    have hwant : (s.work.queues.filter (fun k => k.owner == b.part && k.leader.isSome)).any (fun k => (s.cands k).any (s.needs p b)) = true ↔ wanted := wanted_iff
    have hready : b.cols.all (fun c => [.running, .stopped, .held].contains (s.slot c).st && !(s.unit c).ctl.dead) = true ↔ ready := canStop_iff
    refine ⟨fun hw => ?_, fun hw hr => ?_, fun hw hr => ?_⟩
    · exact (execSliceEnd_eq he hb hp false _ ((Bool.not_eq_true _).mp (mt hwant.mp hw)) rfl).trans rfl
    · exact execSliceEnd_eq he hb hp true true (hwant.mpr hw) (hready.mpr hr)
    · exact (execSliceEnd_eq he hb hp true false (hwant.mpr hw) ((Bool.not_eq_true _).mp (mt hready.mp hr))).trans rfl

end Sys2Proof.Machine

/-! PROOF. Pre-emption, forced stop, save and resume (R210, R245, R297, R376, R381 to R388). -/
namespace Sys2Proof.Machine

section
variable {s : State} {c : Col}

theorem unit_set_self (s : State) (c : Col) : { s with units := s.units.set c (s.unit c) } = s := by simp [State.unit]

/-! ## PREEMPT (R366, R381) -/

/-- What PREEMPT gives a unit; one that is held has stopped as it stands. -/
def preempted (held : Bool) (now : Int) (u : UnitSt) : UnitSt :=
  if held && (u.ctl.haltAt.isNone || !u.frm.queue.isEmpty) then
    let u := u.backToHalt
    { u with ctl := { u.ctl with haltAt := none, prepped := true, forced := true, hcyc := now } }
  else u
def preemptLast (c : Col) (now : Int) : Act := draw 1 (fun n => eventAt c (now + ((1 + Config.requestDelay n % 1024 : Nat) : Int)) (.preemptionRequest c))
theorem only_preemptLast (c : Col) (now : Int) : (preemptLast c now).Only [.agenda, .timers, .free] := only_draw (fun _ => only_eventAt _ _ _ (by simp) (by simp)) (by simp)
theorem execPreempt_one {id : Nat} {b : Bound} (he : s.ev = .preempt id) (hb : s.work.bound.find? (fun b => b.id == id && !b.saved) = some b) (hc : b.cols = [c])
    (hst : (s.slot c).st = .running ∨ (s.slot c).st = .stopped ∨ (s.slot c).st = .held) :
    ∃ t, execPreempt s = .next t ∧ (t.slot c).st = .stopping ∧ (t.slot c).cmd = .none ∧ t.units = s.units.set c (preempted ((s.slot c).st == .held) (s.now c) (s.unit c)) ∧ t.mems = s.mems := by
  have e : execPreempt s = done (Act.each b.cols (fun c => fun s => command c .preempt [.running, .stopped, .held]
      (Act.all [toState c .stopping, onUnit c (preempted ((s.slot c).st == .held) (s.now c)), preemptLast c (s.now c)]) s)) s := by
    simp only [execPreempt, he, hb]
    rfl
  have hone (a : State → Act) : perform (fun s => a s s) s = perform (a s) s := rfl
  rw [e, hc, done, perform_each_cons, perform_each_nil, hone, perform_command (by rcases hst with h | h | h <;> simp [h]), perform_all_cons, perform_all_cons, perform_all_cons, perform_all_nil,
    perform_toState_after]
  have hlast := only_preemptLast c (s.now c)
  refine ⟨_, rfl, ?_, ?_, hlast.units (by simp) _, hlast.mems (by simp) _⟩ <;> rw [(hlast.slots (by simp)).slot]
  · exact congrArg Slot.st (slot_set_same ..)
  · exact congrArg Slot.cmd (slot_set_same ..)

/-! ## The request (R210, R297, R381) -/

/-- What a partition's cycle at its columns rests on. -/
def Part.clock (p : Part) : List Col × Int := (p.cols, p.cyc)
/-- An action keeps every column's cycle. -/
def Act.KeepsNow (a : Act) : Prop := ∀ s c, (perform a s).now c = s.now c
theorem Act.Only.keepsNow {a : Act} {ps : List Piece} (h : a.Only ps) (hp : Piece.parts ∉ ps) (ht : Piece.tick ∉ ps) : a.KeepsNow := fun s c => Act.Keeps.now s c (h.parts hp) (h.tick ht)
theorem keepsNow_seq {a b : Act} (ha : a.KeepsNow) (hb : b.KeepsNow) : (Act.seq a b).KeepsNow := fun s c => by rw [perform_seq, hb, ha]
theorem keepsNow_each {α : Type} {f : α → Act} : ∀ {l : List α}, (∀ x ∈ l, (f x).KeepsNow) → (Act.each l f).KeepsNow
  | [], _ => fun _ _ => rfl
  | x :: l, h => fun s c => by rw [perform_each_cons, keepsNow_each (l := l) (fun y hy => h y (by simp [hy])), h x (by simp)]
/-- The cycle of a column, by what it rests on. -/
theorem now_of_clock {s t : State} (hp : t.parts.map Part.clock = s.parts.map Part.clock) (ht : t.tick = s.tick) (c : Col) : t.now c = s.now c := by
  have hn (r : State) : r.now c = (((r.parts.map Part.clock).find? (fun p => p.1.contains c)).map (fun p => p.2)).getD (r.tick : Int) := by
    rw [List.find?_map, State.now, State.partOf]
    have e : ((fun p : List Col × Int => p.1.contains c) ∘ Part.clock) = fun p : Part => p.cols.contains c := rfl
    rw [e]
    cases r.parts.find? (fun p => p.cols.contains c) <;> rfl
  rw [hn, hn, hp, ht]
theorem keepsNow_onPart (n : BitVec 16) (f : Part → Part) (hf : ∀ p, (f p).clock = p.clock) : (onPart n f).KeepsNow := fun s c => by
  refine now_of_clock (s := s) (t := perform (onPart n f) s) ?_ rfl c
  rw [onPart_parts, List.map_map]
  refine List.map_congr_left fun p _ => ?_
  simp only [Function.comp_apply]
  split
  · exact hf p
  · rfl
theorem only_dualFor (w ph : Col) (va : Nat) (cext : Option Nat) (o : Col) (pa : Nat) (home : Col × Nat) (atHome : Bool) (ws : List BlkWrite) :
    (dualFor w ph va cext o pa home atHome ws).Only [.nextId, .units, .agenda, .timers] := fun s => by
  unfold dualFor
  split
  · exact only_none s
  · exact only_fresh (fun _ => only_seq (only_onUnit _ _ (by simp)) (only_when _ (only_eventAt _ _ _ (by simp) (by simp)))) (by simp) s
/-- What an effect writes besides the board of its partition. -/
def landPieces : List Piece := [.units, .mems, .ext, .extDirty, .txns, .nextId, .agenda, .timers]
theorem landEff_pieces (c : Col) (p : Pend) (h : ∀ x, p.eff ≠ .epoch x) : ∀ s, ∀ u ∈ landEff c p s, u.piece ∈ landPieces := by
  intro s
  have one (x : Upd) (hx : x.piece ∈ landPieces) : ∀ u ∈ [x], u.piece ∈ landPieces := fun u hu => by rw [List.mem_singleton.mp hu]; exact hx
  have ne (x : Eff) (y : Int) : x = .epoch y → p.eff = x → False := fun h1 h2 => h y (h2.trans h1)
  unfold landEff
  dsimp only
  cases hp : p.eff
  case epoch x => exact absurd hp (h x)
  case blocks m ws =>
    dsimp only
    split
    · intro u hu
      simp only [List.mem_cons, List.not_mem_nil, or_false] at hu
      rcases hu with rfl | rfl <;> simp [Upd.piece, landPieces]
    · exact one _ (by simp [Upd.piece, landPieces])
  case loan blk va home hp ph w tx k ret =>
    dsimp only
    split
    · exact only_seq (only_onArr _ _ _ (by simp [landPieces])) (only_eventAt _ _ _ (by simp [landPieces]) (by simp [landPieces])) s
    · refine only_all (fun a ha => ?_) s
      simp only [List.mem_cons, List.not_mem_nil, or_false] at ha
      rcases ha with rfl | rfl | rfl
      · exact only_one (p := .ext) (fun _ => rfl) (by simp [landPieces])
      · exact only_when _ (only_markExt _ _ (by simp [landPieces]))
      · exact (only_dualFor _ _ _ _ _ _ _ _ _).mono (by simp [landPieces])
  case capture m left got dst due =>
    dsimp only
    split <;> exact one _ (by simp [Upd.piece, landPieces])
  case mmaRow id j =>
    dsimp only
    split
    · intro u hu; cases hu
    · exact one _ (by simp [Upd.piece, landPieces])
  all_goals exact one _ (by simp [Upd.piece, landPieces])
theorem keepsNow_landEff (c : Col) (p : Pend) : (landEff c p).KeepsNow := by
  by_cases h : ∀ x, p.eff ≠ .epoch x
  · exact Act.Only.keepsNow (landEff_pieces c p h) (by simp [landPieces]) (by simp [landPieces])
  · obtain ⟨x, hx⟩ := not_forall.mp h
    have hx := not_not.mp hx
    intro s d
    have e : perform (landEff c p) s = perform (Act.seq (onUnit c (fun u => u.applyEff p.eff)) (onPart (s.partNum c) (fun q => { q with board := q.board ++ [(c, x)] }))) s := by
      simp only [perform, landEff, hx]
    rw [e]
    have hboard := keepsNow_onPart (s.partNum c) (fun q => { q with board := q.board ++ [(c, x)] }) fun _ => rfl
    exact keepsNow_seq (Act.Only.keepsNow (only_onUnit _ _ (ps := [.units]) (by simp)) (by simp) (by simp)) hboard s d
/-- Landing on a cycle keeps every column's cycle. -/
theorem keepsNow_landSome (c : Col) (f : Pend → Bool) : (landSome c f).KeepsNow := fun s d => by
  by_cases h : ((s.unit c).pend.filter (fun p => decide (p.at_ ≤ s.now c) && f p)).isEmpty
  · have e : perform (landSome c f) s = s := congrArg (run · s) (if_pos h)
    rw [e]
  · have e : perform (landSome c f) s = _ := congrArg (run · s) (if_neg h)
    rw [e]
    exact keepsNow_seq (Act.Only.keepsNow (only_onUnit _ _ (ps := [.units]) (by simp)) (by simp) (by simp)) (keepsNow_each fun _ _ => keepsNow_landEff _ _) s d
/-- With nothing due nothing lands. -/
theorem landSome_none {f : Pend → Bool} (h : ∀ p ∈ (s.unit c).pend, s.now c < p.at_ ∨ f p = false) : perform (landSome c f) s = s := by
  have hd : ((s.unit c).pend.filter (fun p => decide (p.at_ ≤ s.now c) && f p)).isEmpty := by
    rw [List.isEmpty_iff, List.filter_eq_nil_iff]
    intro p hp
    rcases h p hp with h | h
    · simp [Int.not_le.mpr h]
    · simp [h]
  exact congrArg (run · s) (if_pos hd)
/-- A request on a unit of a stopping column. -/
theorem execPreemptionRequest_next (he : s.ev = .preemptionRequest c) (hst : (s.slot c).st = .stopping) (hd : (s.unit c).ctl.dead = false) :
    let r := perform (landSome c Pend.beforeRequest) s
    ∃ t, execPreemptionRequest s = .next t ∧ t.unit c = (r.unit c).discard (s.now c) ∧ t.mems = r.mems ∧
      t.timers = r.timers ++ [{ part := (r.partOf c).map (·.num), at_ := s.now c + 18001, ev := .forcedStop c }] := by
  intro r
  have e : execPreemptionRequest s = done (Act.all [landSome c Pend.beforeRequest, onUnit c (fun u => u.discard (s.now c)), eventAt c (s.now c + 18001) (.forcedStop c)]) s := by
    simp only [execPreemptionRequest, he]
    exact if_neg (by rw [hst, hd]; decide)
  have hnow : (perform (onUnit c (fun u => u.discard (s.now c))) r).now c = s.now c :=
    (Act.Only.keepsNow (only_onUnit _ _ (ps := [.units]) (by simp)) (by simp) (by simp) r c).trans (keepsNow_landSome c _ s c)
  have hl : eventAt c (s.now c + 18001) (.forcedStop c) (perform (onUnit c (fun u => u.discard (s.now c))) r) = _ := eventAt_later (by rw [hnow]; omega)
  have hlast : perform (eventAt c (s.now c + 18001) (.forcedStop c)) (perform (onUnit c (fun u => u.discard (s.now c))) r) = _ := congrArg (run · _) hl
  rw [e, done, perform_all_cons, perform_all_cons, perform_all_cons, perform_all_nil, hlast]
  exact ⟨_, rfl, unit_set_same .., rfl, rfl⟩
/-- The products that a request stops (R297). -/
def UnitSt.goneAt (u : UnitSt) (now : Int) : List MmaOp := u.eng.mmas.filter (fun m => (([1, 2, 3] : List (Fin 4)).filter u.regs.recomputable).contains m.tile && decide (now ≤ m.sig))
theorem discard_mmas (u : UnitSt) (now : Int) : (u.discard now).eng.mmas = u.eng.mmas.filter (fun m => !(u.goneAt now).contains m) := rfl
theorem mem_discard_pend {u : UnitSt} {now : Int} {p : Pend} : p ∈ (u.discard now).pend ↔ p ∈ u.pend ∧ (match p.eff with
      | .mmaRow id _ => !(u.goneAt now).any (fun m => m.id == id)
      | .row ix _ _ _ => !(p.stream == .m && (u.goneAt now).any (fun m => m.rowAt p.at_ == some ix))
      | _ => true) = true := List.mem_filter
theorem discard_stops {u : UnitSt} {now : Int} {m : MmaOp} (h : m ∈ u.eng.mmas) (hl : m.tile ∈ (u.discard now).ctl.lost) (hs : now ≤ m.sig) :
    m ∉ (u.discard now).eng.mmas ∧ ∀ p ∈ (u.discard now).pend, ∀ j, p.eff ≠ .mmaRow m.id j := by
  have hg : m ∈ u.goneAt now := List.mem_filter.mpr ⟨h, Bool.and_eq_true_iff.mpr ⟨List.contains_iff_mem.mpr hl, decide_eq_true hs⟩⟩
  refine ⟨fun hm => ?_, fun p hp j hj => ?_⟩
  · rw [discard_mmas, List.mem_filter, List.contains_iff_mem.mpr hg] at hm
    exact absurd hm.2 (by decide)
  · have hk := (mem_discard_pend.mp hp).2
    rw [hj] at hk
    have ha : (u.goneAt now).any (fun x => x.id == m.id) = true := List.any_eq_true.mpr ⟨m, hg, by simp⟩
    simp only [ha] at hk
    exact absurd hk (by decide)
theorem discard_keeps {u : UnitSt} {now : Int} {p : Pend} (h : p ∈ u.pend) (hs : p.stream ≠ .m) (hm : ∀ id j, p.eff ≠ .mmaRow id j) : p ∈ (u.discard now).pend := by
  refine mem_discard_pend.mpr ⟨h, ?_⟩
  have hb : (p.stream == Stream.m) = false := beq_eq_false_iff_ne.mpr hs
  split
  case h_1 id j heq => exact absurd heq (hm id j)
  case h_2 => rw [hb]; rfl
  case h_3 => rfl

/-! ## The forced stop (R382) -/

theorem execForcedStop_eq {q : Int} (he : s.ev = .forcedStop c) (hst : (s.slot c).st = .stopping) (hd : (s.unit c).ctl.dead = false) (hp : (s.unit c).ctl.prepped = false)
    (hq : (s.unit c).ctl.preempt = some q) (hle : q + 18001 ≤ s.now c) :
    execForcedStop s = if (s.unit c).ctl.haltAt.isSome && !(s.unit c).frm.insv then done (eventAt c (s.now c + 1) (.forcedStop c)) s
      else done (onUnit c (fun u => { u with ctl := { u.ctl with prepped := true, forced := true, hcyc := s.now c - 1 } })) s := by
  simp only [execForcedStop, he, hq]
  exact if_neg (by rw [hst, hd, hp, decide_eq_true hle]; decide)

/-! ## The save image (R385) -/

theorem execSaveImage_next {b : Bound} (he : s.ev = .saveImage c) (hb : s.launchOf c = some b) (hst : (s.slot c).st = .stopping) (hp : (s.unit c).ctl.prepped = true)
    (hd : (s.unit c).ctl.dead = false) :
    ∃ t x, execSaveImage s = .next t ∧ (t.slot c).st = .saved ∧ (t.slot c).saved = (s.slot c).saved ++ [x] ∧ x.unit = s.unit c ∧ x.launch = b.id ∧ x.hcyc = (s.unit c).ctl.hcyc ∧
      x.page = (s.slot c).savepg.toNat ∧ x.wins = ((s.vault c).wins.filter (fun w => (s.unit c).ctl.hcyc < w.last)).map (fun w => w.from_ ((s.unit c).ctl.hcyc + 1)) ∧ (t.vault c).wins = [] ∧
      t.mem c .vault = (s.mem c .vault).writes (s.saveBlks c x) ∧ t.agenda = .event (.fallow c) :: s.agenda := by
  let u := s.unit c
  let v := s.vault c
  let k : SavedUnit := { launch := b.id, page := (s.slot c).savepg.toNat, index := (s.slot c).unit, unit := u, rows := v.banks.toList.map (·.row), wins := (v.wins.filter (fun w => u.ctl.hcyc < w.last)).map (fun w => w.from_ (u.ctl.hcyc + 1)), hcyc := u.ctl.hcyc, at_ := s.now c, forced := u.ctl.forced, lost := u.ctl.lost }
  have e : execSaveImage s = done (Act.all [fun s => [.mem c .vault (s.saveBlks c k)], onVault c (fun v => { v with wins := [] }),
      onSlot c (fun x => { x with st := .saved, saved := x.saved ++ [k] }), fun s => onBound b.id (fun b => s.markSaved b) s, eventNow (.fallow c)]) s := by
    simp only [execSaveImage, he, hb]
    exact if_neg (by rw [hst, hp, hd]; decide)
  rw [e, done, perform_all_cons, perform_all_cons, perform_all_cons, perform_all_cons, perform_all_cons, perform_all_nil, perform_eventNow]
  refine ⟨_, k, rfl, congrArg Slot.st (slot_set_same ..), congrArg Slot.saved (slot_set_same ..), rfl, rfl, rfl, rfl, rfl, congrArg VaultSt.wins (vault_set_same ..), ?_, rfl⟩
  exact (mem_apply_writes s c c .vault .vault _).trans (if_pos ⟨rfl, rfl⟩)

/-! ## Resume (R385 to R388) -/

/-- A memory of the image comes back. -/
def imageBack (c : Col) (m : Memory) (page : Nat) (x : Mem) (at_ n : Nat) : Act := fun _ =>
  [.clear c x, .mem c x ((List.range n).map (fun i => (i, (m.blk (64 * page + at_ + i)).whole)))]
theorem only_imageBack (c : Col) (m : Memory) (page : Nat) (x : Mem) (at_ n : Nat) : (imageBack c m page x at_ n).Only [.mems] := fun s u hu => by
  simp only [imageBack, List.mem_cons, List.not_mem_nil, or_false] at hu
  rcases hu with rfl | rfl <;> simp [Upd.piece]
theorem imageBack_vault (c : Col) (m : Memory) (page : Nat) {x : Mem} (at_ n : Nat) (hx : Mem.vault ≠ x) (t : State) : (perform (imageBack c m page x at_ n) t).mem c .vault = t.mem c .vault :=
  (mem_apply_writes _ c c x .vault _).trans ((if_neg fun h => hx h.2).trans ((clear_mem t c x .vault).trans (if_neg hx)))
theorem storeWrites_vault {ws : State → List (Nat × BlkWrite)} (t : State) : (perform (fun s => [.mem c .store (ws s)]) t).mem c .vault = t.mem c .vault :=
  (mem_apply_writes t c c .store .vault _).trans (if_neg fun h => Mem.noConfusion h.2)
/-- The memories of a restart, with the M section's stamps moved and the handler written. -/
def restoreMems (c : Col) (k : SavedUnit) (p : Part) (m : Memory) (d : Int) : Act :=
  Act.all [imageBack c m k.page .store imgStore 4096, imageBack c m k.page .wb imgWb 32768, imageBack c m k.page .ab imgAb 16384, imageBack c m k.page .sp imgSp 16384,
    fun s => [.mem c .store (s.moveStamps c k.unit d)], fun _ => [.mem c .store (match p.handler with | some h => h.writes | none => [])]]
theorem only_restoreMems (c : Col) (k : SavedUnit) (p : Part) (m : Memory) (d : Int) : (restoreMems c k p m d).Only [.mems] := only_all fun a ha => by
  simp only [List.mem_cons, List.not_mem_nil, or_false] at ha
  rcases ha with rfl | rfl | rfl | rfl | rfl | rfl
  · exact only_imageBack c m k.page _ _ _
  · exact only_imageBack c m k.page _ _ _
  · exact only_imageBack c m k.page _ _ _
  · exact only_imageBack c m k.page _ _ _
  · exact only_one (p := .mems) (fun _ => rfl) (by simp)
  · exact only_one (p := .mems) (fun _ => rfl) (by simp)
theorem restoreMems_vault (c : Col) (k : SavedUnit) (p : Part) (m : Memory) (d : Int) (t : State) : (perform (restoreMems c k p m d) t).mem c .vault = t.mem c .vault := by
  rw [restoreMems, perform_all_cons, perform_all_cons, perform_all_cons, perform_all_cons, perform_all_cons, perform_all_cons, perform_all_nil, storeWrites_vault, storeWrites_vault,
    imageBack_vault _ _ _ _ _ (by decide), imageBack_vault _ _ _ _ _ (by decide), imageBack_vault _ _ _ _ _ (by decide), imageBack_vault _ _ _ _ _ (by decide)]

section
variable {id : Nat} {k : SavedUnit} {p : Part} {d : Int}

/-- The slot of a column whose unit restarts. -/
def restoredSlot (k : SavedUnit) (p : Part) (id : Nat) (x : Slot) : Slot :=
  { x with st := if k.insv then SlotState.stopped else .running, savepg := BitVec.ofNat 17 k.page, unit := k.index, part := p.num, saved := x.saved.filter (fun y => y.launch != id) }
/-- A restart's steps. -/
def restoreActs (s : State) (c : Col) (k : SavedUnit) (p : Part) (id : Nat) (d : Int) : List Act :=
  [imageBack c (s.mem c .vault) k.page .store imgStore 4096, imageBack c (s.mem c .vault) k.page .wb imgWb 32768,
    imageBack c (s.mem c .vault) k.page .ab imgAb 16384, imageBack c (s.mem c .vault) k.page .sp imgSp 16384, fun s => [.mem c .store (s.moveStamps c k.unit d)],
    fun _ => [.mem c .store (match p.handler with | some h => h.writes | none => [])],
    onUnit c (fun u => k.restored (s.mem c .vault) (s.now c) d u p.handler p), onVault c (fun v => v.putBack k (s.now c) d), onSlot c (restoredSlot k p id),
    Act.when (!k.insv) (onBound id (fun x => { x with faulted := x.faulted.filter (fun d => d != c) })), countCycle c]
theorem restore_eq (hk : SavedUnit.ofLaunch id (s.slot c) = some k) (hp : s.partOf c = some p) : restore id d c s = Act.all (restoreActs s c k p id d) s := by
  simp only [restore, hk, hp, restoreActs]
  rfl
theorem perform_unit_vault_slot (f : UnitSt → UnitSt) (g : VaultSt → VaultSt) (h : Slot → Slot) (r : State) :
    let t := perform (onSlot c h) (perform (onVault c g) (perform (onUnit c f) r))
    t.unit c = f (r.unit c) ∧ t.slot c = h (r.slot c) ∧ t.mems = r.mems := ⟨unit_set_same .., slot_set_same .., rfl⟩
theorem countCycle_mems (c : Col) (t : State) : (perform (countCycle c) t).mems = t.mems := by
  simp only [perform, countCycle]
  split <;> rfl
/-- What a restart leaves: the unit of the image, the column going on, and the vault. -/
theorem restore_next (hk : SavedUnit.ofLaunch id (s.slot c) = some k) (hp : s.partOf c = some p) :
    ∃ live r, perform (restore id d c) s = r ∧ (r.unit c = k.restored (s.mem c .vault) (s.now c) d live p.handler p ∨ r.unit c = (k.restored (s.mem c .vault) (s.now c) d live p.handler p).countDown) ∧
      r.slot c = restoredSlot k p id (s.slot c) ∧ r.mem c .vault = s.mem c .vault := by
  obtain ⟨f, hf⟩ : ∃ f, f = fun u => k.restored (s.mem c .vault) (s.now c) d u p.handler p := ⟨_, rfl⟩
  obtain ⟨g, hg⟩ : ∃ g, g = fun v : VaultSt => v.putBack k (s.now c) d := ⟨_, rfl⟩
  obtain ⟨bound, hb⟩ : ∃ b, b = Act.when (!k.insv) (onBound id (fun x => { x with faulted := x.faulted.filter (fun d => d != c) })) := ⟨_, rfl⟩
  have hbound : bound.Only [.work] := hb ▸ only_when _ (only_onBound _ _ (by simp))
  obtain ⟨r0, e0⟩ : ∃ x, x = perform (restoreMems c k p (s.mem c .vault) d) s := ⟨_, rfl⟩
  have e : perform (restore id d c) s = perform (countCycle c) (perform bound (perform (onSlot c (restoredSlot k p id)) (perform (onVault c g) (perform (onUnit c f) r0)))) := by
    refine (congrArg (run · s) (restore_eq hk hp)).trans (Eq.trans (b := perform (Act.all (restoreActs s c k p id d)) s) rfl ?_)
    rw [restoreActs, ← hf, ← hg, ← hb, e0, restoreMems]
    iterate 11 rw [perform_all_cons]
    rw [perform_all_nil]
    iterate 6 rw [perform_all_cons]
    rw [perform_all_nil]
  obtain ⟨h1, h2, h3⟩ := perform_unit_vault_slot (c := c) f g (restoredSlot k p id) r0
  obtain ⟨r1, e1⟩ : ∃ x, x = perform (onSlot c (restoredSlot k p id)) (perform (onVault c g) (perform (onUnit c f) r0)) := ⟨_, rfl⟩
  rw [← e1] at h1 h2 h3 e
  obtain ⟨hslots, hunit⟩ := countCycle_keeps c (perform bound r1)
  rw [(hbound.units (by simp)).unit, h1, hf] at hunit
  refine ⟨r0.unit c, perform (countCycle c) (perform bound r1), e, hunit, ?_, ?_⟩
  · rw [State.slot, hslots, hbound.slots (by simp)]
    refine h2.trans (congrArg (restoredSlot k p id) ?_)
    rw [e0, ((only_restoreMems c k p _ d).slots (by simp)).slot]
  · rw [State.mem, countCycle_mems, hbound.mems (by simp), h3, e0]
    exact restoreMems_vault ..
/-- The parts of the unit that restarts. -/
theorem restored_parts (k : SavedUnit) (m : Memory) (b d : Int) (live : UnitSt) (h : Option Handler) (p : Part) :
    let u := k.restored m b d live h p
    u.ctl.timed = false ∧ u.ctl.prepped = false ∧ u.regs.tiles = .ofFn (fun i => m.rowAt (64 * k.page + imgAcc + 10 * i.val)) ∧ u.regs.s = k.resumeK.2.s := by
  refine ⟨?_, ?_, ?_, ?_⟩ <;> simp only [SavedUnit.restored]
theorem restored_queue (k : SavedUnit) (m : Memory) (b d : Int) (live : UnitSt) (h : Option Handler) (p : Part) :
    (k.restored m b d live h p).frm.queue = k.unit.frm.queue ∧ (k.restored m b d live h p).frm.insv = k.insv ∧ (k.restored m b d live h p).frm.en = h.isSome := by
  cases h <;> exact ⟨rfl, rfl, rfl⟩
/-- The loop registers that change where K resumes leave the scalar registers. -/
theorem resumeK_s (k : SavedUnit) : k.resumeK.2.s = k.unit.regs.s := by
  unfold SavedUnit.resumeK
  dsimp only
  split
  · dsimp only
    split
    · rfl
    · split <;> rfl
  · split
    · rfl
    · split
      · dsimp only
        split
        · rfl
        · rfl
      · dsimp only
        split <;> rfl
/-- The unit that restarts and its first cycle. -/
theorem restarted_parts {u : UnitSt} {m : Memory} {b d : Int} {live : UnitSt} {h : Option Handler} (hu : u = k.restored m b d live h p ∨ u = (k.restored m b d live h p).countDown) :
    (u.ctl.timed = false ∧ u.ctl.prepped = false ∧ u.regs.tiles = .ofFn (fun i => m.rowAt (64 * k.page + imgAcc + 10 * i.val)) ∧ u.regs.s = k.unit.regs.s) ∧
      u.frm.queue = k.unit.frm.queue ∧ u.frm.insv = k.insv ∧ u.frm.en = h.isSome := by
  have h1 := restored_parts k m b d live h p
  have h2 := restored_queue k m b d live h p
  rw [resumeK_s] at h1
  obtain ⟨c1, c2, c3, -⟩ := countDown_keeps (k.restored m b d live h p)
  rcases hu with rfl | rfl
  · exact ⟨h1, h2⟩
  · rw [c1, c2, c3]; exact ⟨h1, h2⟩

/-- What RESUME does with a unit that restarts outside the handler. -/
def resumesQueued (c : Col) : Act := fun s => if (s.slot c).st == .running && !(s.unit c).frm.insv then deliverQueued c s else []
theorem resumesQueued_none {t : State} (h : (t.unit c).frm.insv = true ∨ (t.unit c).frm.queue = []) : perform (resumesQueued c) t = t := by
  have e : resumesQueued c t = [] := by
    rw [resumesQueued]
    rcases h with h | h
    · rw [h, Bool.not_true, Bool.and_false, if_neg Bool.false_ne_true]
    · rw [deliverQueued]
      simp only [h, ite_self]
  rw [perform, e]; rfl
def resumeLast (s : State) (id : Nat) : Act := eventTick (s.tick + 1200000) (.sliceEnd id)
theorem execResume_restarts {x : Bound} (he : s.ev = .resume id) (hx : s.work.bound.find? (fun b => b.id == id && b.saved) = some x) (hc : x.cols = [c]) (hst : (s.slot c).st = .loading) :
    ∃ d, execResume s = done (Act.all [Act.each [c] (restore id d), onBound id (fun b => { b with saved := false }), Act.each [c] resumesQueued, resumeLast s id]) s := by
  have hall : x.cols.all (fun c => (s.slot c).st == .loading) = true := by rw [hc]; simp [hst]
  simp only [execResume, he, hx]
  rw [if_pos hall, hc]
  exact ⟨_, rfl⟩
/-- A restart, up to the queued fault that it may take. -/
theorem execResume_restarted {x : Bound} (he : s.ev = .resume id) (hx : s.work.bound.find? (fun b => b.id == id && b.saved) = some x) (hc : x.cols = [c]) (hst : (s.slot c).st = .loading)
    (hk : SavedUnit.ofLaunch id (s.slot c) = some k) (hp : s.partOf c = some p) :
    ∃ r t, execResume s = .next t ∧ t.units = (perform (resumesQueued c) r).units ∧ t.slots = (perform (resumesQueued c) r).slots ∧ t.mems = (perform (resumesQueued c) r).mems ∧
      (((r.unit c).ctl.timed = false ∧ (r.unit c).ctl.prepped = false ∧ (r.unit c).regs.tiles = .ofFn (fun i => (s.mem c .vault).rowAt (64 * k.page + imgAcc + 10 * i.val)) ∧
        (r.unit c).regs.s = k.unit.regs.s) ∧ (r.unit c).frm.queue = k.unit.frm.queue ∧ (r.unit c).frm.insv = k.insv ∧ (r.unit c).frm.en = p.handler.isSome) ∧
      r.slot c = restoredSlot k p id (s.slot c) ∧ r.mem c .vault = s.mem c .vault := by
  obtain ⟨d, e⟩ := execResume_restarts he hx hc hst
  obtain ⟨live, r, er, hu, hs, hm⟩ := restore_next (d := d) hk hp
  have hlast : (resumeLast s id).Only [.timers] := only_eventTick _ _ (by simp)
  have hbound := only_onBound (ps := [.work]) id (fun b => { b with saved := false }) (by simp)
  rw [done, perform_all_cons, perform_all_cons, perform_all_cons, perform_all_cons, perform_all_nil, perform_each_cons, perform_each_nil, perform_each_cons, perform_each_nil, er] at e
  refine ⟨_, _, e, hlast.units (by simp) _, hlast.slots (by simp) _, hlast.mems (by simp) _, ?_, ?_, ?_⟩
  · rw [(hbound.units (by simp)).unit]; exact restarted_parts hu
  · rw [(hbound.slots (by simp)).slot]; exact hs
  · rw [(hbound.mems (by simp)).mem]; exact hm
end
theorem backToHalt_parts (u : UnitSt) : u.backToHalt.frm = u.frm ∧ u.backToHalt.regs = u.regs := by
  unfold UnitSt.backToHalt
  split <;> exact ⟨rfl, rfl⟩
/-- A fault outside supervisor state with a handler, whether or not the unit has issued HALT. -/
theorem takeFault_inHandler {x : Stream} {f : FaultRec} {defer : Bool} (hv : (s.unit c).frm.insv = false) (he : (s.unit c).frm.en = true) (hl : mapLost f = false) :
    let t := perform (takeFault c x f defer) s
    t.slot c = (s.slot c).halted ∧ (t.unit c).frm.insv = true ∧ (t.unit c).ctl.timed = false ∧ (t.unit c).regs = (s.unit c).regs := by
  obtain ⟨hf, hr⟩ := backToHalt_parts (s.unit c)
  obtain ⟨u, eu⟩ : ∃ u, u = ((s.unit c).backToHalt).pastRealign x f := ⟨_, rfl⟩
  have hregs : u.regs = (s.unit c).regs := by rw [eu, pastRealign_regs, hr]
  obtain ⟨v, ev⟩ : ∃ v, v = (u.fillFrame x f defer (s.now c) (s.cyc c) s.free).stop := ⟨_, rfl⟩
  have hv1 : v.ctl.timed = false := by rw [ev]; rfl
  have hv2 : v.regs = (s.unit c).regs := by rw [ev, (stop_parts _).2.1, ← hregs]; exact (fillFrame_parts u x f defer (s.now c) (s.cyc c) s.free).2.2.2.1
  have e : takeFault c x f defer s = Act.all [onUnit c (fun _ => v.enterHandler (s.now c)), onSlot c Slot.halted, fun s => [.free (s.free + 2)], holdLaunch c] s := by
    have hl' : (f.cause == BitVec.ofNat 8 Cause.map.code && f.kind == 2) = false := hl
    rw [ev, eu]
    unfold takeFault
    simp only [hl', pastRealign_frm, hf, hv, he, Bool.false_eq_true, if_false, if_true, Bool.not_false, Bool.and_true]
    rfl
  obtain ⟨w, ew⟩ : ∃ w, w = v.enterHandler (s.now c) := ⟨_, rfl⟩
  obtain ⟨w1, -, -, w4⟩ := enterHandler_parts v (s.now c)
  have wf := enterHandler_frm v (s.now c)
  rw [← ew] at e w1 w4 wf
  obtain ⟨h1, h2, -⟩ := leavesColumns_holdLaunch c (s.haltedWith c w)
  have ht : perform (takeFault c x f defer) s = perform (holdLaunch c) (s.haltedWith c w) := by
    refine (congrArg (run · s) e).trans (Eq.trans (b := perform (Act.all [onUnit c (fun _ => w), onSlot c Slot.halted, fun s => [.free (s.free + 2)], holdLaunch c]) s) rfl ?_)
    rw [perform_all_cons, perform_all_cons, perform_all_cons, perform_all_cons, perform_all_nil]
    rfl
  intro t
  have hu : t.unit c = w := (congrArg (·.unit c) ht).trans ((congrArg (·[c]) h1).trans (vget_set_same ..))
  refine ⟨(congrArg (·.slot c) ht).trans ((congrArg (·[c]) h2).trans (vget_set_same ..)), ?_, ?_, ?_⟩ <;> rw [hu]
  · rw [wf]
  · rw [w4, hv1]
  · rw [w1, hv2]

section
variable {id : Nat} {k : SavedUnit} {p : Part} {x : Bound}
theorem execResume_goesOn (he : s.ev = .resume id) (hx : s.work.bound.find? (fun b => b.id == id && b.saved) = some x) (hc : x.cols = [c]) (hst : (s.slot c).st = .loading)
    (hk : SavedUnit.ofLaunch id (s.slot c) = some k) (hp : s.partOf c = some p) (hq : k.insv = true ∨ k.unit.frm.queue = []) :
    ∃ t, execResume s = .next t ∧ (t.slot c).st = (if k.insv then .stopped else .running) ∧ (t.slot c).saved = (s.slot c).saved.filter (fun z => z.launch != id) ∧ (t.unit c).ctl.timed = false ∧
      (t.unit c).ctl.prepped = false ∧ (t.unit c).regs.s = k.unit.regs.s ∧ (t.unit c).regs.tiles = .ofFn (fun i => (s.mem c .vault).rowAt (64 * k.page + imgAcc + 10 * i.val)) ∧
      t.mem c .vault = s.mem c .vault := by
  obtain ⟨r, t, e, e1, e2, e3, ⟨⟨h1, h2, h3, h4⟩, h5, h6, -⟩, hs, hm⟩ := execResume_restarted he hx hc hst hk hp
  rw [resumesQueued_none (by rwa [h5, h6])] at e1 e2 e3
  have hu : t.unit c = r.unit c := congrArg (·[c]) e1
  have hs' : t.slot c = restoredSlot k p id (s.slot c) := (congrArg (·[c]) e2).trans hs
  refine ⟨t, e, congrArg Slot.st hs', congrArg Slot.saved hs', ?_, ?_, ?_, ?_, ?_⟩
  · rw [hu, h1]
  · rw [hu, h2]
  · rw [hu, h4]
  · rw [hu, h3]
  · rw [State.mem, e3]; exact hm
theorem execResume_takesOldest {h : Handler} (he : s.ev = .resume id) (hx : s.work.bound.find? (fun b => b.id == id && b.saved) = some x) (hc : x.cols = [c]) (hst : (s.slot c).st = .loading)
    (hk : SavedUnit.ofLaunch id (s.slot c) = some k) (hp : s.partOf c = some p) (hh : p.handler = some h) (hv : k.insv = false)
    (hf : ∃ f, k.unit.frm.queue.head? = some f ∧ f.2.cause ≠ BitVec.ofNat 8 Cause.map.code) :
    ∃ t, execResume s = .next t ∧ (t.slot c).st = .stopped ∧ (t.unit c).frm.insv = true ∧ (t.unit c).ctl.timed = false ∧
      (t.unit c).regs.tiles = .ofFn (fun i => (s.mem c .vault).rowAt (64 * k.page + imgAcc + 10 * i.val)) := by
  obtain ⟨r, t, e, e1, e2, -, ⟨⟨-, -, h3, -⟩, h5, h6, h7⟩, hs, -⟩ := execResume_restarted he hx hc hst hk hp
  obtain ⟨⟨y, f⟩, hf, hcause⟩ := hf
  obtain ⟨q, hq⟩ : ∃ q, k.unit.frm.queue = (y, f) :: q := List.head?_eq_some_iff.mp hf
  have hq := h5.trans hq
  have hrun : (r.slot c).st = .running := by rw [hs, restoredSlot, hv]; rfl
  have hdel : perform (resumesQueued c) r = perform (deliverQueued c) r := by
    refine congrArg (run · r) (if_pos ?_)
    rw [hrun, h6, hv]; rfl
  obtain ⟨r', er⟩ : ∃ x, x = { r with units := r.units.set c { r.unit c with frm := { (r.unit c).frm with queue := q } } } := ⟨_, rfl⟩
  have hu : r'.unit c = { r.unit c with frm := { (r.unit c).frm with queue := q } } := by rw [er]; exact unit_set_same ..
  have hsl : r'.slot c = r.slot c := by rw [er]; rfl
  have hlost : mapLost f = false := by rw [mapLost, beq_eq_false_iff_ne.mpr hcause, Bool.false_and]
  rw [hdel, perform_deliverQueued hq, ← er] at e1 e2
  obtain ⟨t1, t2, t3, t4⟩ := takeFault_inHandler (x := y) (defer := true) (s := r') (c := c) (by rw [hu]; exact h6.trans hv) (by rw [hu]; exact h7.trans (by rw [hh]; rfl)) hlost
  have hut : t.unit c = (perform (takeFault c y f true) r').unit c := congrArg (·[c]) e1
  have hst : t.slot c = (perform (takeFault c y f true) r').slot c := congrArg (·[c]) e2
  refine ⟨t, e, ?_, ?_, ?_, ?_⟩
  · rw [hst, t1, hsl, Slot.halted, hrun]; rfl
  · rw [hut, t2]
  · rw [hut, t3]
  · rw [hut, t4, hu]; exact h3
theorem loading_not {st : SlotState} (h : st = .free ∨ st = .done) : (st == SlotState.loading) = false := by rcases h with rfl | rfl <;> rfl
theorem execResume_killed (he : s.ev = .resume id) (hx : s.work.bound.find? (fun b => b.id == id && b.saved) = some x) (hc : x.cols = [c]) (hst : (s.slot c).st = .free ∨ (s.slot c).st = .done)
    (hk : SavedUnit.ofLaunch id (s.slot c) = some k) (hi : s.imageOk c k.page = false) : execResume s = .next (perform (killLaunch x) s) := by
  have hall : ¬ x.cols.all (fun c => (s.slot c).st == .loading) = true := by rw [hc, List.all_cons, loading_not hst]; exact Bool.false_ne_true
  have hany : x.cols.any (fun c => match SavedUnit.ofLaunch id (s.slot c) with | some k => !s.imageOk c k.page | none => true) = true := by
    rw [hc, List.any_cons]
    simp only [hk, hi]
    rfl
  simp only [execResume, he, hx]
  exact (if_neg hall).trans (if_pos hany)
/-- The load of a saved launch (R387). -/
def resumeLoad (s : State) (c : Col) (id : Nat) (x : Bound) (b : Int) : Act :=
  command c .resume [.free, .done] (Act.all [onSlot c (fun k => { k with st := .loading, launch := id, base := BitVec.ofInt 64 (b + s.off c), desc := x.desc, qdie := x.qdie, qnum := x.q }),
    onVault c (fun v => { v with idle := none })])
def loadSlot (s : State) (c : Col) (id : Nat) (x : Bound) (b : Int) (k : Slot) : Slot :=
  { k with st := .loading, launch := id, base := BitVec.ofInt 64 (b + s.off c), desc := x.desc, qdie := x.qdie, qnum := x.q }
theorem resumeLoad_eq {b : Int} (hst : (s.slot c).st = .free ∨ (s.slot c).st = .done) : resumeLoad s c id x b s =
    [.slot c { s.slot c with cmd := .none }, .slot c (loadSlot s c id x b { s.slot c with cmd := .none }), .vault c { s.vault c with idle := none }] := by
  have hok : [SlotState.free, .done].contains (s.slot c).st = true := by rcases hst with h | h <;> rw [h] <;> rfl
  rw [resumeLoad, command, if_pos hok]
  refine congrArg (Upd.slot c _ :: ·) ?_
  refine congrArg₂ (fun y z => [Upd.slot c y, Upd.vault c z]) (congrArg (loadSlot s c id x b) (slot_set_same ..)) rfl
theorem execResume_loads (he : s.ev = .resume id) (hx : s.work.bound.find? (fun b => b.id == id && b.saved) = some x) (hc : x.cols = [c]) (hst : (s.slot c).st = .free ∨ (s.slot c).st = .done)
    (hk : SavedUnit.ofLaunch id (s.slot c) = some k) (hi : s.imageOk c k.page = true) :
    ∃ t, execResume s = .next t ∧ (t.slot c).st = .loading ∧ (t.slot c).launch = id ∧ t.mems = s.mems ∧ t.units = s.units := by
  have hall : ¬ x.cols.all (fun c => (s.slot c).st == .loading) = true := by rw [hc, List.all_cons, loading_not hst]; exact Bool.false_ne_true
  have hany : ¬ x.cols.any (fun c => match SavedUnit.ofLaunch id (s.slot c) with | some k => !s.imageOk c k.page | none => true) = true := by
    rw [hc, List.any_cons]
    simp only [hk, hi]
    exact Bool.false_ne_true
  obtain ⟨b, e⟩ : ∃ b : Nat → Int, execResume s = done (draw 1 (fun n => Act.seq (Act.each x.cols (fun c => resumeLoad s c id x (b n))) (eventAtPart x.part (b n) (.resume id)))) s := by
    simp only [execResume, he, hx]
    exact ⟨_, (if_neg hall).trans (if_neg hany)⟩
  obtain ⟨s', es⟩ : ∃ y : State, y = { s with free := s.free + 1 } := ⟨_, rfl⟩
  obtain ⟨w, ew⟩ : ∃ w : List Upd, w = eventAtPart x.part (b s.free) (.resume id) (perform (Act.each [c] (fun c => resumeLoad s c id x (b s.free))) s) := ⟨_, rfl⟩
  have hlast : Act.Only (fun _ => w) [.agenda, .timers] := fun _ => ew ▸ only_eventAtPart _ _ _ (by simp) (by simp) _
  have hload : resumeLoad s c id x (b s.free) s = _ := resumeLoad_eq hst
  have hrun : run (draw 1 (fun n => Act.seq (Act.each x.cols (fun c => resumeLoad s c id x (b n))) (eventAtPart x.part (b n) (.resume id))) s) s =
      perform (fun _ => w) (run (resumeLoad s c id x (b s.free) s) s') := by
    have h1 : Act.each [c] (fun c => resumeLoad s c id x (b s.free)) s = resumeLoad s c id x (b s.free) s := List.append_nil _
    rw [hc, es, ew, perform, ← run_append, ← h1]
    rfl
  rw [e, done, perform, hrun, hload]
  refine ⟨_, rfl, ?_, ?_, hlast.mems (by simp) _ |>.trans (by rw [es]; rfl), hlast.units (by simp) _ |>.trans (by rw [es]; rfl)⟩ <;> rw [(hlast.slots (by simp)).slot]
  · exact congrArg Slot.st (slot_set_same ..)
  · exact congrArg Slot.launch (slot_set_same ..)
end
end

/-- Settles O57: each event as a lemma above tells what it does. -/
theorem preemptionEvents : Obligations.PreemptionEvents := by
  intro s c u k
  refine ⟨fun id b he hb hc => ⟨fun hst => ?_, fun hst hq => ?_⟩, fun he hst hd => ?_, fun he hst hd hn => ?_, fun he hst hd hp hq => ?_, fun b he hb hst hp hd => execSaveImage_next he hb hst hp hd,
    fun id x y he hx hc hy => ⟨fun hst hi => execResume_loads he hx hc hst hy hi, fun hst hi => execResume_killed he hx hc hst hy hi,
      fun p h hst hp hh hv hf => execResume_takesOldest he hx hc hst hy hp hh hv hf, fun p hst hp hq => execResume_goesOn he hx hc hst hy hp hq⟩⟩
  · obtain ⟨t, e, h1, h2, h3, h4⟩ := execPreempt_one he hb hc (hst.imp_right .inl)
    refine ⟨t, e, h1, h2, h3.trans ?_, h4⟩
    have hn : ((s.slot c).st == SlotState.held) = false := by rcases hst with h | h <;> rw [show (s.slot c).st = _ from h] <;> rfl
    rw [preempted, hn, Bool.false_and, if_neg Bool.false_ne_true]
    exact congrArg State.units (unit_set_self s c)
  · obtain ⟨t, e, h1, h2, h3, h4⟩ := execPreempt_one he hb hc (.inr (.inr hst))
    refine ⟨t, e, h1, h2, h4, (congrArg (·[c]) h3).trans ((vget_set_same ..).trans (if_pos ?_))⟩
    have hh : ((s.slot c).st == SlotState.held) = true := beq_iff_eq.mpr hst
    rw [hh, Bool.true_and, Bool.or_eq_true, Option.isNone_iff_eq_none, Bool.not_eq_true', List.isEmpty_eq_false_iff]
    exact hq
  · obtain ⟨t, e, h1, -, h3⟩ := execPreemptionRequest_next he hst hd
    exact ⟨t, e, by rw [h1]; rfl, by rw [h1]; rfl, by rw [h3]; simp⟩
  · obtain ⟨t, e, h1, h2, h3⟩ := execPreemptionRequest_next he hst hd
    rw [landSome_none hn] at h1 h2 h3
    refine ⟨t, e, ?_⟩
    rw [h1]
    exact ⟨rfl, rfl, rfl, h2, fun m hm hl hs => discard_stops hm hl hs, fun p hp hs hm => discard_keeps hp hs hm, h3⟩
  · obtain ⟨q, hq, hle⟩ := hq
    have e := execForcedStop_eq he hst hd hp hq hle
    refine ⟨fun hh => e.trans ((if_neg ?_).trans rfl), fun hh hv => e.trans (if_pos ?_)⟩
    · rcases hh with h | h
      · rw [show (s.unit c).ctl.haltAt = _ from h]; simp
      · rw [show (s.unit c).frm.insv = _ from h]; simp
    · rw [show (s.unit c).ctl.haltAt.isSome = _ from hh, show (s.unit c).frm.insv = _ from hv]; rfl

end Sys2Proof.Machine

/-! PROOF. The events of a vault: refresh, window beats, the Wain, dual writes, scrubber, Gleaner, budgets (R99, R105, R106, R109, R115, R117, R118, R121, R125, R126, R244, R414, R423). -/
namespace Sys2Proof.Machine

/-! ## Refresh (R105, R106) -/

theorem le_after (x : Option Int) (n m : Int) : m ≤ after x n m := by
  unfold after
  split
  · exact le_max_left _ _
  · exact le_refl _
theorem le_freeAct (v : VaultSt) (n : Nat) (x : Int) : x ≤ v.freeAct n x := by
  induction n generalizing x with
  | zero => exact le_refl _
  | succ n ih =>
    unfold VaultSt.freeAct
    dsimp only
    split
    · exact (Int.le_add_one (le_refl x)).trans (ih _)
    · exact le_refl _
theorem onBank_same (v : VaultSt) (b : Fin 16) (f : Bank → Bank) : (v.onBank b f).banks[b] = f v.banks[b] := vget_set_same ..
/-- The keeper refreshes one bank: its row comes back, and no other bank changes. -/
theorem keep_bank (v : VaultSt) (b : Fin 16) (span now : Int) : ((v.keep b span now).banks[b]).row = (v.banks[b]).row ∧
    (∃ r, ((v.keep b span now).banks[b]).ref = some r ∧ ((v.keep b span now).banks[b]).deadline = r + span ∧ now ≤ r) ∧ ((v.keep b span now).banks[b]).keeper.isSome = true ∧
    ∀ d, d ≠ b → (v.keep b span now).banks[d] = v.banks[d] := by
  obtain ⟨r, hr, e⟩ : ∃ r, now ≤ r ∧ v.keep b span now = match (v.banks[b]).row with
      | none => (v.addAct r).onBank b (fun k => { k with ref := some r, deadline := r + span, keeper := some (r + Config.tRFCb) })
      | some _ => ((v.addAct r).addAct ((v.addAct r).freeAct 64 (r + Config.tRFCb))).onBank b (fun k => { k with
          pre := if (v.banks[b]).row.isSome then some (after (v.banks[b]).act Config.tRAS (after (v.banks[b]).wr Config.tWR (after (v.banks[b]).rd Config.tRTP now))) else (v.banks[b]).pre
          ref := some r, deadline := r + span, act := some ((v.addAct r).freeAct 64 (r + Config.tRFCb)), keeper := some ((v.addAct r).freeAct 64 (r + Config.tRFCb) + Config.tRAS) }) :=
    ⟨_, ((le_after _ _ _).trans ((le_after _ _ _).trans (le_after _ _ _))).trans (le_freeAct v 64 _), rfl⟩
  rw [e]
  cases hrow : (v.banks[b]).row
  case none =>
    dsimp only
    rw [onBank_same]
    exact ⟨hrow, ⟨r, rfl, rfl, hr⟩, rfl, fun d hd => onBank_other hd⟩
  case some x =>
    dsimp only
    rw [onBank_same]
    exact ⟨hrow, ⟨r, rfl, rfl, hr⟩, rfl, fun d hd => onBank_other hd⟩

/-! ## Transactions that a beat serves -/

/-- A transaction's block, by the transaction's number and the block's, and what it holds. -/
def State.hasArr (s : State) (id k : Nat) (P : Arr → Prop) : Prop := ∃ y ∈ s.txns, y.id = id ∧ ∃ b, y.arrs[k]? = some b ∧ P b
theorem hasArr_onTxn {s : State} {id k : Nat} {P Q : Arr → Prop} {f : Txn → Txn} (h : s.hasArr id k P) (hid : ∀ t, (f t).id = t.id)
    (hf : ∀ t b, t.arrs[k]? = some b → P b → ∃ b', (f t).arrs[k]? = some b' ∧ Q b') : (perform (onTxn id f) s).hasArr id k Q := by
  obtain ⟨y, hy, rfl, b, hb, hP⟩ := h
  obtain ⟨b', hb', hQ⟩ := hf y b hb hP
  exact ⟨f y, List.mem_map.mpr ⟨y, hy, if_pos (beq_self_eq_true _)⟩, hid y, b', hb', hQ⟩
theorem getElem?_range_zip {α : Type} (l : List α) (k : Nat) : ((List.range l.length).zip l)[k]? = (l[k]?).map (fun x => (k, x)) := by
  cases h : l[k]?
  case none => exact List.getElem?_eq_none (by simpa using h)
  case some x =>
    have hk : k < l.length := (List.getElem?_eq_some_iff.mp h).1
    exact List.getElem?_zip_eq_some.mpr ⟨by simp [hk], h⟩
theorem hasArr_onArr {s : State} {id k : Nat} {P Q : Arr → Prop} {f : Arr → Arr} (h : s.hasArr id k P) (hf : ∀ b, P b → Q (f b)) : (perform (onArr id k f) s).hasArr id k Q :=
  hasArr_onTxn h (fun _ => rfl) fun t b hb hP => ⟨f b, by rw [List.getElem?_map, getElem?_range_zip, hb]; simp, hf b hP⟩
theorem hasArr_congr {s t : State} {id k : Nat} {P : Arr → Prop} (h : s.hasArr id k P) (e : t.txns = s.txns) : t.hasArr id k P := by
  rwa [State.hasArr, e]

section
variable {ps : List Piece}
theorem only_reserveLoad (id : Nat) (h : Piece.units ∈ ps) : (reserveLoad id).Only ps := fun s => by
  unfold reserveLoad
  split
  · exact only_none s
  · dsimp only
    split
    · exact only_none s
    · split
      · exact only_onUnit _ _ h s
      · exact only_onUnit _ _ h s
      · exact only_onUnit _ _ h s
      · exact only_none s
theorem only_reserveDst (c : Col) (q : CopyCmd) (k : Nat) (x : Int) (h : Piece.units ∈ ps) : (reserveDst c q k x).Only ps := fun s => by
  unfold reserveDst
  dsimp only
  split
  · exact only_onUnit _ _ h s
  case h_2 p _ _ =>
    split
    · exact only_onUnit _ _ h s
    · cases (s.pathTerms c p).fixed
      · exact only_none s
      · exact only_onUnit _ _ h s
  · exact only_none s
theorem only_reserveExpand (c : Col) (cmd : Nat) (h : Piece.units ∈ ps) : (reserveExpand c cmd).Only ps := fun s => by
  unfold reserveExpand
  split
  · exact only_none s
  · split
    · refine only_each (fun y _ => ?_) s
      split
      · split
        · exact only_reserveDst _ _ _ _ h
        · exact only_none
      · exact only_none
    · exact only_none s
theorem only_reserveBlock (c : Col) (cmd k : Nat) (f : Int) (h : Piece.units ∈ ps) : (reserveBlock c cmd k f).Only ps := fun s => by
  unfold reserveBlock
  split
  · exact only_none s
  · dsimp only
    split
    · exact only_reserveDst _ _ _ _ h s
    · split
      · split
        · exact only_none s
        · exact only_each (fun v _ s => only_onUnit _ _ h s) s
      · exact only_none s
end
/-- What the known formula cycles of a transaction reserve in its unit. -/
def fixTail (t : Txn) (news : List (Nat × Int)) : Act :=
  match t.kind with
  | .copy cmd => Act.seq (Act.each news (fun x => reserveBlock t.who.col cmd x.1 x.2)) (reserveExpand t.who.col cmd)
  | .copyOut cmd => onUnit t.who.col (fun u => news.foldl (fun u x => u.markForm cmd (some .vault) (offOf ((t.arrs.map (·.va)).getD x.1 0) / 64) x.2) u)
  | _ => Act.none
def fixReserves (t : Txn) (id : Nat) (news : List (Nat × Int)) : Act := Act.seq (reserveLoad id) (fixTail t news)
theorem only_fixTail (t : Txn) (news : List (Nat × Int)) : (fixTail t news).Only [.units] := by
  unfold fixTail
  split
  · exact only_seq (only_each fun _ _ => only_reserveBlock _ _ _ _ (by simp)) (only_reserveExpand _ _ (by simp))
  · exact only_onUnit _ _ (by simp)
  · exact only_none
theorem only_fixReserves (t : Txn) (id : Nat) (news : List (Nat × Int)) : (fixReserves t id news).Only [.units] := only_seq (only_reserveLoad _ (by simp)) (only_fixTail _ _)
/-- A block whose formula cycle is known once its run's wait is. -/
def Arr.opens (g : Nat) (a : Arr) : Bool := a.grp == g && a.form.isNone && !a.del
def Txn.fixed (g : Nat) (w : Int) (t : Txn) : Txn := { t with arrs := t.arrs.map (fun a => if a.opens g then { a with form := some (a.term + w) } else a) }
/-- The blocks whose formula cycles the wait of a run gives. -/
def Txn.news (t : Txn) (k : Nat) (w : Int) : List (Nat × Int) := (List.range t.arrs.length).filterMap (fun i => match t.arrs[i]? with
  | some a => if a.opens ((t.arrs.map (·.grp)).getD k k) then some (i, a.term + w) else none
  | none => none)
theorem fixForms_none {id k : Nat} {w : Int} {s : State} (h : s.txns.find? (fun t => t.id == id) = none) : fixForms id k w s = [] := by simp only [fixForms, h]
theorem fixForms_some {id k : Nat} {w : Int} {s : State} {t : Txn} (h : s.txns.find? (fun t => t.id == id) = some t) :
    fixForms id k w s = Act.all [onTxn id (Txn.fixed ((t.arrs.map (·.grp)).getD k k) w), reserveLoad id, fixTail t (t.news k w)] s := by
  simp only [fixForms, h]
  rfl
/-- A block keeps its data, its fault and its cycle as formula cycles become known. -/
theorem hasArr_fixForms {id k : Nat} {w : Int} {s : State} {P : Arr → Prop} (h : s.hasArr id k P) (hP : ∀ a x, P a → P { a with form := x }) (j : Nat) : (perform (fixForms id j w) s).hasArr id k P := by
  cases hf : s.txns.find? (fun t => t.id == id)
  case none =>
    rw [perform, fixForms_none hf]; exact h
  case some t =>
    rw [perform, fixForms_some hf]
    have e : run (Act.all [onTxn id (Txn.fixed ((t.arrs.map (·.grp)).getD j j) w), reserveLoad id, fixTail t (t.news j w)] s) s =
        perform (fixReserves t id (t.news j w)) (perform (onTxn id (Txn.fixed ((t.arrs.map (·.grp)).getD j j) w)) s) := by
      rw [← perform, perform_all_cons, perform_all_cons, perform_all_cons, perform_all_nil, fixReserves, perform_seq]
    rw [e]
    have h1 : (perform (onTxn id (Txn.fixed ((t.arrs.map (·.grp)).getD j j) w)) s).hasArr id k P := hasArr_onTxn h (fun _ => rfl) fun t b hb hp => by
      refine ⟨_, (List.getElem?_map ..).trans (congrArg _ hb), ?_⟩
      dsimp only
      split
      · exact hP _ _ hp
      · exact hp
    exact hasArr_congr h1 ((only_fixReserves t id _).txns (by simp) _)
theorem only_fixForms (id k : Nat) (w : Int) : (fixForms id k w).Only [.txns, .units] := fun s => by
  cases h : s.txns.find? (fun t => t.id == id)
  case none => rw [fixForms_none h]; exact only_none s
  case some t =>
    rw [fixForms_some h]
    refine only_all (fun a ha => ?_) s
    simp only [List.mem_cons, List.not_mem_nil, or_false] at ha
    rcases ha with rfl | rfl | rfl
    · exact only_onTxn _ _ (by simp)
    · exact only_reserveLoad _ (by simp)
    · exact (only_fixTail _ _).mono (by simp)

section
variable {s : State} {c : Col}

/-! ## The beat of a window (R244) -/

/-- The state once a beat is spent. -/
def State.beatSpent (s : State) (c : Col) : State := { s with vaults := s.vaults.set c ((s.vault c).addPort (s.now c)) }
theorem beatSpent_vault (s : State) (c : Col) : (s.beatSpent c).vault c = (s.vault c).addPort (s.now c) := vault_set_same ..
theorem run_beatSpent_unit (s : State) (c d : Col) (v : VaultSt) (u : UnitSt) :
    run [.vault c v, .unit d u] (s.beatSpent c) = { s with vaults := s.vaults.set c v, units := s.units.set d u } :=
  congrArg (fun x => ({ s with vaults := x, units := s.units.set d u } : State)) (Vector.set_set ..)
/-- What a beat of a window does on an open row. -/
def beatAct (c : Col) (w : Win) (row : Fin 8192) (more : Bool) : Act :=
  match w.kind with
  | .remote => remoteBeat c w.bank row more
  | .mig => migBeat c w.bank row
  | .shared => sharedBeat c w.bank row
section
variable {w : Win}
theorem execWindowBeat_unused (he : s.ev = .windowBeat c) (hw : (s.vault c).wins.find? (fun w => w.covers (s.now c)) = some w)
    (h : ((s.vault c).banks[w.bank]).row = none ∨ (s.vault c).keeperHolds w.bank (s.now c) = true) : execWindowBeat s = .next (s.beatSpent c) := by
  cases hrow : ((s.vault c).banks[w.bank]).row
  case none => simp only [execWindowBeat, he, hw, hrow]; rfl
  case some row =>
    have hk : (s.vault c).keeperHolds w.bank (s.now c) = true := h.resolve_left (by rw [hrow]; exact Option.some_ne_none _)
    simp only [execWindowBeat, he, hw, hrow, hk, if_true]; rfl
theorem execWindowBeat_open {row : Fin 8192} (he : s.ev = .windowBeat c) (hw : (s.vault c).wins.find? (fun w => w.covers (s.now c)) = some w) (hrow : ((s.vault c).banks[w.bank]).row = some row)
    (hk : (s.vault c).keeperHolds w.bank (s.now c) = false) : execWindowBeat s = .next (perform (beatAct c w row (decide (s.now c < w.last))) (s.beatSpent c)) := by
  have e : execWindowBeat s = done (Act.seq (onVault c (fun v => v.addPort (s.now c))) (beatAct c w row (decide (s.now c < w.last)))) s := by
    simp only [execWindowBeat, he, hw, hrow, hk, Bool.false_eq_true, if_false]
    rfl
  rw [e, done, perform_seq]
  rfl
end

/-! ### REMOTE beats (R129, R131) -/

/-- A spent beat changes nothing that decides which request is served, and when. -/
theorem beatSpent_waiting (b : Fin 16) (row : Fin 8192) : (s.beatSpent c).waiting c b row = s.waiting c b row := by
  rw [State.waiting, beatSpent_vault]; rfl
theorem beatSpent_writtenAt (r : Req) : (s.beatSpent c).writtenAt c r = s.writtenAt c r := by
  rw [State.writtenAt, beatSpent_vault]; rfl
theorem beatSpent_inTurn (r : Req) (x : Int) : (s.beatSpent c).inTurn c r x = s.inTurn c r x := by
  rw [State.inTurn, beatSpent_vault]; rfl
theorem beatSpent_beatOk (cmd : Cmd) (b : Fin 16) (now : Int) : ((s.beatSpent c).vault c).beatOk cmd b now = (s.vault c).beatOk cmd b now := by
  rw [beatSpent_vault]; rfl
/-- The request that a REMOTE beat serves. -/
def State.beatReq (s : State) (c : Col) (b : Fin 16) (row : Fin 8192) : Option Req := oldest ((s.waiting c b row).filter (fun r => s.inTurn c r (s.writtenAt c r)))
theorem beatSpent_beatReq (b : Fin 16) (row : Fin 8192) : (s.beatSpent c).beatReq c b row = s.beatReq c b row := by
  rw [State.beatReq, State.beatReq, beatSpent_waiting]
  simp only [beatSpent_inTurn, beatSpent_writtenAt]

section
variable {b : Fin 16} {row : Fin 8192} {more : Bool} {r : Req}
theorem remoteBeat_none (h : s.beatReq c b row = none) : perform (remoteBeat c b row more) s = s := by
  have e : remoteBeat c b row more s = [] := by
    unfold remoteBeat
    simp only [show oldest ((s.waiting c b row).filter (fun r => s.inTurn c r (s.writtenAt c r))) = none from h]
  rw [perform, e]; rfl
theorem remoteBeat_some (h : s.beatReq c b row = some r) : remoteBeat c b row more s =
    if r.who.gen != ((s.dies[dieOf c]).gen)[dieOf c] then [.vault c { s.vault c with reqs := (s.vault c).reqs.filter (fun q => q != r) }]
    else match r.kind with
      | .read => if (s.vault c).beatOk .rd b (s.now c) then
          Act.seq (fun _ => [.vault c (({ s.vault c with reqs := (s.vault c).reqs.filter (fun q => q != r) } : VaultSt).command .rd b row 0 (s.now c))]) (serveRead c r) s else []
      | _ => if !(s.vault c).beatOk (.wr r.cow) b (s.now c) || (r.cow && !more) then []
        else
          let v' := ({ s.vault c with reqs := (s.vault c).reqs.filter (fun q => q != r) } : VaultSt).command (.wr r.cow) b row 0 (s.now c)
          Act.all [fun _ => [.vault c { v' with served := v'.served ++ [{ at_ := s.writtenAt c r, req := r }] }],
            onArr r.tx r.k (fun a => { a with due := some (s.writtenAt c r) }), fixForms r.tx r.k (s.now r.who.col - r.arrive)] s := by
  unfold remoteBeat
  simp only [show oldest ((s.waiting c b row).filter (fun r => s.inTurn c r (s.writtenAt c r))) = some r from h] <;> rfl
/-- A request of an old generation is dropped (R350). -/
theorem remoteBeat_drops (h : s.beatReq c b row = some r) (hg : r.who.gen ≠ ((s.dies[dieOf c]).gen)[dieOf c]) :
    perform (remoteBeat c b row more) s = { s with vaults := s.vaults.set c { s.vault c with reqs := (s.vault c).reqs.filter (fun q => q != r) } } := by
  rw [perform, remoteBeat_some h, if_pos (bne_iff_ne.mpr hg)]; rfl
/-- What a column command leaves of a vault. -/
theorem command_rd (v : VaultSt) (b : Fin 16) (row : Fin 8192) (span now : Int) : let w := v.command .rd b row span now
    w.reqs = v.reqs ∧ w.served = v.served ∧ (w.banks[b]).rd = some now ∧ w.saved = v.saved ∧ w.drain = v.drain ∧ w.budget = v.budget :=
  ⟨rfl, rfl, congrArg Bank.rd (onBank_same { v with lastRd := some now } b (fun k => { k with rd := some now })), rfl, rfl, rfl⟩
theorem command_wr (v : VaultSt) (cow : Bool) (b : Fin 16) (row : Fin 8192) (span now : Int) : let w := v.command (.wr cow) b row span now
    w.reqs = v.reqs ∧ w.served = v.served ∧ (w.banks[b]).wr = some now ∧ w.saved = v.saved ∧ w.budget = v.budget ∧ w.dirty = v.dirty := by
  have h := congrArg Bank.wr (onBank_same { v with lastWr := some now } b (fun k => { k with wr := some now }))
  cases cow <;> exact ⟨rfl, rfl, h, rfl, rfl, rfl⟩
def readBack (s : State) (c : Col) (r : Req) (a : Arr) : Arr :=
  { a with at_ := if dieOf c != dieOf r.who.col then none else some (s.now r.who.col + 18 + r.ret), blk := (s.mem c .vault).blk (r.pa / 64), bad := none }
/-- A read without the race detector, of an issuer whose die has not reset. -/
theorem serveRead_private (hsh : r.sh = false) (hown : s.ownOk r.who = true) : ∃ x : LinkBeat, perform (serveRead c r) s =
    perform (Act.when (dieOf c != dieOf r.who.col) (sendBeat x)) (perform (fixForms r.tx r.k (s.now r.who.col - r.arrive)) (perform (onArr r.tx r.k (readBack s c r)) (perform (onVault c (fun v => v)) s))) := by
  have e : ∃ x : LinkBeat, serveRead c r s = Act.seq (onVault c (fun v => v)) (Act.all [onArr r.tx r.k (readBack s c r), fixForms r.tx r.k (s.now r.who.col - r.arrive),
      Act.when (dieOf c != dieOf r.who.col) (sendBeat x)]) s := by
    simp only [serveRead, hsh, hown, Bool.false_eq_true, if_false, Bool.not_true]
    exact ⟨_, rfl⟩
  obtain ⟨x, e⟩ := e
  refine ⟨x, (congrArg (run · s) e).trans (Eq.trans (b := perform (Act.seq _ (Act.all [_, _, _])) s) rfl ?_)⟩
  rw [perform_seq, perform_all_cons, perform_all_cons, perform_all_cons, perform_all_nil]
theorem onVault_self (s : State) (c : Col) : perform (onVault c (fun v => v)) s = s := by
  simp [perform_onVault, State.vault]
theorem only_sendBeat (x : LinkBeat) : (sendBeat x).Only [.links] := only_one (fun _ => rfl) (by simp)
/-- A REMOTE beat reads a block (R129, R131). -/
theorem remoteBeat_reads (h : s.beatReq c b row = some r) (hg : r.who.gen = ((s.dies[dieOf c]).gen)[dieOf c]) (hk : r.kind = .read) (hb : (s.vault c).beatOk .rd b (s.now c) = true)
    (hsh : r.sh = false) (hown : s.ownOk r.who = true) :
    let t := perform (remoteBeat c b row more) s
    t.mems = s.mems ∧ (t.vault c).reqs = (s.vault c).reqs.filter (fun q => q != r) ∧ ((t.vault c).banks[b]).rd = some (s.now c) ∧
      ∀ P, s.hasArr r.tx r.k P → t.hasArr r.tx r.k (fun a => a.blk = (s.mem c .vault).blk (r.pa / 64) ∧ a.bad = none ∧
        a.at_ = if dieOf c = dieOf r.who.col then some (s.now r.who.col + 18 + r.ret) else none) := by
  obtain ⟨v, ev⟩ : ∃ v : VaultSt, v = ({ s.vault c with reqs := (s.vault c).reqs.filter (fun q => q != r) } : VaultSt).command .rd b row 0 (s.now c) := ⟨_, rfl⟩
  have hv := command_rd { s.vault c with reqs := (s.vault c).reqs.filter (fun q => q != r) } b row 0 (s.now c)
  rw [← ev] at hv
  obtain ⟨v1, -, v3, -⟩ := hv
  obtain ⟨s1, e1⟩ : ∃ x : State, x = { s with vaults := s.vaults.set c v } := ⟨_, rfl⟩
  have e : perform (remoteBeat c b row more) s = perform (serveRead c r) s1 := by
    have hl : remoteBeat c b row more s = Act.seq (fun _ => [.vault c v]) (serveRead c r) s := by
      rw [remoteBeat_some h, if_neg (by rw [hg]; simp), ev]
      simp only [hk]
      exact if_pos hb
    refine (congrArg (run · s) hl).trans (Eq.trans (b := perform (Act.seq (fun _ => [.vault c v]) (serveRead c r)) s) rfl ?_)
    rw [perform_seq, e1]; rfl
  obtain ⟨x, e2⟩ := serveRead_private (s := s1) (c := c) hsh (show s1.ownOk r.who = true by rw [e1]; exact hown)
  rw [onVault_self] at e2
  have hlast : (Act.when (dieOf c != dieOf r.who.col) (sendBeat x)).Only [.links] := only_when _ (only_sendBeat _)
  have hfix := only_fixForms r.tx r.k (s1.now r.who.col - r.arrive)
  have harr := only_onArr (ps := [.txns]) r.tx r.k (readBack s1 c r) (by simp)
  intro t
  have et : t = _ := e.trans e2
  have hvault : t.vault c = v := by
    rw [et, (hlast.vaults (by simp)).vault, (hfix.vaults (by simp)).vault, (harr.vaults (by simp)).vault, e1]
    exact vault_set_same ..
  refine ⟨?_, by rw [hvault, v1], by rw [hvault, v3], fun P hP => ?_⟩
  · rw [et, hlast.mems (by simp), hfix.mems (by simp), harr.mems (by simp), e1]
  · rw [et]
    refine hasArr_congr (hasArr_fixForms ?_ (fun _ _ h => h) _) (hlast.txns (by simp) _)
    refine hasArr_onArr (P := P) (hasArr_congr hP (by rw [e1])) fun a _ => ⟨?_, rfl, ?_⟩
    · rw [readBack, e1]; rfl
    · rw [readBack, e1]
      by_cases hd : dieOf c = dieOf r.who.col
      · simp only [hd, bne_self_eq_false, Bool.false_eq_true, if_false, if_true]; rfl
      · simp only [bne_iff_ne.mpr hd, if_true, if_neg hd]
/-- A REMOTE beat takes a write (R131). -/
theorem remoteBeat_writes {x : BlkWrite} (h : s.beatReq c b row = some r) (hg : r.who.gen = ((s.dies[dieOf c]).gen)[dieOf c]) (hk : r.kind = .write x) (hc : r.cow = false ∨ more = true)
    (hb : (s.vault c).beatOk (.wr r.cow) b (s.now c) = true) :
    let t := perform (remoteBeat c b row more) s
    t.mems = s.mems ∧ (t.vault c).reqs = (s.vault c).reqs.filter (fun q => q != r) ∧ ((t.vault c).banks[b]).wr = some (s.now c) ∧
      (t.vault c).served = (s.vault c).served ++ [{ at_ := s.writtenAt c r, req := r }] := by
  obtain ⟨v, ev⟩ : ∃ v : VaultSt, v = ({ s.vault c with reqs := (s.vault c).reqs.filter (fun q => q != r) } : VaultSt).command (.wr r.cow) b row 0 (s.now c) := ⟨_, rfl⟩
  have hv := command_wr { s.vault c with reqs := (s.vault c).reqs.filter (fun q => q != r) } r.cow b row 0 (s.now c)
  rw [← ev] at hv
  obtain ⟨v1, v2, v3, -⟩ := hv
  have hfree : (!(s.vault c).beatOk (.wr r.cow) b (s.now c) || (r.cow && !more)) = false := by
    rw [hb]
    rcases hc with hc | hc <;> rw [hc] <;> simp
  have harr := only_onArr (ps := [.txns]) r.tx r.k (fun a => { a with due := some (s.writtenAt c r) }) (by simp)
  have hfix := only_fixForms r.tx r.k (s.now r.who.col - r.arrive)
  have hl : remoteBeat c b row more s = Act.all [fun _ => [.vault c { v with served := v.served ++ [{ at_ := s.writtenAt c r, req := r }] }],
      onArr r.tx r.k (fun a => { a with due := some (s.writtenAt c r) }), fixForms r.tx r.k (s.now r.who.col - r.arrive)] s := by
    rw [remoteBeat_some h, if_neg (by rw [hg]; simp), ev]
    simp only [hk]
    exact if_neg (by rw [hfree]; exact Bool.false_ne_true)
  intro t
  have et : t = perform (fixForms r.tx r.k (s.now r.who.col - r.arrive)) (perform (onArr r.tx r.k (fun a => { a with due := some (s.writtenAt c r) }))
      { s with vaults := s.vaults.set c { v with served := v.served ++ [{ at_ := s.writtenAt c r, req := r }] } }) := by
    refine (congrArg (run · s) hl).trans (Eq.trans (b := perform (Act.all [_, _, _]) s) rfl ?_)
    rw [perform_all_cons, perform_all_cons, perform_all_cons, perform_all_nil]; rfl
  have hvault : t.vault c = { v with served := v.served ++ [{ at_ := s.writtenAt c r, req := r }] } := by
    rw [et, (hfix.vaults (by simp)).vault, (harr.vaults (by simp)).vault]
    exact vault_set_same ..
  refine ⟨by rw [et, hfix.mems (by simp), harr.mems (by simp)], (congrArg VaultSt.reqs hvault).trans v1, (congrArg (fun v => (v.banks[b]).wr) hvault).trans v3, by rw [hvault, v2]⟩
/-- A COW write waits for two beats of one declaration (R115). -/
theorem remoteBeat_waits {x : BlkWrite} (h : s.beatReq c b row = some r) (hg : r.who.gen = ((s.dies[dieOf c]).gen)[dieOf c]) (hk : r.kind = .write x) (hc : r.cow = true) :
    perform (remoteBeat c b row false) s = s := by
  have hl : remoteBeat c b row false s = [] := by
    rw [remoteBeat_some h, if_neg (by rw [hg]; simp)]
    simp only [hk]
    exact if_pos (by rw [hc]; simp)
  rw [perform, hl]; rfl
end
end

/-! ### When a served write is performed (R115, R131, R332) -/

theorem le_foldl_bumps (rest : List Served) (l : List Served) (m : Int) : m ≤ l.foldl (fun m _ => if rest.any (fun x => x.at_ == m) then m + 1 else m) m := by
  induction l generalizing m with
  | nil => exact le_refl _
  | cons x l ih =>
    refine le_trans ?_ (ih _)
    dsimp only
    split
    · omega
    · exact le_refl _
theorem foldl_next (l : List Served) (m : Int) : m ≤ l.foldl (fun m x => max m (x.at_ + 1)) m ∧ ∀ x ∈ l, x.at_ < l.foldl (fun m x => max m (x.at_ + 1)) m := by
  induction l generalizing m with
  | nil => exact ⟨le_refl _, fun x hx => by cases hx⟩
  | cons y l ih =>
    obtain ⟨h1, h2⟩ := ih (max m (y.at_ + 1))
    refine ⟨(le_max_left _ _).trans h1, fun x hx => ?_⟩
    rcases List.mem_cons.mp hx with rfl | hx
    · exact Int.lt_of_lt_of_le (Int.lt_add_one_iff.mpr (le_refl _)) ((le_max_right _ _).trans h1)
    · exact h2 x hx
section
variable {s : State} {c : Col} {r : Req}
/-- The first cycle that the formula and the unit's own writes of the block leave. -/
def State.writtenMine (s : State) (c : Col) (r : Req) : Int :=
  (((s.vault c).toCome (r.pa / 64)).filter (fun x => x.req.who.col == r.who.col)).foldl (fun m x => max m (x.at_ + 1)) (max (s.now r.who.col + (if r.cow then 2 else 1)) r.least)
theorem writtenMine_le : s.writtenMine c r ≤ s.writtenAt c r := le_foldl_bumps _ _ _
theorem least_le_writtenAt : max (s.now r.who.col + (if r.cow then 2 else 1)) r.least ≤ s.writtenAt c r := (foldl_next _ _).1.trans writtenMine_le
theorem served_lt_writtenAt : ∀ x ∈ (s.vault c).served, x.req.pa / 64 = r.pa / 64 → x.req.who.col = r.who.col → x.at_ < s.writtenAt c r := fun x hx hb hw => by
  have hmem : x ∈ ((s.vault c).toCome (r.pa / 64)).filter (fun x => x.req.who.col == r.who.col) := by
    simp [VaultSt.toCome, hx, hb, hw]
  exact Int.lt_of_lt_of_le ((foldl_next _ _).2 x hmem) writtenMine_le
theorem writtenAt_alone (h : ∀ x ∈ (s.vault c).served, x.req.pa / 64 ≠ r.pa / 64) : s.writtenAt c r = max (s.now r.who.col + (if r.cow then 2 else 1)) r.least := by
  have e : (s.vault c).toCome (r.pa / 64) = [] := List.filter_eq_nil_iff.mpr fun x hx => by simpa using h x hx
  rw [State.writtenAt, e]; rfl
end

section
variable {s : State} {c : Col} {b : Fin 16} {row : Fin 8192}

/-! ### MIG and SHARED beats (R118, R121, R126, R414, R418, R423) -/

/-- The command that a MIG beat's job takes. -/
def MigJob.cmd : MigJob → Cmd
  | .read .. => .rd
  | _ => .wr false
theorem migBeat_serves {j : MigJob} (h : s.migJob c b row = some j) (hb : (s.vault c).beatOk j.cmd b (s.now c) = true) :
    perform (migBeat c b row) s = perform (serveMig j) s := by
  have e : migBeat c b row s = serveMig j s := by
    unfold migBeat
    rw [h]
    cases j with
    | dual d id => exact if_pos hb
    | write d va => exact if_pos hb
    | read d va => exact if_pos hb
  exact congrArg (run · s) e
/-- The vault's blocks that a fallow beat may clear, and what a drain beat may take. -/
def State.fallowBlk (s : State) (c : Col) (b : Fin 16) (row : Fin 8192) : Option Nat := if 0 < (s.vault c).budget.left.getD 0 0 then (s.vault c).budget.fallow.find? (blkIn b row) else none
def State.drainBlk (s : State) (c : Col) (b : Fin 16) (row : Fin 8192) : Option (Dword × Nat) := if 0 < (s.vault c).budget.left.getD 1 0 then
  (s.vault c).drain.find? (fun x => blkIn b row ((s.vault c).snapBlk x.1 x.2) && ((s.job x.1).bind (·.storage)).isSome) else none
def State.rewriteEv (s : State) (c : Col) : Option Ev := if 0 < (s.vault c).budget.left.getD 2 0 then (s.vault c).budget.rewrites.find? s.rewriteReady else none
theorem ite_none {α : Type} {p : Prop} [Decidable p] {x : Option α} (h : ¬ p ∨ x = none) : (if p then x else none) = none := by
  rcases h with h | h
  · exact if_neg h
  · rw [h, ite_self]
theorem sharedBeat_fallow {blk : Nat} (h : s.fallowBlk c b row = some blk) (hb : (s.vault c).beatOk (.wr false) b (s.now c) = true) :
    sharedBeat c b row s = Act.seq (fun _ => [.vault c (({ s.vault c with budget := ({ (s.vault c).budget with fallow := (s.vault c).budget.fallow.filter (fun x => x != blk) } : Budget).spend 0 } : VaultSt).command
      (.wr false) b row 0 (s.now c)), .mem c .vault [(blk, Blk.clear.whole)]]) retrySnaps s := by
  simp only [State.fallowBlk] at h
  simp only [sharedBeat, h]
  exact if_pos hb
/-- What a drain beat leaves of the vault. -/
def VaultSt.drainBeat (v : VaultSt) (b : Fin 16) (row : Fin 8192) (now : Int) (x : Dword × Nat) : VaultSt := (({ v with budget := v.budget.spend 1 } : VaultSt).command .rd b row 0 now).drained x.1 x.2
def drainEnds (c : Col) : Act := fun s => if (s.vault c).drain.isEmpty then onVault c (fun v => { v with idleAt := s.tick }) s else []
def drainReports (job : Dword) : Act := fun s => if allCols.any (fun c => (s.vault c).drain.any (fun y => y.1 == job)) then [] else eventNow (.snapshotDrained job) s
theorem sharedBeat_drain {x : Dword × Nat} (h0 : s.fallowBlk c b row = none) (h : s.drainBlk c b row = some x) (hb : (s.vault c).beatOk .rd b (s.now c) = true) :
    sharedBeat c b row s = Act.all [fun _ => [.vault c ((s.vault c).drainBeat b row (s.now c) x)], report (.drained x.1 c x.2 ((s.mem c .vault).blk ((s.vault c).snapBlk x.1 x.2))), drainEnds c, drainReports x.1] s := by
  simp only [State.fallowBlk] at h0
  simp only [State.drainBlk] at h
  simp only [sharedBeat, h0, h]
  exact if_pos hb
theorem sharedBeat_rewrite {e : Ev} {d : Col} {m : MapSt} (h0 : s.fallowBlk c b row = none) (h1 : s.drainBlk c b row = none) (h : s.rewriteEv c = some e) (hr : s.rewritten e = some (d, m)) :
    sharedBeat c b row s = [.vault c { s.vault c with budget := ({ (s.vault c).budget with rewrites := dropFirst (fun x => x == e) (s.vault c).budget.rewrites } : Budget).spend 2 }, .unit d { s.unit d with maps := m }] := by
  simp only [State.fallowBlk] at h0
  simp only [State.drainBlk] at h1
  simp only [State.rewriteEv] at h
  simp only [sharedBeat, h0, h1, h, hr]
/-- A beat that no activity of the first three takes. -/
theorem sharedBeat_last (h0 : s.fallowBlk c b row = none) (h1 : s.drainBlk c b row = none) (h2 : s.rewriteEv c = none) (hg : ¬ (0 < (s.vault c).budget.left.getD 2 0 ∧ 0 < (s.vault c).budget.glean)) :
    sharedBeat c b row s = if 0 < (s.vault c).budget.left.getD 3 0 ∧ 0 < (s.vault c).budget.tele then
      Act.seq (fun _ => [.vault c { s.vault c with budget := ({ (s.vault c).budget with tele := (s.vault c).budget.tele - 1 } : Budget).spend 3 }]) (report (.telemetry c (site c).1 (site c).2)) s else [] := by
  simp only [State.fallowBlk] at h0
  simp only [State.drainBlk] at h1
  simp only [State.rewriteEv] at h2
  simp only [sharedBeat, decide_eq_true_eq, h0, h1, h2, Bool.and_eq_true, if_neg hg]
/-- The rewrite that the Gleaner asks for, where R126 allows it. -/
theorem rewritten_some {d col : Col} {map : Fin 16} {ix : Nat} {tier : Fin 4} {ppn : Nat} {es : List Extent} {e : Extent} (hm : ((s.unit d).maps.maps[map]) = some es) (hi : es[ix]? = some e) (hfl : e.fl = true)
    (hsh : e.sh = false) (hcur : map ≠ (s.unit d).maps.cur) (htgt : (s.unit d).maps.valid = true → map ≠ (s.unit d).maps.tgt) (hw : tier ≤ e.worst) (h3 : tier ≠ 3) (ht : tier = tierAt d col)
    (hd : s.pkg.dielist.contains (dieOf col) = true) (hp : ppn < 2 ^ 17) : s.rewritten (.gleanerRewrite d map ix tier col ppn) =
      some (d, ({ (s.unit d).maps with maps := (s.unit d).maps.maps.set map (some (es.set ix { e with tier := tier, col := col, ppn := ppn })) } : MapSt).mend map (fun k => k == (ix + 1) / 2)) := by
  have hv : ((s.unit d).maps.valid && map == (s.unit d).maps.tgt) = false := by
    cases hvalid : (s.unit d).maps.valid
    · rfl
    · rw [Bool.true_and]; exact beq_eq_false_iff_ne.mpr (htgt hvalid)
  have h3' : (tier != 3) = true := bne_iff_ne.mpr h3
  have hok : (e.fl && !e.sh && map != (s.unit d).maps.cur && !((s.unit d).maps.valid && map == (s.unit d).maps.tgt) && decide (tier ≤ e.worst) && (tier != 3 || e.worst == 3) &&
      (tier == 3 || (tier == tierAt d col && s.pkg.dielist.contains (dieOf col))) && decide (ppn < 2 ^ 17)) = true := by
    rw [hfl, hsh, bne_iff_ne.mpr hcur, hv, decide_eq_true hw, h3', hd, decide_eq_true hp, beq_iff_eq.mpr ht]
    simp
  simp only [State.rewritten, hm, hi]
  exact if_pos hok
end

section
variable {s : State} {c : Col} {b : Fin 16} {row : Fin 8192}

theorem beatSpent_migJob : (s.beatSpent c).migJob c b row = s.migJob c b row := by
  unfold State.migJob
  generalize allCols = l
  rfl
theorem beatSpent_fallowBlk : (s.beatSpent c).fallowBlk c b row = s.fallowBlk c b row := by rw [State.fallowBlk, beatSpent_vault]; rfl
theorem beatSpent_drainBlk : (s.beatSpent c).drainBlk c b row = s.drainBlk c b row := by rw [State.drainBlk, beatSpent_vault]; rfl
theorem beatSpent_rewriteEv : (s.beatSpent c).rewriteEv c = s.rewriteEv c := by rw [State.rewriteEv, beatSpent_vault]; rfl

theorem only_retrySnaps : retrySnaps.Only [.agenda] := fun s => only_each (fun _ _ => only_eventNow _ (by simp)) s
/-- A fallow beat clears a block. -/
theorem sharedBeat_clears {blk : Nat} (h : s.fallowBlk c b row = some blk) (hb : (s.vault c).beatOk (.wr false) b (s.now c) = true) :
    let t := perform (sharedBeat c b row) s
    t.mem c .vault = (s.mem c .vault).write blk Blk.clear.whole ∧ (∀ d m, d ≠ c ∨ m ≠ .vault → t.mem d m = s.mem d m) ∧
      (t.vault c).budget = ({ (s.vault c).budget with fallow := (s.vault c).budget.fallow.filter (fun x => x != blk) } : Budget).spend 0 := by
  obtain ⟨v, ev⟩ : ∃ v : VaultSt, v = ({ s.vault c with budget := ({ (s.vault c).budget with fallow := (s.vault c).budget.fallow.filter (fun x => x != blk) } : Budget).spend 0 } : VaultSt).command
      (.wr false) b row 0 (s.now c) := ⟨_, rfl⟩
  have hv : v.budget = ({ (s.vault c).budget with fallow := (s.vault c).budget.fallow.filter (fun x => x != blk) } : Budget).spend 0 := by rw [ev]; exact (command_wr ..).2.2.2.2.1
  have e := sharedBeat_fallow h hb
  rw [← ev] at e
  intro t
  have et : t = perform retrySnaps (Upd.apply (.mem c .vault [(blk, Blk.clear.whole)]) { s with vaults := s.vaults.set c v }) := by
    refine (congrArg (run · s) e).trans (Eq.trans (b := perform (Act.seq (fun _ => [.vault c v, .mem c .vault [(blk, Blk.clear.whole)]]) retrySnaps) s) rfl ?_)
    rw [perform_seq]; rfl
  have hr := only_retrySnaps
  have hm (d : Col) (m : Mem) : t.mem d m = if d = c ∧ m = .vault then (s.mem c .vault).writes [(blk, Blk.clear.whole)] else s.mem d m := by
    rw [et, (hr.mems (by simp)).mem, mem_apply_writes]; rfl
  refine ⟨(hm c .vault).trans (if_pos ⟨rfl, rfl⟩), fun d m h => (hm d m).trans (if_neg fun hh => ?_), ?_⟩
  · rcases h with h | h
    · exact h hh.1
    · exact h hh.2
  · rw [et, (hr.vaults (by simp)).vault, ← hv]
    exact congrArg VaultSt.budget (vault_set_same ..)
theorem only_drainEnds (c : Col) : (drainEnds c).Only [.vaults] := fun s => by
  unfold drainEnds
  split
  · exact only_onVault _ _ (by simp) s
  · exact only_none s
theorem drainEnds_drain (t : State) : ((perform (drainEnds c) t).vault c).drain = (t.vault c).drain := by
  by_cases h : (t.vault c).drain.isEmpty
  · have e : perform (drainEnds c) t = perform (onVault c (fun v => { v with idleAt := t.tick })) t := congrArg (run · t) (if_pos h)
    rw [e]
    exact (congrArg VaultSt.drain (vault_set_same ..)).trans rfl
  · have e : perform (drainEnds c) t = t := congrArg (run · t) (if_neg h)
    rw [e]
theorem only_drainReports (job : Dword) : (drainReports job).Only [.agenda] := fun s => by
  unfold drainReports
  split
  · exact only_none s
  · exact only_eventNow _ (by simp) s
theorem drainBeat_drain (v : VaultSt) (now : Int) (x : Dword × Nat) : (v.drainBeat b row now x).drain = v.drain.filter (fun y => y != x) := rfl
/-- A drain beat takes a block of a snapshot. -/
theorem sharedBeat_drains {x : Dword × Nat} (h0 : s.fallowBlk c b row = none) (h : s.drainBlk c b row = some x) (hb : (s.vault c).beatOk .rd b (s.now c) = true) :
    let t := perform (sharedBeat c b row) s
    t.mems = s.mems ∧ t.outbox = s.outbox ++ [.drained x.1 c x.2 ((s.mem c .vault).blk ((s.vault c).snapBlk x.1 x.2))] ∧ (t.vault c).drain = (s.vault c).drain.filter (fun y => y != x) := by
  obtain ⟨v, ev⟩ : ∃ v : VaultSt, v = (s.vault c).drainBeat b row (s.now c) x := ⟨_, rfl⟩
  have hv : v.drain = (s.vault c).drain.filter (fun y => y != x) := by rw [ev]; exact drainBeat_drain ..
  have e := sharedBeat_drain h0 h hb
  rw [← ev] at e
  obtain ⟨r, er⟩ : ∃ r : Report, r = .drained x.1 c x.2 ((s.mem c .vault).blk ((s.vault c).snapBlk x.1 x.2)) := ⟨_, rfl⟩
  rw [← er] at e ⊢
  obtain ⟨s1, e1⟩ : ∃ y : State, y = { s with vaults := s.vaults.set c v, outbox := s.outbox ++ [r] } := ⟨_, rfl⟩
  intro t
  have et : t = perform (drainReports x.1) (perform (drainEnds c) s1) := by
    refine (congrArg (run · s) e).trans (Eq.trans (b := perform (Act.all [_, _, _, _]) s) rfl ?_)
    rw [perform_all_cons, perform_all_cons, perform_all_cons, perform_all_cons, perform_all_nil, e1]; rfl
  have h2 := only_drainEnds c
  have h3 := only_drainReports x.1
  refine ⟨?_, ?_, ?_⟩
  · rw [et, h3.mems (by simp), h2.mems (by simp), e1]
  · rw [et, h3.outbox (by simp), h2.outbox (by simp), e1]
  · rw [et, (h3.vaults (by simp)).vault, drainEnds_drain, e1, ← hv]
    exact congrArg VaultSt.drain (vault_set_same ..)

/-! ## The Wain's beats and dual writes (R118, R121) -/

theorem only_beatCmd (o : Col) (pa : Nat) (ext : Option Nat) (cmd : Cmd) : (beatCmd o pa ext cmd).Only [.vaults] := only_when _ fun s => only_onVault _ _ (by simp) s
theorem execWainBeat_reads {mv : WainMove} {rest : List WainMove} (he : s.ev = .wainBeat c false) (hm : (s.unit c).maps.moves = mv :: rest) :
    ∃ t k, execWainBeat s = .next t ∧ (t.unit c).maps.moves = rest ∧ (t.unit c).maps.carried = (s.unit c).maps.carried ++ [k] ∧ k.mv = mv ∧ k.from_ = s.now c + (mv.transit : Int) ∧
      k.lo = s.wainBlk mv.src mv.spa mv.sext 0 ∧ k.hi = s.wainBlk mv.src mv.spa mv.sext 1 ∧ t.mems = s.mems ∧ t.ext = s.ext := by
  have hcmd := only_beatCmd mv.src mv.spa mv.sext .rd
  have e : ∃ k : Carried, (k.mv = mv ∧ k.from_ = s.now c + (mv.transit : Int) ∧ k.lo = s.wainBlk mv.src mv.spa mv.sext 0 ∧ k.hi = s.wainBlk mv.src mv.spa mv.sext 1) ∧
      execWainBeat s = done (Act.seq (beatCmd mv.src mv.spa mv.sext .rd)
        (onUnit c (fun u => { u with maps := { (s.unit c).maps with moves := rest, carried := (s.unit c).maps.carried ++ [k], lastRd := s.now c, pick := none } }))) s := by
    simp only [execWainBeat, he, hm]
    exact ⟨_, ⟨rfl, rfl, rfl, rfl⟩, rfl⟩
  obtain ⟨k, ⟨k1, k2, k3, k4⟩, e⟩ := e
  rw [e, done, perform_seq]
  refine ⟨_, k, rfl, congrArg (fun u : UnitSt => u.maps.moves) (unit_set_same ..), congrArg (fun u : UnitSt => u.maps.carried) (unit_set_same ..), k1, k2, k3, k4, hcmd.mems (by simp) _, hcmd.ext (by simp) _⟩
theorem execWainBeat_writes {k : Carried} (he : s.ev = .wainBeat c true) (hk : (s.unit c).maps.beatWrite (s.now c) = some k) (hx : k.mv.dext = none) : ∃ t, execWainBeat s = .next t ∧
      (k.slo = none → k.shi = none → t.mem k.mv.dst .vault = ((s.mem k.mv.dst .vault).write (k.mv.dpa / 64) k.lo.whole).write (k.mv.dpa / 64 + 1) k.hi.whole) ∧
      (t.unit c).maps.carried = (s.unit c).maps.carried.filter (fun q => q.mv.va != k.mv.va) := by
  let cmd := beatCmd k.mv.dst k.mv.dpa k.mv.dext (.wr false)
  let put := wainPut k.mv.dst k.mv.dpa k.mv.dext k.mv.home [(k.lo, k.dlo), (k.hi, k.dhi)]
  let saved := Act.when k.mv.dext.isNone (Act.seq (carrySaved (s.jobOf c) k.mv.dst (k.mv.dpa / 64) k.slo) (carrySaved (s.jobOf c) k.mv.dst (k.mv.dpa / 64 + 1) k.shi))
  obtain ⟨x, e⟩ : ∃ x, execWainBeat s = done (Act.all [cmd, put, saved, onUnit c (fun u => { u with maps := { (s.unit c).maps with
      carried := (s.unit c).maps.carried.filter (fun q => q.mv.va != k.mv.va), pick := none, readyAt := x } })]) s := by
    simp only [execWainBeat, he, hk]
    exact ⟨_, rfl⟩
  rw [e, done, perform_all_cons, perform_all_cons, perform_all_cons, perform_all_cons, perform_all_nil]
  refine ⟨_, rfl, fun h1 h2 => ?_, congrArg (fun u : UnitSt => u.maps.carried) (unit_set_same ..)⟩
  have hput (t : State) : (perform put t).mem k.mv.dst .vault = ((t.mem k.mv.dst .vault).write (k.mv.dpa / 64) k.lo.whole).write (k.mv.dpa / 64 + 1) k.hi.whole := by
    have e : ∃ v, perform put t = Upd.apply (.mem k.mv.dst .vault [(k.mv.dpa / 64 + 0, k.lo.whole), (k.mv.dpa / 64 + 1, k.hi.whole)]) { t with vaults := t.vaults.set k.mv.dst v } := by
      simp only [perform, put, wainPut, hx]
      exact ⟨_, rfl⟩
    obtain ⟨v, e⟩ := e
    rw [e, mem_apply_writes, if_pos ⟨rfl, rfl⟩]
    rfl
  have hnone (t : State) (n : Nat) : perform (carrySaved (s.jobOf c) k.mv.dst n none) t = t := rfl
  have hsaved (t : State) : perform saved t = t := by
    have e : saved = Act.seq (carrySaved (s.jobOf c) k.mv.dst (k.mv.dpa / 64) none) (carrySaved (s.jobOf c) k.mv.dst (k.mv.dpa / 64 + 1) none) := by
      simp only [saved, hx, h1, h2]; rfl
    rw [e, perform_seq, hnone, hnone]
  refine Eq.trans (b := (perform saved (perform put (perform cmd s))).mem k.mv.dst .vault) rfl ?_
  rw [hsaved, hput, ((only_beatCmd _ _ _ _).mems (by simp)).mem]
theorem execWainReady_next (he : s.ev = .wainReady c) (ha : (s.unit c).maps.active = true) (hm : (s.unit c).maps.moves = []) (hc : (s.unit c).maps.carried = []) (hr : (s.unit c).maps.readyAt ≤ s.now c) :
    execWainReady s = .next { s with units := s.units.set c { s.unit c with maps := ({ (s.unit c).maps with ready := true, active := false } : MapSt).loadPins ((s.unit c).maps.current ++ ((s.unit c).maps.maps[(s.unit c).maps.tgt]).getD []) } } := by
  have e : execWainReady s = done (onUnit c (fun u => { u with maps := ({ (s.unit c).maps with ready := true, active := false } : MapSt).loadPins ((s.unit c).maps.current ++ ((s.unit c).maps.maps[(s.unit c).maps.tgt]).getD []) })) s := by
    simp only [execWainReady, he]
    exact if_pos (by simp [ha, hm, hc, hr])
  rw [e]; rfl

/-- The blocks that a snapshot takes rest on the saved copies, the blocks to clear, the vault and the reserves. -/
theorem snapWrite_congr {s t : State} {o : Col} (hs : (t.vault o).saved = (s.vault o).saved) (hf : (t.vault o).budget = (s.vault o).budget) (hm : t.mem o .vault = s.mem o .vault)
    (hw : t.work = s.work) (hp : t.pkg = s.pkg) (n : Option Snap) (r : BitVec 32) (blk : Nat) (w : BlkWrite) : (t.snapWrite o n r blk w).2 = (s.snapWrite o n r blk w).2 := by
  have hr (j : Dword) (k : Nat) : t.reserveBlk j o k = s.reserveBlk j o k := by rw [State.reserveBlk, State.reserveBlk, hw, hp]
  unfold State.snapWrite
  dsimp only
  rw [hs]
  cases n with
  | none => rfl
  | some n =>
    dsimp only
    split
    · split
      · rw [hr, hm, hf]
        split
        · split <;> rfl
        · rfl
      · rfl
    · split <;> rfl
theorem addDirty_contains (v : VaultSt) (blk : Nat) : (v.addDirty blk).dirty.contains blk = true := by
  unfold VaultSt.addDirty
  split
  · assumption
  · simp
/-- The second landing of a write of one block in a vault. -/
def dualPut (d : Dual) (w : BlkWrite) : Act :=
  Act.seq (Act.when d.cow (fun s => [.vault d.col (s.snapWrite d.col (s.work.snaps.find? (fun n => n.job == d.job)) d.round (d.pa / 64) w).1,
      .mem d.col .vault (s.snapWrite d.col (s.work.snaps.find? (fun n => n.job == d.job)) d.round (d.pa / 64) w).2]))
    (fun s => [.vault d.col (if d.home then s.vault d.col else (s.vault d.col).addDirty (d.pa / 64)), .mem d.col .vault [(d.pa / 64, w)]])
def dualDone (c : Col) (id : Nat) : Act :=
  onUnit c (fun u => { u with maps := { u.maps with duals := u.maps.duals.map (fun (q : Dual) => if q.id == id then { q with done := true } else q) } })
theorem execDualWrite_one {id : Nat} {d : Dual} {w : BlkWrite} (he : s.ev = .dualWrite c id) (hd : (s.unit c).maps.duals.find? (fun d => d.id == id && !d.done) = some d) (hw : d.ws = [w]) (hx : d.dext = none) :
    execDualWrite s = .next (perform (dualDone c id) (perform (dualPut d w) (perform (beatCmd d.col d.pa d.dext (.wr false)) s))) := by
  have e : ∃ put : Act, execDualWrite s = done (Act.all [beatCmd d.col d.pa d.dext (.wr false), put, dualDone c id]) s ∧ ∀ t, perform put t = perform (dualPut d w) t := by
    simp only [execDualWrite, he, hd]
    rw [if_neg (by rw [hx]; simp)]
    refine ⟨_, rfl, fun t => ?_⟩
    have hl : List.zip (List.range [w].length) [w] = [(0, w)] := rfl
    simp only [perform, hx, hw, hl]
    cases hc : d.cow
    all_goals
      simp only [dualPut, hc]
      rfl
  obtain ⟨put, e, hput⟩ := e
  rw [e, done, perform_all_cons, perform_all_cons, perform_all_cons, perform_all_nil, hput]
theorem dualPut_lands (d : Dual) (w : BlkWrite) (t : State) :
    (perform (dualPut d w) t).mem d.col .vault = ((t.mem d.col .vault).writes (if d.cow then (t.snapWrite d.col (t.work.snaps.find? (fun n => n.job == d.job)) d.round (d.pa / 64) w).2 else [])).write (d.pa / 64) w ∧
      (∀ e n, e ≠ d.col ∨ n ≠ .vault → (perform (dualPut d w) t).mem e n = t.mem e n) ∧ (((perform (dualPut d w) t).vault d.col).dirty.contains (d.pa / 64) || d.home) = true := by
  obtain ⟨ws, hws⟩ : ∃ ws, ws = if d.cow then (t.snapWrite d.col (t.work.snaps.find? (fun n => n.job == d.job)) d.round (d.pa / 64) w).2 else [] := ⟨_, rfl⟩
  obtain ⟨t1, v, e1, m2⟩ : ∃ (t1 : State) (v : VaultSt), perform (dualPut d w) t = Upd.apply (.mem d.col .vault [(d.pa / 64, w)]) { t1 with vaults := t1.vaults.set d.col (if d.home then v else v.addDirty (d.pa / 64)) } ∧
      ∀ e n, t1.mem e n = if e = d.col ∧ n = .vault then (t.mem d.col .vault).writes ws else t.mem e n := by
    cases hc : d.cow
    · rw [hc, if_neg Bool.false_ne_true] at hws
      refine ⟨t, t.vault d.col, ?_, fun e n => ?_⟩
      · rw [dualPut, hc, perform_seq]; rfl
      · rw [hws]
        split
        next h => rw [h.1, h.2]; rfl
        next => rfl
    · rw [hc, if_pos rfl] at hws
      obtain ⟨r, er⟩ : ∃ r, r = Upd.apply (.mem d.col .vault ws) { t with vaults := t.vaults.set d.col (t.snapWrite d.col (t.work.snaps.find? (fun n => n.job == d.job)) d.round (d.pa / 64) w).1 } := ⟨_, rfl⟩
      refine ⟨r, r.vault d.col, ?_, fun e n => ?_⟩
      · rw [er, dualPut, hc, perform_seq, hws]; rfl
      · rw [er, mem_apply_writes]; rfl
  have hm (e : Col) (n : Mem) : (perform (dualPut d w) t).mem e n = if e = d.col ∧ n = .vault then (t1.mem d.col .vault).write (d.pa / 64) w else t1.mem e n := by
    rw [e1, mem_apply_writes]; rfl
  rw [← hws]
  refine ⟨?_, fun e n h => ?_, ?_⟩
  · rw [hm, if_pos ⟨rfl, rfl⟩, m2, if_pos ⟨rfl, rfl⟩]
  · have hn : ¬ (e = d.col ∧ n = .vault) := fun hh => h.elim (fun k => k hh.1) (fun k => k hh.2)
    rw [hm, if_neg hn, m2, if_neg hn]
  · have hv : (perform (dualPut d w) t).vault d.col = _ := (congrArg (·.vault d.col) e1).trans (vault_set_same ..)
    rw [hv]
    cases hh : d.home
    · rw [if_neg Bool.false_ne_true, addDirty_contains]; rfl
    · exact Bool.or_true _
theorem execDualWrite_lands {id : Nat} {d : Dual} {w : BlkWrite} (he : s.ev = .dualWrite c id) (hd : (s.unit c).maps.duals.find? (fun d => d.id == id && !d.done) = some d) (hw : d.ws = [w]) (hx : d.dext = none) :
    ∃ t, execDualWrite s = .next t ∧
      t.mem d.col .vault = ((s.mem d.col .vault).writes (if d.cow then (s.snapWrite d.col (s.work.snaps.find? (fun n => n.job == d.job)) d.round (d.pa / 64) w).2 else [])).write (d.pa / 64) w ∧
      (∀ e n, e ≠ d.col ∨ n ≠ .vault → t.mem e n = s.mem e n) ∧ ((t.vault d.col).dirty.contains (d.pa / 64) || d.home) = true := by
  obtain ⟨t, et⟩ : ∃ t, t = perform (beatCmd d.col d.pa d.dext (.wr false)) s := ⟨_, rfl⟩
  have hcmd := only_beatCmd d.col d.pa d.dext (.wr false)
  have ht : t = { s with vaults := s.vaults.set d.col ((s.vault d.col).command (.wr false) (bankPa d.pa) (rowPa d.pa) 0 (s.now d.col)) } := by
    rw [et, hx]; rfl
  obtain ⟨-, -, -, h4, h5, -⟩ := command_wr (s.vault d.col) false (bankPa d.pa) (rowPa d.pa) 0 (s.now d.col)
  have hv : t.vault d.col = (s.vault d.col).command (.wr false) (bankPa d.pa) (rowPa d.pa) 0 (s.now d.col) := by rw [ht]; exact vault_set_same ..
  have hmem (e : Col) (n : Mem) : t.mem e n = s.mem e n := by rw [et, (hcmd.mems (by simp)).mem]
  have hwork : t.work = s.work := by rw [et, hcmd.work (by simp)]
  have hpkg : t.pkg = s.pkg := by rw [et, hcmd.pkg (by simp)]
  have hsnap := snapWrite_congr (s := s) (t := t) (o := d.col) (by rw [hv, h4]) (by rw [hv, h5]) (hmem _ _) hwork hpkg
  obtain ⟨m1, m2, m3⟩ := dualPut_lands d w t
  rw [hsnap, hwork, hmem] at m1
  have hdone : (dualDone c id).Only [.units] := only_onUnit _ _ (by simp)
  refine ⟨_, execDualWrite_one he hd hw hx, ?_, fun e n h => ?_, ?_⟩
  · rw [← et, (hdone.mems (by simp)).mem, m1]
  · rw [← et, (hdone.mems (by simp)).mem, m2 e n h, hmem]
  · rw [← et, (hdone.vaults (by simp)).vault]; exact m3
theorem execPhpreDueDeadline_misses (he : s.ev = .phpreDueDeadline c) (hd : (s.unit c).maps.due = some (s.now c)) (ht : (s.unit c).ctl.timed = true) (hr : (s.unit c).maps.ready = false) (hi : s.issues c = true) :
    execPhpreDueDeadline s = .next (perform (takeFault c .k (schedMiss .phase)) s) := by
  simp only [execPhpreDueDeadline, he]
  exact if_pos (by rw [hd, ht, hr, hi]; simp)

/-! ## Soft errors, the Gleaner and budgets (R99, R125, R126, R423) -/

/-- What a soft error leaves in memory: a header with the poison. -/
def scrubPut (c : Col) (m : Mem) (blk : Nat) (n : Nat) (h : Head) : Act :=
  Act.seq (fun _ => [.mem c m [(blk, { mask := 0, data := 0, hd := some h, need := none })]]) (Act.when (m == .vault) (report (.stackError (dieOf c) n blk)))
theorem perform_scrubPut {m : Mem} {blk n : Nat} {h : Head} {t : State} (ht : t = perform (scrubPut c m blk n h) s) : t.units = s.units ∧ t.vaults = s.vaults ∧
    t.mem c m = (s.mem c m).write blk { mask := 0, data := 0, hd := some h, need := none } ∧ t.outbox = s.outbox ++ (if m = .vault then [.stackError (dieOf c) n blk] else []) := by
  have hrep : (Act.when (m == .vault) (report (.stackError (dieOf c) n blk))).Only [.outbox] := only_when _ (only_report _ (by simp))
  rw [scrubPut, perform_seq] at ht
  subst ht
  refine ⟨hrep.units (by simp) _, hrep.vaults (by simp) _, ?_, ?_⟩
  · rw [(hrep.mems (by simp)).mem]
    exact (mem_apply_writes s c c m m _).trans (if_pos ⟨rfl, rfl⟩)
  · by_cases hm : m = .vault
    · rw [beq_iff_eq.mpr hm, if_pos hm]; rfl
    · rw [beq_eq_false_iff_ne.mpr hm, if_neg hm]; exact (List.append_nil _).symm
section
variable {m : Mem} {blk : Nat}
theorem execScrub_poisons {e : SoftErr} {h : Head} (he : s.ev = .scrub c m blk e) (hs : 64 * blk < Mem.size m)
    (hh : e = .payload ∧ h = { (s.mem c m).head blk with scl := 0xFF } ∨ e = .header ∧ h = { fmt := 0x00, scl := 0xFF }) :
    ∃ t, execScrub s = .next t ∧ t.units = s.units ∧ t.vaults = s.vaults ∧ t.mem c m = (s.mem c m).write blk { mask := 0, data := 0, hd := some h, need := none } ∧
      t.outbox = s.outbox ++ (if m = .vault then [.stackError (dieOf c) (s.channel c) blk] else []) := by
  have e : execScrub s = done (scrubPut c m blk (s.channel c) h) s := by
    rcases hh with ⟨rfl, rfl⟩ | ⟨rfl, rfl⟩ <;> simp only [execScrub, he] <;> exact if_neg (Nat.not_le.mpr hs)
  exact ⟨_, e, perform_scrubPut rfl⟩
theorem execScrub_corrects (he : s.ev = .scrub c m blk .corrected) (hs : 64 * blk < Mem.size m) :
    execScrub s = .next { s with vaults := s.vaults.set c { s.vault c with corrected := (s.vault c).corrected + 1 }, outbox := s.outbox ++ (if m = .vault then [.repair (dieOf c) (s.channel c) blk] else []) } := by
  have e : execScrub s = done (Act.seq (onVault c (fun v => { v with corrected := v.corrected + 1 })) (Act.when (m == .vault) (report (.repair (dieOf c) (s.channel c) blk)))) s := by
    simp only [execScrub, he]
    exact if_neg (Nat.not_le.mpr hs)
  rw [e, done, perform_seq]
  by_cases hm : m = .vault
  · rw [beq_iff_eq.mpr hm, if_pos hm]; rfl
  · rw [beq_eq_false_iff_ne.mpr hm, if_neg hm, List.append_nil]; rfl
theorem execScrub_mirror {map : Fin 16} {second : Bool} (he : s.ev = .scrub c m blk (.mirror map second)) :
    execScrub s = .next { s with units := s.units.set c { s.unit c with maps := (s.unit c).maps.fail map second blk } } := by
  have e : execScrub s = done (onUnit c (fun u => { u with maps := u.maps.fail map second blk })) s := by simp only [execScrub, he]
  rw [e]; rfl
end
theorem execGleanerRewrite_waits {map : Fin 16} {ix : Nat} {tier : Fin 4} {col : Col} {ppn : Nat} (he : s.ev = .gleanerRewrite c map ix tier col ppn) :
    execGleanerRewrite s = .next { s with vaults := s.vaults.set c { s.vault c with budget := { (s.vault c).budget with rewrites := (s.vault c).budget.rewrites ++ [s.ev] } } } := by
  have e : execGleanerRewrite s = done (onVault c (fun v => { v with budget := { v.budget with rewrites := v.budget.rewrites ++ [.gleanerRewrite c map ix tier col ppn] } })) s := by simp only [execGleanerRewrite, he]
  rw [e, done, perform_onVault, he]
/-- The budgets that a period is given (R423). -/
def Budget.given (b : Budget) (l : List Nat) : List Nat := if l = [] then b.set else [l.getD 0 0, l.getD 1 0, l.getD 2 0, l.getD 3 0]
/-- A budget as BUDGET_PERIOD leaves it; `starts` where a period begins. -/
def Budget.period (b : Budget) (l : List Nat) (starts : Bool) (tick : Nat) : Budget :=
  { b with set := b.given l, left := if starts then b.given l else b.left, since := if starts then (if (b.given l).any (fun n => 0 < n) then some tick else none) else b.since
           glean := b.glean + l.getD 4 0, tele := b.tele + l.getD 5 0 }
def Budget.starts (b : Budget) (tick : Nat) : Bool :=
  match b.since with
  | some t => decide (t + periodTicks ≤ tick)
  | none => true
theorem execBudgetPeriod_eq {l : List Nat} (he : s.ev = .budgetPeriod c l) :
    execBudgetPeriod s = done (Act.seq (onVault c (fun v => { v with budget := (s.vault c).budget.period l ((s.vault c).budget.starts s.tick) s.tick }))
      (Act.when ((s.vault c).budget.starts s.tick && ((s.vault c).budget.given l).any (fun n => 0 < n)) (eventTick (s.tick + periodTicks : Nat) (.budgetPeriod c [])))) s := by
  have hg : (s.vault c).budget.given l = if l.isEmpty then (s.vault c).budget.set else [l.getD 0 0, l.getD 1 0, l.getD 2 0, l.getD 3 0] := by
    cases l <;> rfl
  simp only [execBudgetPeriod, he, Budget.period, hg]
  rfl
end

/-- A beat whose first three activities have nothing to do, in the terms of the vault. -/
theorem fallowBlk_none {s : State} {c : Col} {b : Fin 16} {row : Fin 8192} (h : (s.vault c).budget.left.getD 0 0 = 0 ∨ (s.vault c).budget.fallow.find? (blkIn b row) = none) : s.fallowBlk c b row = none :=
  ite_none (h.imp_left fun h => by rw [h]; exact Nat.lt_irrefl 0)
theorem drainBlk_none {s : State} {c : Col} {b : Fin 16} {row : Fin 8192} (h : (s.vault c).budget.left.getD 1 0 = 0 ∨ (s.vault c).drain = []) : s.drainBlk c b row = none :=
  ite_none (h.imp (fun h => by rw [h]; exact Nat.lt_irrefl 0) fun h => by rw [h]; rfl)
theorem rewriteEv_none {s : State} {c : Col} (h : (s.vault c).budget.left.getD 2 0 = 0 ∨ (s.vault c).budget.rewrites.find? s.rewriteReady = none) : s.rewriteEv c = none :=
  ite_none (h.imp_left fun h => by rw [h]; exact Nat.lt_irrefl 0)

/-- A budget's period (R423). -/
theorem execBudgetPeriod_next {s : State} {c : Col} {l : List Nat} (he : s.ev = .budgetPeriod c l) :
    ∃ w : VaultSt, w = { s.vault c with budget := w.budget } ∧ w.budget.set = (s.vault c).budget.given l ∧ w.budget.fallow = (s.vault c).budget.fallow ∧ w.budget.rewrites = (s.vault c).budget.rewrites ∧
      ((∃ t, (s.vault c).budget.since = some t ∧ s.tick < t + periodTicks) → w.budget.left = (s.vault c).budget.left ∧ w.budget.since = (s.vault c).budget.since ∧
        execBudgetPeriod s = .next { s with vaults := s.vaults.set c w }) ∧
      ((∀ t, (s.vault c).budget.since = some t → t + periodTicks ≤ s.tick) → (∃ n ∈ (s.vault c).budget.given l, 0 < n) → w.budget.left = (s.vault c).budget.given l ∧ w.budget.since = some s.tick ∧
        execBudgetPeriod s = .next { s with vaults := s.vaults.set c w, timers := s.timers ++ [{ part := none, at_ := (s.tick : Int) + 120000, ev := .budgetPeriod c [] }] }) := by
  have e := execBudgetPeriod_eq he
  refine ⟨{ s.vault c with budget := (s.vault c).budget.period l ((s.vault c).budget.starts s.tick) s.tick }, rfl, rfl, rfl, rfl, fun ⟨t, ht, hlt⟩ => ?_, fun ht ⟨n, hn, hpos⟩ => ?_⟩
  · have hs : (s.vault c).budget.starts s.tick = false := by
      rw [Budget.starts, ht]; exact decide_eq_false (Nat.not_le.mpr hlt)
    rw [hs] at e ⊢
    exact ⟨rfl, rfl, e.trans (by rw [done, perform_seq]; rfl)⟩
  · have hs : (s.vault c).budget.starts s.tick = true := by
      rw [Budget.starts]
      split
      next t h => exact decide_eq_true (ht t h)
      next => rfl
    have hany : ((s.vault c).budget.given l).any (fun n => decide (0 < n)) = true := List.any_eq_true.mpr ⟨n, hn, decide_eq_true hpos⟩
    rw [hs, hany, done, perform_seq] at e
    rw [hs]
    exact ⟨rfl, if_pos hany, e⟩

/-- Settles O56: each event, and each case of a window's beat, as a lemma above tells what it does. -/
theorem vaultEvents : Obligations.VaultEvents := by
  intro s c u v
  refine ⟨fun b he hi ht => ?_, fun b he => ?_, fun w he hw => ?_, fun mv rest he hm => execWainBeat_reads he hm, fun k he hk hx => execWainBeat_writes he hk hx,
    fun he ha hm hc hr => execWainReady_next he ha hm hc hr, fun id d w he hd hw hx => execDualWrite_lands he hd hw hx, fun he hd ht hr hi => execPhpreDueDeadline_misses he hd ht hr hi,
    fun m b hs => ⟨fun he => execScrub_poisons he hs (.inl ⟨rfl, rfl⟩), fun he => execScrub_poisons he hs (.inr ⟨rfl, rfl⟩), fun he => execScrub_corrects he hs⟩,
    fun m b map second he => execScrub_mirror he, fun map ix tier col ppn he => execGleanerRewrite_waits he, fun l he => ?_⟩
  · exact (show execRefresh s = _ by simp only [execRefresh, he]; exact if_pos (by rw [hi, show (s.unit c).ctl.timed = true from ht]; rfl))
  · have e : execKeeperRefresh s = done (onVault c (fun v => v.keep b (s.unit c).span (s.now c))) s := by simp only [execKeeperRefresh, he]
    exact ⟨_, e, keep_bank _ _ _ _⟩
  · intro spent s1
    refine ⟨fun h => execWindowBeat_unused he hw h, fun row hrow hk => ?_⟩
    have hopen (a : Act) (h : beatAct c w row (decide (s.now c < w.last)) = a) : exec .windowBeat s = .next (perform a (s.beatSpent c)) := by
      rw [← h]; exact execWindowBeat_open he hw hrow hk
    have remote (h : w.kind = .remote) := hopen (remoteBeat c w.bank row (decide (s.now c < w.last))) (by rw [beatAct, h])
    have mig (h : w.kind = .mig) := hopen (migBeat c w.bank row) (by rw [beatAct, h])
    have shared (h : w.kind = .shared) := hopen (sharedBeat c w.bank row) (by rw [beatAct, h])
    have hv : (s.beatSpent c).vault c = spent := beatSpent_vault s c
    have hreq {r : Option Req} (h : s.beatReq c w.bank row = r) : (s.beatSpent c).beatReq c w.bank row = r := (beatSpent_beatReq _ _).trans h
    have hok {cmd : Cmd} (h : v.beatOk cmd w.bank (s.now c) = true) : ((s.beatSpent c).vault c).beatOk cmd w.bank ((s.beatSpent c).now c) = true := (beatSpent_beatOk _ _ _).trans h
    have set2 (x : VaultSt) : s1.vaults.set c x = s.vaults.set c x := Vector.set_set ..
    refine ⟨fun r hkind hr => ⟨fun hg => ?_, fun hg hread hb hsh hown => ?_, fun x hg hwrite hcow hb => ?_, fun x hg hwrite hcow hl => ?_⟩, fun hkind hr => ?_, fun j hkind hj hb => ?_, fun b hkind hl hf hb => ?_,
      fun x hkind h0 hl hd hb => ?_, fun hkind h0 h1 => ⟨?_, fun h2 h3 ht => ?_, fun hz => ?_⟩⟩
    · have e := (remote hkind).trans (congrArg _ (remoteBeat_drops (hreq hr) hg))
      rw [hv] at e
      exact e.trans (congrArg (fun x => Host.Outcome.next { s with vaults := x }) (set2 _))
    · obtain ⟨t1, t2, t3, t4⟩ := remoteBeat_reads (s := s.beatSpent c) (more := decide (s.now c < w.last)) (hreq hr) hg hread (hok hb) hsh hown
      rw [hv] at t2
      refine ⟨_, remote hkind, t1, t2, t3, fun x hx hid a ha => ?_⟩
      obtain ⟨y, hy, hyid, b, hb, hb'⟩ := t4 (fun _ => True) ⟨x, hx, hid, a, ha, trivial⟩
      exact ⟨y, hy, hyid, b, hb, hb'⟩
    · obtain ⟨t1, t2, t3, t4⟩ := remoteBeat_writes (s := s.beatSpent c) (more := decide (s.now c < w.last)) (hreq hr) hg hwrite (hcow.imp_right decide_eq_true) (hok hb)
      rw [hv] at t2 t4
      rw [beatSpent_writtenAt] at t4
      exact ⟨_, remote hkind, t1, t2, t3, t4, least_le_writtenAt, served_lt_writtenAt, writtenAt_alone⟩
    · have e := remote hkind
      rw [decide_eq_false (Int.not_lt.mpr hl)] at e
      exact e.trans (congrArg _ (remoteBeat_waits (hreq hr) hg hwrite hcow))
    · exact (remote hkind).trans (congrArg _ (remoteBeat_none (hreq hr)))
    · exact (mig hkind).trans (congrArg _ (migBeat_serves (beatSpent_migJob.trans hj) (hok (by cases j <;> exact hb))))
    · have hblk : (s.beatSpent c).fallowBlk c w.bank row = some b := beatSpent_fallowBlk.trans ((if_pos hl).trans hf)
      obtain ⟨t1, t2, t3⟩ := sharedBeat_clears hblk (hok hb)
      rw [hv] at t3
      exact ⟨_, shared hkind, t1, t2, t3⟩
    · have hblk : (s.beatSpent c).drainBlk c w.bank row = some x := beatSpent_drainBlk.trans ((if_pos hl).trans hd)
      obtain ⟨t1, t2, t3⟩ := sharedBeat_drains (beatSpent_fallowBlk.trans (fallowBlk_none h0)) hblk (hok hb)
      rw [hv] at t2 t3
      exact ⟨_, shared hkind, t1, t2, t3⟩
    · intro d map ix tier col ppn es e hl hrew m hm hi hfl hsh hcur htgt hworst h3 ht hdie hppn
      have hev : (s.beatSpent c).rewriteEv c = some (.gleanerRewrite d map ix tier col ppn) := beatSpent_rewriteEv.trans ((if_pos hl).trans hrew)
      have hbeat := sharedBeat_rewrite (beatSpent_fallowBlk.trans (fallowBlk_none h0)) (beatSpent_drainBlk.trans (drainBlk_none h1)) hev
        (rewritten_some (s := s.beatSpent c) hm hi hfl hsh hcur htgt hworst h3 ht hdie hppn)
      rw [hv] at hbeat
      exact ((shared hkind).trans (congrArg (fun l => Host.Outcome.next (run l (s.beatSpent c))) hbeat)).trans (congrArg Host.Outcome.next (run_beatSpent_unit ..))
    · have hglean : ¬ (0 < ((s.beatSpent c).vault c).budget.left.getD 2 0 ∧ 0 < ((s.beatSpent c).vault c).budget.glean) := fun hh => by
        rw [hv] at hh
        rcases h2 with h2 | ⟨-, h2⟩
        · exact absurd hh.1 (by rw [show spent.budget.left.getD 2 0 = 0 from h2]; exact Nat.lt_irrefl 0)
        · exact absurd hh.2 (by rw [show spent.budget.glean = 0 from h2]; exact Nat.lt_irrefl 0)
      have hbeat := sharedBeat_last (beatSpent_fallowBlk.trans (fallowBlk_none h0)) (beatSpent_drainBlk.trans (drainBlk_none h1)) (beatSpent_rewriteEv.trans (rewriteEv_none (h2.imp_right And.left))) hglean
      rw [hv, if_pos ⟨h3, ht⟩] at hbeat
      exact ((shared hkind).trans (congrArg (fun l => Host.Outcome.next (run l (s.beatSpent c))) hbeat)).trans
        (congrArg (fun x => Host.Outcome.next { s with vaults := x, outbox := s.outbox ++ [Report.telemetry c (site c).1 (site c).2] }) (set2 _))
    · have hglean : ¬ (0 < ((s.beatSpent c).vault c).budget.left.getD 2 0 ∧ 0 < ((s.beatSpent c).vault c).budget.glean) := fun hh => by
        rw [hv] at hh
        exact absurd hh.1 (by rw [show spent.budget.left.getD 2 0 = 0 from hz 2 (by decide)]; exact Nat.lt_irrefl 0)
      have htele : ¬ (0 < spent.budget.left.getD 3 0 ∧ 0 < spent.budget.tele) := fun hh => absurd hh.1 (by rw [show spent.budget.left.getD 3 0 = 0 from hz 3 (by decide)]; exact Nat.lt_irrefl 0)
      have hbeat := sharedBeat_last (beatSpent_fallowBlk.trans (fallowBlk_none h0)) (beatSpent_drainBlk.trans (drainBlk_none h1)) (beatSpent_rewriteEv.trans (rewriteEv_none (.inl (hz 2 (by decide))))) hglean
      rw [hv, if_neg htele] at hbeat
      exact (shared hkind).trans (congrArg (fun l => Host.Outcome.next (run l (s.beatSpent c))) hbeat)
  · exact execBudgetPeriod_next he

end Sys2Proof.Machine
